-- ==== Sys2Proof/Word.lean ====
section
/-!
DEFINITION. The word types of the Zagyr model, and the sparse table that holds the machine's large
arrays: a list of (index, value) pairs with strictly rising indices, where an index that is not
listed holds the table's default value.
-/

namespace Sys2Proof

/-- One byte of memory. -/
abbrev Byte := BitVec 8

/-- One 16-bit instruction word (R30). -/
abbrev IWord := BitVec 16

/-- A 64-bit register value. -/
abbrev Word := BitVec 64

/-- A granule: 16 aligned bytes, byte i at bits 8i+7:8i (R4, R2). -/
abbrev Granule := BitVec 128

/-- A vector register: 16 lanes of 32 bits, lane i at bits 32i+31:32i (R194). -/
abbrev VWord := BitVec 512

/-- A register number after the prefix extension of R32. -/
abbrev Reg := BitVec 6

/-- A sparse table: (index, value) pairs in rising order of index. -/
abbrev Tbl (α : Type) := List (Nat × α)

/-- The entry of index `k`, if the table lists one. -/
def Tbl.find? {α : Type} : Tbl α → Nat → Option α
  | [], _ => none
  | (i, a) :: r, k => if i = k then some a else Tbl.find? r k

/-- The entry of index `k`, or the default `d`. -/
def Tbl.getD {α : Type} (t : Tbl α) (d : α) (k : Nat) : α := (Tbl.find? t k).getD d

/-- The table with the entry of index `k` set to `a`, in rising order. -/
def Tbl.put {α : Type} : Tbl α → Nat → α → Tbl α
  | [], k, a => [(k, a)]
  | (i, b) :: r, k, a =>
    if k < i then (k, a) :: (i, b) :: r
    else if k = i then (k, a) :: r
    else (i, b) :: Tbl.put r k a

/-- The table without an entry of index `k`. -/
def Tbl.erase {α : Type} : Tbl α → Nat → Tbl α
  | [], _ => []
  | (i, b) :: r, k => if i = k then r else (i, b) :: Tbl.erase r k

/-- The indices rise strictly. -/
def Tbl.sorted {α : Type} : Tbl α → Bool
  | [] => true
  | [_] => true
  | (i, _) :: (j, b) :: r => decide (i < j) && Tbl.sorted ((j, b) :: r)

/-- The part of a byte list that a range of length `n` at `o` covers. -/
def slice {α : Type} (l : List α) (o n : Nat) : List α := (l.drop o).take n

end Sys2Proof
end

