-- ==== Sys2Proof/Syntax.lean ====
section
/-!
DEFINITION. The moves of the machine, one constructor of `Instr` per row of the opcode table: first the
instructions of Zagyr, then the steps that the device's units, its firmware and its host take by
themselves. The instruction formats (R30-R38) come before it.
-/

namespace Sys2Proof

/-! ## Operand forms -/

/-- The modifier of the s operand (PXS smod, R18, R35). -/
inductive SMod where
  | plain | sync | neg | abs
  deriving DecidableEq, Repr

/-- The selector of the s operand (PXS sel, R18): all of it, a half, a byte or a nibble. -/
inductive Sel where
  | all
  | half (i : BitVec 1)
  | byte (i : BitVec 2)
  | nib (i : BitVec 3)
  deriving DecidableEq, Repr

/-- What PXS says of an instruction (R32, R35); without PXS it is `Pxs.none`. -/
structure Pxs where
  mask : BitVec 3
  smod : SMod
  sel : Sel
  deriving DecidableEq, Repr

/-- No PXS: mask `k0`, no modifier, no selector (R32). -/
def Pxs.none : Pxs := { mask := 0, smod := .plain, sel := .all }

/-- The payloads of the PXI words of an instruction, earliest first (R33). -/
abbrev Pxi := List (BitVec 10)

/-- The form of a two-source instruction (R165, R195): no prefix, PXR with t, or PXI. -/
inductive Src2 where
  | two
  | reg (t : Reg)
  | imm (p : Pxi)
  deriving DecidableEq, Repr

/-- The operand of a unary instruction that takes a register or an immediate (R171). -/
inductive UnSrc where
  | reg (s : Reg) (q : Pxs)
  | imm (p : Pxi)
  deriving DecidableEq, Repr

/-- A two-source integer instruction (R165). -/
structure IntBin where
  d : Reg
  s : Reg
  src : Src2
  q : Pxs
  deriving DecidableEq, Repr

/-- A unary integer instruction (R171). -/
structure IntUn where
  d : Reg
  src : UnSrc
  deriving DecidableEq, Repr

/-- The width of SEXT and ZEXT (R171). -/
inductive ExtW where
  | w8 | w16 | w32
  deriving DecidableEq, Repr

/-- SEXT and ZEXT (R171). -/
structure ExtOp where
  w : ExtW
  d : Reg
  s : Reg
  q : Pxs
  deriving DecidableEq, Repr

/-- The condition field of CMP (R170). -/
inductive CmpCond where
  | eq | lt | ltn | le
  deriving DecidableEq, Repr

/-- A register-immediate instruction with a 6-bit own field (R172). -/
structure RegImm where
  d : Reg
  i : BitVec 6
  p : Pxi
  deriving DecidableEq, Repr

/-- EXTB and INSB (R173). -/
structure FieldOp where
  d : Reg
  s : Reg
  pos : BitVec 6
  wid : BitVec 6
  q : Pxs
  deriving DecidableEq, Repr

/-- LEA (R174). -/
structure LeaOp where
  d : Reg
  s : Reg
  t : Reg
  f : BitVec 2
  p : Pxi
  deriving DecidableEq, Repr

/-- The length of BND (R175): by f, or carried by PXI. -/
inductive BndLen where
  | size (f : BitVec 2)
  | imm (p : Pxi)
  deriving DecidableEq, Repr

/-- The address part of an M-format instruction (R118): data register, base, index, size, displacement. -/
structure MemOp where
  d : Reg
  b : Reg
  t : Reg
  w : BitVec 2
  p : Pxi
  deriving DecidableEq, Repr

/-- The qualifiers of LD, LDW and LDT (R125). -/
structure LoadQ where
  sx : Bool
  fresh : Bool
  acq : Bool
  deriving DecidableEq, Repr

/-- The types of TADD (R133). -/
inductive AddTy where
  | s32 | s64 | f32
  deriving DecidableEq, Repr

/-- The types of TMAX and TMIN (R133). -/
inductive MaxTy where
  | s32 | n32 | f32 | s64
  deriving DecidableEq, Repr

/-- The kind of FENCE (R131). -/
inductive FenceKind where
  | acq | rel | acqrel | full | engine
  deriving DecidableEq, Repr

/-- The scope of FENCE (R131, R321). -/
inductive FenceScope where
  | slot | core | squad | die | device | system
  deriving DecidableEq, Repr

/-- The condition of BC (R30, R179). -/
inductive BcCond where
  | z | nz | lz | gez
  deriving DecidableEq, Repr

/-- The condition of BCMP (R180). -/
inductive BcmpCond where
  | eq | ne | lt | ltn
  deriving DecidableEq, Repr

/-- The operations of AMO and RUPD (R37, R265). -/
inductive AtOp where
  | add | and | or | xor | swap | min | max | minn | maxn | fadd | fmin | fmax | jdec
  deriving DecidableEq, Repr

/-- The width field of AMO and RUPD (R264). -/
inductive AtW where
  | n32 | n64 | f32 | f64
  deriving DecidableEq, Repr

/-- The order field of AMO, CAS and RUPD (R37). -/
inductive AtOrd where
  | relaxed | acq | rel | acqrel
  deriving DecidableEq, Repr

/-- The number of arguments of SPAWN (R268). -/
inductive SpawnN where
  | n2 | n4 | n8 | n16
  deriving DecidableEq, Repr

/-- The element types of page 1 (R38, R194). -/
inductive VTy where
  | f32 | bf16x2 | f16x2 | s32 | n32 | s16x2 | s8x4 | n8x4
  deriving DecidableEq, Repr

/-- A lane instruction of two sources (R195). -/
structure VBin where
  ty : VTy
  d : Reg
  s : Reg
  src : Src2
  q : Pxs
  deriving DecidableEq, Repr

/-- A unary lane instruction (R195). -/
structure VUn where
  ty : VTy
  d : Reg
  s : Reg
  q : Pxs
  deriving DecidableEq, Repr

/-- A lane instruction that reads s, t and d (R201, R213). -/
structure VTri where
  ty : VTy
  d : Reg
  s : Reg
  t : Reg
  q : Pxs
  deriving DecidableEq, Repr

/-- VBCAST (R199): from a `g` register, or from an immediate. -/
structure VBcastOp where
  ty : VTy
  d : Reg
  src : UnSrc
  mask : BitVec 3
  deriving DecidableEq, Repr

/-- VEXT (R199). -/
structure VExtOp where
  ty : VTy
  d : Reg
  s : Reg
  lane : BitVec 4
  q : Pxs
  deriving DecidableEq, Repr

/-- VSLIDE (R206). -/
structure VSlideOp where
  ty : VTy
  d : Reg
  s : Reg
  t : Reg
  n : BitVec 4
  q : Pxs
  deriving DecidableEq, Repr

/-- The condition of VCMP (R205). -/
inductive VcmpCond where
  | eq | lt | le | ne
  deriving DecidableEq, Repr

/-- The operation of VRED (R207). -/
inductive VredOp where
  | add | max | min | xadd
  deriving DecidableEq, Repr

/-- The destinations of VPACK (R210). -/
inductive PackFmt where
  | bf16 | f16 | e4m3 | e5m2 | e2m1 | e4m3ns | e5m2ns | s16 | s8 | s4 | n16 | n8
  deriving DecidableEq, Repr

/-- The sources of VUNPK (R211), with the destination type. -/
inductive UnpkFmt where
  | bf16 | f16 | e4m3 | e5m2 | e2m1 | s16 | s8 | s4 | n16 | n8 | n4
  deriving DecidableEq, Repr

/-- The forms of VDOT4 (R213). -/
inductive Dot4Ty where
  | s8 | n8 | e4m3 | e5m2
  deriving DecidableEq, Repr

/-- The forms of VDOT8 (R213). -/
inductive Dot8Ty where
  | s4 | e2m1
  deriving DecidableEq, Repr

/-- The forms of VDOT2 (R213). -/
inductive Dot2Ty where
  | bf16 | f16 | s16
  deriving DecidableEq, Repr

/-- The formats of VQNT (R214). -/
inductive QntFmt where
  | zx8 | zx8e | zx4 | ecf8
  deriving DecidableEq, Repr

/-- Registers of an instruction with s, t and d whose type is fixed. -/
structure Tri where
  d : Reg
  s : Reg
  t : Reg
  q : Pxs
  deriving DecidableEq, Repr

/-- The size of VLD and VST (R215): 64 bytes, 32 bytes, or the 4-byte broadcast. -/
inductive VldW where
  | w64 | w32 | b
  deriving DecidableEq, Repr

/-- The element size of VLDX and VSTX (R216). -/
inductive VxSize where
  | b4 | b2 | b1
  deriving DecidableEq, Repr

/-- The operation of KOP (R217). -/
inductive KopOp where
  | and | or | xor | andn
  deriving DecidableEq, Repr

/-- The stored count of MMETA (R247). -/
inductive MetaCnt where
  | c32 | c64 | c128
  deriving DecidableEq, Repr

/-- The state that CFILL sets (R111). -/
inductive FillMark where
  | keep | empty | full
  deriving DecidableEq, Repr

/-- A scalar floating-point instruction of two sources (R187); `dbl` is the `.d` form. -/
structure FBin where
  dbl : Bool
  d : Reg
  s : Reg
  src : Option Reg
  m : SMod
  deriving DecidableEq, Repr

/-- A unary scalar floating-point instruction (R187). -/
structure FUn where
  dbl : Bool
  d : Reg
  s : Reg
  m : SMod
  deriving DecidableEq, Repr

/-- The predicate of FCMP (R190). -/
inductive FPred where
  | eq | lt | le | un
  deriving DecidableEq, Repr

/-- The float formats of FCVT (R192). -/
inductive FFmt where
  | f32 | f64 | f16 | bf16 | e4m3 | e5m2 | e2m1
  deriving DecidableEq, Repr

/-- The integer formats of FCVT (R192). -/
inductive IFmt where
  | s32 | n32 | s64 | n64
  deriving DecidableEq, Repr

/-- The direction and the formats of FCVT (R192). -/
inductive CvtKind where
  | ff (src dst : FFmt)
  | ns (src dst : FFmt)
  | fi (src : FFmt) (rtz : Bool) (dst : IFmt)
  | if_ (src : IFmt) (dst : FFmt)
  deriving DecidableEq, Repr

/-! ## What the steps of the other agents name -/

/-- Who writes a register of device control space (R47, R388). -/
inductive Agent where
  | firmware
  | policy
  | port (n : Nat)
  | context (tenid part : Nat)
  /-- the policy core at the RCB of this address (R335) -/
  | rcb (node : Nat)
  deriving DecidableEq, Repr

/-- Where an access of the host comes in: the inbound aperture of a partition's VF, BAR0 of a function of a port, or BAR2 of a port's physical
function (R386, R389, R392). -/
inductive HostBar where
  | aperture (part : Nat)
  | bar0 (fn : Nat)
  | bar2 (port : Nat)
  deriving DecidableEq, Repr

/-- A structure in which a soft error is met (R361). -/
inductive ErrSite where
  | l1 (core line : Nat)
  | icache (squad : Nat)
  | cacheLine (line : Nat)
  | vault (gran : Nat)
  | logMem (squad idx : Nat)
  | residency (squad tile : Nat)
  | greg (core slot n : Nat)
  | vreg (core slot n : Nat)
  | tileReg (core m byte : Nat)
  | accum (core a elem : Nat)
  | dram (line : Nat)
  deriving DecidableEq, Repr

/-- A packet of Ligrim Link (R406); `data` is its data bytes. -/
structure Packet where
  /-- the port on which it arrives; 0 in a packet that this device sends -/
  via : Nat
  src : Nat
  dst : Nat
  kind : Nat
  part : Nat
  pseq : BitVec 32
  group : Nat
  gen : BitVec 16
  key : Nat
  addr : Nat
  rank : Nat
  operand : BitVec 32
  /-- the operation word of its collective, by which the receiver sees that parameters differ (R114) -/
  params : BitVec 64
  data : List Byte
  deriving DecidableEq, Repr

/-- A flit (R405): its link fields, its 56 payload bytes and its CRC. -/
structure Flit where
  lseq : BitVec 12
  lkind : BitVec 4
  credit : BitVec 16
  pay : List Byte
  crc : BitVec 32
  deriving DecidableEq, Repr

/-- The four registers that PARTITION_CONFIG_WRITE writes (R419, R420). -/
inductive PartReg where
  | pchan | psqd | pqslot | prcb
  deriving DecidableEq, Repr

/-! ## The moves -/

/-- One constructor per row of the opcode table. -/
inductive Instr where
  /- page 0: integer -/
  /-- NOP (R23). -/
  | nop
  /-- MOV (R171). -/
  | mov (o : IntUn)
  /-- CLZ (R171). -/
  | clz (o : IntUn)
  /-- CTZ (R171). -/
  | ctz (o : IntUn)
  /-- POPC (R171). -/
  | popc (o : IntUn)
  /-- ADD (R167). -/
  | add (o : IntBin)
  /-- SUB (R167). -/
  | sub (o : IntBin)
  /-- AND (R167). -/
  | and (o : IntBin)
  /-- OR (R167). -/
  | or (o : IntBin)
  /-- XOR (R167). -/
  | xor (o : IntBin)
  /-- ANDN (R167). -/
  | andn (o : IntBin)
  /-- MIN (R167). -/
  | min (o : IntBin)
  /-- MAX (R167). -/
  | max (o : IntBin)
  /-- MINN (R167). -/
  | minn (o : IntBin)
  /-- MAXN (R167). -/
  | maxn (o : IntBin)
  /-- SEL (R169). -/
  | sel (o : IntBin)
  /-- SHL (R167). -/
  | shl (o : IntBin)
  /-- SHRA (R167). -/
  | shra (o : IntBin)
  /-- SHRL (R167). -/
  | shrl (o : IntBin)
  /-- ROTL (R167). -/
  | rotl (o : IntBin)
  /-- MUL (R167). -/
  | mul (o : IntBin)
  /-- MULH (R167). -/
  | mulh (o : IntBin)
  /-- MULHN (R167). -/
  | mulhn (o : IntBin)
  /-- DIV (R168). -/
  | div (o : IntBin)
  /-- DIVN (R168). -/
  | divn (o : IntBin)
  /-- REM (R168). -/
  | rem (o : IntBin)
  /-- REMN (R168). -/
  | remn (o : IntBin)
  /-- SEXT (R171). -/
  | sext (o : ExtOp)
  /-- ZEXT (R171). -/
  | zext (o : ExtOp)
  /-- CMP (R170). -/
  | cmp (c : CmpCond) (inv : Bool) (o : IntBin)
  /-- ADD, immediate form (R172). -/
  | addImm (o : RegImm)
  /-- MOV, immediate form (R172). -/
  | movImm (o : RegImm)
  /-- EXTB (R173). -/
  | extb (o : FieldOp)
  /-- INSB (R173). -/
  | insb (o : FieldOp)
  /-- LEA (R174). -/
  | lea (o : LeaOp)
  /-- BND (R175). -/
  | bnd (d s : Reg) (len : BndLen)
  /- page 0: memory and tiles -/
  /-- LD (R125). -/
  | ld (m : MemOp) (q : LoadQ)
  /-- ST (R126). -/
  | st (m : MemOp) (rel : Bool)
  /-- LDW (R127). -/
  | ldw (m : MemOp) (q : LoadQ)
  /-- LDT (R127). -/
  | ldt (m : MemOp) (q : LoadQ)
  /-- STF (R127). -/
  | stf (m : MemOp) (rel : Bool)
  /-- FEMARK empty (R128). -/
  | femarkEmpty (d s : Reg)
  /-- FEMARK full (R128). -/
  | femarkFull (d s : Reg)
  /-- FEQ (R129). -/
  | feq (d s : Reg)
  /-- PFT to L1 (R130). -/
  | pftL1 (s : Reg)
  /-- PFT to L2 (R130). -/
  | pftL2 (s : Reg)
  /-- FENCE (R131). -/
  | fence (k : FenceKind) (c : FenceScope)
  /-- WAITC (R132). -/
  | waitc (ld st cp tl : BitVec 4)
  /-- TADD (R134). -/
  | tadd (ty : AddTy) (d s : Reg)
  /-- TMAX (R134). -/
  | tmax (ty : MaxTy) (d s : Reg)
  /-- TMIN (R134). -/
  | tmin (ty : MaxTy) (d s : Reg)
  /-- TOR (R134). -/
  | tor (d s : Reg)
  /-- TXOR (R134). -/
  | txor (d s : Reg)
  /-- TAND (R134). -/
  | tand (d s : Reg)
  /-- TPIN (R135). -/
  | tpin (s : Reg)
  /-- TUNPIN (R135). -/
  | tunpin (s : Reg)
  /-- TFETCH (R135). -/
  | tfetch (s : Reg)
  /-- TEVICT (R135). -/
  | tevict (d s : Reg)
  /-- TSTAT (R136). -/
  | tstat (d s : Reg)
  /-- TSYNC (R137). -/
  | tsync (d s : Reg)
  /-- CINV (R138). -/
  | cinv (d s : Reg)
  /- page 0: control flow -/
  /-- BR (R178). -/
  | br (i : BitVec 10) (p : Pxi)
  /-- CALL (R178). -/
  | call (i : BitVec 10) (p : Pxi)
  /-- BC (R179). -/
  | bc (c : BcCond) (s : Reg) (i : BitVec 4) (p : Pxi)
  /-- BCMP (R180). -/
  | bcmp (c : BcmpCond) (d s : Reg) (p : Pxi)
  /-- JMP (R181). -/
  | jmp (s : Reg)
  /-- CALLR (R181). -/
  | callr (s : Reg)
  /-- RET (R181). -/
  | ret
  /-- BQB (R182). -/
  | bqb (sense : Bool) (i : BitVec 9) (p : Pxi)
  /-- CRD (R183). -/
  | crd (d : Reg) (n : BitVec 12)
  /-- CWR (R183). -/
  | cwr (d : Reg) (n : BitVec 12)
  /- page 0: atomics, threads, messages -/
  /-- AMO (R264-R266). -/
  | amo (op : AtOp) (w : AtW) (ord : AtOrd) (d s t : Reg)
  /-- CAS (R264-R266). -/
  | cas (w64 : Bool) (ord : AtOrd) (d s t : Reg)
  /-- RUPD (R267). -/
  | rupd (op : AtOp) (w : AtW) (ord : AtOrd) (s t : Reg)
  /-- SPAWN (R268). -/
  | spawn (n : SpawnN) (d s : Reg)
  /-- MIGR selector (R269). -/
  | migr (s t : Reg)
  /-- MIGR home (R269). -/
  | migrHome (s : Reg)
  /-- MIGR pivot (R269). -/
  | migrPivot
  /-- MIGR back (R269). -/
  | migrBack
  /-- SEND (R272). -/
  | send (d s t : Reg)
  /-- QBIND (R271). -/
  | qbind (d s : Reg)
  /-- QSTAT (R273). -/
  | qstat (d s : Reg)
  /-- HBAR (R275). -/
  | hbar (d s : Reg)
  /-- HWAIT (R275). -/
  | hwait (s : Reg)
  /-- HSTAT (R275). -/
  | hstat (d s : Reg)
  /- page 0: system -/
  /-- JOIN (R297, R287). -/
  | join (i : BitVec 10) (p : Pxi)
  /-- DETACH (R297). -/
  | detach
  /-- WAITW (R298). -/
  | waitw (s : Reg)
  /-- HALT (R299, R291). -/
  | halt
  /-- HALT.retain (R299, R292). -/
  | haltRetain (s : Reg)
  /-- TRAP (R300). -/
  | trap (s : Reg)
  /-- RETT (R302). -/
  | rett (d s : Reg)
  /-- SYSC (R301). -/
  | sysc (s : Reg)
  /-- CTXS (R303). -/
  | ctxs (d s : Reg)
  /-- CTXL (R304). -/
  | ctxl (d s : Reg)
  /-- AOWN (R307). -/
  | aown (s : Reg)
  /-- ASPILL (R308). -/
  | aspill (u : BitVec 4) (s : Reg)
  /-- AFILL (R308). -/
  | afill (u : BitVec 4) (s : Reg)
  /-- SLOTX (R305). -/
  | slotx (d s : Reg)
  /-- QDRAIN (R309). -/
  | qdrain (d s : Reg)
  /-- AUDW (R310). -/
  | audw (d s : Reg)
  /- page 1: vector -/
  /-- VMOV (R199). -/
  | vmov (o : VUn)
  /-- VBCAST (R199). -/
  | vbcast (o : VBcastOp)
  /-- VEXT (R199). -/
  | vext (o : VExtOp)
  /-- VIOTA (R199). -/
  | viota (ty : VTy) (d : Reg) (mask : BitVec 3)
  /-- VADD (R200). -/
  | vadd (sat : Bool) (o : VBin)
  /-- VSUB (R200). -/
  | vsub (sat : Bool) (o : VBin)
  /-- VMUL (R200). -/
  | vmul (sat : Bool) (o : VBin)
  /-- VDIV (R200). -/
  | vdiv (o : VBin)
  /-- VFMA (R201). -/
  | vfma (o : VTri)
  /-- VFMS (R201). -/
  | vfms (o : VTri)
  /-- VFNMA (R201). -/
  | vfnma (o : VTri)
  /-- VMIN (R202). -/
  | vmin (o : VBin)
  /-- VMAX (R202). -/
  | vmax (o : VBin)
  /-- VABS (R202). -/
  | vabs (sat : Bool) (o : VUn)
  /-- VNEG (R202). -/
  | vneg (sat : Bool) (o : VUn)
  /-- VAND (R203). -/
  | vand (o : VBin)
  /-- VOR (R203). -/
  | vor (o : VBin)
  /-- VXOR (R203). -/
  | vxor (o : VBin)
  /-- VANDN (R203). -/
  | vandn (o : VBin)
  /-- VSHL (R204). -/
  | vshl (o : VBin)
  /-- VSHRA (R204). -/
  | vshra (o : VBin)
  /-- VSHRL (R204). -/
  | vshrl (o : VBin)
  /-- VROTL (R204). -/
  | vrotl (o : VBin)
  /-- VCMP (R205). -/
  | vcmp (c : VcmpCond) (o : VBin)
  /-- VSEL (R206). -/
  | vsel (o : VBin)
  /-- VPERM (R206). -/
  | vperm (o : VBin)
  /-- VSLIDE (R206). -/
  | vslide (o : VSlideOp)
  /-- VRED (R207). -/
  | vred (op : VredOp) (o : VUn)
  /-- VRCP (R208). -/
  | vrcp (o : VUn)
  /-- VRSQ (R208). -/
  | vrsq (o : VUn)
  /-- VEXP2 (R208). -/
  | vexp2 (o : VUn)
  /-- VLOG2 (R208). -/
  | vlog2 (o : VUn)
  /-- VCVT (R209). -/
  | vcvt (dst : VTy) (o : VUn)
  /-- VPACK (R210). -/
  | vpack (f : PackFmt) (o : Tri)
  /-- VUNPK (R211). -/
  | vunpk (f : UnpkFmt) (part : BitVec 3) (d s : Reg) (q : Pxs)
  /-- VSCAL (R212). -/
  | vscal (o : VBin)
  /-- VDOT4 (R213). -/
  | vdot4 (ty : Dot4Ty) (o : Tri)
  /-- VDOT8 (R213). -/
  | vdot8 (ty : Dot8Ty) (o : Tri)
  /-- VDOT2 (R213). -/
  | vdot2 (ty : Dot2Ty) (o : Tri)
  /-- VQNT (R214). -/
  | vqnt (f : QntFmt) (o : Tri)
  /-- VLD (R215). -/
  | vld (w : VldW) (fresh : Bool) (mask : BitVec 3) (d b t : Reg) (p : Pxi)
  /-- VST (R215). -/
  | vst (w : VldW) (mask : BitVec 3) (d b t : Reg) (p : Pxi)
  /-- VLDX (R216). -/
  | vldx (sz : VxSize) (sx fresh : Bool) (mask : BitVec 3) (d s t : Reg)
  /-- VSTX (R216). -/
  | vstx (sz : VxSize) (mask : BitVec 3) (d s t : Reg)
  /-- KOP (R217). -/
  | kop (op : KopOp) (d s : BitVec 3) (t : Option (BitVec 3))
  /-- KMOV to a mask (R218). -/
  | kmovToMask (d : BitVec 3) (s : Reg)
  /-- KMOV from a mask (R218). -/
  | kmovFromMask (d : Reg) (s : BitVec 3)
  /-- KLOW (R218). -/
  | klow (d : BitVec 3) (s : Reg)
  /-- KPOP (R218). -/
  | kpop (d : Reg) (s : BitVec 3)
  /- page 2: matrix -/
  /-- MCFG (R244). -/
  | mcfg (d : BitVec 3) (s : Reg)
  /-- MFMT (R245). -/
  | mfmt (s : Reg)
  /-- MPERM (R246). -/
  | mperm (d : BitVec 4) (s : Reg)
  /-- MMETA (R247). -/
  | mmeta (c : MetaCnt) (d : BitVec 3) (s : Reg)
  /-- MLD (R248). -/
  | mld (sc : Bool) (d : BitVec 3) (s t : Reg)
  /-- MLDC (R249). -/
  | mldc (d : BitVec 3) (s t : Reg)
  /-- MZERO (R250). -/
  | mzero (d : BitVec 2)
  /-- MQST (R251). -/
  | mqst (d : Reg) (sel : BitVec 4)
  /-- MMA (R252). -/
  | mma (d : BitVec 2) (s b : BitVec 3)
  /-- MMAS (R253). -/
  | mmas (d : BitVec 2) (s b x : BitVec 3)
  /-- MMAN (R252). -/
  | mman (d : BitVec 2) (s b : BitVec 3)
  /-- AST (R254). -/
  | ast (d : BitVec 2) (s t : Reg)
  /-- ALD (R255). -/
  | ald (d : BitVec 2) (s t : Reg)
  /-- AMOV (R256). -/
  | amov (d : Reg) (s : BitVec 2) (row : BitVec 5) (half : Bool)
  /-- AMOVV (R256). -/
  | amovv (d : BitVec 2) (s : Reg) (row : BitVec 5) (half : Bool)
  /- page 3: engines -/
  /-- CPY (R109). -/
  | cpy (put fe : Bool) (d s : Reg)
  /-- CPYX (R109). -/
  | cpyx (put fe : Bool) (d s : Reg)
  /-- CPYC (R110). -/
  | cpyc (d s : Reg)
  /-- CFILL (R111). -/
  | cfill (x : Bool) (m : FillMark) (d s : Reg)
  /-- GATH (R112). -/
  | gath (d s : Reg)
  /-- SCAT (R112). -/
  | scat (d s : Reg)
  /-- ECHK (R113). -/
  | echk (rights : BitVec 3) (d s : Reg)
  /-- COLL (R114). -/
  | coll (d s : Reg)
  /-- CGRP (R115). -/
  | cgrp (d s : Reg)
  /-- CABT (R116). -/
  | cabt (d s : Reg)
  /- page 4: scalar floating point -/
  /-- FADD (R188). -/
  | fadd (o : FBin)
  /-- FSUB (R188). -/
  | fsub (o : FBin)
  /-- FMUL (R188). -/
  | fmul (o : FBin)
  /-- FDIV (R188). -/
  | fdiv (o : FBin)
  /-- FMA (R188). -/
  | fma (dbl : Bool) (d s t : Reg) (m : SMod)
  /-- FSQRT (R188). -/
  | fsqrt (o : FUn)
  /-- FMIN (R189). -/
  | fmin (o : FBin)
  /-- FMAX (R189). -/
  | fmax (o : FBin)
  /-- FCMP (R190). -/
  | fcmp (c : FPred) (o : FBin)
  /-- FCLASS (R191). -/
  | fclass (o : FUn)
  /-- FCVT (R192). -/
  | fcvt (k : CvtKind) (d s : Reg) (m : SMod)
  /- steps of a slot that finds no instruction -/
  /-- ILLEGAL_WORD (R40): the reason code and the index of the offending word. -/
  | illegalWord (code : BitVec 8) (idx : BitVec 3)
  /-- FETCH_REFUSED (R376). -/
  | fetchRefused
  /- steps of control registers -/
  /-- L1MODE_WRITE (R63): a write of `l1mode` of a core. -/
  | l1modeWrite (core : Nat) (v : Word)
  /-- TLCAP_WRITE (R74): a write of `tlcap` of a squad. -/
  | tlcapWrite (squad : Nat) (v : Word)
  /-- FIJ_WRITE (R186): a write of `fij` by the context `cid`. -/
  | fijWrite (cid : Nat) (v : Word)
  /-- CONTROL_REGISTER_WRITE (R3): a write to device control space by an agent. -/
  | controlRegisterWrite (a : Agent) (off : Nat) (v : Word)
  /- steps of memory -/
  /-- LOAD_REPLY (R121): the oldest outstanding load reply of context `cid` arrives. -/
  | loadReply (cid : Nat)
  /-- STORE_ACK (R121): the oldest outstanding acknowledgement of context `cid` arrives. -/
  | storeAck (cid : Nat)
  /-- SLICE_REQUEST (R61): a slice performs the head of its queue, having evicted some lines. -/
  | sliceRequest (slice : Nat) (evict : List Nat)
  /-- HOME_REQUEST (R51): the home core of a channel takes its next request. -/
  | homeRequest (channel : Nat)
  /-- REQUEST_REISSUE (R51): the rejected request of context `cid` is reissued. -/
  | requestReissue (cid : Nat)
  /-- REMOTE_UPDATE (R267): the oldest RUPD in flight to a unit arrives and is performed. -/
  | remoteUpdate (unit : Nat)
  /-- SNAPSHOT_ARM (R54). -/
  | snapshotArm (channel : Nat)
  /-- SNAPSHOT_STOP (R54). -/
  | snapshotStop (channel : Nat)
  /-- SNAPSHOT_START (R54). -/
  | snapshotStart (channel : Nat)
  /-- SNAPSHOT_COPY_DONE (R54). -/
  | snapshotCopyDone (channel : Nat)
  /-- SNAPSHOT_READ (R55): a firmware read of one granule of a snapshot page. -/
  | snapshotRead (channel page key gran : Nat)
  /-- BUDGET_PERIOD (R56, R337). -/
  | budgetPeriod
  /-- L1_LINE_EXPIRY (R64). -/
  | l1LineExpiry (core line : Nat)
  /- steps of the tile unit -/
  /-- TILE_OWNER_ASSIGN (R73): a write of `townc`. -/
  | tileOwnerAssign (squad : Nat) (v : Word)
  /-- TILE_ACCESS (R77): the tile unit takes up again the access that a slot parked on. -/
  | tileAccess (core slot : Nat)
  /-- TILE_ARRIVAL (R89). -/
  | tileArrival (squad tile : Nat)
  /-- TILE_DEPARTURE_DONE (R77). -/
  | tileDepartureDone (squad tile : Nat)
  /- steps of the engines and the matrix unit -/
  /-- ENGINE_START (R104). -/
  | engineStart (id : Nat)
  /-- ENGINE_ACCESS_FAILURE (R104). -/
  | engineAccessFailure (id : Nat)
  /-- ENGINE_COMPLETE (R107). -/
  | engineComplete (id : Nat)
  /-- EXTENT_INVALIDATE (R100): the entry at this address is invalidated. -/
  | extentInvalidate (entry : Nat)
  /-- EXTENT_INVALIDATE_DONE (R100). -/
  | extentInvalidateDone (entry : Nat)
  /-- MATRIX_COMMAND_START (R221). -/
  | matrixCommandStart (squad : Nat)
  /-- MATRIX_COMMAND_COMPLETE (R242). -/
  | matrixCommandComplete (core : Nat)
  /-- MATRIX_BUDGET_PERIOD (R233). -/
  | matrixBudgetPeriod (squad : Nat)
  /-- MATRIX_GATE (R235). -/
  | matrixGate (squad : Nat)
  /-- MATRIX_WAKE (R235). -/
  | matrixWake (squad : Nat)
  /- steps of the front end and the serve unit -/
  /-- STREAM_DECODE (R282). -/
  | streamDecode (squad stream : Nat)
  /-- PRIVATE_FETCH_DELIVERY (R280). -/
  | privateFetchDelivery (squad : Nat)
  /-- DRIFT_STALL_DETACH (R284). -/
  | driftStallDetach (squad stream : Nat)
  /-- JOIN_WAIT_TIMEOUT (R287). -/
  | joinWaitTimeout (core slot : Nat)
  /-- SRTAIL_WRITE (R289). -/
  | srtailWrite (tenid squad ring : Nat) (v : Word)
  /-- SERVE_DELIVERY (R290). -/
  | serveDelivery (squad ring : Nat)
  /- steps of messages and threads -/
  /-- THREAD_ARRIVAL (R261): the oldest thread message in flight to a core arrives. -/
  | threadArrival (core : Nat)
  /-- SPILL_DIVERSION (R261). -/
  | spillDiversion (core : Nat)
  /-- STREAM_MESSAGE_ARRIVAL (R270): the oldest message in flight to a slot's stream arrives. -/
  | streamMessageArrival (core slot k : Nat)
  /-- REGISTER_FILL (R272): the oldest fill in flight to a slot arrives. -/
  | registerFill (core slot : Nat)
  /-- BIND_REQUEST (R271): the bind request of context `cid` reaches its partner. -/
  | bindRequest (cid : Nat)
  /-- BIND_REPLY (R271): the reply reaches context `cid`. -/
  | bindReply (cid : Nat)
  /-- WITHDRAWAL (R122): the withdrawal of context `cid`'s parked request reaches its unit. -/
  | withdrawal (cid : Nat)
  /- steps of traps, faults and interrupts -/
  /-- PREEMPT_MESSAGE (R353). -/
  | preemptMessage (core : Nat) (mspill : Bool) (reason : BitVec 4) (slots : BitVec 15) (desc : Nat)
  /-- PREEMPT_DONE_TIMEOUT (R353). -/
  | preemptDoneTimeout (core : Nat)
  /-- UNCORRECTABLE_ERROR (R361). -/
  | uncorrectableError (e : ErrSite)
  /-- MEMORY_SCRUB (R362): a line is read by the daily scrub, with what it shows. -/
  | memoryScrub (line : Nat) (uncorrectable : Bool)
  /-- INTERRUPT_EVENT (R360). -/
  | interruptEvent (n : Nat)
  /-- IRQ_ACK (R360). -/
  | irqAck (n : Nat)
  /-- IRQ_ESCALATE (R360). -/
  | irqEscalate (n : Nat)
  /-- IRQ_STATE_CLEAR (R360). -/
  | irqStateClear (n : Nat)
  /-- IRQ_TIMER_EXPIRY (R360). -/
  | irqTimerExpiry (n : Nat)
  /- steps of the host ports and queues -/
  /-- SEMA_ACQUIRE (R387): a read of `sema`; holder 1 or 2 is a port, 3 the policy core. -/
  | semaAcquire (holder : BitVec 2)
  /-- SEMA_RENEW (R387). -/
  | semaRenew (holder : BitVec 2)
  /-- SEMA_RELEASE (R387). -/
  | semaRelease (holder : BitVec 2)
  /-- SEMA_LEASE_EXPIRY (R387). -/
  | semaLeaseExpiry
  /-- HOST_WINDOW_WRITE (R389). -/
  | hostWindowWrite (part w : Nat) (w0 w1 w2 : Word)
  /-- HOST_PROGRAMMED_ACCESS (R325, R386, R389): a class A access through a BAR; a store carries its bytes, a load its size. -/
  | hostProgrammedAccess (bar : HostBar) (off : Nat) (store : Option (List Byte)) (size : Nat)
  /-- QUEUE_TABLE_WRITE (R390). -/
  | queueTableWrite (part q : Nat) (v : Word)
  /-- DOORBELL_KICK (R392). -/
  | doorbellKick (part q : Nat) (tail : BitVec 32)
  /-- DOORBELL_RESET (R392). -/
  | doorbellReset (part q : Nat)
  /-- QUEUE_ACCEPT (R394). -/
  | queueAccept (part q : Nat)
  /-- NOP_COMMAND (R391). -/
  | nopCommand (part q : Nat)
  /-- PLAY (R391). -/
  | play (part q : Nat)
  /-- HOLD (R391). -/
  | hold (part q : Nat)
  /-- SIGNAL (R391). -/
  | signal (part q : Nat)
  /-- HOLD_EXPIRY (R397). -/
  | holdExpiry (part q : Nat)
  /-- QUEUE_RETIRE (R395). -/
  | queueRetire (part q : Nat)
  /-- QUEUE_MAPPING (R397). -/
  | queueMapping (part : Nat)
  /-- QUEUE_AGE_BOUNDARY (R397). -/
  | queueAgeBoundary (part q : Nat)
  /-- QUEUE_SLICE_ELAPSED (R397). -/
  | queueSliceElapsed (part q : Nat)
  /-- LOCK_INTERFACE (R399). -/
  | lockInterface (vf : Nat)
  /-- START_INTERFACE (R399). -/
  | startInterface (vf : Nat)
  /-- STOP_INTERFACE (R399). -/
  | stopInterface (vf : Nat)
  /-- GET_DEVICE_INTERFACE_REPORT (R399). -/
  | getDeviceInterfaceReport (vf : Nat)
  /- steps of the firmware services -/
  /-- ECHO (R401): the service takes the head of a partition's syscall ring. -/
  | echo (part : Nat)
  /-- NOTIFY (R401). -/
  | notify (part : Nat)
  /-- TIME (R401). -/
  | time (part : Nat)
  /-- EXTQ (R401). -/
  | extq (part : Nat)
  /-- SYSC_BUSY_TIMEOUT (R301). -/
  | syscBusyTimeout (cid : Nat)
  /- steps of the kickoff scheduler -/
  /-- INSTANCE_DUE (R344). -/
  | instanceDue (n : Nat)
  /-- STAGE_RELEASE (R342). -/
  | stageRelease (n : Nat)
  /-- LAUNCH_WINDOW_EXPIRY (R344). -/
  | launchWindowExpiry (n : Nat)
  /-- SLICE_ROTATION (R348). -/
  | sliceRotation (part : Nat)
  /-- GANG_PATIENCE_EXPIRY (R349). -/
  | gangPatienceExpiry (n : Nat)
  /-- DRAIN_EXPIRY (R349). -/
  | drainExpiry (part : Nat)
  /- steps of the seal unit -/
  /-- SEAL (R375). -/
  | seal (i desc : Nat)
  /-- SEAL_DONE (R375). -/
  | sealDone (i : Nat)
  /-- REVOKE (R375). -/
  | revoke (i : Nat)
  /-- REVOKE_TGEN (R374). -/
  | revokeTgen (tgen : BitVec 32)
  /-- FREE (R375). -/
  | free (i : Nat)
  /-- REVOKE_DONE (R375). -/
  | revokeDone (i : Nat)
  /-- SEAL_RECHECK (R375). -/
  | sealRecheck
  /- steps of partitions, reset, power and time -/
  /-- PARTITION_CONFIG_WRITE (R420). -/
  | partitionConfigWrite (part : Nat) (r : PartReg) (v : Word)
  /-- PARTITION_ACTIVATE (R420). -/
  | partitionActivate (part : Nat)
  /-- PARTITION_DRAIN (R421). -/
  | partitionDrain (part : Nat)
  /-- PARTITION_DRAIN_DONE (R421). -/
  | partitionDrainDone (part : Nat)
  /-- POWER_ON_RESET (R422). -/
  | powerOnReset
  /-- PART_RESET (R422). -/
  | partReset
  /-- BOOT_STEP_COMPLETE (R423). -/
  | bootStepComplete
  /-- FIRMWARE_UPDATE (R425): the holder of `sema` has written an image into firmware RAM. -/
  | firmwareUpdate (holder : BitVec 2) (image : List Byte)
  /-- POWER_WINDOW (R426): the average module power of the last 10 ms window, in watts. -/
  | powerWindow (watts : Nat)
  /-- THERMAL_THROTTLE (R426): the junction temperature, in degrees. -/
  | thermalThrottle (temp : Nat)
  /-- THERMAL_TRIP (R426). -/
  | thermalTrip (temp : Nat)
  /-- PTP_MESSAGE (R427): the servo learns its offset in ns and its offset bound. -/
  | ptpMessage (offset : Int) (bound : Nat)
  /- steps of Ligrim Link -/
  /-- LINK_TRAIN (R404). -/
  | linkTrain (port : Nat)
  /-- LINK_TRAINED (R404): training ends with the peer's node and port. -/
  | linkTrained (port pnode pport : Nat)
  /-- LANE_LOCK_LOSS (R404). -/
  | laneLockLoss (port : Nat)
  /-- LINK_IDLE_TIMEOUT (R404). -/
  | linkIdleTimeout (port : Nat)
  /-- REPLAY_LIMIT (R404). -/
  | replayLimit (port : Nat)
  /-- FLIT_RECEIVE (R405). -/
  | flitReceive (port : Nat) (f : Flit)
  /-- WRITE (R407-R409). -/
  | write (p : Packet)
  /-- READ (R407-R409). -/
  | read (p : Packet)
  /-- READ_REPLY (R406). -/
  | readReply (p : Packet)
  /-- WRITE_ACK (R406). -/
  | writeAck (p : Packet)
  /-- ATOMIC (R410). -/
  | atomic (p : Packet)
  /-- ATOMIC_REPLY (R410). -/
  | atomicReply (p : Packet)
  /-- RELEASE (R410). -/
  | release (p : Packet)
  /-- REMOTE_DEADLINE (R409). -/
  | remoteDeadline (id : Nat)
  /-- JOIN_PACKET (R412). -/
  | joinPacket (p : Packet)
  /-- JOIN_HOLD_EXPIRY (R412, R414). -/
  | joinHoldExpiry (part group : Nat)
  /-- CGRP_DEADLINE (R412). -/
  | cgrpDeadline (part group : Nat)
  /-- COLL_DATA (R413). -/
  | collData (p : Packet)
  /-- COLL_STEP_ACK (R413). -/
  | collStepAck (id : Nat)
  /-- COLL_STEP_TIMEOUT (R414). -/
  | collStepTimeout (id : Nat)
  /-- ABORT (R414). -/
  | abort (p : Packet)
  /- the rest -/
  /-- ALLOWANCE_RETURN (R270): one unit of allowance reaches the sender's stream. -/
  | allowanceReturn (core slot k : Nat)
  /-- KEY_SLOT_LOAD (R52, R388): a key slot is loaded for a partition. -/
  | keySlotLoad (holder : BitVec 2) (slot part : Nat)
  /-- RETAIN_HOLD_CANCEL (R292). -/
  | retainHoldCancel (core : Nat)
  /-- CORRECTABLE_ERROR (R361). -/
  | correctableError (e : ErrSite)
  deriving DecidableEq, Repr

end Sys2Proof
end

