-- ==== Sys2Proof/WellFormed.lean ====
section
/-!
DEFINITION. Which instructions have an encoding: the register numbers, field values, immediates and chain lengths
that R30-R40 and the entries allow. A step that is no instruction of Zagyr has no words and is well-formed.
-/

namespace Sys2Proof

/-- A `g` register that an instruction may name as its destination: not `rb`, not `rl` (R26, R40). -/
def dstG (d : Reg) : Bool := d.toNat != 61 && d.toNat != 62

/-- A vector register number (R25). -/
def isV (r : Reg) : Bool := decide (r.toNat < 32)

/-- A register number that needs no PXR (R32). -/
def low (r : Reg) : Bool := decide (r.toNat < 16)

/-- At most four prefixes (R34): PXP, PXR, PXS when present, and the PXI words. -/
def chainOk (pxp pxr : Bool) (q : Pxs) (p : Pxi) : Bool :=
  decide (pxp.toNat + pxr.toNat + (if q = Pxs.none then 0 else 1) + p.length ≤ 4)

/-- The immediate that the PXI payloads spell, zero-extended (R33). -/
def immN (p : Pxi) : Nat := p.foldl (fun a x => a * 1024 + x.toNat) 0

/-- PXS on a page-0 instruction: the mask is 000 (R166). -/
def Pxs.scalar (q : Pxs) : Bool := q.mask == 0

/-- A selector legal under an element type: no byte or nibble under a floating type (R35). -/
def Sel.legal (s : Sel) (flt : Bool) : Bool :=
  match s with
  | .all => true
  | .half _ => true
  | .byte _ => !flt
  | .nib _ => !flt

/-- A floating element type (R194). -/
def VTy.isFloat : VTy → Bool
  | .f32 | .bf16x2 | .f16x2 => true
  | _ => false

/-- A two-source integer instruction with, or without, m6 bits set (R165). -/
def IntBin.ok (m6 : Bool) (o : IntBin) : Bool :=
  dstG o.d && o.q.scalar &&
  match o.src with
  | .two => low o.d && low o.s
  | .reg _ => chainOk m6 true o.q []
  | .imm p => !p.isEmpty && chainOk m6 (!(low o.d && low o.s)) o.q p

/-- A unary integer instruction (R171). -/
def IntUn.ok (o : IntUn) : Bool :=
  dstG o.d &&
  match o.src with
  | .reg _ q => q.scalar
  | .imm p => !p.isEmpty && chainOk false (!low o.d) Pxs.none p

/-- A register-immediate instruction (R172). -/
def RegImm.ok (o : RegImm) : Bool := dstG o.d && chainOk false (!low o.d) Pxs.none o.p

/-- A field instruction (R173): two PXI, a width of 1 or more, position + width ≤ 64. -/
def FieldOp.ok (o : FieldOp) : Bool :=
  dstG o.d && o.q.scalar && decide (1 ≤ o.wid.toNat) && decide (o.pos.toNat + o.wid.toNat ≤ 64)

/-- An M-format instruction (R118). -/
def MemOp.ok (m : MemOp) (dst m6 : Bool) : Bool :=
  (!dst || dstG m.d) && chainOk m6 (!(low m.d && low m.b && m.t == 0)) Pxs.none m.p

/-- LD, LDW and LDT: `.s64` is not coded (R125). -/
def LoadQ.ok (q : LoadQ) (w : BitVec 2) : Bool := !(q.sx && w == 3)

/-- The qualifiers set m6 (R125). -/
def LoadQ.any (q : LoadQ) : Bool := q.sx || q.fresh || q.acq

/-- A two-source lane instruction (R195); `imm` says whether the entry takes PXI. -/
def VBin.ok (imm : Bool) (dOk : Reg → Bool) (o : VBin) : Bool :=
  dOk o.d && isV o.s && o.q.sel.legal o.ty.isFloat &&
  match o.src with
  | .two => low o.d && low o.s
  | .reg t => isV t
  | .imm p => imm && !p.isEmpty && chainOk true (!(low o.d && low o.s)) o.q p

/-- A unary lane instruction (R195). -/
def VUn.ok (o : VUn) : Bool := isV o.d && isV o.s && o.q.sel.legal o.ty.isFloat

/-- A three-source lane instruction (R201). -/
def VTri.ok (o : VTri) : Bool := isV o.d && isV o.s && isV o.t && o.q.sel.legal o.ty.isFloat

/-- The second group of three-register lane instructions (R210, R213, R214). -/
def Tri.ok (flt : Bool) (o : Tri) : Bool := isV o.d && isV o.s && isV o.t && o.q.sel.legal flt

/-- An instruction that takes PXI on integer types only (R195). -/
def VBin.immInt (o : VBin) : Bool := !o.ty.isFloat

/-- AMO and RUPD: the op and the width agree (R37). -/
def AtOp.agrees : AtOp → AtW → Bool
  | .fadd, w | .fmin, w | .fmax, w => w == .f32 || w == .f64
  | .swap, _ => true
  | _, w => w == .n32 || w == .n64

/-- The type group of VCVT (R209). -/
def VTy.group : VTy → Nat
  | .f32 | .s32 | .n32 => 0
  | .bf16x2 | .f16x2 | .s16x2 => 1
  | .s8x4 | .n8x4 => 2

/-- The number of parts of a VUNPK source (R211). -/
def UnpkFmt.parts : UnpkFmt → Nat
  | .bf16 | .f16 | .s16 | .n16 => 2
  | .e4m3 | .e5m2 | .s8 | .n8 => 4
  | .e2m1 | .s4 | .n4 => 8

/-- A floating source of VUNPK. -/
def UnpkFmt.isFloat : UnpkFmt → Bool
  | .bf16 | .f16 | .e4m3 | .e5m2 | .e2m1 => true
  | _ => false

/-- A `.sat` qualifier stands on integer types only (R197). -/
def satOk (sat : Bool) (t : VTy) : Bool := !(sat && t.isFloat)

/-- A page-3 instruction of `n` descriptor registers (R94). -/
def engOk (n : Nat) (d s : Reg) : Bool :=
  decide (d.toNat ≤ 55) && decide (1 ≤ s.toNat) && decide (s.toNat + n ≤ 56)

/-- A combination of formats of FCVT (R192). -/
def CvtKind.ok : CvtKind → Bool
  | .ns _ dst => dst == .e4m3 || dst == .e5m2
  | _ => true

/-- A port register or `bq` (R26). -/
def isPort (r : Reg) : Bool := decide (56 ≤ r.toNat) && decide (r.toNat ≤ 60)

/-- SEND (R272): the channel form takes `g1`-`g55` words and a count of 1 to 8; the fill form names a register
1-55 or 63. -/
def sendOk (d s t : Reg) : Bool :=
  if 56 ≤ d.toNat ∧ d.toNat ≤ 59 then
    decide (1 ≤ t.toNat) && decide (t.toNat ≤ 8) && decide (1 ≤ s.toNat) && decide (s.toNat + t.toNat ≤ 56)
  else
    decide ((1 ≤ d.toNat ∧ d.toNat ≤ 55) ∨ d.toNat = 63) &&
    decide ((1 ≤ t.toNat ∧ t.toNat ≤ 55) ∨ t.toNat = 63)

/-- The instruction has an encoding. -/
def Instr.wf : Instr → Bool
  | .nop => true
  | .mov o | .clz o | .ctz o | .popc o => o.ok
  | .add o | .sub o | .and o | .or o | .xor o | .andn o | .min o | .max o | .minn o | .maxn o | .sel o | .shl o
  | .shra o | .shrl o | .rotl o | .mul o | .mulh o | .mulhn o | .div o | .divn o | .rem o | .remn o => o.ok false
  | .sext o | .zext o => dstG o.d && o.q.scalar
  | .cmp _ inv o => o.ok inv
  | .addImm o | .movImm o => o.ok
  | .extb o | .insb o => o.ok && chainOk false (!(low o.d && low o.s)) o.q [0, 0]
  | .lea o => dstG o.d && chainOk false (!(low o.d && low o.s && o.t == 0)) Pxs.none o.p
  | .bnd d s len =>
    dstG d &&
    match len with
    | .size _ => true
    | .imm p => !p.isEmpty && decide (immN p ≠ 0) && chainOk false (!(low d && low s)) Pxs.none p
  | .ld m q | .ldw m q | .ldt m q => m.ok true q.any && q.ok m.w
  | .st m r | .stf m r => m.ok false r
  | .femarkEmpty _ _ | .femarkFull _ _ => true
  | .feq d _ => dstG d
  | .pftL1 _ | .pftL2 _ => true
  | .fence _ _ => true
  | .waitc _ _ _ _ => true
  | .tadd _ _ _ | .tmax _ _ _ | .tmin _ _ _ | .tor _ _ | .txor _ _ | .tand _ _ => true
  | .tpin _ | .tunpin _ | .tfetch _ => true
  | .tevict d _ | .tstat d _ | .tsync d _ => dstG d
  | .cinv _ _ => true
  | .br _ p | .call _ p | .join _ p => decide (p.length ≤ 4)
  | .bc _ s _ p => chainOk false (!low s) Pxs.none p
  | .bcmp _ d s p => !p.isEmpty && chainOk false (!(low d && low s)) Pxs.none p
  | .jmp _ | .callr _ | .ret => true
  | .bqb _ _ p => decide (p.length ≤ 4)
  | .crd d _ => dstG d
  | .cwr _ _ => true
  | .amo op w _ d _ t => dstG d && op.agrees w && (op != .jdec || t == 0)
  | .cas _ _ d _ _ => dstG d
  | .rupd op w ord _ t =>
    op.agrees w && (op != .jdec || t == 0) && (ord == .relaxed || ord == .rel)
  | .spawn _ _ _ => true
  | .migr _ _ | .migrHome _ | .migrPivot | .migrBack => true
  | .send d s t => sendOk d s t
  | .qbind d _ => isPort d
  | .qstat d s => dstG d && isPort s
  | .hbar d _ | .hstat d _ => dstG d
  | .hwait _ => true
  | .detach | .waitw _ | .halt | .haltRetain _ | .trap _ | .rett _ _ | .sysc _ | .ctxs _ _ | .ctxl _ _ => true
  | .aown _ => true
  | .aspill u _ | .afill u _ => decide (u.toNat ≤ 12)
  | .slotx _ _ => true
  | .qdrain d _ => dstG d
  | .audw _ _ => true
  | .vmov o => o.ok
  | .vbcast o =>
    isV o.d &&
    match o.src with
    | .reg _ q => q.mask == 0 && q.sel.legal o.ty.isFloat
    | .imm p => !p.isEmpty && chainOk true (!low o.d) { mask := o.mask, smod := .plain, sel := .all } p
  | .vext o =>
    dstG o.d && isV o.s && o.q.mask == 0 && o.q.sel.legal o.ty.isFloat &&
    chainOk true (!(low o.d && low o.s)) o.q [0]
  | .viota _ d _ => isV d
  | .vadd sat o | .vsub sat o | .vmul sat o => satOk sat o.ty && o.ok o.immInt isV
  | .vdiv o => o.ok o.immInt isV
  | .vfma o | .vfms o | .vfnma o => o.ok
  | .vmin o | .vmax o => o.ok o.immInt isV
  | .vabs sat o | .vneg sat o => satOk sat o.ty && o.ok
  | .vand o | .vor o | .vxor o | .vandn o => o.ok true isV
  | .vshl o | .vshra o | .vshrl o | .vrotl o => !o.ty.isFloat && o.ok true isV
  | .vcmp _ o => o.ok o.immInt (fun d => decide (1 ≤ d.toNat) && decide (d.toNat ≤ 7))
  | .vsel o => o.ok false isV
  | .vperm o =>
    o.ok o.immInt isV &&
    match o.src with
    | .imm p => decide (immN p ≤ 15)
    | _ => true
  | .vslide o =>
    isV o.d && isV o.s && isV o.t && o.q.sel.legal o.ty.isFloat &&
    chainOk true (!(low o.d && low o.s && o.t == 0)) o.q [0]
  | .vred _ o => (o.ty == .f32 || o.ty == .s32 || o.ty == .n32) && dstG o.d && isV o.s && o.q.sel.legal o.ty.isFloat
  | .vrcp o | .vrsq o | .vexp2 o | .vlog2 o => o.ty == .f32 && o.ok
  | .vcvt dst o => o.ty.group == dst.group && o.ty != dst && o.ok
  | .vpack f o =>
    o.ok (match f with | .s16 | .s8 | .s4 | .n16 | .n8 => false | _ => true)
  | .vunpk f part d s q =>
    decide (part.toNat < f.parts) && isV d && isV s && q.sel.legal f.isFloat && chainOk true (!(low d && low s)) q [0]
  | .vscal o => o.ty == .f32 && o.ok true isV
  | .vdot4 ty o => o.ok (match ty with | .s8 | .n8 => false | _ => true)
  | .vdot8 ty o => o.ok (match ty with | .s4 => false | _ => true)
  | .vdot2 ty o => o.ok (match ty with | .s16 => false | _ => true)
  | .vqnt _ o => o.q.mask == 0 && o.ok true
  | .vld _ _ _ d b t p | .vst _ _ d b t p => isV d && chainOk true (!(low d && low b && t == 0)) Pxs.none p
  | .vldx sz sx _ _ d _ t => isV d && isV t && !(sx && sz == .b4)
  | .vstx _ _ d _ t => isV d && isV t
  | .kop _ d _ _ => d != 0
  | .kmovToMask d _ | .klow d _ => d != 0
  | .kmovFromMask d _ | .kpop d _ => dstG d
  | .mcfg _ _ | .mfmt _ | .mperm _ _ => true
  | .mmeta c d _ => !(c == .c128 && d.getLsbD 0)
  | .mld _ _ _ _ | .mldc _ _ _ | .mzero _ => true
  | .mqst d n => dstG d && decide (n.toNat ≤ 8)
  | .mma _ _ _ | .mman _ _ _ => true
  | .mmas _ _ b _ => !b.getLsbD 0
  | .ast _ _ _ | .ald _ _ _ => true
  | .amov d _ _ _ => isV d
  | .amovv _ s _ _ => isV s
  | .cpy _ _ d s => engOk 5 d s
  | .cpyx _ _ d s => engOk 6 d s
  | .cpyc d s => engOk 4 d s
  | .cfill _ _ d s => engOk 5 d s
  | .gath d s | .scat d s => engOk 6 d s
  | .echk _ d s => engOk 4 d s
  | .coll d s | .cgrp d s => engOk 4 d s
  | .cabt d s => engOk 2 d s
  | .fadd o | .fsub o | .fmul o | .fdiv o | .fmin o | .fmax o | .fcmp _ o =>
    dstG o.d && (o.src.isSome || (low o.d && low o.s))
  | .fma _ d _ _ _ => dstG d
  | .fsqrt o | .fclass o => dstG o.d
  | .fcvt k d _ _ => dstG d && k.ok
  | .l1modeWrite _ _ | .tlcapWrite _ _ | .fijWrite _ _ | .controlRegisterWrite _ _ _ => true
  | .loadReply _ | .storeAck _ | .sliceRequest _ _ | .homeRequest _ | .requestReissue _ | .remoteUpdate _ => true
  | .snapshotArm _ | .snapshotStop _ | .snapshotStart _ | .snapshotCopyDone _ | .snapshotRead _ _ _ _ => true
  | .budgetPeriod | .l1LineExpiry _ _ => true
  | .tileOwnerAssign _ _ | .tileAccess _ _ | .tileArrival _ _ | .tileDepartureDone _ _ => true
  | .engineStart _ | .engineAccessFailure _ | .engineComplete _ | .extentInvalidate _ | .extentInvalidateDone _ => true
  | .matrixCommandStart _ | .matrixCommandComplete _ | .matrixBudgetPeriod _ | .matrixGate _ | .matrixWake _ => true
  | .streamDecode _ _ | .privateFetchDelivery _ | .driftStallDetach _ _ | .joinWaitTimeout _ _ => true
  | .srtailWrite _ _ _ _ | .serveDelivery _ _ => true
  | .threadArrival _ | .spillDiversion _ | .streamMessageArrival _ _ _ | .registerFill _ _ => true
  | .bindRequest _ | .bindReply _ | .withdrawal _ => true
  | .preemptMessage _ _ _ _ _ | .preemptDoneTimeout _ | .uncorrectableError _ | .memoryScrub _ _ => true
  | .interruptEvent _ | .irqAck _ | .irqEscalate _ | .irqStateClear _ | .irqTimerExpiry _ => true
  | .semaAcquire _ | .semaRenew _ | .semaRelease _ | .semaLeaseExpiry => true
  | .hostWindowWrite _ _ _ _ _ | .hostProgrammedAccess _ _ _ _ | .queueTableWrite _ _ _ => true
  | .doorbellKick _ _ _ | .doorbellReset _ _ | .queueAccept _ _ | .nopCommand _ _ | .play _ _ | .hold _ _
  | .signal _ _ | .holdExpiry _ _ | .queueRetire _ _ | .queueMapping _ | .queueAgeBoundary _ _
  | .queueSliceElapsed _ _ => true
  | .lockInterface _ | .startInterface _ | .stopInterface _ | .getDeviceInterfaceReport _ => true
  | .echo _ | .notify _ | .time _ | .extq _ | .syscBusyTimeout _ => true
  | .instanceDue _ | .stageRelease _ | .launchWindowExpiry _ | .sliceRotation _ | .gangPatienceExpiry _
  | .drainExpiry _ => true
  | .seal _ _ | .sealDone _ | .revoke _ | .revokeTgen _ | .free _ | .revokeDone _ | .sealRecheck => true
  | .partitionConfigWrite _ _ _ | .partitionActivate _ | .partitionDrain _ | .partitionDrainDone _ => true
  | .powerOnReset | .partReset | .bootStepComplete | .firmwareUpdate _ _ | .powerWindow _ | .thermalThrottle _
  | .thermalTrip _ | .ptpMessage _ _ => true
  | .linkTrain _ | .linkTrained _ _ _ | .laneLockLoss _ | .linkIdleTimeout _ | .replayLimit _ | .flitReceive _ _ => true
  | .write _ | .read _ | .readReply _ | .writeAck _ | .atomic _ | .atomicReply _ | .release _ | .remoteDeadline _
  | .joinPacket _ | .joinHoldExpiry _ _ | .cgrpDeadline _ _ | .collData _ | .collStepAck _ | .collStepTimeout _
  | .abort _ => true
  | .illegalWord _ _ | .fetchRefused | .allowanceReturn _ _ _ | .keySlotLoad _ _ _ | .retainHoldCancel _
  | .correctableError _ => true

end Sys2Proof
end

