-- ==== Sys2Proof/Decode.lean ====
section
/-!
DEFINITION. The decoder of R30-R41, total on any words, and the encoder. A decoded instruction is a prefix chain
and a base word. `scan` walks the chain, `entry` is the opcode map (R36, R38), and `decodeWords` answers the
instruction and its length in words, or the reason code and the word index of R40. `encode` is written from the
same tables and emits the canonical chain.
-/

namespace Sys2Proof

/-! ## Words and their fields -/

/-- The primary opcode (R30). -/
def opOf (w : IWord) : BitVec 6 := w.extractLsb' 10 6
/-- The operand field (R30). -/
def loOf (w : IWord) : BitVec 10 := w.extractLsb' 0 10

/-- Field [9:6] of an operand field. -/
def fD (x : BitVec 10) : BitVec 4 := x.extractLsb' 6 4
/-- Field [5:2] of an operand field. -/
def fS (x : BitVec 10) : BitVec 4 := x.extractLsb' 2 4
/-- Field [1:0] of an operand field. -/
def fF (x : BitVec 10) : BitVec 2 := x.extractLsb' 0 2
/-- Field [5:0] of an operand field (RI format). -/
def fI6 (x : BitVec 10) : BitVec 6 := x.extractLsb' 0 6

/-- The operand field of an RR or M word (R30). -/
def loRR (d s : BitVec 4) (f : BitVec 2) : BitVec 10 := d ++ s ++ f
/-- The operand field of an RI word (R30). -/
def loRI (d : BitVec 4) (i : BitVec 6) : BitVec 10 := d ++ i

/-- The low four bits of a register number. -/
def lo4 (r : Reg) : BitVec 4 := r.extractLsb' 0 4
/-- The high two bits of a register number, carried by PXR (R32). -/
def hi2 (r : Reg) : BitVec 2 := r.extractLsb' 4 2

/-- A reason of R40 and the index of the word at which it is reported. -/
structure Illegal where
  code : Nat
  idx : Nat
  deriving DecidableEq, Repr

/-- A decoded chain and base word. The positions are word indices; an absent word has none. -/
structure Parts where
  pxp : Option Nat
  page : BitVec 4
  m6 : BitVec 6
  pxr : Option Nat
  dh : BitVec 2
  sh : BitVec 2
  t : Reg
  pxs : Option Nat
  mask : BitVec 3
  smod : BitVec 3
  sel : BitVec 4
  pxi : Pxi
  pxiAt : Nat
  base : Nat
  op : BitVec 6
  lo : BitVec 10
  deriving DecidableEq, Repr

/-- No prefix and an all-zero base word. -/
def Parts.zero : Parts :=
  { pxp := none, page := 0, m6 := 0, pxr := none, dh := 0, sh := 0, t := 0, pxs := none, mask := 0, smod := 0,
    sel := 0, pxi := [], pxiAt := 0, base := 0, op := 0, lo := 0 }

/-- d = dh·16 + d field (R32). -/
def Parts.d (p : Parts) : Reg := p.dh ++ fD p.lo
/-- s = sh·16 + s field (R32). -/
def Parts.s (p : Parts) : Reg := p.sh ++ fS p.lo
/-- s = sh·16 + bits [9:6], where the base word's first field is the s register (BC). -/
def Parts.s1 (p : Parts) : Reg := p.sh ++ fD p.lo
/-- The f field. -/
def Parts.f (p : Parts) : BitVec 2 := fF p.lo
/-- The RI immediate field. -/
def Parts.i6 (p : Parts) : BitVec 6 := fI6 p.lo

/-! ## The prefix chain -/

/-- The place of a prefix word in the canonical order PXP, PXR, PXS, PXI (R32, R34); none for another word. -/
def pfxRank (w : IWord) : Option Nat :=
  if opOf w = 0x3E then some 1
  else if opOf w = 0x3D then some 2
  else if opOf w = 0x3F then some 3
  else if opOf w = 0x3C then some 4
  else none

/-- The chain with prefix word `w` of rank `k`, standing at index `i`, added (R32). Of a repeated prefix the first
counts (DEDUCED, log 8: the repeat is the offending word of reason 0x09). -/
def Parts.addPfx (p : Parts) (k i : Nat) (w : IWord) : Parts :=
  let x := loOf w
  match k with
  | 1 => if p.pxp.isSome then p else { p with pxp := some i, page := x.extractLsb' 6 4, m6 := x.extractLsb' 0 6 }
  | 2 =>
    if p.pxr.isSome then p
    else { p with pxr := some i, dh := x.extractLsb' 8 2, sh := x.extractLsb' 6 2, t := x.extractLsb' 0 6 }
  | 3 =>
    if p.pxs.isSome then p
    else { p with pxs := some i, mask := x.extractLsb' 7 3, smod := x.extractLsb' 4 3, sel := x.extractLsb' 0 4 }
  | _ => { p with pxi := p.pxi ++ [x], pxiAt := if p.pxi.isEmpty then i else p.pxiAt }

/-- The reasons that a prefix word shows by itself: the word 0xFFFF, a reserved page, a repeated prefix or one out of
order (R34, R40). `last` is the highest rank so far. -/
def pfxReasons (k last i : Nat) (w : IWord) : List Illegal :=
  let x := loOf w
  (if w = 0xFFFF then [⟨0x01, i⟩] else []) ++
  (if k = 1 ∧ 5 ≤ (x.extractLsb' 6 4).toNat then [⟨0x03, i⟩] else []) ++
  (if k < last ∨ (k = last ∧ k ≠ 4) then [⟨0x09, i⟩] else [])

/-- What the front end finds in the words from a fetch address: the chain with or without a base word, and the
reasons that the chain shows (R40). `n` bounds the prefixes still allowed. -/
def scan : Nat → Nat → Nat → Parts → List IWord → Option Parts × List Illegal
  | _, i, _, _, [] => (none, [⟨0x0C, i⟩])
  | 0, i, last, p, w :: _ =>
    match pfxRank w with
    | none => (some { p with base := i, op := opOf w, lo := loOf w }, [])
    | some k => (none, pfxReasons k last i w ++ [⟨0x08, i⟩])
  | n + 1, i, last, p, w :: ws =>
    match pfxRank w with
    | none => (some { p with base := i, op := opOf w, lo := loOf w }, [])
    | some k =>
      let r := scan n (i + 1) (Nat.max last k) (p.addPfx k i w) ws
      (r.1, pfxReasons k last i w ++ r.2)

/-- The lowest code, and of that code the lowest index (R40). -/
def lowest : List Illegal → Option Illegal
  | [] => none
  | a :: r =>
    match lowest r with
    | none => some a
    | some b => if a.code < b.code ∨ (a.code = b.code ∧ a.idx ≤ b.idx) then some a else some b

/-! ## What a base word accepts -/

/-- The use of PXR (R36). -/
inductive RUse where
  /-- not accepted -/
  | no
  /-- high bits of d and s where marked, t zero -/
  | hi (d s : Bool)
  /-- t has the role the entry gives -/
  | role (d s : Bool)
  /-- the three-operand form; with PXI the t field is zero (R34) -/
  | three
  deriving DecidableEq, Repr

/-- The use of PXS. -/
inductive SUse where
  | no
  /-- not examined (NOP, which refuses every prefix by its own reason) -/
  | free
  /-- mask 000 (R166) -/
  | scalar
  /-- mask 000 and no selector (R187) -/
  | float
  /-- the governing mask (R196) -/
  | lanes
  /-- lanes, with mask 000 (R196) -/
  | noMask
  /-- only the mask field (VIOTA, VBCAST of an immediate) -/
  | maskOnly
  /-- all fields zero (R217); a mask is reason 0x05 (R196) -/
  | zero
  deriving DecidableEq, Repr

/-- The use of PXI. -/
inductive IUse where
  | no | any | exact (n : Nat) | atMost (n : Nat) | atLeast (n : Nat)
  deriving DecidableEq, Repr

/-- What a register field names. -/
inductive FUse where
  /-- a `g` register that is read, or a field the entry checks itself -/
  | any
  /-- a `g` destination (R26) -/
  | gd
  | v
  | k
  /-- a `k` destination (R26) -/
  | kd
  /-- a field that must be zero, reason 0x05 -/
  | zero
  /-- a register number that must be zero, high bits of PXR with it (R32), reason 0x05 -/
  | nil
  /-- a number up to a bound, reason 0x07 -/
  | upTo (n : Nat)
  deriving DecidableEq, Repr

/-- An entry of the opcode map. -/
structure Ent where
  /-- bits of m6 that carry meaning (R37) -/
  m6 : BitVec 6
  r : RUse
  s : SUse
  i : IUse
  d : FUse
  src : FUse
  t : FUse
  /-- further reasons -/
  more : Parts → List Illegal
  build : Parts → Instr

/-- An entry that takes no prefix but a PXP of its own page. -/
def Ent.bare (mk : Parts → Instr) : Ent :=
  { m6 := 0, r := .no, s := .no, i := .no, d := .any, src := .any, t := .any, more := fun _ => [], build := mk }

/-- Reason 0x05 at the PXP word, or at the base word where there is none. A combination of m6 fields, or of m6 with f, that names no form
counts as a reserved value of m6 (DESIGN CHOICE, log 79: R40 does not say which word shows it). -/
def atP (c : Bool) (p : Parts) : List Illegal := if c then [⟨0x05, p.pxp.getD p.base⟩] else []
/-- Reason `k` at the base word. -/
def atB (c : Bool) (k : Nat) (p : Parts) : List Illegal := if c then [⟨k, p.base⟩] else []
/-- Reason 0x0A at the PXR word. -/
def atR (c : Bool) (p : Parts) : List Illegal := if c then [⟨0x0A, p.pxr.getD p.base⟩] else []
/-- Reason 0x05 at the PXR word: a bit of it that its entry requires to be zero. -/
def atX (c : Bool) (p : Parts) : List Illegal := if c then [⟨0x05, p.pxr.getD p.base⟩] else []

/-- The reasons of one register field: its number `r`, and its field bits `fld`. -/
def FUse.reasons (u : FUse) (r : Reg) (fld : BitVec 4) (p : Parts) : List Illegal :=
  match u with
  | .any => []
  | .gd => atB (!dstG r) 0x07 p
  | .v => atB (!isV r) 0x07 p
  | .k => atB (decide (8 ≤ r.toNat)) 0x07 p
  | .kd => atB (decide (r = 0 ∨ 8 ≤ r.toNat)) 0x07 p
  | .zero => atB (fld != 0) 0x05 p
  | .nil => atX (r.extractLsb' 4 2 != 0) p ++ atB (fld != 0) 0x05 p
  | .upTo n => atB (decide (n < fld.toNat)) 0x07 p

/-- The reasons that PXR gives (R34). -/
def RUse.reasons (u : RUse) (p : Parts) : List Illegal :=
  match u with
  | .no => atR p.pxr.isSome p
  | .hi d s => atR ((!d && p.dh != 0) || (!s && p.sh != 0) || p.t != 0) p
  | .role d s => atR ((!d && p.dh != 0) || (!s && p.sh != 0)) p
  | .three => atB (!p.pxi.isEmpty && p.t != 0) 0x0B p

/-- The reasons that PXS gives: a prefix that is not accepted shows only that (DEDUCED, log 8); an accepted one may
hold a reserved modifier or selector. -/
def SUse.reasons (u : SUse) (p : Parts) : List Illegal :=
  match p.pxs with
  | none => []
  | some i =>
    let bad (k : Nat) (c : Bool) : List Illegal := if c then [⟨k, i⟩] else []
    let res := bad 0x05 (decide (4 ≤ p.smod.toNat) || p.sel == 3)
    match u with
    | .no => [⟨0x0A, i⟩]
    | .free => []
    | .scalar => res ++ bad 0x05 (p.mask != 0)
    | .float => res ++ bad 0x05 (p.mask != 0 || p.sel != 0)
    | .lanes => res
    | .noMask => res ++ bad 0x05 (p.mask != 0)
    | .maskOnly => res ++ bad 0x0A (p.smod != 0 || p.sel != 0)
    | .zero => res ++ bad 0x05 (p.mask != 0) ++ bad 0x0A (p.smod != 0 || p.sel != 0)

/-- The reasons that PXI gives. -/
def IUse.reasons (u : IUse) (p : Parts) : List Illegal :=
  match u with
  | .no => if p.pxi.isEmpty then [] else [⟨0x0A, p.pxiAt⟩]
  | .any => []
  | .exact n => atB (p.pxi.length != n) 0x0D p
  | .atMost n => atB (decide (n < p.pxi.length)) 0x0D p
  | .atLeast n => atB (decide (p.pxi.length < n)) 0x0D p

/-- Every reason that an entry gives against a chain. -/
def Ent.reasons (e : Ent) (p : Parts) : List Illegal :=
  atP (p.m6 &&& ~~~e.m6 != 0) p ++ e.r.reasons p ++ e.s.reasons p ++ e.i.reasons p ++
  e.d.reasons p.d (fD p.lo) p ++ e.src.reasons p.s (fS p.lo) p ++ e.t.reasons p.t 0 p ++ e.more p

/-! ## Fields of the operand forms -/

/-- The PXS modifier (R18). -/
def smodOf (x : BitVec 3) : SMod :=
  if x = 1 then .sync else if x = 2 then .neg else if x = 3 then .abs else .plain
/-- The PXS selector (R18). -/
def selOf (x : BitVec 4) : Sel :=
  if x.getLsbD 3 then .nib (x.extractLsb' 0 3)
  else if x.getLsbD 2 then .byte (x.extractLsb' 0 2)
  else if x = 1 then .half 0
  else if x = 2 then .half 1
  else .all
/-- The bits of a modifier. -/
def SMod.bits : SMod → BitVec 3
  | .plain => 0 | .sync => 1 | .neg => 2 | .abs => 3
/-- The bits of a selector. -/
def Sel.bits : Sel → BitVec 4
  | .all => 0
  | .half i => if i = 0 then 1 else 2
  | .byte i => 0b01#2 ++ i
  | .nib i => 0b1#1 ++ i

/-- What PXS says (R32). -/
def Parts.q (p : Parts) : Pxs := { mask := p.mask, smod := smodOf p.smod, sel := selOf p.sel }
/-- The operand form that the prefixes fix (R165, R195). -/
def Parts.src2 (p : Parts) : Src2 :=
  if !p.pxi.isEmpty then .imm p.pxi else if p.pxr.isSome then .reg p.t else .two
/-- The operands of a two-source integer instruction. -/
def Parts.intBin (p : Parts) : IntBin := { d := p.d, s := p.s, src := p.src2, q := p.q }
/-- The operand of a unary integer instruction. -/
def Parts.intUn (p : Parts) : IntUn :=
  { d := p.d, src := if p.pxi.isEmpty then .reg p.s p.q else .imm p.pxi }

/-- The type field of page 1 (R194). -/
def vtyOf (x : BitVec 3) : VTy :=
  match x.toNat with
  | 0 => .f32 | 1 => .bf16x2 | 2 => .f16x2 | 3 => .s32 | 4 => .n32 | 5 => .s16x2 | 6 => .s8x4 | _ => .n8x4
/-- The bits of a type. -/
def VTy.bits : VTy → BitVec 3
  | .f32 => 0 | .bf16x2 => 1 | .f16x2 => 2 | .s32 => 3 | .n32 => 4 | .s16x2 => 5 | .s8x4 => 6 | .n8x4 => 7

/-- m6[5:3] of page 1. -/
def Parts.ty (p : Parts) : VTy := vtyOf (p.m6.extractLsb' 3 3)
/-- m6[2:0] of page 1. -/
def Parts.qual (p : Parts) : BitVec 3 := p.m6.extractLsb' 0 3

/-- A selector that the element type forbids, a disagreement of fields reported at the base word (R35, R40). -/
def selBad (flt : Bool) (p : Parts) : List Illegal :=
  atB (p.pxs.isSome && !(selOf p.sel).legal flt) 0x05 p

/-- The operands of a lane instruction of two sources. -/
def Parts.vBin (p : Parts) : VBin := { ty := p.ty, d := p.d, s := p.s, src := p.src2, q := p.q }
/-- The operands of a unary lane instruction. -/
def Parts.vUn (p : Parts) : VUn := { ty := p.ty, d := p.d, s := p.s, q := p.q }
/-- The operands of a lane instruction of three sources. -/
def Parts.vTri (p : Parts) : VTri := { ty := p.ty, d := p.d, s := p.s, t := p.t, q := p.q }
/-- The operands of a lane instruction whose type is fixed by its entry. -/
def Parts.tri (p : Parts) : Tri := { d := p.d, s := p.s, t := p.t, q := p.q }
/-- The operands of a binary floating-point instruction (R187). -/
def Parts.fBin (p : Parts) : FBin :=
  { dbl := p.f.getLsbD 0, d := p.d, s := p.s, src := if p.pxr.isSome then some p.t else none, m := smodOf p.smod }
/-- The operand of a unary floating-point instruction (R187). -/
def Parts.fUn (p : Parts) : FUn := { dbl := p.f.getLsbD 0, d := p.d, s := p.s, m := smodOf p.smod }
/-- The address part of an M-format word. -/
def Parts.memOp (p : Parts) : MemOp := { d := p.d, b := p.s, t := p.t, w := p.f, p := p.pxi }
/-- The qualifiers of a load. -/
def Parts.loadQ (p : Parts) : LoadQ :=
  { sx := p.m6.getLsbD 0, fresh := p.m6.getLsbD 1, acq := p.m6.getLsbD 2 }

/-- AMO operations (R37). -/
def atOpOf (x : BitVec 4) : AtOp :=
  match x.toNat with
  | 0 => .add | 1 => .and | 2 => .or | 3 => .xor | 4 => .swap | 5 => .min | 6 => .max | 7 => .minn | 8 => .maxn
  | 9 => .fadd | 10 => .fmin | 11 => .fmax | _ => .jdec
/-- The bits of an AMO operation. -/
def AtOp.bits : AtOp → BitVec 4
  | .add => 0 | .and => 1 | .or => 2 | .xor => 3 | .swap => 4 | .min => 5 | .max => 6 | .minn => 7 | .maxn => 8
  | .fadd => 9 | .fmin => 10 | .fmax => 11 | .jdec => 12
/-- AMO widths (R264). -/
def atWOf (x : BitVec 2) : AtW := if x = 0 then .n32 else if x = 1 then .n64 else if x = 2 then .f32 else .f64
/-- The bits of an AMO width. -/
def AtW.bits : AtW → BitVec 2
  | .n32 => 0 | .n64 => 1 | .f32 => 2 | .f64 => 3
/-- Orders (R37). -/
def atOrdOf (x : BitVec 2) : AtOrd :=
  if x = 0 then .relaxed else if x = 1 then .acq else if x = 2 then .rel else .acqrel
/-- The bits of an order. -/
def AtOrd.bits : AtOrd → BitVec 2
  | .relaxed => 0 | .acq => 1 | .rel => 2 | .acqrel => 3

/-- The immediate as a string of bits: the payloads and an own field of `k` bits (R33). -/
def immOwn (p : Pxi) (k : Nat) (own : Nat) : Nat := immN p * 2 ^ k + own

/-! ## The opcode map -/

/-- What a base word finds on its page. -/
inductive Look where
  /-- a reserved page, which the PXP word shows (reason 0x03) -/
  | noPage
  /-- a reserved primary, reason 0x02 -/
  | noOp
  /-- a reserved f value, reason 0x04 -/
  | noF
  | ent (e : Ent)

/-- A two-source integer instruction (R165). -/
def eBin (mk : IntBin → Instr) : Look :=
  .ent { Ent.bare (fun p => mk p.intBin) with r := .three, s := .scalar, i := .any, d := .gd }
/-- A unary integer instruction that takes an immediate (R171): with PXI the s field is zero and PXS has no use. -/
def eUn (mk : IntUn → Instr) : Look :=
  .ent { Ent.bare (fun p => mk p.intUn) with
    r := .hi true true, s := .scalar, i := .any, d := .gd,
    more := fun p =>
      if p.pxi.isEmpty then []
      else atB (fS p.lo != 0) 0x05 p ++ atR (p.sh != 0) p ++
        (match p.pxs with | some i => [⟨0x0A, i⟩] | none => []) }
/-- SEXT and ZEXT (R171). -/
def eExt (mk : ExtOp → Instr) (f : Nat) : Look :=
  if f = 3 then .noF
  else .ent { Ent.bare (fun p =>
      mk { w := if p.f = 0 then .w8 else if p.f = 1 then .w16 else .w32, d := p.d, s := p.s, q := p.q }) with
    r := .hi true true, s := .scalar, d := .gd,
    more := fun p =>
      if p.pxi.isEmpty then [] else (match p.pxs with | some i => [⟨0x0A, i⟩] | none => []) }
/-- EXTB and INSB (R173). -/
def eField (mk : FieldOp → Instr) : Look :=
  .ent { Ent.bare (fun p =>
      let n := immN p.pxi
      mk { d := p.d, s := p.s, pos := BitVec.ofNat 6 n, wid := BitVec.ofNat 6 (n / 64), q := p.q }) with
    r := .hi true true, s := .scalar, i := .exact 2, d := .gd,
    more := fun p =>
      let n := immN p.pxi
      atB (decide (4096 ≤ n ∨ n / 64 % 64 = 0 ∨ 64 < n % 64 + n / 64 % 64)) 0x0D p }
/-- CMP (R170). -/
def eCmp (f : Nat) : Look :=
  let c : CmpCond := if f = 0 then .eq else if f = 1 then .lt else if f = 2 then .ltn else .le
  .ent { Ent.bare (fun p => .cmp c (p.m6.getLsbD 0) p.intBin) with
    m6 := 1, r := .three, s := .scalar, i := .any, d := .gd }
/-- ADD and MOV, immediate forms (R172). -/
def eRI (mk : RegImm → Instr) : Look :=
  .ent { Ent.bare (fun p => mk { d := p.d, i := p.i6, p := p.pxi }) with r := .hi true false, i := .any, d := .gd }
/-- A load (R125). -/
def eLoad (mk : MemOp → LoadQ → Instr) : Look :=
  .ent { Ent.bare (fun p => mk p.memOp p.loadQ) with
    m6 := 7, r := .role true true, i := .any, d := .gd,
    more := fun p => atB (p.m6.getLsbD 0 && p.f == 3) 0x05 p }
/-- A store (R126). -/
def eStore (mk : MemOp → Bool → Instr) : Look :=
  .ent { Ent.bare (fun p => mk p.memOp (p.m6.getLsbD 3)) with m6 := 8, r := .role true true, i := .any }
/-- A page-0 instruction of d and s registers; `d` says how d is used. -/
def eDS (d : FUse) (mk : Reg → Reg → Instr) : Look :=
  .ent { Ent.bare (fun p => mk p.d p.s) with r := .hi true true, d := d }
/-- A page-0 instruction of an s register with a zero d field. -/
def eS (mk : Reg → Instr) : Look :=
  .ent { Ent.bare (fun p => mk p.s) with r := .hi false true, d := .zero }
/-- PFT, TPIN, TUNPIN and TFETCH: the register number d must be 0 (R130, R135). -/
def eS0 (mk : Reg → Instr) : Look :=
  .ent { Ent.bare (fun p => mk p.s) with r := .hi true true, d := .nil }
/-- JMP and CALLR, whose dh and t, like the d field, must be 0, or reason 0x05 (R181). -/
def eJmp (mk : Reg → Instr) : Look :=
  .ent { Ent.bare (fun p => mk p.s) with r := .role true true, d := .nil, more := fun p => atX (p.t != 0) p }
/-- RET, which also requires s = 0 (R181). -/
def eRet : Look :=
  .ent { Ent.bare (fun _ => .ret) with
    r := .role true true, d := .nil, src := .nil, more := fun p => atX (p.t != 0) p }
/-- A page-0 instruction without operands. -/
def eNone (i : Instr) : Look :=
  .ent { Ent.bare (fun _ => i) with r := .hi false false, d := .zero, src := .zero }
/-- A J-format branch (R178). -/
def eJ (mk : BitVec 10 → Pxi → Instr) : Look := .ent { Ent.bare (fun p => mk p.lo p.pxi) with i := .any }
/-- CRD and CWR (R183). -/
def eCR (d : FUse) (mk : Reg → BitVec 12 → Instr) : Look :=
  .ent { Ent.bare (fun p => mk p.d (BitVec.ofNat 12 (immOwn p.pxi 6 p.i6.toNat))) with
    r := .hi true false, i := .any, d := d,
    more := fun p => atB (decide (4096 ≤ immOwn p.pxi 6 p.i6.toNat)) 0x0D p }
/-- The op and width rules of AMO and RUPD (R37, R264). -/
def atReasons (p : Parts) : List Illegal :=
  let o := p.m6.extractLsb' 2 4
  atP (decide (12 < o.toNat)) p ++
  atB (decide (o.toNat ≤ 12) && !(atOpOf o).agrees (atWOf p.f)) 0x05 p ++
  atR (o == 12 && p.t != 0) p

/-- Page 0 (R36), control flow to system: primaries from 0x20. -/
def entry0b (op f : Nat) : Look :=
  match op with
  | 0x20 => eJ .br
  | 0x21 => eJ .call
  | 0x22 =>
    .ent { Ent.bare (fun p =>
        let c := p.lo.extractLsb' 4 2
        .bc (if c = 0 then .z else if c = 1 then .nz else if c = 2 then .lz else .gez) p.s1 (p.lo.extractLsb' 0 4)
          p.pxi) with
      r := .hi false true, i := .any }
  | 0x23 =>
    let c : BcmpCond := if f = 0 then .eq else if f = 1 then .ne else if f = 2 then .lt else .ltn
    .ent { Ent.bare (fun p => .bcmp c p.d p.s p.pxi) with r := .hi true true, i := .atLeast 1 }
  | 0x24 =>
    match f with
    | 0 => eJmp .jmp
    | 1 => eJmp .callr
    | 2 => eRet
    | _ => .noF
  | 0x25 => .ent { Ent.bare (fun p => .bqb (p.lo.getLsbD 9) (p.lo.extractLsb' 0 9) p.pxi) with i := .any }
  | 0x26 => eCR .gd .crd
  | 0x27 => eCR .any .cwr
  | 0x28 =>
    .ent { Ent.bare (fun p =>
        .amo (atOpOf (p.m6.extractLsb' 2 4)) (atWOf p.f) (atOrdOf (p.m6.extractLsb' 0 2)) p.d p.s p.t) with
      m6 := 0x3F, r := .role true true, d := .gd, more := atReasons }
  | 0x29 =>
    if 2 ≤ f then .noF
    else .ent { Ent.bare (fun p => .cas (p.f == 1) (atOrdOf (p.m6.extractLsb' 0 2)) p.d p.s p.t) with
      m6 := 3, r := .role true true, d := .gd }
  | 0x2A =>
    .ent { Ent.bare (fun p =>
        .rupd (atOpOf (p.m6.extractLsb' 2 4)) (atWOf p.f) (atOrdOf (p.m6.extractLsb' 0 2)) p.s p.t) with
      m6 := 0x3F, r := .role false true, d := .zero,
      more := fun p => atReasons p ++ atP (p.m6.getLsbD 0) p }
  | 0x2B =>
    let n : SpawnN := if f = 0 then .n2 else if f = 1 then .n4 else if f = 2 then .n8 else .n16
    eDS .any (.spawn n)
  | 0x2C =>
    match f with
    | 0 => .ent { Ent.bare (fun p => .migr p.s p.t) with r := .role false true, d := .zero }
    | 1 => eS .migrHome
    | 2 => eNone .migrPivot
    | _ => eNone .migrBack
  | 0x2D =>
    match f with
    | 0 =>
      .ent { Ent.bare (fun p => .send p.d p.s p.t) with
        r := .role true true,
        more := fun p =>
          let d := p.d.toNat
          let s := p.s.toNat
          let t := p.t.toNat
          let chan := decide (56 ≤ d ∧ d ≤ 59)
          let fill := decide ((1 ≤ d ∧ d ≤ 55) ∨ d = 63)
          let tBad := if chan then decide (t < 1 ∨ 8 < t) else !decide ((1 ≤ t ∧ t ≤ 55) ∨ t = 63)
          (if p.pxr.isNone then [⟨0x05, p.base⟩] else if tBad then [⟨0x05, p.pxr.getD p.base⟩] else []) ++
          atB ((!chan && !fill) || (chan && decide (s < 1 ∨ 56 < s + Nat.max t 1))) 0x07 p }
    | 1 => .ent { Ent.bare (fun p => .qbind p.d p.s) with r := .hi true true, more := fun p => atB (!isPort p.d) 0x07 p }
    | 2 =>
      .ent { Ent.bare (fun p => .qstat p.d p.s) with
        r := .hi true true, d := .gd, more := fun p => atB (!isPort p.s) 0x07 p }
    | _ => .noF
  | 0x2E =>
    match f with
    | 0 => eDS .gd .hbar
    | 1 => eS .hwait
    | 2 => eDS .gd .hstat
    | _ => .noF
  | 0x30 => eJ .join
  | 0x31 =>
    match f with
    | 0 => eNone .detach
    | 1 => eS .waitw
    | 2 =>
      .ent { Ent.bare (fun p => if p.m6.getLsbD 0 then .haltRetain p.s else .halt) with
        m6 := 1, r := .hi false true, d := .zero,
        more := fun p => if p.m6.getLsbD 0 then [] else atB (fS p.lo != 0) 0x05 p ++ atR (p.sh != 0) p }
    | _ => eS .trap
  | 0x32 =>
    match f with
    | 0 => eDS .any .rett
    | 1 => eS .sysc
    | 2 => eDS .any .ctxs
    | _ => eDS .any .ctxl
  | 0x33 =>
    match f with
    | 0 => eS .aown
    | 1 =>
      .ent { Ent.bare (fun p => .aspill (fD p.lo) p.s) with
        r := .hi true true, more := fun p => atB (decide (12 < p.d.toNat)) 0x07 p }
    | 2 =>
      .ent { Ent.bare (fun p => .afill (fD p.lo) p.s) with
        r := .hi true true, more := fun p => atB (decide (12 < p.d.toNat)) 0x07 p }
    | _ => eDS .any .slotx
  | 0x34 =>
    match f with
    | 0 => eDS .gd .qdrain
    | 1 => eDS .any .audw
    | _ => .noF
  | _ => .noOp

/-- Page 0 (R36). -/
def entry0 (op f : Nat) : Look :=
  match op with
  | 0x00 =>
    if f = 0 then .ent { Ent.bare (fun _ => .nop) with
      m6 := 0x3F, r := .role true true, s := .free, i := .any,
      more := fun p => atB (p.lo != 0 || p.pxp.isSome || p.pxr.isSome || p.pxs.isSome || !p.pxi.isEmpty) 0x06 p }
    else .noF
  | 0x01 =>
    match f with
    | 0 => eUn .mov
    | 1 => eUn .clz
    | 2 => eUn .ctz
    | _ => eUn .popc
  | 0x02 =>
    match f with
    | 0 => eBin .add
    | 1 => eBin .sub
    | 2 => eBin .and
    | _ => eBin .or
  | 0x03 =>
    match f with
    | 0 => eBin .xor
    | 1 => eBin .andn
    | 2 => eBin .min
    | _ => eBin .max
  | 0x04 =>
    match f with
    | 0 => eBin .minn
    | 1 => eBin .maxn
    | 2 => eBin .sel
    | _ => .noF
  | 0x05 =>
    match f with
    | 0 => eBin .shl
    | 1 => eBin .shra
    | 2 => eBin .shrl
    | _ => eBin .rotl
  | 0x06 =>
    match f with
    | 0 => eBin .mul
    | 1 => eBin .mulh
    | 2 => eBin .mulhn
    | _ => .noF
  | 0x07 =>
    match f with
    | 0 => eBin .div
    | 1 => eBin .divn
    | 2 => eBin .rem
    | _ => eBin .remn
  | 0x08 => eExt .sext f
  | 0x09 => eExt .zext f
  | 0x0A =>
    match f with
    | 0 => eField .extb
    | 1 => eField .insb
    | _ => .noF
  | 0x0B => eCmp f
  | 0x0C => eRI .addImm
  | 0x0D => eRI .movImm
  | 0x0E =>
    .ent { Ent.bare (fun p => .lea { d := p.d, s := p.s, t := p.t, f := p.f, p := p.pxi }) with
      r := .role true true, i := .any, d := .gd }
  | 0x0F =>
    .ent { Ent.bare (fun p => .bnd p.d p.s (if p.pxi.isEmpty then .size p.f else .imm p.pxi)) with
      r := .hi true true, i := .any, d := .gd,
      more := fun p => atB (!p.pxi.isEmpty && (p.f != 0 || immN p.pxi == 0)) 0x0D p }
  | 0x10 => eLoad .ld
  | 0x11 => eStore .st
  | 0x12 => eLoad .ldw
  | 0x13 => eLoad .ldt
  | 0x14 => eStore .stf
  | 0x15 =>
    match f with
    | 0 => eDS .any .femarkEmpty
    | 1 => eDS .any .femarkFull
    | 2 => eDS .gd .feq
    | _ => .noF
  | 0x16 =>
    match f with
    | 0 => eS0 .pftL1
    | 1 => eS0 .pftL2
    | _ => .noF
  | 0x17 =>
    .ent { Ent.bare (fun p =>
        let k := p.lo.extractLsb' 3 3
        let c := p.lo.extractLsb' 0 3
        .fence (if k = 0 then .acq else if k = 1 then .rel else if k = 2 then .acqrel else if k = 3 then .full else .engine)
          (if c = 0 then .slot else if c = 1 then .core else if c = 2 then .squad else if c = 3 then .die
           else if c = 4 then .device else .system)) with
      d := .zero,
      more := fun p =>
        atB (decide (5 ≤ (p.lo.extractLsb' 3 3).toNat ∨ 6 ≤ (p.lo.extractLsb' 0 3).toNat)) 0x05 p }
  | 0x18 =>
    .ent { Ent.bare (fun p =>
        let n := BitVec.ofNat 16 (immOwn p.pxi 6 p.i6.toNat)
        .waitc (n.extractLsb' 12 4) (n.extractLsb' 8 4) (n.extractLsb' 4 4) (n.extractLsb' 0 4)) with
      i := .atMost 1, d := .zero }
  | 0x19 =>
    if f = 3 then .noF
    else eDS .any (.tadd (if f = 0 then .s32 else if f = 1 then .s64 else .f32))
  | 0x1A => eDS .any (.tmax (if f = 0 then .s32 else if f = 1 then .n32 else if f = 2 then .f32 else .s64))
  | 0x1B => eDS .any (.tmin (if f = 0 then .s32 else if f = 1 then .n32 else if f = 2 then .f32 else .s64))
  | 0x1C =>
    match f with
    | 0 => eDS .any .tor
    | 1 => eDS .any .txor
    | 2 => eDS .any .tand
    | _ => .noF
  | 0x1D =>
    match f with
    | 0 => eS0 .tpin
    | 1 => eS0 .tunpin
    | 2 => eS0 .tfetch
    | _ => eDS .gd .tevict
  | 0x1E =>
    match f with
    | 0 => eDS .gd .tstat
    | 1 => eDS .gd .tsync
    | 2 => eDS .any .cinv
    | _ => .noF
  | n => entry0b n f

/-- A lane instruction of two sources (R195). `sat` says whether it offers `.sat`, `int` that it takes integer types
only, `rawImm` that PXI is accepted on floating types too. -/
def eVBin (sat int rawImm : Bool) (d : FUse) (mk : Bool → VBin → Instr) : Look :=
  .ent { Ent.bare (fun p => mk (p.m6.getLsbD 0) p.vBin) with
    m6 := if sat then 0x39 else 0x38, r := .three, s := .lanes, i := .any, d := d, src := .v, t := .v,
    more := fun p =>
      atP ((p.m6.getLsbD 0 && sat && p.ty.isFloat) || (int && p.ty.isFloat)) p ++ selBad p.ty.isFloat p ++
      (if !rawImm && p.ty.isFloat && !p.pxi.isEmpty then [⟨0x0A, p.pxiAt⟩] else []) }
/-- A unary lane instruction (R195); `f32` says that it takes type `f32` only. -/
def eVUn (sat f32 : Bool) (d : FUse) (mk : Bool → VUn → Instr) : Look :=
  .ent { Ent.bare (fun p => mk (p.m6.getLsbD 0) p.vUn) with
    m6 := if sat then 0x39 else 0x38, r := .hi true true, s := .lanes, d := d, src := .v,
    more := fun p =>
      atP ((p.m6.getLsbD 0 && sat && p.ty.isFloat) || (f32 && p.ty != .f32)) p ++ selBad p.ty.isFloat p }
/-- VFMA, VFMS, VFNMA (R201). -/
def eVTri (mk : VTri → Instr) : Look :=
  .ent { Ent.bare (fun p => mk p.vTri) with
    m6 := 0x38, r := .role true true, s := .lanes, d := .v, src := .v, t := .v,
    more := fun p => selBad p.ty.isFloat p }
/-- VCMP (R205). -/
def eVcmp (f : Nat) : Look :=
  eVBin false false false .kd
    (fun _ o => .vcmp (if f = 0 then .eq else if f = 1 then .lt else if f = 2 then .le else .ne) o)
/-- VRED (R207). -/
def eVred (f : Nat) : Look :=
  .ent { Ent.bare (fun p =>
      .vred (if f = 0 then .add else if f = 1 then .max else if f = 2 then .min else .xadd) p.vUn) with
    m6 := 0x38, r := .hi true true, s := .lanes, d := .gd, src := .v,
    more := fun p =>
      atP (!(p.ty == .f32 || p.ty == .s32 || p.ty == .n32)) p ++ selBad p.ty.isFloat p }
/-- The destination of VPACK (R210), where the type and the qualifier name one. -/
def packOf (ty : VTy) (q : Nat) : Option PackFmt :=
  match ty, q with
  | .f32, 0 => some .bf16 | .f32, 1 => some .f16 | .f32, 2 => some .e4m3 | .f32, 3 => some .e5m2
  | .f32, 4 => some .e2m1 | .f32, 5 => some .e4m3ns | .f32, 6 => some .e5m2ns
  | .s32, 0 => some .s16 | .s32, 1 => some .s8 | .s32, 2 => some .s4
  | .n32, 0 => some .n16 | .n32, 1 => some .n8
  | _, _ => none
/-- The source of VUNPK (R211). -/
def unpkOf (ty : VTy) (q : Nat) : Option UnpkFmt :=
  match ty, q with
  | .f32, 0 => some .bf16 | .f32, 1 => some .f16 | .f32, 2 => some .e4m3 | .f32, 3 => some .e5m2
  | .f32, 4 => some .e2m1
  | .s32, 5 => some .s16 | .s32, 6 => some .s8 | .s32, 7 => some .s4
  | .n32, 5 => some .n16 | .n32, 6 => some .n8 | .n32, 7 => some .n4
  | _, _ => none
/-- A lane instruction of three registers whose entry maps m6 to a form. -/
def eTri (s : SUse) (ok : Parts → Bool) (mk : Parts → Instr) : Look :=
  .ent { Ent.bare mk with
    m6 := 0x3F, r := .role true true, s := s, d := .v, src := .v, t := .v,
    more := fun p => atP (!ok p) p ++ selBad p.ty.isFloat p }
/-- VLD and VST (R215). -/
def vldW (x : BitVec 2) : VldW := if x = 0 then .w64 else if x = 1 then .w32 else .b
/-- The element size of VLDX and VSTX (R216). -/
def vxSize (f : Nat) : VxSize := if f = 0 then .b4 else if f = 1 then .b2 else .b1

/-- Page 1 (R38), primaries 0x0A to 0x11. -/
def entry1b (op f : Nat) : Look :=
  match op with
  | 0x0A =>
    match f with
    | 0 =>
      .ent { Ent.bare (fun p => .vcvt (vtyOf p.qual) p.vUn) with
        m6 := 0x3F, r := .hi true true, s := .lanes, d := .v, src := .v,
        more := fun p =>
          atP (p.ty.group != (vtyOf p.qual).group || p.ty == vtyOf p.qual) p ++ selBad p.ty.isFloat p }
    | 1 => eTri .lanes (fun p => (packOf p.ty p.qual.toNat).isSome)
        (fun p => .vpack ((packOf p.ty p.qual.toNat).getD .bf16) p.tri)
    | 2 =>
      .ent { Ent.bare (fun p =>
          .vunpk ((unpkOf p.ty p.qual.toNat).getD .bf16) (BitVec.ofNat 3 (immN p.pxi)) p.d p.s p.q) with
        m6 := 0x3F, r := .hi true true, s := .lanes, i := .exact 1, d := .v, src := .v,
        more := fun p =>
          atP (unpkOf p.ty p.qual.toNat).isNone p ++ selBad p.ty.isFloat p ++
          atB (match unpkOf p.ty p.qual.toNat with | some u => decide (u.parts ≤ immN p.pxi) | none => false) 0x0D p }
    | _ =>
      .ent { Ent.bare (fun p => .vscal p.vBin) with
        m6 := 0x38, r := .three, s := .lanes, i := .any, d := .v, src := .v, t := .v,
        more := fun p => atP (p.ty != .f32) p ++ selBad p.ty.isFloat p }
  | 0x0B =>
    match f with
    | 0 => eTri .lanes
        (fun p => decide (p.m6.toNat = 0x30 ∨ p.m6.toNat = 0x38 ∨ p.m6.toNat = 0 ∨ p.m6.toNat = 1))
        (fun p => .vdot4 (if p.m6.toNat = 0x30 then .s8 else if p.m6.toNat = 0x38 then .n8
          else if p.m6.toNat = 0 then .e4m3 else .e5m2) p.tri)
    | 1 => eTri .lanes (fun p => decide (p.m6.toNat = 0x30 ∨ p.m6.toNat = 0))
        (fun p => .vdot8 (if p.m6.toNat = 0x30 then .s4 else .e2m1) p.tri)
    | 2 => eTri .lanes (fun p => decide (p.m6.toNat = 0x08 ∨ p.m6.toNat = 0x10 ∨ p.m6.toNat = 0x28))
        (fun p => .vdot2 (if p.m6.toNat = 0x08 then .bf16 else if p.m6.toNat = 0x10 then .f16 else .s16) p.tri)
    | _ => eTri .noMask (fun p => decide (p.m6.toNat ≤ 3))
        (fun p => .vqnt (if p.m6.toNat = 0 then .zx8 else if p.m6.toNat = 1 then .zx8e
          else if p.m6.toNat = 2 then .zx4 else .ecf8) p.tri)
  | 0x0C =>
    .ent { Ent.bare (fun p => .vld (vldW p.f) (p.m6.getLsbD 3) p.qual p.d p.s p.t p.pxi) with
      m6 := 0x0F, r := .role true true, i := .any, d := .v, more := fun p => atB (p.f == 3) 0x05 p }
  | 0x0D =>
    .ent { Ent.bare (fun p => .vst (vldW p.f) p.qual p.d p.s p.t p.pxi) with
      m6 := 7, r := .role true true, i := .any, d := .v, more := fun p => atB (p.f == 3) 0x05 p }
  | 0x0E =>
    if f = 3 then .noF
    else .ent { Ent.bare (fun p => .vldx (vxSize f) (p.m6.getLsbD 4) (p.m6.getLsbD 3) p.qual p.d p.s p.t) with
      m6 := 0x1F, r := .role true true, d := .v, t := .v,
      more := fun p => atP (p.m6.getLsbD 4 && f == 0) p }
  | 0x0F =>
    if f = 3 then .noF
    else .ent { Ent.bare (fun p => .vstx (vxSize f) p.qual p.d p.s p.t) with
      m6 := 7, r := .role true true, d := .v, t := .v }
  | 0x10 =>
    let o : KopOp := if f = 0 then .and else if f = 1 then .or else if f = 2 then .xor else .andn
    .ent { Ent.bare (fun p =>
        .kop o (p.d.extractLsb' 0 3) (p.s.extractLsb' 0 3) (if p.pxr.isSome then some (p.t.extractLsb' 0 3) else none)) with
      r := .role true true, s := .zero, d := .kd, src := .k, t := .k }
  | 0x11 =>
    match f with
    | 0 => .ent { Ent.bare (fun p => .kmovToMask (p.d.extractLsb' 0 3) p.s) with r := .hi true true, d := .kd }
    | 1 => .ent { Ent.bare (fun p => .kmovFromMask p.d (p.s.extractLsb' 0 3)) with
        r := .hi true true, d := .gd, src := .k }
    | 2 => .ent { Ent.bare (fun p => .klow (p.d.extractLsb' 0 3) p.s) with r := .hi true true, d := .kd }
    | _ => .ent { Ent.bare (fun p => .kpop p.d (p.s.extractLsb' 0 3)) with
        r := .hi true true, d := .gd, src := .k }
  | _ => .noOp

/-- Page 1 (R38). -/
def entry1 (op f : Nat) : Look :=
  match op with
  | 0x00 =>
    match f with
    | 0 => eVUn false false .v (fun _ => .vmov)
    | 1 =>
      .ent { Ent.bare (fun p =>
          .vbcast { ty := p.ty, d := p.d, mask := p.mask,
                    src := if p.pxi.isEmpty then .reg p.s { p.q with mask := 0 } else .imm p.pxi }) with
        m6 := 0x38, r := .hi true true, s := .lanes, i := .any, d := .v,
        more := fun p =>
          selBad p.ty.isFloat p ++
          if p.pxi.isEmpty then [] else atB (fS p.lo != 0) 0x05 p ++ atR (p.sh != 0) p ++ SUse.reasons .maskOnly p }
    | 2 =>
      .ent { Ent.bare (fun p =>
          .vext { ty := p.ty, d := p.d, s := p.s, lane := BitVec.ofNat 4 (immN p.pxi), q := p.q }) with
        m6 := 0x38, r := .hi true true, s := .noMask, i := .exact 1, d := .gd, src := .v,
        more := fun p => selBad p.ty.isFloat p ++ atB (decide (15 < immN p.pxi)) 0x0D p }
    | _ =>
      .ent { Ent.bare (fun p => .viota p.ty p.d p.mask) with
        m6 := 0x38, r := .hi true false, s := .maskOnly, d := .v, src := .zero,
        more := fun p => selBad p.ty.isFloat p }
  | 0x01 =>
    match f with
    | 0 => eVBin true false false .v .vadd
    | 1 => eVBin true false false .v .vsub
    | 2 => eVBin true false false .v .vmul
    | _ => eVBin false false false .v (fun _ => .vdiv)
  | 0x02 =>
    match f with
    | 0 => eVTri .vfma
    | 1 => eVTri .vfms
    | 2 => eVTri .vfnma
    | _ => .noF
  | 0x03 =>
    match f with
    | 0 => eVBin false false false .v (fun _ => .vmin)
    | 1 => eVBin false false false .v (fun _ => .vmax)
    | 2 => eVUn true false .v .vabs
    | _ => eVUn true false .v .vneg
  | 0x04 =>
    match f with
    | 0 => eVBin false false true .v (fun _ => .vand)
    | 1 => eVBin false false true .v (fun _ => .vor)
    | 2 => eVBin false false true .v (fun _ => .vxor)
    | _ => eVBin false false true .v (fun _ => .vandn)
  | 0x05 =>
    match f with
    | 0 => eVBin false true true .v (fun _ => .vshl)
    | 1 => eVBin false true true .v (fun _ => .vshra)
    | 2 => eVBin false true true .v (fun _ => .vshrl)
    | _ => eVBin false true true .v (fun _ => .vrotl)
  | 0x06 => eVcmp f
  | 0x07 =>
    match f with
    | 0 =>
      .ent { Ent.bare (fun p => .vsel p.vBin) with
        m6 := 0x38, r := .three, s := .lanes, d := .v, src := .v, t := .v,
        more := fun p => selBad p.ty.isFloat p }
    | 1 =>
      .ent { Ent.bare (fun p => .vperm p.vBin) with
        m6 := 0x38, r := .three, s := .lanes, i := .any, d := .v, src := .v, t := .v,
        more := fun p =>
          selBad p.ty.isFloat p ++ atB (decide (15 < immN p.pxi)) 0x0D p ++
          (if p.ty.isFloat && !p.pxi.isEmpty then [⟨0x0A, p.pxiAt⟩] else []) }
    | 2 =>
      .ent { Ent.bare (fun p =>
          .vslide { ty := p.ty, d := p.d, s := p.s, t := p.t, n := BitVec.ofNat 4 (immN p.pxi), q := p.q }) with
        m6 := 0x38, r := .role true true, s := .lanes, i := .exact 1, d := .v, src := .v, t := .v,
        more := fun p => selBad p.ty.isFloat p ++ atB (decide (15 < immN p.pxi)) 0x0D p }
    | _ => .noF
  | 0x08 => eVred f
  | 0x09 =>
    match f with
    | 0 => eVUn false true .v (fun _ => .vrcp)
    | 1 => eVUn false true .v (fun _ => .vrsq)
    | 2 => eVUn false true .v (fun _ => .vexp2)
    | _ => eVUn false true .v (fun _ => .vlog2)
  | n => entry1b n f

/-- Low three bits of the d field. -/
def Parts.d3 (p : Parts) : BitVec 3 := (fD p.lo).extractLsb' 0 3
/-- Low two bits of the d field. -/
def Parts.d2 (p : Parts) : BitVec 2 := (fD p.lo).extractLsb' 0 2
/-- Low three bits of the s field. -/
def Parts.s3 (p : Parts) : BitVec 3 := (fS p.lo).extractLsb' 0 3
/-- Low two bits of the s field. -/
def Parts.s2 (p : Parts) : BitVec 2 := (fS p.lo).extractLsb' 0 2

/-- MMA and MMAN (R252). -/
def eMma (mk : BitVec 2 → BitVec 3 → BitVec 3 → Instr) : Look :=
  .ent { Ent.bare (fun p => mk p.d2 p.s3 p.qual) with
    m6 := 7, r := .hi false false, d := .upTo 3, src := .upTo 7 }
/-- AST and ALD (R254, R255). -/
def eAst (mk : BitVec 2 → Reg → Reg → Instr) : Look :=
  .ent { Ent.bare (fun p => mk p.d2 p.s p.t) with r := .role false true, d := .upTo 3 }
/-- A payload of AMOV or AMOVV has bits [9:6] zero (R240). -/
def rowBad (p : Parts) : List Illegal := atB (decide (64 ≤ immN p.pxi)) 0x0D p

/-- Page 2 (R239, R240). -/
def entry2 (op f : Nat) : Look :=
  match op with
  | 0x00 =>
    match f with
    | 0 => .ent { Ent.bare (fun p => .mcfg p.d3 p.s) with r := .hi false true, d := .upTo 7 }
    | 1 => .ent { Ent.bare (fun p => .mfmt p.s) with r := .hi false true, d := .zero }
    | 2 => .ent { Ent.bare (fun p => .mperm (fD p.lo) p.s) with r := .hi false true }
    | _ =>
      .ent { Ent.bare (fun p =>
          .mmeta (if p.qual = 0 then .c32 else if p.qual = 1 then .c64 else .c128) p.d3 p.s) with
        m6 := 3, r := .hi false true, d := .upTo 7,
        more := fun p => atP (p.qual.extractLsb' 0 2 == 3) p ++
          atB (p.qual.extractLsb' 0 2 == 2 && (fD p.lo).getLsbD 0) 0x07 p }
  | 0x01 =>
    match f with
    | 0 => .ent { Ent.bare (fun p => .mld (p.m6.getLsbD 0) p.d3 p.s p.t) with
        m6 := 1, r := .role false true, d := .upTo 7 }
    | 1 => .ent { Ent.bare (fun p => .mldc p.d3 p.s p.t) with r := .role false true, d := .upTo 7 }
    | 2 => .ent { Ent.bare (fun p => .mzero p.d2) with r := .hi false false, d := .upTo 3, src := .zero }
    | _ => .ent { Ent.bare (fun p => .mqst p.d (fS p.lo)) with r := .hi true false, d := .gd, src := .upTo 8 }
  | 0x02 =>
    match f with
    | 0 => eMma .mma
    | 1 =>
      .ent { Ent.bare (fun p => .mmas p.d2 p.s3 p.qual (p.m6.extractLsb' 3 3)) with
        m6 := 0x3F, r := .hi false false, d := .upTo 3, src := .upTo 7,
        more := fun p => atB (p.m6.getLsbD 0) 0x07 p }
    | 2 => eMma .mman
    | _ => .noF
  | 0x03 =>
    match f with
    | 0 => eAst .ast
    | 1 => eAst .ald
    | 2 =>
      .ent { Ent.bare (fun p =>
          .amov p.d p.s2 (BitVec.ofNat 5 (immN p.pxi)) ((BitVec.ofNat 10 (immN p.pxi)).getLsbD 5)) with
        r := .hi true false, i := .exact 1, d := .v, src := .upTo 3, more := rowBad }
    | _ =>
      .ent { Ent.bare (fun p =>
          .amovv p.d2 p.s (BitVec.ofNat 5 (immN p.pxi)) ((BitVec.ofNat 10 (immN p.pxi)).getLsbD 5)) with
        r := .hi false true, i := .exact 1, d := .upTo 3, src := .v, more := rowBad }
  | _ => .noOp

/-- A page-3 instruction of `n` descriptor registers (R94, R95). -/
def eEng (m6 : BitVec 6) (n : Nat) (mk : Parts → Instr) (more : Parts → List Illegal) : Look :=
  .ent { Ent.bare mk with
    m6 := m6, r := .hi true true, more := fun p => atB (!engOk n p.d p.s) 0x07 p ++ more p }

/-- Page 3 (R95). -/
def entry3 (op f : Nat) : Look :=
  match op with
  | 0x00 =>
    match f with
    | 0 => eEng 3 5 (fun p => .cpy (p.m6.getLsbD 0) (p.m6.getLsbD 1) p.d p.s) (fun _ => [])
    | 1 => eEng 3 6 (fun p => .cpyx (p.m6.getLsbD 0) (p.m6.getLsbD 1) p.d p.s) (fun _ => [])
    | 2 => eEng 0 4 (fun p => .cpyc p.d p.s) (fun _ => [])
    | _ => eEng 7 5 (fun p =>
        let m := p.m6.extractLsb' 1 2
        .cfill (p.m6.getLsbD 0) (if m = 0 then .keep else if m = 1 then .empty else .full) p.d p.s)
        (fun p => atP (p.m6.extractLsb' 1 2 == 3) p)
  | 0x01 =>
    match f with
    | 0 => eEng 0 6 (fun p => .gath p.d p.s) (fun _ => [])
    | 1 => eEng 0 6 (fun p => .scat p.d p.s) (fun _ => [])
    | 2 => eEng 7 4 (fun p => .echk p.qual p.d p.s) (fun _ => [])
    | _ => .noF
  | 0x02 =>
    match f with
    | 0 => eEng 0 4 (fun p => .coll p.d p.s) (fun _ => [])
    | 1 => eEng 0 4 (fun p => .cgrp p.d p.s) (fun _ => [])
    | 2 => eEng 0 2 (fun p => .cabt p.d p.s) (fun _ => [])
    | _ => .noF
  | _ => .noOp

/-- The float formats of FCVT (R192). -/
def ffmtOf (x : BitVec 3) : Option FFmt :=
  match x.toNat with
  | 0 => some .f32 | 1 => some .f64 | 2 => some .f16 | 3 => some .bf16 | 4 => some .e4m3 | 5 => some .e5m2
  | 6 => some .e2m1 | _ => none
/-- The bits of a float format. -/
def FFmt.bits : FFmt → BitVec 3
  | .f32 => 0 | .f64 => 1 | .f16 => 2 | .bf16 => 3 | .e4m3 => 4 | .e5m2 => 5 | .e2m1 => 6
/-- The integer formats of FCVT (R192). -/
def ifmtOf (x : BitVec 2) : IFmt := if x = 0 then .s32 else if x = 1 then .n32 else if x = 2 then .s64 else .n64
/-- The bits of an integer format. -/
def IFmt.bits : IFmt → BitVec 2
  | .s32 => 0 | .n32 => 1 | .s64 => 2 | .n64 => 3

/-- What f and m6 of FCVT select (R192). -/
def cvtOf (f : BitVec 2) (m6 : BitVec 6) : Option CvtKind :=
  let hi := m6.extractLsb' 3 3
  let lo := m6.extractLsb' 0 3
  match f.toNat, ffmtOf hi, ffmtOf lo with
  | 0, some a, some b => some (.ff a b)
  | 1, some a, some .e4m3 => some (.ns a .e4m3)
  | 1, some a, some .e5m2 => some (.ns a .e5m2)
  | 2, some a, _ => some (.fi a (lo.getLsbD 2) (ifmtOf (lo.extractLsb' 0 2)))
  | 3, _, some b => if hi.getLsbD 2 then none else some (.if_ (ifmtOf (hi.extractLsb' 0 2)) b)
  | _, _, _ => none

/-- A binary floating-point instruction (R187). -/
def eF2 (mk : FBin → Instr) : Look :=
  .ent { Ent.bare (fun p => mk p.fBin) with r := .role true true, s := .float, d := .gd }
/-- A unary floating-point instruction (R187). -/
def eF1 (mk : FUn → Instr) : Look :=
  .ent { Ent.bare (fun p => mk p.fUn) with r := .hi true true, s := .float, d := .gd }

/-- Page 4 (R187). -/
def entry4 (op f : Nat) : Look :=
  match op with
  | 0x00 => if f < 2 then eF2 .fadd else eF2 .fsub
  | 0x01 => if f < 2 then eF2 .fmul else eF2 .fdiv
  | 0x02 =>
    if f < 2 then
      .ent { Ent.bare (fun p => .fma (p.f.getLsbD 0) p.d p.s p.t (smodOf p.smod)) with
        r := .role true true, s := .float, d := .gd }
    else eF1 .fsqrt
  | 0x03 => if f < 2 then eF2 .fmin else eF2 .fmax
  | 0x04 =>
    if f < 2 then
      .ent { Ent.bare (fun p =>
          let c := p.m6.extractLsb' 0 2
          .fcmp (if c = 0 then .eq else if c = 1 then .lt else if c = 2 then .le else .un) p.fBin) with
        m6 := 3, r := .role true true, s := .float, d := .gd }
    else eF1 .fclass
  | 0x05 =>
    .ent { Ent.bare (fun p => .fcvt ((cvtOf p.f p.m6).getD (.ff .f32 .f32)) p.d p.s (smodOf p.smod)) with
      m6 := 0x3F, r := .hi true true, s := .float, d := .gd,
      more := fun p => atP (cvtOf p.f p.m6).isNone p }
  | _ => .noOp

/-- The opcode map (R36, R38). -/
def look (page op f : Nat) : Look :=
  match page with
  | 0 => entry0 op f
  | 1 => entry1 op f
  | 2 => entry2 op f
  | 3 => entry3 op f
  | 4 => entry4 op f
  | _ => .noPage

/-- The instruction of a chain and its base word, or the reasons against it. -/
def Parts.instr (p : Parts) : Except (List Illegal) Instr :=
  match look p.page.toNat p.op.toNat p.f.toNat with
  | .noPage => .error []
  | .noOp => .error [⟨0x02, p.base⟩]
  | .noF => .error [⟨0x04, p.base⟩]
  | .ent e => if (e.reasons p).isEmpty then .ok (e.build p) else .error (e.reasons p)

/-- The instruction at a fetch address, with its length in words, or the reason of R40. `ws` holds the words from
the address to the end of its sealed segment, of which at most five are examined. -/
def decodeWords (ws : List IWord) : Except Illegal (Instr × Nat) :=
  let r := scan 4 0 0 Parts.zero ws
  match r.1 with
  | none => .error ((lowest r.2).getD ⟨0x0C, 0⟩)
  | some p =>
    match p.instr, lowest r.2 with
    | .ok i, none => .ok (i, p.base + 1)
    | .ok _, some v => .error v
    | .error es, _ => .error ((lowest (r.2 ++ es)).getD ⟨0x0C, 0⟩)

/-! ## The encoder -/

/-- The canonical chain of an instruction: PXP when the page or m6 is not zero, PXR when `r` asks for it or a high
bit or t is set, PXS when it says anything, then PXI (R22, R34). -/
def chain (page : BitVec 4) (m6 : BitVec 6) (r : Bool) (dh sh : BitVec 2) (t : Reg) (q : Pxs) (p : Pxi) : List IWord :=
  (if page ≠ 0 ∨ m6 ≠ 0 then [0x3E#6 ++ page ++ m6] else []) ++
  (if r ∨ dh ≠ 0 ∨ sh ≠ 0 ∨ t ≠ 0 then [0x3D#6 ++ dh ++ sh ++ t] else []) ++
  (if q ≠ Pxs.none then [0x3F#6 ++ q.mask ++ q.smod.bits ++ q.sel.bits] else []) ++
  p.map (fun x => 0x3C#6 ++ x)

/-- An RR or M word with its chain. -/
def encRR (page : BitVec 4) (m6 : BitVec 6) (op : BitVec 6) (f : BitVec 2) (r : Bool) (d s t : Reg) (q : Pxs)
    (p : Pxi) : List IWord :=
  chain page m6 r (hi2 d) (hi2 s) t q p ++ [op ++ loRR (lo4 d) (lo4 s) f]

/-- A plain page-0 RR word. -/
def enc0 (op : BitVec 6) (f : BitVec 2) (d s : Reg) : List IWord := encRR 0 0 op f false d s 0 Pxs.none []

/-- A two-source integer instruction. -/
def IntBin.enc (op : BitVec 6) (f : BitVec 2) (m6 : BitVec 6) (o : IntBin) : List IWord :=
  match o.src with
  | .two => encRR 0 m6 op f false o.d o.s 0 o.q []
  | .reg t => encRR 0 m6 op f true o.d o.s t o.q []
  | .imm p => encRR 0 m6 op f false o.d o.s 0 o.q p
/-- A unary integer instruction. -/
def IntUn.enc (f : BitVec 2) (o : IntUn) : List IWord :=
  match o.src with
  | .reg s q => encRR 0 0 0x01 f false o.d s 0 q []
  | .imm p => encRR 0 0 0x01 f false o.d 0 0 Pxs.none p
/-- SEXT and ZEXT. -/
def ExtOp.enc (op : BitVec 6) (o : ExtOp) : List IWord :=
  encRR 0 0 op (match o.w with | .w8 => 0 | .w16 => 1 | .w32 => 2) false o.d o.s 0 o.q []
/-- An RI word with its chain; only dh may extend. -/
def encRI (op : BitVec 6) (d : Reg) (i : BitVec 6) (p : Pxi) : List IWord :=
  chain 0 0 false (hi2 d) 0 0 Pxs.none p ++ [op ++ loRI (lo4 d) i]
/-- EXTB and INSB: the 20-bit immediate over two PXI. -/
def FieldOp.enc (f : BitVec 2) (o : FieldOp) : List IWord :=
  encRR 0 0 0x0A f false o.d o.s 0 o.q
    [0#8 ++ o.wid.extractLsb' 4 2, o.wid.extractLsb' 0 4 ++ o.pos]
/-- A J word. -/
def encJ (op : BitVec 6) (i : BitVec 10) (p : Pxi) : List IWord := chain 0 0 false 0 0 0 Pxs.none p ++ [op ++ i]
/-- An M word of page 0. -/
def MemOp.enc (op m6 : BitVec 6) (m : MemOp) : List IWord := encRR 0 m6 op m.w false m.d m.b m.t Pxs.none m.p
/-- m6 of a load. -/
def LoadQ.bits (q : LoadQ) : BitVec 6 := 0#3 ++ BitVec.ofBool q.acq ++ BitVec.ofBool q.fresh ++ BitVec.ofBool q.sx
/-- m6 of a store. -/
def relBits (rel : Bool) : BitVec 6 := 0#2 ++ BitVec.ofBool rel ++ 0#3
/-- CRD and CWR. -/
def encCR (op : BitVec 6) (d : Reg) (n : BitVec 12) : List IWord :=
  encRI op d (n.extractLsb' 0 6) (if n.extractLsb' 6 6 = 0 then [] else [0#4 ++ n.extractLsb' 6 6])
/-- m6 of AMO, CAS and RUPD. -/
def atBits (op : BitVec 4) (o : AtOrd) : BitVec 6 := op ++ o.bits
/-- The f field of TADD, TMAX and TMIN. -/
def AddTy.bits : AddTy → BitVec 2
  | .s32 => 0 | .s64 => 1 | .f32 => 2
/-- The f field of TMAX and TMIN. -/
def MaxTy.bits : MaxTy → BitVec 2
  | .s32 => 0 | .n32 => 1 | .f32 => 2 | .s64 => 3
/-- FENCE kinds. -/
def FenceKind.bits : FenceKind → BitVec 3
  | .acq => 0 | .rel => 1 | .acqrel => 2 | .full => 3 | .engine => 4
/-- FENCE scopes. -/
def FenceScope.bits : FenceScope → BitVec 3
  | .slot => 0 | .core => 1 | .squad => 2 | .die => 3 | .device => 4 | .system => 5
/-- BC conditions. -/
def BcCond.bits : BcCond → BitVec 2
  | .z => 0 | .nz => 1 | .lz => 2 | .gez => 3
/-- BCMP conditions. -/
def BcmpCond.bits : BcmpCond → BitVec 2
  | .eq => 0 | .ne => 1 | .lt => 2 | .ltn => 3
/-- CMP conditions. -/
def CmpCond.bits : CmpCond → BitVec 2
  | .eq => 0 | .lt => 1 | .ltn => 2 | .le => 3
/-- SPAWN counts. -/
def SpawnN.bits : SpawnN → BitVec 2
  | .n2 => 0 | .n4 => 1 | .n8 => 2 | .n16 => 3

/-- A page-1 word. -/
def enc1 (ty : VTy) (ql : BitVec 3) (op : BitVec 6) (f : BitVec 2) (r : Bool) (d s t : Reg) (q : Pxs) (p : Pxi) :
    List IWord :=
  encRR 1 (ty.bits ++ ql) op f r d s t q p
/-- A lane instruction of two sources. -/
def VBin.enc (ql : BitVec 3) (op : BitVec 6) (f : BitVec 2) (o : VBin) : List IWord :=
  match o.src with
  | .two => enc1 o.ty ql op f false o.d o.s 0 o.q []
  | .reg t => enc1 o.ty ql op f true o.d o.s t o.q []
  | .imm p => enc1 o.ty ql op f false o.d o.s 0 o.q p
/-- A unary lane instruction. -/
def VUn.enc (ql : BitVec 3) (op : BitVec 6) (f : BitVec 2) (o : VUn) : List IWord :=
  enc1 o.ty ql op f false o.d o.s 0 o.q []
/-- A lane instruction of three sources. -/
def VTri.enc (f : BitVec 2) (o : VTri) : List IWord := enc1 o.ty 0 0x02 f false o.d o.s o.t o.q []
/-- A lane instruction of three registers with its m6. -/
def Tri.enc (m6 : BitVec 6) (op : BitVec 6) (f : BitVec 2) (o : Tri) : List IWord :=
  encRR 1 m6 op f false o.d o.s o.t o.q []
/-- The `.sat` qualifier. -/
def satBits (sat : Bool) : BitVec 3 := 0#2 ++ BitVec.ofBool sat
/-- m6 of VPACK. -/
def PackFmt.bits : PackFmt → BitVec 6
  | .bf16 => 0 | .f16 => 1 | .e4m3 => 2 | .e5m2 => 3 | .e2m1 => 4 | .e4m3ns => 5 | .e5m2ns => 6
  | .s16 => 0x18 | .s8 => 0x19 | .s4 => 0x1A | .n16 => 0x20 | .n8 => 0x21
/-- m6 of VUNPK. -/
def UnpkFmt.bits : UnpkFmt → BitVec 6
  | .bf16 => 0 | .f16 => 1 | .e4m3 => 2 | .e5m2 => 3 | .e2m1 => 4 | .s16 => 0x1D | .s8 => 0x1E | .s4 => 0x1F
  | .n16 => 0x25 | .n8 => 0x26 | .n4 => 0x27
/-- The w field of VLD and VST. -/
def VldW.bits : VldW → BitVec 2
  | .w64 => 0 | .w32 => 1 | .b => 2
/-- The f field of VLDX and VSTX. -/
def VxSize.bits : VxSize → BitVec 2
  | .b4 => 0 | .b2 => 1 | .b1 => 2
/-- A mask register number as a register number. -/
def kReg (k : BitVec 3) : Reg := 0#3 ++ k
/-- An `m` register number. -/
def mReg (m : BitVec 3) : Reg := 0#3 ++ m
/-- An accumulator number. -/
def aReg (a : BitVec 2) : Reg := 0#4 ++ a
/-- A four-bit number in a register field. -/
def nReg (n : BitVec 4) : Reg := 0#2 ++ n
/-- A page-2 word. -/
def enc2 (m6 : BitVec 6) (op : BitVec 6) (f : BitVec 2) (d s t : Reg) (p : Pxi) : List IWord :=
  encRR 2 m6 op f false d s t Pxs.none p
/-- A page-3 word. -/
def enc3 (m6 : BitVec 6) (op : BitVec 6) (f : BitVec 2) (d s : Reg) : List IWord :=
  encRR 3 m6 op f false d s 0 Pxs.none []
/-- The payload of AMOV and AMOVV (R240). -/
def rowBits (row : BitVec 5) (half : Bool) : BitVec 10 := 0#4 ++ BitVec.ofBool half ++ row
/-- PXS of page 4. -/
def fPxs (m : SMod) : Pxs := { mask := 0, smod := m, sel := .all }
/-- A binary page-4 word; `f` holds the second bit of the f field. -/
def FBin.enc (m6 op : BitVec 6) (f : BitVec 1) (o : FBin) : List IWord :=
  encRR 4 m6 op (f ++ BitVec.ofBool o.dbl) o.src.isSome o.d o.s (o.src.getD 0) (fPxs o.m) []
/-- A unary page-4 word. -/
def FUn.enc (op : BitVec 6) (o : FUn) : List IWord :=
  encRR 4 0 op (1#1 ++ BitVec.ofBool o.dbl) false o.d o.s 0 (fPxs o.m) []
/-- f and m6 of FCVT (R192). -/
def CvtKind.enc (k : CvtKind) (d s : Reg) (m : SMod) : List IWord :=
  let go (f : BitVec 2) (m6 : BitVec 6) : List IWord := encRR 4 m6 0x05 f false d s 0 (fPxs m) []
  match k with
  | .ff a b => go 0 (a.bits ++ b.bits)
  | .ns a b => go 1 (a.bits ++ b.bits)
  | .fi a z b => go 2 (a.bits ++ BitVec.ofBool z ++ b.bits)
  | .if_ a b => go 3 (0#1 ++ a.bits ++ b.bits)

/-- The words of page-1 to page-4 instructions. -/
def encodeHi : Instr → Option (List IWord)
  | .vmov o => some (o.enc 0 0x00 0)
  | .vbcast o =>
    match o.src with
    | .reg s q => some (enc1 o.ty 0 0x00 1 false o.d s 0 { q with mask := o.mask } [])
    | .imm p => some (enc1 o.ty 0 0x00 1 false o.d 0 0 { mask := o.mask, smod := .plain, sel := .all } p)
  | .vext o => some (enc1 o.ty 0 0x00 2 false o.d o.s 0 o.q [0#6 ++ o.lane])
  | .viota ty d mask => some (enc1 ty 0 0x00 3 false d 0 0 { mask := mask, smod := .plain, sel := .all } [])
  | .vadd sat o => some (o.enc (satBits sat) 0x01 0)
  | .vsub sat o => some (o.enc (satBits sat) 0x01 1)
  | .vmul sat o => some (o.enc (satBits sat) 0x01 2)
  | .vdiv o => some (o.enc 0 0x01 3)
  | .vfma o => some (o.enc 0)
  | .vfms o => some (o.enc 1)
  | .vfnma o => some (o.enc 2)
  | .vmin o => some (o.enc 0 0x03 0)
  | .vmax o => some (o.enc 0 0x03 1)
  | .vabs sat o => some (o.enc (satBits sat) 0x03 2)
  | .vneg sat o => some (o.enc (satBits sat) 0x03 3)
  | .vand o => some (o.enc 0 0x04 0)
  | .vor o => some (o.enc 0 0x04 1)
  | .vxor o => some (o.enc 0 0x04 2)
  | .vandn o => some (o.enc 0 0x04 3)
  | .vshl o => some (o.enc 0 0x05 0)
  | .vshra o => some (o.enc 0 0x05 1)
  | .vshrl o => some (o.enc 0 0x05 2)
  | .vrotl o => some (o.enc 0 0x05 3)
  | .vcmp c o => some (o.enc 0 0x06 (match c with | .eq => 0 | .lt => 1 | .le => 2 | .ne => 3))
  | .vsel o => some (o.enc 0 0x07 0)
  | .vperm o => some (o.enc 0 0x07 1)
  | .vslide o => some (enc1 o.ty 0 0x07 2 false o.d o.s o.t o.q [0#6 ++ o.n])
  | .vred op o => some (o.enc 0 0x08 (match op with | .add => 0 | .max => 1 | .min => 2 | .xadd => 3))
  | .vrcp o => some (o.enc 0 0x09 0)
  | .vrsq o => some (o.enc 0 0x09 1)
  | .vexp2 o => some (o.enc 0 0x09 2)
  | .vlog2 o => some (o.enc 0 0x09 3)
  | .vcvt dst o => some (o.enc dst.bits 0x0A 0)
  | .vpack f o => some (o.enc f.bits 0x0A 1)
  | .vunpk f part d s q => some (encRR 1 f.bits 0x0A 2 false d s 0 q [0#7 ++ part])
  | .vscal o => some (o.enc 0 0x0A 3)
  | .vdot4 ty o => some (o.enc (match ty with | .s8 => 0x30 | .n8 => 0x38 | .e4m3 => 0 | .e5m2 => 1) 0x0B 0)
  | .vdot8 ty o => some (o.enc (match ty with | .s4 => 0x30 | .e2m1 => 0) 0x0B 1)
  | .vdot2 ty o => some (o.enc (match ty with | .bf16 => 0x08 | .f16 => 0x10 | .s16 => 0x28) 0x0B 2)
  | .vqnt f o => some (o.enc (match f with | .zx8 => 0 | .zx8e => 1 | .zx4 => 2 | .ecf8 => 3) 0x0B 3)
  | .vld w fresh mask d b t p =>
    some (encRR 1 (0#2 ++ BitVec.ofBool fresh ++ mask) 0x0C w.bits false d b t Pxs.none p)
  | .vst w mask d b t p => some (encRR 1 (0#3 ++ mask) 0x0D w.bits false d b t Pxs.none p)
  | .vldx sz sx fresh mask d s t =>
    some (encRR 1 (0#1 ++ BitVec.ofBool sx ++ BitVec.ofBool fresh ++ mask) 0x0E sz.bits false d s t Pxs.none [])
  | .vstx sz mask d s t => some (encRR 1 (0#3 ++ mask) 0x0F sz.bits false d s t Pxs.none [])
  | .kop op d s t =>
    some (encRR 1 0 0x10 (match op with | .and => 0 | .or => 1 | .xor => 2 | .andn => 3) t.isSome (kReg d) (kReg s)
      (kReg (t.getD 0)) Pxs.none [])
  | .kmovToMask d s => some (encRR 1 0 0x11 0 false (kReg d) s 0 Pxs.none [])
  | .kmovFromMask d s => some (encRR 1 0 0x11 1 false d (kReg s) 0 Pxs.none [])
  | .klow d s => some (encRR 1 0 0x11 2 false (kReg d) s 0 Pxs.none [])
  | .kpop d s => some (encRR 1 0 0x11 3 false d (kReg s) 0 Pxs.none [])
  | .mcfg d s => some (enc2 0 0x00 0 (mReg d) s 0 [])
  | .mfmt s => some (enc2 0 0x00 1 0 s 0 [])
  | .mperm d s => some (enc2 0 0x00 2 (nReg d) s 0 [])
  | .mmeta c d s => some (enc2 (match c with | .c32 => 0 | .c64 => 1 | .c128 => 2) 0x00 3 (mReg d) s 0 [])
  | .mld sc d s t => some (enc2 (0#5 ++ BitVec.ofBool sc) 0x01 0 (mReg d) s t [])
  | .mldc d s t => some (enc2 0 0x01 1 (mReg d) s t [])
  | .mzero d => some (enc2 0 0x01 2 (aReg d) 0 0 [])
  | .mqst d n => some (enc2 0 0x01 3 d (nReg n) 0 [])
  | .mma d s b => some (enc2 (0#3 ++ b) 0x02 0 (aReg d) (mReg s) 0 [])
  | .mmas d s b x => some (enc2 (x ++ b) 0x02 1 (aReg d) (mReg s) 0 [])
  | .mman d s b => some (enc2 (0#3 ++ b) 0x02 2 (aReg d) (mReg s) 0 [])
  | .ast d s t => some (enc2 0 0x03 0 (aReg d) s t [])
  | .ald d s t => some (enc2 0 0x03 1 (aReg d) s t [])
  | .amov d s row half => some (enc2 0 0x03 2 d (aReg s) 0 [rowBits row half])
  | .amovv d s row half => some (enc2 0 0x03 3 (aReg d) s 0 [rowBits row half])
  | .cpy put fe d s => some (enc3 (0#4 ++ BitVec.ofBool fe ++ BitVec.ofBool put) 0x00 0 d s)
  | .cpyx put fe d s => some (enc3 (0#4 ++ BitVec.ofBool fe ++ BitVec.ofBool put) 0x00 1 d s)
  | .cpyc d s => some (enc3 0 0x00 2 d s)
  | .cfill x m d s =>
    some (enc3 (0#3 ++ (match m with | .keep => 0#2 | .empty => 1#2 | .full => 2#2) ++ BitVec.ofBool x) 0x00 3 d s)
  | .gath d s => some (enc3 0 0x01 0 d s)
  | .scat d s => some (enc3 0 0x01 1 d s)
  | .echk r d s => some (enc3 (0#3 ++ r) 0x01 2 d s)
  | .coll d s => some (enc3 0 0x02 0 d s)
  | .cgrp d s => some (enc3 0 0x02 1 d s)
  | .cabt d s => some (enc3 0 0x02 2 d s)
  | .fadd o => some (o.enc 0 0x00 0)
  | .fsub o => some (o.enc 0 0x00 1)
  | .fmul o => some (o.enc 0 0x01 0)
  | .fdiv o => some (o.enc 0 0x01 1)
  | .fma dbl d s t m => some (encRR 4 0 0x02 (0#1 ++ BitVec.ofBool dbl) false d s t (fPxs m) [])
  | .fsqrt o => some (o.enc 0x02)
  | .fmin o => some (o.enc 0 0x03 0)
  | .fmax o => some (o.enc 0 0x03 1)
  | .fcmp c o => some (o.enc (match c with | .eq => 0 | .lt => 1 | .le => 2 | .un => 3) 0x04 0)
  | .fclass o => some (o.enc 0x04)
  | .fcvt k d s m => some (k.enc d s m)
  | _ => none

/-- The words of an instruction; none for a step that is no instruction of Zagyr. -/
def encode : Instr → Option (List IWord)
  | .nop => some [0x0000]
  | .mov o => some (o.enc 0)
  | .clz o => some (o.enc 1)
  | .ctz o => some (o.enc 2)
  | .popc o => some (o.enc 3)
  | .add o => some (o.enc 0x02 0 0)
  | .sub o => some (o.enc 0x02 1 0)
  | .and o => some (o.enc 0x02 2 0)
  | .or o => some (o.enc 0x02 3 0)
  | .xor o => some (o.enc 0x03 0 0)
  | .andn o => some (o.enc 0x03 1 0)
  | .min o => some (o.enc 0x03 2 0)
  | .max o => some (o.enc 0x03 3 0)
  | .minn o => some (o.enc 0x04 0 0)
  | .maxn o => some (o.enc 0x04 1 0)
  | .sel o => some (o.enc 0x04 2 0)
  | .shl o => some (o.enc 0x05 0 0)
  | .shra o => some (o.enc 0x05 1 0)
  | .shrl o => some (o.enc 0x05 2 0)
  | .rotl o => some (o.enc 0x05 3 0)
  | .mul o => some (o.enc 0x06 0 0)
  | .mulh o => some (o.enc 0x06 1 0)
  | .mulhn o => some (o.enc 0x06 2 0)
  | .div o => some (o.enc 0x07 0 0)
  | .divn o => some (o.enc 0x07 1 0)
  | .rem o => some (o.enc 0x07 2 0)
  | .remn o => some (o.enc 0x07 3 0)
  | .sext o => some (o.enc 0x08)
  | .zext o => some (o.enc 0x09)
  | .cmp c inv o => some (o.enc 0x0B c.bits (0#5 ++ BitVec.ofBool inv))
  | .addImm o => some (encRI 0x0C o.d o.i o.p)
  | .movImm o => some (encRI 0x0D o.d o.i o.p)
  | .extb o => some (o.enc 0)
  | .insb o => some (o.enc 1)
  | .lea o => some (encRR 0 0 0x0E o.f false o.d o.s o.t Pxs.none o.p)
  | .bnd d s len =>
    match len with
    | .size f => some (encRR 0 0 0x0F f false d s 0 Pxs.none [])
    | .imm p => some (encRR 0 0 0x0F 0 false d s 0 Pxs.none p)
  | .ld m q => some (m.enc 0x10 q.bits)
  | .st m rel => some (m.enc 0x11 (relBits rel))
  | .ldw m q => some (m.enc 0x12 q.bits)
  | .ldt m q => some (m.enc 0x13 q.bits)
  | .stf m rel => some (m.enc 0x14 (relBits rel))
  | .femarkEmpty d s => some (enc0 0x15 0 d s)
  | .femarkFull d s => some (enc0 0x15 1 d s)
  | .feq d s => some (enc0 0x15 2 d s)
  | .pftL1 s => some (enc0 0x16 0 0 s)
  | .pftL2 s => some (enc0 0x16 1 0 s)
  | .fence k c => some (encRI 0x17 0 (k.bits ++ c.bits) [])
  | .waitc ld st cp tl =>
    let n : BitVec 16 := ld ++ st ++ cp ++ tl
    some (encRI 0x18 0 (n.extractLsb' 0 6) (if n.extractLsb' 6 10 = 0 then [] else [n.extractLsb' 6 10]))
  | .tadd ty d s => some (enc0 0x19 ty.bits d s)
  | .tmax ty d s => some (enc0 0x1A ty.bits d s)
  | .tmin ty d s => some (enc0 0x1B ty.bits d s)
  | .tor d s => some (enc0 0x1C 0 d s)
  | .txor d s => some (enc0 0x1C 1 d s)
  | .tand d s => some (enc0 0x1C 2 d s)
  | .tpin s => some (enc0 0x1D 0 0 s)
  | .tunpin s => some (enc0 0x1D 1 0 s)
  | .tfetch s => some (enc0 0x1D 2 0 s)
  | .tevict d s => some (enc0 0x1D 3 d s)
  | .tstat d s => some (enc0 0x1E 0 d s)
  | .tsync d s => some (enc0 0x1E 1 d s)
  | .cinv d s => some (enc0 0x1E 2 d s)
  | .br i p => some (encJ 0x20 i p)
  | .call i p => some (encJ 0x21 i p)
  | .bc c s i p => some (chain 0 0 false 0 (hi2 s) 0 Pxs.none p ++ [0x22#6 ++ (lo4 s ++ c.bits ++ i)])
  | .bcmp c d s p => some (encRR 0 0 0x23 c.bits false d s 0 Pxs.none p)
  | .jmp s => some (enc0 0x24 0 0 s)
  | .callr s => some (enc0 0x24 1 0 s)
  | .ret => some (enc0 0x24 2 0 0)
  | .bqb sense i p => some (encJ 0x25 (BitVec.ofBool sense ++ i) p)
  | .crd d n => some (encCR 0x26 d n)
  | .cwr d n => some (encCR 0x27 d n)
  | .amo op w ord d s t => some (encRR 0 (atBits op.bits ord) 0x28 w.bits false d s t Pxs.none [])
  | .cas w64 ord d s t => some (encRR 0 (atBits 0 ord) 0x29 (0#1 ++ BitVec.ofBool w64) false d s t Pxs.none [])
  | .rupd op w ord s t => some (encRR 0 (atBits op.bits ord) 0x2A w.bits false 0 s t Pxs.none [])
  | .spawn n d s => some (enc0 0x2B n.bits d s)
  | .migr s t => some (encRR 0 0 0x2C 0 false 0 s t Pxs.none [])
  | .migrHome s => some (enc0 0x2C 1 0 s)
  | .migrPivot => some (enc0 0x2C 2 0 0)
  | .migrBack => some (enc0 0x2C 3 0 0)
  | .send d s t => some (encRR 0 0 0x2D 0 true d s t Pxs.none [])
  | .qbind d s => some (enc0 0x2D 1 d s)
  | .qstat d s => some (enc0 0x2D 2 d s)
  | .hbar d s => some (enc0 0x2E 0 d s)
  | .hwait s => some (enc0 0x2E 1 0 s)
  | .hstat d s => some (enc0 0x2E 2 d s)
  | .join i p => some (encJ 0x30 i p)
  | .detach => some (enc0 0x31 0 0 0)
  | .waitw s => some (enc0 0x31 1 0 s)
  | .halt => some (enc0 0x31 2 0 0)
  | .haltRetain s => some (encRR 0 1 0x31 2 false 0 s 0 Pxs.none [])
  | .trap s => some (enc0 0x31 3 0 s)
  | .rett d s => some (enc0 0x32 0 d s)
  | .sysc s => some (enc0 0x32 1 0 s)
  | .ctxs d s => some (enc0 0x32 2 d s)
  | .ctxl d s => some (enc0 0x32 3 d s)
  | .aown s => some (enc0 0x33 0 0 s)
  | .aspill u s => some (enc0 0x33 1 (nReg u) s)
  | .afill u s => some (enc0 0x33 2 (nReg u) s)
  | .slotx d s => some (enc0 0x33 3 d s)
  | .qdrain d s => some (enc0 0x34 0 d s)
  | .audw d s => some (enc0 0x34 1 d s)
  | i => encodeHi i

/-! ## The table's numbering -/

/-- The words of an instruction that the opcode table gives as one number. The table puts the base word, which is the
last word, in bits 15:0 and the prefix before it in bits 31:16. -/
def tableWords (nbits w : Nat) : List IWord :=
  if 16 < nbits ∧ (pfxRank (BitVec.ofNat 16 (w / 65536))).isSome then
    [BitVec.ofNat 16 (w / 65536), BitVec.ofNat 16 w]
  else [BitVec.ofNat 16 w, BitVec.ofNat 16 (w / 65536)]

/-- The instruction that the decoder reads from a row's word. -/
def decodeTableWord (nbits w : Nat) : Option Instr :=
  match decodeWords (tableWords nbits w) with
  | .ok r => some r.1
  | .error _ => none

end Sys2Proof
end

