-- ==== Sys2Proof/Config.lean ====
section
/-!
DEFINITION. What an implementation fixes and the values the manual leaves open. Every constant here
has no body: a statement about one holds for every value it may have.
-/

namespace Sys2Proof

/-- A permutation of the granule's values, for each key and granule. A free value (log 2). -/
opaque Config.cipherBase (k gran : Nat) : BitVec 128 ≃ BitVec 128

/-- The lowest bit turned over. -/
def flipLow : BitVec 128 ≃ BitVec 128 :=
  { toFun := fun x => x ^^^ 1, invFun := fun x => x ^^^ 1,
    left_inv := fun x => by simp, right_inv := fun x => by simp }

/-- The cipher of a channel (R52): the stored form of a plaintext in granule `gran` under key `k`. A permutation, because it is a cipher; under
no key is the stored form of zero zero, because a read of the stored form zero is not zero. -/
def Config.cipher (k gran : Nat) : BitVec 128 ≃ BitVec 128 :=
  if Config.cipherBase k gran 0 = 0 then (Config.cipherBase k gran).trans flipLow else Config.cipherBase k gran

/-- What a read of granule `gran` under key `k` returns when the stored form was written under another key `k'` from the plaintext `d` (R52:
the decryption of the stored form under the requester's key). -/
def Config.crossKey (k' k gran : Nat) (d : BitVec 128) : BitVec 128 := (Config.cipher k gran).symm (Config.cipher k' gran d)

/-- The decryption under key `k` of a granule whose stored form is zero (R52). -/
def Config.zeroForm (k gran : Nat) : BitVec 128 := (Config.cipher k gran).symm 0

/-- Data re-keyed and keyed back are the data (R52). -/
theorem Config.crossKey_back (k k' gran : Nat) (d : BitVec 128) :
    Config.crossKey k' k gran (Config.crossKey k k' gran d) = d := by
  simp [Config.crossKey]

/-- A read of the stored form zero is not zero (R52). -/
theorem Config.zeroForm_ne_zero (k gran : Nat) : Config.zeroForm k gran ≠ 0 := by
  intro h
  have e : Config.cipher k gran 0 = 0 := by
    rw [← h, Config.zeroForm, Equiv.apply_symm_apply]; exact h.symm
  unfold Config.cipher at e
  split at e
  · rename_i h0
    simp [flipLow] at e
    exact absurd (h0.symm.trans e) (by decide)
  · exact absurd e (by assumption)

/-- The seal key that the seal unit draws at reset number `n` (R372). A free value (log 3). -/
opaque Config.sealKey (n : Nat) : BitVec 256

/-- Whether the Falcon-1024 signature of a firmware image verifies under the fused key (R424). The
manual refers to the scheme and does not define it; a free value (log 4). -/
opaque Config.signatureOk (image : List (BitVec 8)) : Bool

/-- Whether boot's first step after reset `n` verifies the firmware image that the part was made with, while no update has replaced it (R423 step
1). A free value (log 4). -/
opaque Config.bootImageOk (n : Nat) : Bool

/-- A binary32 result of VEXP2 or VLOG2 (`op` 0 or 1) for input bits `x`, in the case that the interval
evaluation cannot decide the rounding of R208. A free value (log 5). -/
opaque Config.approxOpen (op : Nat) (x : BitVec 32) : BitVec 32

/-- The bytes of the sealed supervisor image that a firmware image carries for barrel, home and pivot cores (`kind` 0, 1, 2): its text, tables
and directory (R369, R423 step 3). The manual does not lay out the body of a firmware image; free values (log 6). -/
opaque Config.supervisorBytes (image : List (BitVec 8)) (kind : Nat) : List (BitVec 8)

/-- The base at which the firmware lays that image, and its number of fetchable bytes (R423 step 3). Free values (log 6). -/
opaque Config.supervisorPlace (image : List (BitVec 8)) (kind : Nat) : Nat × Nat

/-- `taddr` of the MEMERR that a use of the poisoned mask register `k`n raises (R364 names codes for `g` and `v` only). A
free value (log 9). -/
opaque Config.kCode (n : Nat) : BitVec 64

/-- What CRD reads of a control register (`l1mode`, `mgate`) that the home or pivot core `core` does not have (R63, R184 state none). A free value
(log 7). -/
opaque Config.absentReg (core num : Nat) : BitVec 64

/-- Byte `a` of main memory as a tile's arrival brings it, where the home of its line refuses the fetch under partition tag `part` (R79: the
granule is poisoned; its data are not stated). A free value (log 12). -/
opaque Config.refusedByte (part a : Nat) : BitVec 8

/-- The full/empty bit of granule `gran` that such an arrival brings. A free value (log 12). -/
opaque Config.refusedFull (part gran : Nat) : Bool

end Sys2Proof
end

