-- ==== Sys2Proof/Machine/State.lean ====
section
/-!
DEFINITION. The state of the device as plain data. Each field's comment gives the rule that names it and
its value at reset. A table (`Tbl`) lists only the entries that differ from the default its comment names.
-/

namespace Sys2Proof.Machine

/-- The two parts (R1, R7). -/
inductive Part where
  | x4 | c2
  deriving DecidableEq, Repr

/-- Why the machine stops with a fault. No move of this model ends in a fault: everything that goes wrong on
this device is a trap, a status or a record, which are next states. -/
inductive Fault where
  /-- Raised when the part is stopped by THERMAL_TRIP and no power-on reset is on the agenda (R426: "the part
  stops every core ... and holds until a power-on reset"). Safe: the machine does not go on. -/
  | thermalHold
  deriving DecidableEq, Repr

/-- Why a move has no meaning. -/
inductive Refusal where
  /-- Raised by `exec` for a row of the opcode table without a meaning. Safe: the machine does not go on. -/
  | notModelled (mnemonic : String)
  deriving DecidableEq, Repr

/-- Trap classes (R350). -/
inductive TrapClass where
  | illegal | confine | unsealed | revoked | accOwner | align | notPresent | port | format | memErr | soft
  | preempt | watch | spillQ
  deriving DecidableEq, Repr

/-- A trap record (R295, R350), with what RETT needs to resume the slot (R302). -/
structure TrapRec where
  /-- class (`tcause.class`) -/
  cls : TrapClass
  /-- trapped slot (`tslot.slot`); 15 for a core record -/
  slot : Nat
  /-- the trapped context (the model's own number) -/
  cid : Nat
  /-- the thread is away (`tslot.away`) -/
  away : Bool
  /-- `tpc` -/
  pc : Word
  /-- `taddr` -/
  addr : Word
  /-- `tinfo` -/
  info : Word
  /-- a late trap (R123): the slot resumes at the first instruction it has not issued -/
  late : Bool
  /-- an UNSEALED or REVOKED trap raised at a fetch (R302 action 3) -/
  fetch : Bool
  /-- the address after the instruction at `tpc`, for a precise trap -/
  next : Word
  /-- the cycle in which it entered the queue (R295) -/
  cyc : Nat
  deriving DecidableEq, Repr

/-- One message of a stream (R270): its sender and the words not yet popped. -/
structure Msg where
  core : Nat
  slot : Nat
  strm : Nat
  words : List Word
  deriving DecidableEq, Repr

/-- The outbound half of a stream (R270, R271). -/
structure OutHalf where
  bound : Bool
  core : Nat
  slot : Nat
  pstrm : Nat
  /-- allowance remaining -/
  allow : Nat
  /-- the word limit recorded at binding -/
  wlim : Nat
  deriving DecidableEq, Repr

/-- The inbound half of a stream (R270, R271). -/
structure InHalf where
  bound : Bool
  /-- buffer slots granted to each sender -/
  allow : Nat
  wlim : Nat
  /-- buffer slots granted in total -/
  granted : Nat
  msgs : List Msg
  deriving DecidableEq, Repr

/-- A stream of a slot (R270). -/
structure StreamSt where
  out : OutHalf
  inn : InHalf
  deriving DecidableEq, Repr

/-- The branch-outcome queue of a slot (R26, R271). -/
structure BqSt where
  /-- outbound half bound to another slot of the core -/
  bound : Bool
  slot : Nat
  /-- entries held, oldest first, at most 16 -/
  q : List Bool
  deriving DecidableEq, Repr

/-- Where the thread of a context is anchored (R259, R260). -/
inductive AnchorMode where
  | here | away | saved
  deriving DecidableEq, Repr

/-- What a context waits for that is not tried again in each turn (R277). -/
inductive Wait where
  | none
  /-- an entry of a home core's or a tile unit's wait list stands for it (R51, R88) -/
  | listed
  /-- its request was rejected and is reissued later (R51, R56) -/
  | rejected
  /-- a reply that completes the instruction (R121, R257) -/
  | reply
  /-- the reply to its bind request of number `n` (R271) -/
  | bind (n : Nat)
  /-- a task of the ring (R290); `pops` are popped when it is served (R28, R44) -/
  | serve (squad ring : Nat) (pops : List Reg)
  /-- it waits, detached, at JOIN `l` since cycle `since` (R287) -/
  | joinWait (l : Word) (since : Nat)
  /-- it is counted at JOIN `l` (R287) -/
  | joinCounted (l : Word)
  /-- its thread message is under way (R261) -/
  | moving
  /-- the slot is the anchor of the away thread `cid` (R259) -/
  | anchor (cid : Nat)
  /-- SYSC without ring room since device time `t0`; `pops` are popped when it ends (R301) -/
  | syscRoom (t0 : Nat) (pops : List Reg)
  /-- SYSC's reply (R301) -/
  | syscReply
  /-- a tile's arrival or departure (R77) -/
  | tile (squad tile : Nat)
  /-- TSYNC until the tile arrives; `d` receives the count of entries applied, and `pops` are popped (R137) -/
  | tsync (squad tile : Nat) (d : Reg) (pops : List Reg)
  /-- ended by RETT, until `ld` and `st` are 0 (R302) -/
  | ending
  /-- QDRAIN is back-pressured since cycle `since`, having delivered `n` messages (R309) -/
  | drain (since n : Nat)
  deriving DecidableEq, Repr

/-- The effective values of an RCB that a context latches (R335-R337). -/
structure RcbEff where
  tenant : Nat
  key : Nat
  prio : Nat
  mweight : Nat
  hslots : Nat
  sfloor : Nat
  scap : Nat
  bfloor : Nat
  bcap : Nat
  wlist : Nat
  uqueue : Nat
  fbytes : Nat
  fdom : Nat
  frec : Nat
  xtab : Nat
  xlen : Nat
  save : Nat
  deriving DecidableEq, Repr

/-- One context in a slot (R25, R29, R260, R296). -/
structure Ctx where
  /-- the slot holds a context. Reset: false; no slot holds a context until boot step 3 (R423) -/
  live : Bool
  /-- core on which the thread stands, `coreid` (R11, R185). Reset: 0 for an empty place -/
  core : Nat
  /-- slot that the thread occupies, `slotid` (R185). Reset: 0 for an empty place -/
  slot : Nat
  /-- the model's own number of the context. Reset: 0, none -/
  cid : Nat
  /-- address of the next instruction (R31). Reset: 0 in an empty place -/
  pc : Word
  /-- `next_pc` of the instruction being issued (R42); the step sets it. Reset: 0 in an empty place -/
  npc : Word
  /-- `g0`-`g63`, 64 bits each (R25). Reset: zero (R29) -/
  g : Vector Word 64
  /-- full bits of `g` (R27). Reset: all full (R29) -/
  gFull : BitVec 64
  /-- pending bits of `g` (R27). Reset: none -/
  gPend : BitVec 64
  /-- poisoned `g` registers (R364). Reset: none -/
  gPoison : BitVec 64
  /-- `v0`-`v31`, 512 bits each (R25). Reset: zero (R29) -/
  v : Vector VWord 32
  /-- full bits of `v` (R27). Reset: all full (R29) -/
  vFull : BitVec 32
  /-- pending bits of `v` (R27). Reset: none -/
  vPend : BitVec 32
  /-- poisoned `v` registers (R364). Reset: none -/
  vPoison : BitVec 32
  /-- `k0`-`k7`, 16 bits each (R25); `k0` reads as all ones (R26). Reset: all ones (R29) -/
  k : Vector (BitVec 16) 8
  /-- poisoned `k` registers, set by CTXL only (R364). Reset: none -/
  kPoison : BitVec 8
  /-- wait counter `ld`, 0-63 (R25, R121). Reset: 0 (R29) -/
  ld : Nat
  /-- wait counter `st`, 0-63 (R25, R121). Reset: 0 (R29) -/
  st : Nat
  /-- wait counter `cp`, 0-63 (R25, R96). Reset: 0 (R29) -/
  cp : Nat
  /-- wait counter `tl`, 0-63 (R25, R135, R219). Reset: 0 (R29) -/
  tl : Nat
  /-- engine command counter `cseq`, 32 bits (R96). Reset: 0 -/
  cseq : BitVec 32
  /-- instructions that it has issued: of two values the later is the greater (R236; the model's own count, which no CWR changes). Reset: 0 -/
  issues : Nat
  /-- `fcs`, 0x005 (R144). Reset: 0 -/
  fcs : Word
  /-- `ctrs`, 0x008: issued and parked (R185). Reset: 0 -/
  ctrs : Word
  /-- `tenid`, 0x004 (R185). Reset: set at dispatch -/
  tenid : BitVec 16
  /-- `ctxtag`, 0x003 (R185). Reset: set at dispatch -/
  ctxtag : BitVec 16
  /-- partition tag (R46, R260). Reset: set at dispatch -/
  ptag : Nat
  /-- key slot (R52, R260). Reset: set at dispatch -/
  key : Nat
  /-- address of the context's RCB (R260). Reset: set at dispatch -/
  rcb : Word
  /-- the RCB values latched at load (R337). Reset: set at dispatch -/
  eff : RcbEff
  /-- address of the context's own save area (R260, R355). Reset: set at dispatch -/
  save : Word
  /-- gang number, 0 for none (R281). Reset: 0 -/
  gang : BitVec 16
  /-- anchor core (R259, R260). Reset: the slot's own core -/
  anchorCore : Nat
  /-- anchor slot (R259, R260). Reset: the slot's own number -/
  anchorSlot : Nat
  /-- anchored here, away, or saved by MIGR to a pivot core (R259, R260). Reset: here -/
  anchorMode : AnchorMode
  /-- streams 0-3 (R270). Reset: unbound -/
  streams : Vector StreamSt 4
  /-- branch-outcome queue (R26). Reset: empty, unbound -/
  bq : BqSt
  /-- audit windows 0-3 in the layout of R310, two words each. Reset: not valid (R379) -/
  audw : Vector (Word × Word) 4
  /-- what the slot waits for (R277). Reset: none -/
  wait : Wait
  /-- its last turn was a bubble: the slot is parked (R277, R284). Reset: false -/
  bubbled : Bool
  /-- the decoded instruction in hand of a detached slot, by its address (R280). Reset: none -/
  inHand : Option Word
  /-- attached to its stream (R281, R283; `drift.att`). Reset: detached -/
  att : Bool
  /-- decoded instructions of its stream that an attached slot has consumed (R283). Reset: 0 -/
  consumed : Nat
  /-- entry of the image it was created from (R354 restarts slot 15 there). Reset: set at dispatch -/
  entry : Word
  /-- device time of its load (R348). Reset: set at dispatch -/
  loadedAt : Nat
  /-- the play instance it belongs to (R345), 0 for none. Reset: 0 -/
  inst : Nat
  /-- the first cycle in which it may issue: the slots that a rendezvous or a gang stage releases issue in one turn (R287, R342). Reset: 0 -/
  notBefore : Nat
  deriving DecidableEq, Repr

/-- What a request to an L2 slice asks for (R61, R65). -/
inductive SliceOp where
  /-- LD: destination, sign-extend -/
  | load (d : Reg) (sx : Bool)
  /-- VLD of 4 bytes for every lane: destination, mask (R215) -/
  | vbcast (d : Reg) (mask : BitVec 16)
  /-- one lane of VLD or VLDX: destination, sign-extend, lane of the value, lanes written, and whether the access writes every lane (R215, R216) -/
  | vloadx (d : Reg) (sx : Bool) (lane : Nat) (mask : BitVec 16) (all : Bool)
  /-- ST: data; the store that fires `fij` kind 2 (R186) -/
  | store (x : Word) (fij : Bool)
  /-- one lane of VST or VSTX: its value (R215, R216) -/
  | vstorex (x : BitVec 32)
  /-- PFT to the L1 (R130), or a lane whose instruction has trapped: nothing is returned -/
  | fetchOnly
  deriving DecidableEq, Repr

/-- A request on its way to, or in, the queue of an L2 slice (R61). -/
structure SliceReq where
  slice : Nat
  core : Nat
  cid : Nat
  op : SliceOp
  addr : Nat
  size : Nat
  key : Nat
  ptag : Nat
  tenid : BitVec 16
  /-- `tinfo.op` of R123 -/
  code : Nat
  pc : Word
  /-- the line is installed in the L1 of its core; false once a slot of the core issues a store to it (R314) -/
  fill : Bool
  /-- number shared by the lanes of one VLDX or VSTX, 0 for every other request -/
  tag : Nat
  /-- an LD `.acq`, whose slot waits for the reply (R125): whether its destination was full -/
  acq : Option Bool
  /-- its place in the order of issue (R61, R317) -/
  seq : Nat
  /-- its instruction has trapped already, which it does once at most (R351) -/
  quiet : Bool
  deriving DecidableEq, Repr

/-- What a request to a home core or tile unit does (R49, R51, R88, R128, R257, R267). -/
inductive HomeOp where
  | ldw (d : Reg) (sx acq : Bool)
  | ldt (d : Reg) (sx acq : Bool)
  | stf (x : Word)
  /-- the granules of one line, with the state to set (R128) -/
  | femark (n : Nat) (full : Bool)
  | feq (d : Reg)
  | amo (op : AtOp) (w : AtW) (acq : Bool) (d : Reg) (x : Word)
  | cas (w64 : Bool) (acq : Bool) (d : Reg) (e x : Word)
  | rupd (op : AtOp) (w : AtW) (x : Word)
  deriving DecidableEq, Repr

/-- A request at a home core or a tile unit, or an entry of a wait list. -/
structure HomeReq where
  core : Nat
  cid : Nat
  op : HomeOp
  addr : Nat
  size : Nat
  key : Nat
  ptag : Nat
  tenid : BitVec 16
  code : Nat
  pc : Word
  npc : Word
  /-- its place in the order of issue (R61, R317) -/
  seq : Nat
  /-- port registers that its instruction reads, popped when it is performed (R28, R44) -/
  pops : List Reg
  /-- number shared by the lines of one FEMARK, 0 for every other request -/
  tag : Nat
  /-- effective address of its instruction, which a trap shows (R123) -/
  ea : Nat
  /-- its instruction has trapped already, which it does once at most (R351) -/
  quiet : Bool
  /-- the destination was full before the request marked it pending (R27) -/
  wasFull : Bool
  deriving DecidableEq, Repr

/-- The value that a reply brings (R121), or why the access failed (R123). -/
inductive ReplyVal where
  | g (d : Reg) (x : Word)
  /-- `all`: with the other lanes of its instruction it writes the whole register -/
  | v (d : Reg) (mask : BitVec 16) (x : VWord) (all : Bool)
  /-- of a synchronous instruction, performed already, whose destination had no room: it goes on at `npc` with flags `fl`, and `acq`
  makes it an acquire (R43, R127) -/
  | done (d : Reg) (x : Word) (npc : Word) (fl : Word) (acq : Bool)
  | fail (cls : TrapClass) (why : Nat) (g v : Option Reg)
  deriving DecidableEq, Repr

/-- A load reply under way to its context (R121). -/
structure LoadRep where
  cid : Nat
  val : ReplyVal
  addr : Nat
  code : Nat
  pc : Word
  tag : Nat
  acq : Option Bool
  deriving DecidableEq, Repr

/-- A store acknowledgement under way, or its refusal (R121, R123). -/
structure StoreRep where
  cid : Nat
  fail : Option (TrapClass × Nat)
  addr : Nat
  code : Nat
  pc : Word
  tag : Nat
  /-- it counts as a write of its own in `st`, though it shares its number -/
  each : Bool
  deriving DecidableEq, Repr

/-- A line of an L1 (R62): its number, its 128 bytes, its tags and the cycle of its fill. -/
structure L1Line where
  line : Nat
  data : List Byte
  ptag : Nat
  key : Nat
  filled : Nat
  deriving DecidableEq, Repr

/-- A granule held dirty by a cache (R48, R58): its bytes and metadata. -/
structure CGran where
  data : Granule
  key : Option Nat
  full : Bool
  poison : Bool
  deriving DecidableEq, Repr

/-- The configuration of a tile register (R224). -/
structure MCfg where
  pair : Bool
  enc : Bool
  scl : Bool
  ew : BitVec 2
  cols : BitVec 8
  rows : BitVec 6
  deriving DecidableEq, Repr

/-- A tile register (R224). -/
structure MTile where
  /-- data plane, 2,048 bytes. Reset: zero (R230) -/
  data : Tbl Byte
  /-- scale plane, 512 bytes. Reset: zero (R230) -/
  scale : Tbl Byte
  /-- column record (R248), entry 128 r + k; unlisted: natural order, k div 32. Reset: natural order -/
  rcd : Tbl (BitVec 2)
  /-- configuration. Reset: zero (R231) -/
  cfg : MCfg
  /-- stored count per row set by MMETA, 0 otherwise (R253); 255: filled by AFILL, whose image does not hold the count (R308). Reset: 0 -/
  meta_ : Nat
  /-- byte count of an ECF8 load (R249), 0 for none; AFILL's image does not hold it (R308). Reset: 0 -/
  cnt : Nat
  /-- poisoned bytes (R361). Reset: none -/
  poison : List Nat
  deriving DecidableEq, Repr

/-- An accumulator (R25, R229): element (i, j) at 32 i + j. -/
structure Acc where
  /-- 1,024 elements of 32 bits. Reset: zero (R230) -/
  el : Tbl (BitVec 32)
  /-- poisoned elements (R361). Reset: none -/
  poison : List Nat
  deriving DecidableEq, Repr

/-- The owner state of a core in the matrix unit (R229). -/
structure MxState where
  /-- `m0`-`m7` (R224) -/
  m : Vector MTile 8
  /-- `a0`-`a3` (R229) -/
  a : Vector Acc 4
  /-- format context, 25 bits (R222). Reset: 0 -/
  fc : BitVec 32
  deriving DecidableEq, Repr

/-- A command of the matrix unit (R219, R239), with the values read at issue. -/
inductive MOp where
  | mcfg (d : BitVec 3) (v : Word)
  | mfmt (v : BitVec 32)
  | mperm (n : BitVec 4) (a : Nat)
  | mmeta (c : MetaCnt) (d : BitVec 3) (a : Nat)
  | mld (sc : Bool) (d : BitVec 3) (a : Nat) (stride : Option Nat)
  | mldc (d : BitVec 3) (a n : Nat)
  | mzero (d : BitVec 2)
  | mqst (d : Reg) (sel : BitVec 4)
  | mma (d : BitVec 2) (s b : BitVec 3)
  | mmas (d : BitVec 2) (s b x : BitVec 3)
  | mman (d : BitVec 2) (s b : BitVec 3)
  | ast (d : BitVec 2) (a : Nat) (stride : Option Nat)
  | ald (d : BitVec 2) (a : Nat) (stride : Option Nat)
  | amov (d : Reg) (s : BitVec 2) (row : BitVec 5) (half : Bool)
  | amovv (d : BitVec 2) (x : VWord) (row : BitVec 5) (half : Bool)
  deriving DecidableEq, Repr

/-- A queued matrix command (R219). -/
structure MCmd where
  op : MOp
  cid : Nat
  tenid : BitVec 16
  ptag : Nat
  pc : Word
  /-- instructions the context had issued when this one issued: `late` compares with it (R236) -/
  issued : Nat
  /-- the scoreboard number of a memory command (R103, R241) -/
  sb : Option Nat
  /-- the budget has made it ineligible and counted it (R234) -/
  counted : Bool
  /-- the permutation table as it stands when the command starts (R246) -/
  tab : Tbl (BitVec 7) × BitVec 16
  /-- tiles that it holds (R90, R242) -/
  holds : List Nat
  deriving DecidableEq, Repr

/-- Per-core state (R25, R62, R229, R279, R352). -/
structure CoreSt where
  /-- `l1mode`, 0x00C (R63). Reset: 0b01 -/
  l1mode : Word
  /-- lines of the L1 (R62). Reset: none -/
  l1 : List L1Line
  /-- `aown`, 0x00A (R185). Reset: 0 -/
  aown : Word
  /-- owner state (R229). Reset: zero -/
  mx : MxState
  /-- command queue, oldest first, at most 16 (R219). Reset: empty -/
  mq : List MCmd
  /-- the head command has been given its turn (R221). Reset: false -/
  mrun : Bool
  /-- trap queue, oldest first, at most 15 (R279). Reset: empty -/
  trapQ : List TrapRec
  /-- records that its slots hold, oldest first (R351). Reset: none -/
  held : List TrapRec
  /-- PREEMPT record (R352). Reset: none -/
  preempt : Option TrapRec
  /-- SPILLQ record (R352). Reset: none -/
  spill : Option TrapRec
  /-- device time and done granule of the last pre-emption message, and whether it has been found late (R353). Reset: none -/
  preemptAt : Option (Nat × Nat × Bool)
  /-- `spqa`, the diversion queue's control block (R355). Reset: DESIGN CHOICE 0 -/
  spqa : Word
  /-- the routers divert the core's inbound messages (R261). Reset: false -/
  diverted : Bool
  /-- cycle since which a thread message has been back-pressured without a break (R261). Reset: none -/
  pressed : Option Nat
  /-- RCB named by HALT.retain (R292). Reset: none -/
  retain : Option Nat
  /-- the bank group is in retention (R69). Reset: false -/
  retention : Bool
  /-- device time of the last supervisor fault (R354). Reset: none -/
  supFault : Option Nat
  /-- nothing is placed on the core before a reset (R354). Reset: false -/
  barred : Bool
  deriving DecidableEq, Repr

/-- An entry of a tile's pending-operation log (R81). -/
structure LogEnt where
  /-- index of the entry in the log memory -/
  idx : Nat
  gran : Nat
  ty : Nat
  op : Nat
  mask : BitVec 16
  seq : BitVec 32
  data : Granule
  whole : Bool
  poison : Bool
  deriving DecidableEq, Repr

/-- Residency state of a tile (R75). -/
inductive TileSt where
  | absent | arriving | resident | leaving
  deriving DecidableEq, Repr

/-- The residency entry of a tile (R75). -/
structure TileEnt where
  /-- Reset: ABSENT -/
  st : TileSt
  /-- frame; meaningful outside ABSENT. Reset: 0 -/
  frame : Nat
  /-- a frame has been claimed for the arrival (R78). Reset: false -/
  framed : Bool
  /-- pin count, 0-255. Reset: 0 -/
  pins : Nat
  /-- owner tenant, 0 unassigned. Reset: 0 -/
  owner : Nat
  /-- pins suspended. Reset: false -/
  sus : Bool
  /-- the log in append order; `count` is its length. Reset: empty -/
  log : List LogEnt
  /-- value of `head` while the log is empty (R75: meaningless). Reset: 0 -/
  head : Nat
  /-- cycle of the last access (R78). Reset: 0 -/
  last : Nat
  /-- contexts whose `tl` falls when the tile is RESIDENT (R135). Reset: none -/
  tlRes : List Nat
  /-- contexts whose `tl` falls when the tile is ABSENT (R135). Reset: none -/
  tlAbs : List Nat
  /-- number of engine and matrix commands that hold the tile (R90). Reset: 0 -/
  holds : Nat
  /-- every granule arrives poisoned at the next fetch (R361). Reset: false -/
  lost : Bool
  deriving DecidableEq, Repr

/-- A permutation table (R227): entries that differ from the identity, and the writer tag. -/
structure PermTab where
  ent : Tbl (BitVec 7)
  tag : BitVec 16
  deriving DecidableEq, Repr

/-- A huddle barrier (R274). -/
structure Barrier where
  mask : BitVec 8
  c : BitVec 16
  leads : Vector (BitVec 2) 8
  deriving DecidableEq, Repr

/-- State of a stream (R287). -/
inductive FeState where
  | run | joinWait (l : Word) | idle
  deriving DecidableEq, Repr

/-- A stream of the squad's front end (R280-R287). -/
structure FeStream where
  st : FeState
  /-- instructions decoded so far (R283) -/
  decoded : Nat
  /-- address of the next instruction to decode -/
  next : Word
  /-- a branch or JOIN has been decoded and not resolved (R285) -/
  held : Bool
  /-- addresses of the newest decoded instructions, at most 32, oldest first (R283) -/
  buf : List Word
  /-- the gang and the image entry that its members share (R281), none while it has none -/
  who : Option (BitVec 16 × Word)
  /-- cycle in which a drift stall of the leading slot began (R284) -/
  stallSince : Option Nat
  /-- cycle in which an attached slot consumed last, and the most that any had consumed before that cycle (R276, R283). Reset: none -/
  lead : Option (Nat × Nat)
  deriving DecidableEq, Repr

/-- A task ring of the serve unit (R289). -/
structure TaskRing where
  srcfg : Word
  head : BitVec 16
  tail : BitVec 16
  /-- contexts that wait, longest first (R290) -/
  waiters : List Nat
  deriving DecidableEq, Repr

/-- What an engine command is (R93, R109-R116). -/
inductive EngOp where
  | cpy (put fe : Bool)
  | cpyx (put fe : Bool)
  | cpyc
  | cfill (x : Bool) (m : FillMark)
  | gath
  | scat
  | echk (rights : BitVec 3)
  | coll
  | cgrp
  | cabt
  /-- the scoreboard entry of a matrix memory command (R103) -/
  | matrix (wr : Bool)
  deriving DecidableEq, Repr

/-- The state of an engine command (R104). -/
inductive EngSt where
  | accepted | running | completing
  deriving DecidableEq, Repr

/-- The extent entry that a command was checked against (R98, R100). -/
structure Extent where
  base : Nat
  len : Nat
  gen : Nat
  rights : BitVec 3
  key : Nat
  node : Nat
  deriving DecidableEq, Repr

/-- A part of a transfer: its place, local address, extent offset and length (R102). Of a CPYC, `off` is the source's local address. -/
structure Piece where
  pos : Nat
  loc : Nat
  off : Nat
  n : Nat
  deriving DecidableEq, Repr

/-- An engine command (R94-R108), or the scoreboard entry of a matrix command. -/
structure Cmd where
  id : Nat
  squad : Nat
  op : EngOp
  desc : List Word
  cseq : BitVec 32
  ca : Nat
  d : Reg
  cid : Nat
  core : Nat
  tenid : BitVec 16
  ptag : Nat
  key : Nat
  xtab : Nat
  xlen : Nat
  rcb : Word
  ctxtag : BitVec 16
  st : EngSt
  /-- local ranges of the scoreboard: address, length, write (R103) -/
  ranges : List (Nat × Nat × Bool)
  /-- takes one of the 64 scoreboard entries -/
  entry : Bool
  ext : Option Extent
  xent : Option Nat
  status : Nat
  bytes : Nat
  part : Bool
  detail : BitVec 32
  /-- tiles held (R90) -/
  holds : List Nat
  /-- the issuer has ended (R108) -/
  orphan : Bool
  /-- place of its completion FEMARK in the order of issue, 0 for none (R96) -/
  fem : Nat
  /-- rows of the transfer that have been cut into pieces, and the pieces of the last of them not yet moved (R102, R104) -/
  row : Nat
  left : List Piece
  /-- a remote command has made its packets (R409) -/
  made : Bool
  /-- remote packets not yet sent, each with the place in the transfer and the length of its data (R407) -/
  todo : List (Nat × Nat × Packet)
  /-- flits of the first of them that the fabric budget has let through (R407) -/
  paid : Nat
  /-- remote packets not yet answered, by `pseq`, each with the place in the transfer and the length of its data (R409) -/
  pend : List (BitVec 32 × Nat × Nat)
  /-- answered parts of the transfer: place, length, data read and full/empty bits -/
  got : List (Nat × Nat × List Byte × BitVec 32)
  /-- the first refusal of a remote packet: status and place -/
  bad : Option (Nat × Nat)
  /-- device time of its start -/
  t0 : Nat
  deriving DecidableEq, Repr

/-- Per-squad state. -/
structure SquadSt where
  /-- `tlcap`, 0x00B (R74). Reset: 64 -/
  tlcap : Word
  /-- `mgate`, 0x00D (R185). Reset: 2,048 -/
  mgate : Word
  /-- `tbase` (R73). Reset: 0 -/
  tbase : Word
  /-- `townc`: `refused`, `tenant`, `tile` (R73). Reset: 0 -/
  townc : Word
  /-- `tlfetch.forced` (R73). Reset: 0 -/
  forced : BitVec 32
  /-- `tlfetch.rejects` (R73). Reset: 0 -/
  rejects : BitVec 32
  /-- residency entries (R75). Reset: ABSENT, owner 0 -/
  tiles : Tbl TileEnt
  /-- sequence counter of the log (R82). Reset: DESIGN CHOICE 0 -/
  seq : BitVec 32
  /-- tile wait list, oldest first, at most 256 (R88). Reset: empty -/
  twait : List HomeReq
  /-- permutation tables (R227). Reset: identity, writer tag 0 -/
  perms : Tbl PermTab
  /-- huddle barriers (R274). Reset: mask, C and leads 0 -/
  bars : Tbl Barrier
  /-- streams of the front end (R280). Reset: IDLE, none decoded -/
  fe : Tbl FeStream
  /-- place (16 core + slot) last served by the private-fetch path (R280). Reset: DESIGN CHOICE 0 -/
  pfLast : Nat
  /-- cycle from which the private-fetch path can deliver again (R280). Reset: 0 -/
  pfFree : Nat
  /-- task rings (R289). Reset: 0 -/
  rings : Tbl TaskRing
  /-- `mbudget.units` (R234). Reset: 0x0010_0000 -/
  mbudget : BitVec 32
  /-- `mbstat.deferred` (R234). Reset: 0 -/
  deferred : BitVec 32
  /-- `mbstat.used` (R234). Reset: 0 -/
  mused : BitVec 32
  /-- number of the 10 µs period of device time whose budget it has (R233). Reset: 0 -/
  mperiod : Nat
  /-- credits of the arbitration (R221), by core. Reset: DESIGN CHOICE 0, so that a round starts -/
  credit : Tbl Nat
  /-- core last served by the matrix unit (R221). Reset: DESIGN CHOICE 7 -/
  served : Nat
  /-- cycle since which every queue is empty (R235). Reset: 0 -/
  mIdle : Nat
  /-- the sub-arrays are gated (R235). Reset: false -/
  gated : Bool
  /-- a command waits for the wake delay (R235). Reset: false -/
  waking : Bool
  /-- engine commands and scoreboard entries, oldest first (R103, R104). Reset: none -/
  cmds : List Cmd
  /-- extent cache of 256 entries, oldest first: the address of an entry and its four words (R10, R100). Reset: empty -/
  xcache : List (Nat × List Word)
  deriving DecidableEq, Repr

/-- The snapshot state of a channel (R47, R54). -/
inductive SnapSt where
  | off | armed | active | overflow
  deriving DecidableEq, Repr

/-- Per-channel state (R45-R57). -/
structure ChanSt where
  /-- `chown.own` (R47). Reset: false -/
  own : Bool
  /-- `chown.part` (R47). Reset: 0 -/
  part : Nat
  /-- `snapt` (R47). Reset: 0 -/
  snapt : Word
  /-- `snapc.abase` (R47). Reset: 0 -/
  abase : Nat
  /-- `snapc.alen` (R47). Reset: 0 -/
  alen : Nat
  /-- `snapc.state` (R47). Reset: OFF -/
  snap : SnapSt
  /-- pages of the bitmap (R54). Reset: none -/
  bitmap : List Nat
  /-- copies made: page, and its bytes with full/empty, poison and key bits (R54, R55). Reset: none -/
  copies : List (Nat × List (Nat × CGran × Bool × Bool))
  /-- `snapn.copies` (R47). Reset: 0 -/
  ncopies : Nat
  /-- a page is being copied (R54). Reset: none -/
  copying : Option Nat
  /-- `wlstat.rejects` (R47). Reset: 0 -/
  rejects : BitVec 32
  /-- wait list, oldest first, at most 1,024 (R51). Reset: empty -/
  wlist : List HomeReq
  /-- requests under way to the home core, oldest first (R128, R257). Reset: none -/
  hq : List HomeReq
  /-- RUPD update queue, oldest first, at most 32 (R267). Reset: empty -/
  uq : List HomeReq
  deriving DecidableEq, Repr

/-- A host-window descriptor (R389). Reset: 0. -/
structure HostWin where
  w0 : Word
  w1 : Word
  w2 : Word
  deriving DecidableEq, Repr

/-- State of a user queue (R390). -/
inductive QSt where
  | idle | active | error
  deriving DecidableEq, Repr

/-- A command of a queue that has been accepted and not retired (R391, R394). -/
structure QCmd where
  op : Nat
  seq : Word
  arg : Word
  done : Bool
  dup : Bool
  status : Nat
  inst : Nat
  deriving DecidableEq, Repr

/-- The working copy of a queue control block (R390) with the commands in hand. -/
structure Qcb where
  rbase : Nat
  cbase : Nat
  lsize : Nat
  prio : Nat
  st : QSt
  npe : Bool
  pend : Bool
  hslot : Nat
  mapped : Bool
  tenant : Nat
  irq : Nat
  inot : Bool
  rcb : Nat
  tail : BitVec 32
  accept : BitVec 32
  retire : BitVec 32
  chead : BitVec 32
  nseq : Word
  since : Nat
  npeend : Nat
  erec : Nat
  /-- device time at which it was mapped (R397) -/
  mappedAt : Nat
  /-- the entry read and not yet dispatched to its command's row -/
  cmds : List QCmd
  deriving DecidableEq, Repr

/-- A stage of a play (R338). -/
structure StageEnt where
  image : Nat
  count : Nat
  gang : Bool
  port : Nat
  allow : Nat
  wlim : Nat
  srcb : Nat
  arg : Word
  deriving DecidableEq, Repr

/-- A play instance in the kickoff (R338-R349). -/
structure PlayInst where
  n : Nat
  /-- place of its play in the order of acceptance (R347) -/
  acc : Nat
  part : Nat
  rcb : Nat
  t : Nat
  period : Nat
  window : Nat
  policy : Nat
  patience : Nat
  waits : List Nat
  lrec : Nat
  drec : Nat
  stages : List StageEnt
  k : Nat
  /-- eligible since (R344) -/
  elig : Option Nat
  /-- records LATE when released (R344) -/
  late : Bool
  released : Bool
  dropped : Bool
  /-- source release time minus launch time; 0 while its source is not released (R345) -/
  relT : Nat
  /-- contexts not yet halted -/
  alive : Nat
  /-- squads of its drain set (R349) -/
  drain : List Nat
  drainAt : Option Nat
  /-- the queue command that submitted it (R391) -/
  byQueue : Option (Nat × Nat × Word)
  /-- places reserved, by stage: core and slot of each context (R340); empty while it is not placed -/
  cells : List (List (Nat × Nat))
  /-- stages not yet released (R342) -/
  left : Nat
  /-- the next instance of the play has been made (R344) -/
  spawned : Bool
  prio : Nat
  deriving DecidableEq, Repr

/-- A syscall ring entry (R301, R401). -/
structure SysReq where
  svc : Nat
  args : List Word
  cid : Nat
  tenid : BitVec 16
  ctxtag : BitVec 16
  /-- the address after the SYSC, where the context goes on -/
  npc : Word
  xtab : Nat
  xlen : Nat
  deriving DecidableEq, Repr

/-- State of a group entry (R411). -/
inductive GrpSt where
  | none | forming | formed | broken | lost
  deriving DecidableEq, Repr

/-- A collective running on a group (R413), with the Rally engine's staging memory. -/
structure CollRun where
  /-- the command -/
  id : Nat
  /-- its number among the collectives of its generation -/
  idx : Nat
  /-- the step under way, from 1; 0 before the buffer has been read -/
  step : Nat
  /-- the data of the step has arrived, or none is due -/
  got : Bool
  /-- the data sent in the step has been acknowledged, or none was due -/
  acked : Bool
  /-- flits of the step's data that the fabric budget has not yet let through (R407) -/
  owed : Nat
  /-- device time at which the step began -/
  t0 : Nat
  /-- elements of the buffer as read -/
  x : List (BitVec 32)
  /-- partial sums -/
  acc : List (BitVec 32)
  /-- final values -/
  res : List (BitVec 32)
  deriving DecidableEq, Repr

/-- A group entry and what its Rally engine keeps for it (R411-R414). -/
structure Group where
  gen : BitVec 16
  st : GrpSt
  members : Nat
  rank : Nat
  dline : Nat
  stale : BitVec 32
  list : Nat
  nodes : List Nat
  lcrc : BitVec 32
  bstat : Nat
  brank : Nat
  outPort : Nat
  inPort : Nat
  /-- ranks whose JOIN has arrived -/
  joined : List Nat
  /-- the CGRP command that waits -/
  cmd : Option Nat
  /-- that command has sent its JOINs (R412) -/
  begun : Bool
  t0 : Nat
  /-- JOIN and ABORT packets of a generation above the current one, with their arrival (R412, R414) -/
  heldPk : List (Packet × Nat)
  /-- an ABORT kept while FORMING (R414): the sender's rank -/
  abortKept : Option Nat
  /-- collectives running -/
  colls : List CollRun
  /-- collectives started in this generation -/
  ncoll : Nat
  /-- data of steps not yet begun -/
  inbox : List Packet
  deriving DecidableEq, Repr

/-- TDISP states (R399). -/
inductive TdiSt where
  | unlocked | locked | run | error
  deriving DecidableEq, Repr

/-- State of a partition (R419). -/
inductive PartState where
  | free | active | draining
  deriving DecidableEq, Repr

/-- Per-partition state. -/
structure PartSt where
  /-- `pchan` (R419). Reset: 0 -/
  pchan : Word
  /-- `psqd` (R419). Reset: 0 -/
  psqd : Word
  /-- `pqslot` (R419). Reset: 0 -/
  pqslot : Word
  /-- `prcb` (R419). Reset: 0 -/
  prcb : Word
  /-- `pstate` (R419). Reset: FREE -/
  pstate : PartState
  /-- VF p + 1 is enabled (R420). Reset: DESIGN CHOICE false -/
  vf : Bool
  /-- `scpart.audit` (R374). Reset: 0 -/
  audit : Bool
  /-- `kcfg` (R346). Reset: slice 1,000, drain 1,000, pat 100, age 100 -/
  kcfg : Word
  /-- `kstat` (R346). Reset: 0 -/
  kstat : Word
  /-- slice boundaries at which the kickoff has rotated (R348). Reset: 0 -/
  slices : Nat
  /-- syscall ring base (R401). Reset: DESIGN CHOICE 0 -/
  sysBase : Nat
  /-- syscall ring `lsize` (R401). Reset: DESIGN CHOICE 0 -/
  sysLsize : Nat
  /-- syscall ring `head` and `tail` (R401). Reset: DESIGN CHOICE 0 -/
  sysHead : BitVec 32
  sysTail : BitVec 32
  /-- syscall entries not yet answered, oldest first (R401). Reset: none -/
  sys : List SysReq
  /-- host-window descriptors (R389). Reset: 0 -/
  wins : Tbl HostWin
  /-- queue table (R390). Reset: DESIGN CHOICE 0 -/
  qtab : Tbl Word
  /-- working copies of queue control blocks (R390, R398). Reset: none -/
  qs : Tbl Qcb
  /-- TDISP state of VF p + 1 (R399). Reset: CONFIG_UNLOCKED -/
  tdi : TdiSt
  deriving DecidableEq, Repr

/-- State of a seal-table entry (R373). -/
inductive SealSt where
  | free | sealing | live | revoking | revoked
  deriving DecidableEq, Repr

/-- A seal-table entry (R373). Reset: FREE, every field 0. -/
structure SealEnt where
  base : Nat
  len : Nat
  flen : Nat
  sgen : BitVec 32
  st : SealSt
  sup : Bool
  tenant : BitVec 16
  tgen : BitVec 32
  digest : BitVec 256
  deriving DecidableEq, Repr

/-- The seal unit (R373-R375). -/
structure SealUnit where
  /-- seal table of 4,096 entries (R373). Reset: FREE -/
  tab : Tbl SealEnt
  /-- `scdesc` (R374). Reset: 0 -/
  scdesc : Word
  /-- `sccmd` (R374). Reset: 0 -/
  sccmd : Word
  /-- `scstat.sgen` (R374). Reset: 0 -/
  lastGen : BitVec 32
  /-- `scstat.result` (R374). Reset: 0 -/
  result : Nat
  /-- `scstat.busy` (R374). Reset: false -/
  busy : Bool
  /-- next seal generation (R374). Reset: 1 -/
  nextGen : BitVec 32
  /-- barred translator generations, at most 64 (R374). Reset: none -/
  barred : List (BitVec 32)
  /-- floor of barred generations (R374). Reset: absent -/
  floor : Option (BitVec 32)
  /-- number of the reset that drew the key (R372). Reset: DESIGN CHOICE 0 -/
  keyNo : Nat
  /-- days of device time in which the seals have been recomputed (R375). Reset: DESIGN CHOICE 0 -/
  days : Nat
  deriving DecidableEq, Repr

/-- How far the compaction agent has come in R382: the step that it does next. -/
inductive CompactSt where
  /-- step 1: pause -/
  | pause
  /-- steps 2 and 3: save areas quiet, tiles ABSENT -/
  | quiet
  /-- steps 4 and 5: host windows and extents -/
  | rebase
  /-- steps 6 and 7: copy, relocate, SEAL -/
  | copy
  /-- step 8: REVOKE of the old entry -/
  | revoke
  /-- steps 8 to 10: FREE, scrub, save areas, contexts loaded again -/
  | finish
  deriving DecidableEq, Repr

/-- A compaction (R382). -/
structure Compact where
  part : Nat
  tenant : Nat
  /-- seal-table entry of the old image -/
  old : Nat
  /-- free seal-table entry for the new one -/
  new : Nat
  /-- Δr -/
  dr : Int
  /-- Δi -/
  di : Int
  /-- where Islys lays the new seal descriptor -/
  desc : Nat
  /-- contexts that the pause leaves out -/
  keep : List Nat
  st : CompactSt
  deriving DecidableEq, Repr

/-- State of a link port (R404). -/
inductive LinkState where
  | down | training | up | failed
  deriving DecidableEq, Repr

/-- A Ligrim Link port (R404, R405). -/
structure Link where
  /-- `lstat.state`. Reset: DOWN -/
  st : LinkState
  /-- `lstat.pnode`. Reset: 0 -/
  pnode : Nat
  /-- `lstat.pport`. Reset: 0 -/
  pport : Nat
  /-- `lcnt.replays`. Reset: 0 -/
  replays : BitVec 32
  /-- `lcnt.discards`. Reset: 0 -/
  discards : BitVec 32
  /-- next `lseq` expected from the peer (R405). Reset: DESIGN CHOICE 0 -/
  rx : BitVec 12
  /-- `lseq` of the oldest flit sent that the peer has not acknowledged (R405). Reset: DESIGN CHOICE 0 -/
  tx : BitVec 12
  /-- flits sent and not yet acknowledged, oldest first, kept for their replay: `lkind` and payload (R405). Reset: none -/
  out : List (BitVec 4 × List Byte)
  /-- flits put on the wire, replays included, newest last (R405). Reset: none -/
  wire : List Flit
  /-- replays of the oldest flit since an acknowledgement came (R404). Reset: 0 -/
  streak : Nat
  /-- device time of the last flit received while UP (R404). Reset: 0 -/
  heard : Nat
  /-- payloads of the packet that is being received (R406). Reset: none -/
  inb : List (List Byte)
  /-- receive buffers the peer has returned (R405). Reset: 0 -/
  credit : Nat
  /-- acknowledgements and replay requests sent (R405): `lseq`, good. Reset: none -/
  acks : List (BitVec 12 × Bool)
  deriving DecidableEq, Repr

/-- The fabric unit (R404-R410). -/
structure Fabric where
  /-- link ports. Reset: DOWN, every field 0 -/
  links : Tbl Link
  /-- `lnode.ldead` (R404). Reset: 2,000 -/
  ldead : Nat
  /-- `lnode.node` (R404). Reset: 0 -/
  node : Nat
  /-- `lroute` (R404): the register of a node. Reset: 0 -/
  lroute : Tbl Nat
  /-- `lpmap` (R404): the register of entry 32 n + p. Reset: 0 -/
  lpmap : Tbl Nat
  /-- packets sent, newest last, with the port each left on (R406). Reset: none -/
  sent : List (Nat × Packet)
  /-- packets that flits have brought and that have not been taken up, oldest first (R405, R406). Reset: none -/
  arrived : List Packet
  /-- next `pseq` to each destination (R409), kept by a part reset. Power-on reset: cleared, 0 -/
  pseqTx : Tbl (BitVec 32)
  /-- highest `pseq` performed from each source (R409), kept by a part reset. Power-on reset: cleared -/
  pseqRx : Tbl (BitVec 32)
  /-- reply caches by source (R410), kept by a part reset. Power-on reset: cleared -/
  cache : Tbl (List (BitVec 32 × BitVec 32))
  /-- unanswered requests of this device (R409, R410), kept by a part reset. Power-on reset: cleared -/
  unanswered : List Packet
  /-- old values recorded from ATOMIC_REPLY (R410). Power-on reset: cleared -/
  recorded : List (Nat × BitVec 32 × BitVec 32)
  /-- group entries, 256 per partition (R411), kept by a part reset. Power-on reset: cleared -/
  groups : Tbl Group
  /-- fabric flits of the period, by tenant (R407). Reset: 0 -/
  used : Tbl Nat
  deriving DecidableEq, Repr

/-- State of an interrupt routing entry (R359). -/
inductive IrqSt where
  | idle | devWait | device | host
  deriving DecidableEq, Repr

/-- An interrupt routing entry (R359). -/
structure Irq where
  /-- `irte` (R359). Reset: 0 -/
  irte : Word
  /-- `istat.events` (R359). Reset: 0 -/
  events : BitVec 32
  /-- `istat.state` (R359). Reset: IDLE -/
  st : IrqSt
  /-- start of the DEVWAIT timer (R360). Reset: 0 -/
  t0 : Nat
  deriving DecidableEq, Repr

/-- A thread message under way (R260). -/
structure ThreadMsg where
  ctx : Ctx
  core : Nat
  slot : Option Nat
  fromCore : Nat
  fromSlot : Nat
  dest : Word
  /-- SPAWN: the parent's cid -/
  parent : Option Nat
  /-- automatic return or `migr.back` -/
  back : Bool
  code : Nat
  pc : Word
  rejected : Bool
  /-- port registers that its instruction reads, popped at the source when a slot is claimed (R28, R44, R261) -/
  pops : List Reg
  deriving DecidableEq, Repr

/-- A register fill under way (R272). -/
structure FillMsg where
  core : Nat
  slot : Nat
  x : Reg
  val : Word
  sender : Nat
  fromCore : Nat
  fromSlot : Nat
  tenid : BitVec 16
  addr : Word
  pc : Word
  deriving DecidableEq, Repr

/-- A stream message under way (R270). -/
structure StreamMsg where
  core : Nat
  slot : Nat
  k : Nat
  msg : Msg
  tenid : BitVec 16
  /-- the sending context and instruction (R263) -/
  sender : Nat
  pc : Word
  deriving DecidableEq, Repr

/-- A message held by a spill queue (R355). -/
inductive Spilled where
  | thread (m : ThreadMsg)
  | stream (m : StreamMsg)
  | fill (m : FillMsg)
  /-- words of an inbound stream that CTXS has appended -/
  | words (k : Nat) (m : Msg)
  deriving DecidableEq, Repr

/-- An entry of a spill queue: the queue's control block, its index `n`, the target's core, slot and context tag, and the message (R355). -/
structure SpillEnt where
  block : Nat
  n : Nat
  core : Nat
  slot : Nat
  tag : BitVec 16
  msg : Spilled
  deriving DecidableEq, Repr

/-- A writer that waits for room in a spill queue (R356): the save of a context, or a message under way. -/
inductive SpillWriter where
  | save (cid : Nat)
  | message (m : Spilled)
  deriving DecidableEq, Repr

/-- A bind request under way, and its reply (R271): the grant and word limit, or the PORT cause. -/
structure BindMsg where
  cid : Nat
  k : Nat
  core : Nat
  slot : Nat
  pstrm : Nat
  tenid : BitVec 16
  pc : Word
  npc : Word
  /-- its number; a slot that has been saved meanwhile waits for no reply -/
  seq : Nat
  /-- port registers that QBIND reads, popped when it completes (R28, R44) -/
  pops : List Reg
  reply : Option (Nat × Nat × Nat)
  deriving DecidableEq, Repr

/-- An interface report (R399): of a VF, its first channel and their number, key slots, queue-table entries and interrupt entries. -/
structure TdiReport where
  vf : Nat
  chan0 : Nat
  chans : Nat
  keys : List Nat
  queues : List (Nat × Word)
  irtes : List (Nat × Word)
  deriving DecidableEq, Repr

/-- The management semaphore (R387). -/
structure Sema where
  /-- lease in ms at `t0`; `sema.lease` shows what is left of it. Reset: 0 -/
  lease : Nat
  /-- holder. Reset: 0, none -/
  holder : BitVec 2
  /-- held. Reset: 0 -/
  busy : Bool
  /-- `semrej.count`. Reset: 0 -/
  rej : BitVec 32
  /-- device time at which the lease began (R387). Reset: 0 -/
  t0 : Nat
  deriving DecidableEq, Repr

/-- Boot, firmware and power (R422-R426). -/
structure Boot where
  /-- steps of R423 completed. Reset: 0 -/
  step : Nat
  /-- the recovery loader runs (R425). Reset: false -/
  recovery : Bool
  /-- version of the committed firmware image (R424). Reset: DESIGN CHOICE 0 -/
  version : Nat
  /-- fused rollback counter (R424). Reset: DESIGN CHOICE 0 -/
  rollback : Nat
  /-- image that an update has committed to the slot (R425); empty: the one the part was made with. Reset: DESIGN CHOICE empty -/
  image : List Byte
  /-- core clock in MHz (R4, R426). Reset: 2,100 -/
  mhz : Nat
  /-- stopped by THERMAL_TRIP (R426). Reset: false -/
  tripped : Bool
  /-- corrected errors counted by the firmware complex (R361). Reset: 0 -/
  corrected : Nat
  /-- power-on resets and part resets so far. Reset: 0 -/
  resets : Nat
  deriving DecidableEq, Repr

/-- The 1588 servo (R427). -/
structure Servo where
  /-- running (R423 step 4). Reset: false -/
  run : Bool
  /-- slew under way, in units of 1/`mhz` ns still to correct. Reset: 0 -/
  slew : Int
  /-- offset bound in ns; locked below 1,000. Reset: DESIGN CHOICE 1,000 -/
  bound : Nat
  deriving DecidableEq, Repr

/-- A live RCB's accounting of a partition's rotation and drain (R346, R349). -/
structure Kick where
  /-- play instances, in acceptance order. Reset: none -/
  insts : List PlayInst
  /-- number of the next instance. Reset: 1 -/
  next : Nat
  /-- next gang number (R281). Reset: 1 -/
  gang : BitVec 16
  /-- next context tag (R185). Reset: 1 -/
  tag : BitVec 16
  /-- contexts sent out by a rotation or a drain and not yet sent in again: number, and the core that keeps its owner state
  (R348, R349, R353). Reset: none -/
  outs : List (Nat × Option Nat)
  /-- slots that an unanswered message loads: core, slot and tenant (R348, R353). Reset: none -/
  claims : List (Nat × Nat × Nat)
  deriving DecidableEq, Repr

/-- A fault record of the firmware's own (R357, R358): its words 0-4. -/
structure FwFault where
  w0 : Word
  w1 : Word
  w2 : Word
  w3 : Word
  w4 : Word
  deriving DecidableEq, Repr

/-- The whole device. -/
structure State where
  /-- which part it is (R1, R7). Reset: X4; DESIGN CHOICE, the statements hold for both -/
  part : Part
  /-- core cycles since reset, `cyc` 0x007 (R185, R276). Reset: 0 -/
  cyc : Nat
  /-- device time in ns, `clk` 0x006 (R185, R427); it counts from boot's step 4 (R423). Reset: DESIGN CHOICE 0 -/
  clk : Nat
  /-- fraction of a nanosecond of `clk` not yet counted, in units of 1/`mhz` ns. Reset: 0 -/
  sub : Nat
  /-- number of the 10 µs period of device time whose budgets are counted (R56, R407). Reset: 0 -/
  period : Nat
  /-- next core to have its turn in this cycle (R276). Reset: 0 -/
  cursor : Nat
  /-- the context in its turn: registers of the slot that issues -/
  me : Ctx
  /-- every other slot that holds a context, keyed by 16 core + slot. Reset: none -/
  slots : Tbl Ctx
  /-- memory by device address: main memory (0x00), vault (0x01) (R8). Unlisted bytes read 0 in stored form
  (R422). Reset: nothing listed -/
  mem : List Host.Cell
  /-- key slot under which a main-memory granule was last written (R52), by granule number; unlisted: the
  stored form is zero. Reset: nothing listed -/
  keys : Tbl Nat
  /-- granules that are empty (R50, R67), by granule number, rising. Reset: none, every granule full -/
  empties : List Nat
  /-- granules that are poisoned (R53, R79), by granule number, rising. Reset: none -/
  poison : List Nat
  /-- granules that the L2 slices hold dirty (R58): value of the home's copy. Reset: none -/
  l2 : Tbl CGran
  /-- granules that the memory-side caches hold dirty (R48): value of the channel's copy. Reset: none -/
  msc : Tbl CGran
  /-- poisoned lines that caches have evicted with no reader and whose report is still due (R363). Reset: none -/
  evicted : List Nat
  /-- host memory by host bus address (R389). Unlisted bytes read 0. Reset: DESIGN CHOICE nothing listed -/
  hostMem : List Host.Cell
  /-- requests to L2 slices, oldest first (R61). Reset: none -/
  sliceQ : List SliceReq
  /-- load replies under way, oldest first (R121). Reset: none -/
  loads : List LoadRep
  /-- store acknowledgements under way, oldest first (R121). Reset: none -/
  acks : List StoreRep
  /-- RUPDs under way, oldest first, each with its unit: channel, or 4,096 + squad (R267). Reset: none -/
  rupds : List (Nat × HomeReq)
  /-- requests that were rejected and are to be reissued (R51, R56). Reset: none -/
  rejected : List HomeReq
  /-- withdrawals under way (R122): contexts. Reset: none -/
  withdrawn : List Nat
  /-- thread messages under way (R260). Reset: none -/
  threads : List ThreadMsg
  /-- stream messages under way (R270). Reset: none -/
  streamQ : List StreamMsg
  /-- register fills under way (R272). Reset: none -/
  fills : List FillMsg
  /-- bind requests and replies under way (R271). Reset: none -/
  binds : List BindMsg
  /-- allowance units under way to a sender: core, slot, stream (R270). Reset: none -/
  allowances : List (Nat × Nat × Nat)
  /-- entries of spill queues, oldest first (R355). Their words also stand in memory. Reset: none -/
  spillQ : List SpillEnt
  /-- writers that wait for room in a spill queue and have been counted, with its control block (R356). Reset: none -/
  fullWaits : List (Nat × SpillWriter)
  /-- save areas that hold a context (R296): by area address, what the area's image does not hold of it (number,
  instance). Reset: none -/
  saved : Tbl Ctx
  /-- cores (R11). Reset: see `CoreSt` -/
  cores : Tbl CoreSt
  /-- squads (R11). Reset: see `SquadSt` -/
  squads : Tbl SquadSt
  /-- channels (R45). Reset: see `ChanSt` -/
  chans : Tbl ChanSt
  /-- partitions (R419). Reset: see `PartSt` -/
  parts : Tbl PartSt
  /-- `fij`, 0x030 (R186). Reset: 0 -/
  fij : Word
  /-- context whose CWR armed `fij` (R186). Reset: 0 -/
  fijBy : Nat
  /-- key slots loaded, with the partition each was loaded for (R52, R408). Reset: none -/
  keySlots : Tbl Nat
  /-- seal unit (R373). Reset: see `SealUnit` -/
  sealU : SealUnit
  /-- fabric (R404). Reset: see `Fabric` -/
  fab : Fabric
  /-- interrupt routing entries (R359). Reset: 0 -/
  irqs : Tbl Irq
  /-- MSI-X messages sent to the host, newest last: function, vector (R360). Reset: none -/
  msix : List (Nat × Nat)
  /-- signals to the policy core, newest last: entry (R360). Reset: none -/
  signals : List Nat
  /-- data returned to class A host loads, newest last (R325). Reset: none -/
  hostReads : List (List Byte)
  /-- registers returned to reads of the policy core, newest last (R387). Reset: none -/
  fwReads : List Word
  /-- data returned to firmware reads of snapshots, newest last (R55). Reset: none -/
  snapReads : List Granule
  /-- interface reports given, newest last (R399). Reset: none -/
  reports : List TdiReport
  /-- the management semaphore (R387). Reset: see `Sema` -/
  sema : Sema
  /-- kickoff scheduler (R338). Reset: see `Kick` -/
  kick : Kick
  /-- boot, firmware image and power (R422-R426). Reset: see `Boot` -/
  boot : Boot
  /-- 1588 servo (R427). Reset: see `Servo` -/
  servo : Servo
  /-- firmware fault records (fault domain 0, R357), newest last. Reset: none -/
  fwFaults : List FwFault
  /-- host and class A refusals counted by the service cores (R377, R389). Reset: 0 -/
  svcDrops : Nat
  /-- window caches of the service cores (R10, R389), by 256 die + 8 partition + window: the descriptor. Reset: empty -/
  wcache : Tbl HostWin
  /-- extents being invalidated (R100): entry addresses. Reset: none -/
  invalidating : List Nat
  /-- compactions asked of the compaction agent, oldest first; who asks is outside the spec (R382). Reset: none -/
  compacts : List Compact
  /-- number of the next context. Reset: 1 -/
  nextCid : Nat
  /-- number of the next engine command. Reset: 1 -/
  nextCmd : Nat
  /-- place of the next request in the order of issue. Reset: 1 -/
  nextReq : Nat
  /-- the moves that units, firmware and hosts make next, oldest first (the model's own). Reset: none -/
  agenda : List Instr
  /-- choices among alternatives that the manual leaves open, used in order (the model's own). Reset: none -/
  oracle : List Nat
  /-- counter of free values (the model's own). Reset: DESIGN CHOICE 0 -/
  fresh : Nat
  deriving DecidableEq, Repr

/-! ## Defaults and reset -/

/-- An unbound stream (R270). -/
def StreamSt.unbound : StreamSt :=
  { out := { bound := false, core := 0, slot := 0, pstrm := 0, allow := 0, wlim := 0 },
    inn := { bound := false, allow := 0, wlim := 0, granted := 0, msgs := [] } }

/-- RCB values of no RCB. -/
def RcbEff.zero : RcbEff :=
  { tenant := 0, key := 0, prio := 0, mweight := 1, hslots := 0, sfloor := 0, scap := 0, bfloor := 0, bcap := 0,
    wlist := 0, uqueue := 0, fbytes := 0, fdom := 0, frec := 0, xtab := 0, xlen := 0, save := 0 }

/-- The registers of a newly created context (R29), in no slot yet. -/
def Ctx.fresh : Ctx :=
  { live := false, core := 0, slot := 0, cid := 0, pc := 0, npc := 0,
    g := Vector.replicate 64 0, gFull := BitVec.allOnes 64, gPend := 0, gPoison := 0,
    v := Vector.replicate 32 0, vFull := BitVec.allOnes 32, vPend := 0, vPoison := 0,
    k := Vector.replicate 8 (BitVec.allOnes 16), kPoison := 0,
    ld := 0, st := 0, cp := 0, tl := 0, cseq := 0, issues := 0, fcs := 0, ctrs := 0, tenid := 0, ctxtag := 0, ptag := 0,
    key := 0, rcb := 0, eff := RcbEff.zero, save := 0, gang := 0, anchorCore := 0, anchorSlot := 0,
    anchorMode := .here, streams := Vector.replicate 4 StreamSt.unbound,
    bq := { bound := false, slot := 0, q := [] }, audw := Vector.replicate 4 (0, 0), wait := .none, bubbled := false,
    inHand := none, att := false, consumed := 0, entry := 0, loadedAt := 0, inst := 0, notBefore := 0 }

/-- A free tile register (R224). -/
def MTile.zero : MTile :=
  { data := [], scale := [], rcd := [],
    cfg := { pair := false, enc := false, scl := false, ew := 0, cols := 0, rows := 0 }, meta_ := 0, cnt := 0,
    poison := [] }

/-- The owner state after reset and after a change of owner (R230, R231). -/
def MxState.zero : MxState :=
  { m := Vector.replicate 8 MTile.zero, a := Vector.replicate 4 { el := [], poison := [] }, fc := 0 }

/-- A core at reset (R184). -/
def CoreSt.reset : CoreSt :=
  { l1mode := 1, l1 := [], aown := 0, mx := MxState.zero, mq := [], mrun := false, trapQ := [], held := [], preempt := none,
    spill := none, preemptAt := none, spqa := 0, diverted := false, pressed := none, retain := none, retention := false,
    supFault := none, barred := false }

/-- A tile at reset (R75). -/
def TileEnt.reset : TileEnt :=
  { st := .absent, frame := 0, framed := false, pins := 0, owner := 0, sus := false, log := [], head := 0,
    last := 0, tlRes := [], tlAbs := [], holds := 0, lost := false }

/-- A permutation table at reset (R227). -/
def PermTab.reset : PermTab := { ent := [], tag := 0 }

/-- A huddle barrier at reset (R274). -/
def Barrier.reset : Barrier := { mask := 0, c := 0, leads := Vector.replicate 8 0 }

/-- A stream of the front end that feeds nobody (R287). -/
def FeStream.reset : FeStream := { st := .idle, decoded := 0, next := 0, held := false, buf := [], who := none, stallSince := none, lead := none }

/-- A task ring at reset (R289). -/
def TaskRing.reset : TaskRing := { srcfg := 0, head := 0, tail := 0, waiters := [] }

/-- A squad at reset (R73, R74, R184, R234). -/
def SquadSt.reset : SquadSt :=
  { tlcap := 64, mgate := 2048, tbase := 0, townc := 0, forced := 0, rejects := 0, tiles := [], seq := 0,
    twait := [], perms := [], bars := [], fe := [], pfLast := 0, pfFree := 0, rings := [], mbudget := 0x00100000, deferred := 0, mused := 0, mperiod := 0,
    credit := [], served := 7, mIdle := 0, gated := false, waking := false, cmds := [], xcache := [] }

/-- A channel at reset (R47). -/
def ChanSt.reset : ChanSt :=
  { own := false, part := 0, snapt := 0, abase := 0, alen := 0, snap := .off, bitmap := [], copies := [],
    ncopies := 0, copying := none, rejects := 0, wlist := [], hq := [], uq := [] }

/-- A host window at reset (R389). -/
def HostWin.reset : HostWin := { w0 := 0, w1 := 0, w2 := 0 }

/-- A partition at reset (R346, R374, R389, R401, R419). -/
def PartSt.reset : PartSt :=
  { pchan := 0, psqd := 0, pqslot := 0, prcb := 0, pstate := .free, vf := false, audit := false,
    kcfg := 0x03E803E800640064, kstat := 0, slices := 0, sysBase := 0, sysLsize := 0, sysHead := 0, sysTail := 0, sys := [],
    wins := [], qtab := [], qs := [], tdi := .unlocked }

/-- A free seal-table entry (R373). -/
def SealEnt.reset : SealEnt :=
  { base := 0, len := 0, flen := 0, sgen := 0, st := .free, sup := false, tenant := 0, tgen := 0, digest := 0 }

/-- The seal unit after reset number `n` (R374). -/
def SealUnit.reset (n : Nat) : SealUnit :=
  { tab := [], scdesc := 0, sccmd := 0, lastGen := 0, result := 0, busy := false, nextGen := 1, barred := [],
    floor := none, keyNo := n, days := 0 }

/-- A link port at reset (R404, R422). -/
def Link.reset : Link :=
  { st := .down, pnode := 0, pport := 0, replays := 0, discards := 0, rx := 0, tx := 0, out := [], wire := [], streak := 0, heard := 0, inb := [],
    credit := 0, acks := [] }

/-- A group entry after a power-on reset (R411). -/
def Group.reset : Group :=
  { gen := 0, st := .none, members := 0, rank := 0, dline := 0, stale := 0, list := 0, nodes := [], lcrc := 0,
    bstat := 0, brank := 0, outPort := 0, inPort := 0, joined := [], cmd := none, begun := false, t0 := 0, heldPk := [],
    abortKept := none, colls := [], ncoll := 0, inbox := [] }

/-- The fabric after a power-on reset (R404, R422). -/
def Fabric.reset : Fabric :=
  { links := [], ldead := 2000, node := 0, lroute := [], lpmap := [], sent := [], arrived := [], pseqTx := [], pseqRx := [],
    cache := [], unanswered := [], recorded := [], groups := [], used := [] }

/-- An interrupt routing entry at reset (R359). -/
def Irq.reset : Irq := { irte := 0, events := 0, st := .idle, t0 := 0 }

/-- The machine right after a power-on reset of an LG9-X4, before boot's first step (R422, R423). -/
def State.reset : State :=
  { part := .x4, cyc := 0, clk := 0, sub := 0, period := 0, cursor := 0, me := Ctx.fresh, slots := [], mem := [], keys := [],
    empties := [], poison := [], l2 := [], msc := [], evicted := [], hostMem := [], sliceQ := [], loads := [], acks := [],
    rupds := [], rejected := [], withdrawn := [], threads := [], streamQ := [], fills := [], binds := [],
    allowances := [], spillQ := [], fullWaits := [], saved := [], cores := [], squads := [], chans := [], parts := [], fij := 0, fijBy := 0,
    keySlots := [], sealU := SealUnit.reset 0, fab := Fabric.reset, irqs := [], msix := [], signals := [],
    hostReads := [], fwReads := [], snapReads := [], reports := [],
    sema := { lease := 0, holder := 0, busy := false, rej := 0, t0 := 0 },
    kick := { insts := [], next := 1, gang := 1, tag := 1, outs := [], claims := [] },
    boot := { step := 0, recovery := false, version := 0, rollback := 0, image := [], mhz := 2100,
              tripped := false, corrected := 0, resets := 0 },
    servo := { run := false, slew := 0, bound := 1000 },
    fwFaults := [], svcDrops := 0, wcache := [], invalidating := [], compacts := [], nextCid := 1, nextCmd := 1, nextReq := 1, agenda := [], oracle := [],
    fresh := 0 }

end Sys2Proof.Machine
end

