-- ==== Sys2Proof/Machine/Ops.lean ====
section
/-!
DEFINITION. The named operations over the state: how an instruction ends, the parts and their cores, contexts by
place and by number, memory by byte with its metadata, the regions of an address, and taking a trap with the return
from it. Every later file changes the state through these.
-/

namespace Sys2Proof.Machine

/-! ## How an instruction ends -/

/-- How an instruction of a slot ends other than by completing: it parks without a change (R44), it raises a trap
without a change (R351), it is not executed because its thread goes back to its anchor first (R259), or it leaves the
state `s`, having dealt with the pc and the counters itself. -/
inductive Stop where
  | park
  | trap (c : TrapClass) (addr info : Word)
  | home
  | go (s : State)

/-- A part of an instruction's meaning. A change of state before a park or a trap is dropped with it (R28, R44). -/
abbrev Op := StateT State (Except Stop)

/-- The slot parks (R44). -/
def parkOp {α : Type} : Op α := fun _ => .error .park
/-- `park_until(b)` (R42). -/
def parkUntil (b : Bool) : Op Unit := fun s => if b then .ok ((), s) else .error .park
/-- `trap(c, info)` (R42). -/
def trapOp {α : Type} (c : TrapClass) (addr info : Word) : Op α := fun _ => .error (.trap c addr info)
/-- `trap(c, info)` when `b` holds. -/
def trapIf (b : Bool) (c : TrapClass) (addr info : Word) : Op Unit := fun s =>
  if b then .error (.trap c addr info) else .ok ((), s)
/-- The instruction ends in the state `s`. -/
def goOp {α : Type} (s : State) : Op α := fun _ => .error (.go s)
/-- Reads the state. -/
def getS : Op State := fun s => .ok (s, s)
/-- Changes the state. -/
def modS (f : State → State) : Op Unit := fun s => .ok ((), f s)

/-- ILLEGAL found at run time, reason 0x0E at the base word (R40). -/
def illegalInfo (s : State) (code : Nat) : Word :=
  BitVec.ofNat 64 (code + 256 * ((s.me.npc.toNat - s.me.pc.toNat) / 2 - 1))
/-- The instruction raises ILLEGAL with reason 0x0E when `b` holds. -/
def illegalIf (b : Bool) : Op Unit := fun s =>
  if b then .error (.trap .illegal 0 (illegalInfo s 0x0E)) else .ok ((), s)

/-! ## The part and its cores (R7, R11) -/

/-- Squads of the part, which is also the number of channels and of home cores. -/
def Part.squads : Part → Nat
  | .x4 => 512
  | .c2 => 256
/-- Pivot cores of the part. -/
def Part.pivots : Part → Nat
  | .x4 => 32
  | .c2 => 16
/-- Compute dies of the part. -/
def Part.dies : Part → Nat
  | .x4 => 4
  | .c2 => 2
/-- Link ports of the part. -/
def Part.links : Part → Nat
  | .x4 => 24
  | .c2 => 8
/-- A barrel core of the part. -/
def Part.isBarrel (p : Part) (c : Nat) : Bool := decide (c < 8 * p.squads)
/-- A home core of the part. -/
def Part.isHome (p : Part) (c : Nat) : Bool := decide (4096 ≤ c ∧ c < 4096 + p.squads)
/-- A pivot core of the part. -/
def Part.isPivot (p : Part) (c : Nat) : Bool := decide (4608 ≤ c ∧ c < 4608 + p.pivots)
/-- A core that the part has. -/
def Part.hasCore (p : Part) (c : Nat) : Bool := p.isBarrel c || p.isHome c || p.isPivot c
/-- The die of a core (R11). -/
def dieOf (c : Nat) : Nat := if c < 4096 then c / 8 / 128 else if c < 4608 then (c - 4096) / 128 else (c - 4608) / 8

/-! ## Tables of the state -/

/-- The state of a core. -/
def State.core (s : State) (c : Nat) : CoreSt := s.cores.getD CoreSt.reset c
/-- Changes the state of a core. -/
def State.modCore (s : State) (c : Nat) (f : CoreSt → CoreSt) : State := { s with cores := s.cores.put c (f (s.core c)) }
/-- The state of a squad. -/
def State.squad (s : State) (q : Nat) : SquadSt := s.squads.getD SquadSt.reset q
/-- Changes the state of a squad. -/
def State.modSquad (s : State) (q : Nat) (f : SquadSt → SquadSt) : State :=
  { s with squads := s.squads.put q (f (s.squad q)) }
/-- The state of a channel. -/
def State.chan (s : State) (c : Nat) : ChanSt := s.chans.getD ChanSt.reset c
/-- Changes the state of a channel. -/
def State.modChan (s : State) (c : Nat) (f : ChanSt → ChanSt) : State := { s with chans := s.chans.put c (f (s.chan c)) }
/-- The state of a partition. -/
def State.partn (s : State) (p : Nat) : PartSt := s.parts.getD PartSt.reset p
/-- Changes the state of a partition. -/
def State.modPartn (s : State) (p : Nat) (f : PartSt → PartSt) : State :=
  { s with parts := s.parts.put p (f (s.partn p)) }
/-- The residency entry of a tile. -/
def SquadSt.tile (q : SquadSt) (t : Nat) : TileEnt := q.tiles.getD TileEnt.reset t
/-- Changes a residency entry. -/
def SquadSt.modTile (q : SquadSt) (t : Nat) (f : TileEnt → TileEnt) : SquadSt :=
  { q with tiles := q.tiles.put t (f (q.tile t)) }

/-! ## Contexts -/

/-- The place of a slot in the table of slots. -/
def slotKey (core slot : Nat) : Nat := 16 * core + slot

/-- The context that slot `slot` of core `core` holds. -/
def State.at? (s : State) (core slot : Nat) : Option Ctx :=
  if s.me.live && s.me.core == core && s.me.slot == slot then some s.me
  else
    match s.slots.find? (slotKey core slot) with
    | some c => if c.live then some c else none
    | none => none

/-- Places a context in its slot. -/
def State.place (s : State) (c : Ctx) : State :=
  if s.me.live && s.me.core == c.core && s.me.slot == c.slot then { s with me := c }
  else { s with slots := s.slots.put (slotKey c.core c.slot) c }

/-- A slot whose context has gone keeps the values of its registers (R25, R291). -/
def Ctx.emptied (c : Ctx) : Ctx :=
  { Ctx.fresh with core := c.core, slot := c.slot, g := c.g, gFull := c.gFull, v := c.v, vFull := c.vFull, k := c.k }

/-- Empties a slot. -/
def State.vacate (s : State) (core slot : Nat) : State :=
  match s.at? core slot with
  | none => s
  | some c =>
    { s with
      me := if s.me.live && s.me.core == core && s.me.slot == slot then Ctx.fresh else s.me,
      slots := s.slots.put (slotKey core slot) c.emptied }

/-- Every context in a slot. -/
def State.ctxs (s : State) : List Ctx :=
  (if s.me.live then [s.me] else []) ++ (s.slots.map Prod.snd).filter (fun c => c.live)

/-- The running context of a number; an anchor's place carries number 0. -/
def State.byCid (s : State) (cid : Nat) : Option Ctx := s.ctxs.find? (fun c => c.cid == cid && cid != 0)

/-- Changes the context in its turn. -/
def State.modMe (s : State) (f : Ctx → Ctx) : State := { s with me := f s.me }

/-- Changes the context of a slot, if it holds one. -/
def State.modAt (s : State) (core slot : Nat) (f : Ctx → Ctx) : State :=
  match s.at? core slot with
  | some c => s.place (f c)
  | none => s

/-- Changes the running context of a number, if it is in a slot. -/
def State.modLive (s : State) (cid : Nat) (f : Ctx → Ctx) : State :=
  match s.byCid cid with
  | some c => s.place (f c)
  | none => s

/-- A thread that stands elsewhere than at its anchor (R259). -/
def Ctx.isAway (c : Ctx) : Bool := c.anchorMode != .here

/-- The audit windows of a context: any is valid (R379). -/
def Ctx.audited (c : Ctx) : Bool := c.audw.toList.any (fun w => w.2.getLsbD 63)

/-- The turn issues the instruction: the pc advances to `npc`, `ctrs.issued` counts it (R185), and an attached slot has consumed
one more instruction of its stream (R282). -/
def Ctx.issue (c : Ctx) : Ctx :=
  { c with pc := c.npc, ctrs := c.ctrs + 0x100000000#64, issues := c.issues + 1, consumed := c.consumed + 1,
           inHand := none, bubbled := false }
/-- The turn is a bubble of a parked slot: `ctrs.parked` counts it (R185, R277). -/
def Ctx.bubble (c : Ctx) : Ctx :=
  { c with ctrs := c.ctrs.extractLsb' 32 32 ++ (c.ctrs.extractLsb' 0 32 + 1#32), bubbled := true }

/-- A value among `n` alternatives that the manual leaves open, taken from the list of choices. -/
def State.choose (s : State) (n : Nat) : Nat × State :=
  match s.oracle with
  | [] => (0, s)
  | k :: r => (k % (Nat.max n 1), { s with oracle := r })

/-! ## Bytes of memory -/

/-- The byte that memory lists at an address; 0 where it lists none. -/
def rd8 : List Host.Cell → Nat → Byte
  | [], _ => 0
  | (i, x) :: r, a => if i = a then x else rd8 r a

/-- Memory with one byte written. Writing what an unlisted byte reads as removes the entry. -/
def wr8 : List Host.Cell → Nat → Byte → List Host.Cell
  | [], a, b => if b = 0 then [] else [(a, b)]
  | (i, x) :: r, a, b =>
    if a < i then (if b = 0 then (i, x) :: r else (a, b) :: (i, x) :: r)
    else if a = i then (if b = 0 then r else (a, b) :: r)
    else (i, x) :: wr8 r a b

/-- The canonical form of memory: addresses rise strictly, and no entry equals what an unlisted byte reads as. -/
def memWf : List Host.Cell → Bool
  | [] => true
  | (i, x) :: r => x != 0 && (match r with | [] => true | (j, _) :: _ => decide (i < j)) && memWf r

/-- `n` bytes from an address. -/
def rdBytes (m : List Host.Cell) (a : Nat) : Nat → List Byte
  | 0 => []
  | n + 1 => rd8 m a :: rdBytes m (a + 1) n

/-- Bytes written from an address. -/
def wrBytes (m : List Host.Cell) (a : Nat) : List Byte → List Host.Cell
  | [] => m
  | b :: r => wrBytes (wr8 m a b) (a + 1) r

/-- The number that bytes spell, least significant first (R2). -/
def ofBytes : List Byte → Nat
  | [] => 0
  | b :: r => b.toNat + 256 * ofBytes r

/-- The `n` bytes of a number, least significant first (R2). -/
def toBytes : Nat → Nat → List Byte
  | 0, _ => []
  | n + 1, x => BitVec.ofNat 8 x :: toBytes n (x / 256)

/-- A rising list of numbers with `k` added. -/
def insNat (k : Nat) : List Nat → List Nat
  | [] => [k]
  | i :: r => if k < i then k :: i :: r else if k = i then i :: r else i :: insNat k r
/-- A list of numbers without `k`. -/
def delNat (k : Nat) (l : List Nat) : List Nat := l.filter (fun i => i != k)

/-! ## Granules: full/empty, poison and keys -/

/-- The full/empty bit of a granule (R50, R67): full unless listed. -/
def State.isFull (s : State) (gran : Nat) : Bool := !s.empties.contains gran

/-- The granule number that stands for the poison of an address: main memory keeps it per line (R53), the vault per
granule (R67). -/
def poisonKey (a : Nat) : Nat := if a < 2 ^ 48 then a / 128 * 8 else a / 16
/-- The poison at an address. -/
def State.isPoison (s : State) (a : Nat) : Bool := s.poison.contains (poisonKey a)

/-- The bytes of a granule as a value. -/
def granOf (m : List Host.Cell) (g : Nat) : Granule := BitVec.ofNat 128 (ofBytes (rdBytes m (16 * g) 16))

/-- The value of a granule as the level below holds it. -/
def State.cgran (s : State) (g : Nat) : CGran :=
  { data := granOf s.mem g, key := s.keys.find? g, full := s.isFull g, poison := s.isPoison (16 * g) }

/-- A granule of main memory as a request under key slot `key` sees it (R52). -/
def State.granView (s : State) (key g : Nat) : Granule :=
  match s.keys.find? g with
  | none => Config.zeroForm key g
  | some k => if k = key then granOf s.mem g else Config.crossKey k key g (granOf s.mem g)

/-- One byte of a granule. -/
def granByte (x : Granule) (i : Nat) : Byte := x.extractLsb' (8 * i) 8

/-- One byte of main memory under a key slot. -/
def State.rdKey (s : State) (key a : Nat) : Byte :=
  if s.keys.find? (a / 16) = some key then rd8 s.mem a else granByte (s.granView key (a / 16)) (a % 16)

/-- `n` bytes of main memory under a key slot. -/
def State.rdMain (s : State) (key a : Nat) : Nat → List Byte
  | 0 => []
  | n + 1 => s.rdKey key a :: s.rdMain key (a + 1) n

/-- The granule re-keyed: the cache writes it back under its own key slot and refills it under `key` (R52). -/
def State.rekey (s : State) (key g : Nat) : State :=
  if s.keys.find? g = some key then s
  else { s with mem := wrBytes s.mem (16 * g) (toBytes 16 (s.granView key g).toNat), keys := s.keys.put g key }

/-! ## Ownership of channels and lines (R45, R60) -/

/-- The first channel and the number of channels of partition `p`. -/
def State.partChans (s : State) (p : Nat) : Nat × Nat :=
  let own := s.chans.filter (fun c => c.2.own && c.2.part == p)
  ((own.map Prod.fst).headD 0, own.length)

/-- The fold of R60 over the line number in fields of `k` bits. -/
def sliceFold (k L : Nat) : Nat → Nat
  | 0 => 0
  | n + 1 => (L / 2 ^ (k * n) % 2 ^ k) ^^^ sliceFold k L n

/-- The first channel and log2 of the number of slices of the partition whose range holds an offset; a one-channel
partition where no one owns it (R60). -/
def State.mapOf (s : State) (a : Nat) : Nat × Nat :=
  let c := a / 2 ^ 31
  if (s.chan c).own then
    let r := s.partChans (s.chan c).part
    (r.1, Nat.log2 (Nat.max r.2 1) + 2)
  else (c, 2)

/-- The slice of a main-memory offset (R60). -/
def State.sliceOf (s : State) (a : Nat) : Nat :=
  let m := s.mapOf a
  m.1 * 4 + sliceFold m.2 (a / 128 % 2 ^ 24) ((24 + m.2 - 1) / m.2)

/-- The channel of a main-memory offset (R60). -/
def State.chanOf (s : State) (a : Nat) : Nat := s.sliceOf a / 4

/-- The line index of an offset within its channel's storage (R60). -/
def State.chanLine (s : State) (a : Nat) : Nat :=
  let m := s.mapOf a
  (a / 128 - m.1 * 2 ^ 24) / 2 ^ m.2 * 4 + s.sliceOf a % 4

/-- The line of main memory that a line of a channel's storage holds (R60). -/
def State.lineAt (s : State) (ch cl : Nat) : Nat :=
  let m := s.mapOf (ch * 2 ^ 31)
  let sl := (ch - m.1) * 4 + cl % 4
  let up := m.1 * 2 ^ 24 + cl / 4 * 2 ^ m.2
  up + (sl ^^^ sliceFold m.2 (up % 2 ^ 24) ((24 + m.2 - 1) / m.2))

/-- A request with partition tag `ptag` is refused at the home of the offset (R46). -/
def State.refused46 (s : State) (ptag a : Nat) : Bool :=
  let c := s.chan (s.chanOf a)
  !(c.own && c.part == ptag)

/-- A write of `n` bytes at an address touches a range whose entry is SEALING, LIVE or REVOKING (R377). -/
def State.sealedAt (s : State) (a n : Nat) : Bool :=
  s.sealU.tab.any (fun e =>
    (e.2.st == .sealing || e.2.st == .live || e.2.st == .revoking) &&
    decide (a < e.2.base + e.2.len) && decide (e.2.base < a + n))


/-! ## Snapshots (R54, R55) -/

/-- The snapshot page of an offset in its channel's storage. -/
def State.pageOf (s : State) (a : Nat) : Nat := s.chanLine a / 512

/-- The granules of a page of a channel's storage. -/
def State.pageGrans (s : State) (ch page : Nat) : List Nat :=
  (List.range 512).flatMap (fun i => (List.range 8).map (fun j => 8 * s.lineAt ch (512 * page + i) + j))

/-- A granule as the home holds it: a slice's dirty copy is not seen (R55). -/
def State.homeGran (s : State) (g : Nat) : CGran := (s.l2.find? g).getD (s.cgran g)

/-- The stored form of a granule (R52). -/
def CGran.form (c : CGran) (g : Nat) : Granule :=
  match c.key with
  | none => 0
  | some k => Config.cipher k g c.data

/-- A byte of main memory written under a key slot, past the caches. -/
def State.putByte (s : State) (key a : Nat) (b : Byte) : State :=
  let t := s.rekey key (a / 16)
  { t with mem := wr8 t.mem a b }

/-- Byte `o` of the snapshot area, from its first page on, written in storage order under key slot 0 (R54). -/
def State.areaByte (s : State) (ch o : Nat) (b : Byte) : State :=
  s.putByte 0 (128 * s.lineAt ch (512 * (s.chan ch).abase + o / 128) + o % 128) b

/-- The bit of a page set, in the bitmap and in its byte of the area (R54). -/
def State.setBit (s : State) (ch page : Nat) : State :=
  let l := insNat page (s.chan ch).bitmap
  let x := ((List.range 8).filter (fun i => l.contains (page / 8 * 8 + i))).foldl (fun n i => n + 2 ^ i) 0
  (s.modChan ch (fun k => { k with bitmap := l })).areaByte ch (page / 8) (BitVec.ofNat 8 x)

/-- A stored form with its bits written into granule `g` of the area (R55). -/
def State.putForm (s : State) (g : Nat) (form : Granule) (full poison : Bool) : State :=
  { s with
    mem := wrBytes s.mem (16 * g) (toBytes 16 ((Config.cipher 0 g).symm form).toNat),
    keys := s.keys.put g 0,
    empties := if full then delNat g s.empties else insNat g s.empties,
    poison := if poison then insNat (poisonKey (16 * g)) s.poison else delNat (poisonKey (16 * g)) s.poison }

/-- The page being copied is copied, with its index entry and its bit (R54, R55). -/
def State.copyDone (s : State) (ch : Nat) : State :=
  let c := s.chan ch
  match c.copying with
  | none => s
  | some p =>
    let form := (s.pageGrans ch p).map (fun g => (g, s.homeGran g, s.isFull g, s.isPoison (16 * g)))
    let s1 := ((s.pageGrans ch (c.abase + 1 + c.ncopies)).zip form).foldl
      (fun t d => t.putForm d.1 (d.2.2.1.form d.2.1) d.2.2.2.1 d.2.2.2.2) s
    let s2 := (s1.areaByte ch (4096 + 2 * c.ncopies) (BitVec.ofNat 8 p)).areaByte ch (4097 + 2 * c.ncopies) (BitVec.ofNat 8 (p / 256))
    (s2.setBit ch p).modChan ch (fun c => { c with copies := c.copies ++ [(p, form)], ncopies := c.ncopies + 1, copying := none })

/-- A write to the page of an offset: whether it may be performed now, and the state in which its copy has been started
or its page noted. The area's own pages never enter the bitmap (R54). -/
def State.snapGate (s : State) (a : Nat) : Bool × State :=
  let ch := s.chanOf a
  let c := s.chan ch
  let p := s.pageOf a
  let area := decide (c.abase ≤ p ∧ p < c.abase + c.alen)
  match c.snap with
  | .active =>
    if area then (true, s)
    else if c.copying = some p then (false, s)
    else if c.bitmap.contains p then (true, s)
    else if c.ncopies + 1 < c.alen then
      (false, if c.copying.isSome then s else s.modChan ch (fun k => { k with copying := some p }))
    else (true, (s.setBit ch p).modChan ch (fun k => { k with snap := .overflow }))
  | .overflow => (true, if area then s else s.setBit ch p)
  | _ => (decide (c.copying ≠ some p), s)

/-- The copies that a write to the page of an offset waits for are made, so that it may be performed in the same move (log 33). -/
def State.settle (s : State) (a : Nat) : State :=
  let ch := s.chanOf a
  let r := s.snapGate a
  if r.1 then r.2
  else
    let q := (r.2.copyDone ch).snapGate a
    if q.1 then q.2 else ((q.2.copyDone ch).snapGate a).2

/-! ## The dirty copies of the caches (R48, R49, R58) -/

/-- The lines of a table of granules. -/
def linesIn8 : Tbl CGran → List Nat
  | [] => []
  | (g, _) :: r =>
    match linesIn8 r with
    | [] => [g / 8]
    | l :: t => if g / 8 = l then l :: t else g / 8 :: l :: t

/-- The set of a line in the memory-side cache of its channel: 512 sets (R48). -/
def State.mscSet (s : State) (line : Nat) : Nat := s.chanOf (128 * line) * 512 + s.chanLine (128 * line) % 512
/-- The set of a line in its slice: 128 sets (R58). -/
def State.l2Set (s : State) (line : Nat) : Nat := s.sliceOf (128 * line) * 128 + s.chanLine (128 * line) / 4 % 128

/-- A line leaves a cache with no reader: if it is poisoned, its report is due (R363). -/
def State.leftCache (s : State) (line : Nat) : State :=
  if s.isPoison (128 * line) && !s.evicted.contains line then { s with evicted := s.evicted ++ [line] } else s

/-- Room for one more dirty line in its set of 16 ways of the memory-side cache: a line is written back (R48, R54). -/
def State.mscRoom (s : State) (line : Nat) : State :=
  if s.msc.length < 16 then s
  else
    let same := (linesIn8 s.msc).filter (fun l => l != line && s.mscSet l == s.mscSet line)
    if same.length < 16 then s
    else
      let c := s.choose same.length
      let v := same.getD c.1 0
      let t := (c.2.settle (128 * v)).leftCache v
      { t with msc := t.msc.filter (fun p => p.1 / 8 != v) }

/-- The memory-side cache is about to change a granule, from the value `old` (R48). -/
def State.mscNote (s : State) (g : Nat) (old : CGran) : State :=
  match s.msc.find? g with
  | some _ => s
  | none =>
    let t := if s.msc.any (fun p => p.1 / 8 == g / 8) then s else s.mscRoom (g / 8)
    { t with msc := t.msc.put g old }

/-- A granule of main memory whose bits change at its home becomes dirty in the memory-side cache (R48, R50). -/
def State.noteBits (s : State) (gran : Nat) : State := if gran < 2 ^ 44 then s.mscNote gran (s.cgran gran) else s

/-- Sets a full/empty bit. -/
def State.setFull (s : State) (gran : Nat) (full : Bool) : State :=
  let t := s.noteBits gran
  { t with empties := if full then delNat gran t.empties else insNat gran t.empties }

/-- Sets or clears the poison at an address. -/
def State.setPoison (s : State) (a : Nat) (p : Bool) : State :=
  let t := s.noteBits (poisonKey a)
  { t with poison := if p then insNat (poisonKey a) t.poison else delNat (poisonKey a) t.poison }

/-- A slice holds the line of a granule dirty. -/
def State.l2Dirty (s : State) (line : Nat) : Bool := s.l2.any (fun p => p.1 / 8 == line)

/-- A slice writes a line back to its home and drops it (R49). -/
def State.l2Drop (s : State) (line : Nat) : State :=
  let d := s.l2.filter (fun p => p.1 / 8 == line)
  d.foldl (fun t p => t.mscNote p.1 p.2) { s with l2 := s.l2.filter (fun p => p.1 / 8 != line) }

/-- The line of an offset may be changed at its home in this move: its page is copied, and the slice's copy written back and dropped (R49,
R54). -/
def State.unitReady (s : State) (a : Nat) : State := (s.settle a).l2Drop (a / 128)

/-- Room for one more dirty line in its set of 16 ways of the slice: a line is written back (R58). -/
def State.l2Room (s : State) (line : Nat) : State :=
  if s.l2.length < 16 then s
  else
    let same := (linesIn8 s.l2).filter (fun l => l != line && s.l2Set l == s.l2Set line)
    if same.length < 16 then s
    else
      let c := s.choose same.length
      (c.2.unitReady (128 * same.getD c.1 0)).leftCache (same.getD c.1 0)

/-- A slice is about to change a granule: what the home holds of it is kept. -/
def State.l2Note (s : State) (g : Nat) : State :=
  match s.l2.find? g with
  | some _ => s
  | none =>
    let t := if s.l2Dirty (g / 8) then s else s.l2Room (g / 8)
    { t with l2 := t.l2.put g (t.cgran g) }

/-- A request to the home of an offset: the slice's copy is written back and dropped first. It may have to wait for the copy of
a snapshot page (R49, R54). `change`: the request changes the line. -/
def State.homeReady (s : State) (a : Nat) (change : Bool) : Bool × State :=
  if change || s.l2Dirty (a / 128) then
    let r := s.snapGate a
    if r.1 then (true, r.2.l2Drop (a / 128)) else r
  else (decide ((s.chan (s.chanOf a)).copying ≠ some (s.pageOf a)), s)

/-! ## Writes of main memory -/

/-- A granule of main memory is about to be written: what the level below holds of it is kept, unless a slice holds it dirty already (R48,
R58). -/
def State.noteData (s : State) (gran : Nat) : State := if (s.l2.find? gran).isSome then s else s.noteBits gran

/-- One byte of main memory written under a key slot. -/
def State.wrKey (s : State) (key a : Nat) (b : Byte) : State := (s.noteData (a / 16)).putByte key a b

/-- Bytes of main memory written under a key slot. -/
def State.wrMain (s : State) (key a : Nat) : List Byte → State
  | [] => s
  | b :: r => (s.wrKey key a b).wrMain key (a + 1) r

/-- Bytes that one of the device's own units or the firmware writes, line by line: a line in a sealed range is not changed (R377), the others are
made ready at their homes (R49, R54), and a line written whole loses its poison (R53). -/
def State.unitLines (s : State) (key a : Nat) : Nat → List Byte → State
  | 0, _ => s
  | _, [] => s
  | n + 1, bs =>
    let k := 128 - a % 128
    let p := bs.take k
    let u := if s.sealedAt a p.length then s else (s.unitReady a).wrMain key a p
    let v := if p.length = 128 && !s.sealedAt a 128 then u.setPoison a false else u
    v.unitLines key (a + k) n (bs.drop k)

/-- A write of main memory by one of the device's own units or the firmware. -/
def State.unitWrite (s : State) (key a : Nat) (bs : List Byte) : State := s.unitLines key a (bs.length / 128 + 2) bs
/-- Consecutive 64-bit words so written. -/
def State.unitWords (s : State) (key a : Nat) (ws : List Word) : State := s.unitWrite key a (ws.flatMap (fun x => toBytes 8 x.toNat))
/-- A granule's state so set, unless it lies in a sealed range. -/
def State.unitFull (s : State) (a : Nat) (full : Bool) : State :=
  if s.sealedAt (a / 16 * 16) 16 then s else (s.unitReady a).setFull (a / 16) full

/-- A 64-bit word of main memory under a key slot. -/
def State.rdWord (s : State) (key a : Nat) : Word := BitVec.ofNat 64 (ofBytes (s.rdMain key a 8))
/-! ## Regions of the address space (R8, R9) -/

/-- Where an address lies. -/
inductive Region where
  | main
  | vault (squad byte : Nat)
  | tile (squad tile byte : Nat)
  | host (w off : Nat)
  | control (off : Nat)
  | malformed
  deriving DecidableEq, Repr

/-- The region of an address (R8, R9). Firmware space is out of reach of every core. -/
def regionOf (p : Part) (a : Nat) : Region :=
  let off := a % 2 ^ 48
  match a / 2 ^ 48 % 256 with
  | 0x00 => if off < (match p with | .x4 => 2 ^ 40 | .c2 => 2 ^ 39) then .main else .malformed
  | 0x01 =>
    if off < 2 ^ 31 ∧ off / 2 ^ 22 < p.squads then .vault (off / 2 ^ 22) (off % 2 ^ 22) else .malformed
  | 0x02 =>
    if off < 2 ^ 35 ∧ off / 2 ^ 26 < p.squads then .tile (off / 2 ^ 26) (off / 4096 % 16384) (off % 4096)
    else .malformed
  | 0xFE => .control off
  | n => if 0x10 ≤ n ∧ n ≤ 0x17 then .host (n - 0x10) off else .malformed

/-- The device address of a byte of a squad's vault. -/
def vaultAddr (q byte : Nat) : Nat := 2 ^ 48 + q * 2 ^ 22 + byte

/-- `tinfo` of R123. -/
def accInfo (op why : Nat) (late : Bool) : Word := BitVec.ofNat 64 (op * 4096 + late.toNat * 256 + why)

/-! ## Ownership of squads (R419) -/

/-- The partition of a squad (R419). -/
def State.squadPart (s : State) (q : Nat) : Option Nat :=
  (List.find? (fun (p : Nat × PartSt) =>
    p.2.pstate != .free &&
    decide ((p.2.psqd.extractLsb' 0 12).toNat ≤ q) &&
    decide (q < (p.2.psqd.extractLsb' 0 12).toNat + 2 ^ (p.2.psqd.extractLsb' 12 4).toNat)) s.parts).map Prod.fst

/-- The partition of a core: of its squad, or of its channel; none for a pivot core. -/
def State.corePart (s : State) (c : Nat) : Option Nat :=
  if c < 4096 then s.squadPart (c / 8)
  else if c < 4608 then (if (s.chan (c - 4096)).own then some (s.chan (c - 4096)).part else none)
  else none

/-! ## Traps (R350-R354) -/

/-- The code of a trap class (R350). -/
def TrapClass.code : TrapClass → Nat
  | .illegal => 0x01 | .confine => 0x02 | .unsealed => 0x03 | .revoked => 0x04 | .accOwner => 0x05 | .align => 0x06
  | .notPresent => 0x07 | .port => 0x08 | .format => 0x09 | .memErr => 0x0A | .soft => 0x0B | .preempt => 0x0C
  | .watch => 0x0D | .spillQ => 0x0E

/-- A slot with a record in its core's trap queue, or held with it, is parked (R277, R351). -/
def State.trapped (s : State) (c : Ctx) : Bool :=
  let mine (r : TrapRec) : Bool := r.slot == c.slot && r.cid == c.cid
  (s.core c.core).trapQ.any mine || (s.core c.core).held.any mine

/-- A record in its place in a queue: records enter in the order they are raised, those of one cycle in ascending slot order (R295). -/
def TrapRec.enter (r : TrapRec) : List TrapRec → List TrapRec
  | [] => [r]
  | x :: t => if x.cyc = r.cyc ∧ r.slot < x.slot then r :: x :: t else x :: r.enter t

/-- A record of a slot enters the trap queue of its core, or is held when the queue has one of the slot already (R279, R351). -/
def State.queueTrap (s : State) (core : Nat) (r : TrapRec) : State :=
  s.modCore core (fun k =>
    if k.trapQ.any (fun x => x.slot == r.slot) then { k with held := k.held ++ [r] } else { k with trapQ := r.enter k.trapQ })

/-- The slot of a context parks with a record (R279, R351). -/
def State.raise (s : State) (c : Ctx) (r : TrapRec) : State := (s.place { c with att := false, inHand := none }).queueTrap c.core r

/-- With the record of a slot gone from a queue, the oldest that is held for the slot enters it (R351). -/
def State.nextHeld (s : State) (core slot : Nat) : State :=
  s.modCore core (fun k =>
    match (if k.trapQ.any (fun x => x.slot == slot) then none else List.find? (fun (x : TrapRec) => x.slot == slot) k.held) with
    | none => k
    | some h => { k with trapQ := ({ h with cyc := s.cyc } : TrapRec).enter k.trapQ, held := k.held.erase h })

/-- The registers of slot 15 after a supervisor fault (R354): the entry of its image, `g1`-`g4` the record, and every
other register as R29 gives. -/
def Ctx.restart (c : Ctx) (cls : TrapClass) (pc addr info : Word) : Ctx :=
  { c with
    pc := c.entry, npc := c.entry,
    g := ((((((Ctx.fresh.g.set 1 (BitVec.ofNat 64 cls.code)).set 2 pc).set 3 addr).set 4 info).set 61 c.g[61]).set 62
      c.g[62]),
    gFull := BitVec.allOnes 64, gPend := 0, gPoison := 0, v := Ctx.fresh.v, vFull := BitVec.allOnes 32, vPend := 0,
    vPoison := 0, k := Ctx.fresh.k, kPoison := 0, fcs := 0, ld := 0, st := 0, cp := 0, tl := 0, wait := .none,
    att := false }

/-- A firmware fault record (R357): kind, class, status, domain, tenant, then `clk`, address, `taddr`, and the tag and
core. -/
def State.fwRecord (s : State) (kind cls status fdom tenant : Nat) (a t : Word) (tag core : Nat) : State :=
  { s with fwFaults := s.fwFaults ++ [{
      w0 := BitVec.ofNat 64 (kind + cls * 2 ^ 8 + status * 2 ^ 16 + fdom * 2 ^ 32 + tenant * 2 ^ 48),
      w1 := BitVec.ofNat 64 s.clk, w2 := a, w3 := t, w4 := BitVec.ofNat 64 (tag + core * 2 ^ 16) }] }

/-- The supervisor `c` of a core meets a trap condition (R354). A second fault of the core within 1 ms bars it. -/
def State.supervisorFault (s : State) (c : Ctx) (cls : TrapClass) (pc addr info : Word) : State :=
  let again := match (s.core c.core).supFault with
    | some t => decide (s.clk < t + 1000000)
    | none => false
  ((s.place (c.restart cls pc addr info)).modCore c.core
    (fun k => { k with supFault := some s.clk, barred := k.barred || again })).fwRecord 4 cls.code 0 0 0 pc addr
    c.ctxtag.toNat c.core

/-- TAKING A TRAP: the context in its turn raises a precise trap. In slots 0-14 the record, with `tpc` the address of
the instruction, enters the core's trap queue and the slot parks (R279, R351); in slot 15 the supervisor restarts
(R354). Nothing else changes. `fetch` marks a trap of the fetch itself (R302). -/
def State.takeTrap (s : State) (cls : TrapClass) (addr info : Word) (fetch : Bool) : State :=
  if s.me.slot = 15 then s.supervisorFault s.me cls s.me.pc addr info
  else
    s.raise s.me
      { cls := cls, slot := s.me.slot, cid := s.me.cid, away := s.me.isAway, pc := s.me.pc, addr := addr, info := info,
        late := false, fetch := fetch, next := s.me.npc, cyc := s.cyc }

/-- A trap record for the context of a number, wherever it stands: its slot's core, or the core that it was saved from, which keeps its
records (R351, log 17). In slot 15 the supervisor restarts (R354). -/
def State.postTrap (s : State) (cid : Nat) (f : Ctx → TrapRec) : State :=
  match s.byCid cid with
  | some c =>
    if c.slot = 15 then s.supervisorFault c (f c).cls (f c).pc (f c).addr (f c).info else s.raise c (f c)
  | none =>
    match List.find? (fun (p : Nat × Ctx) => p.2.cid == cid && cid != 0) s.saved with
    | none => s
    | some p => s.queueTrap p.2.core (f p.2)

/-- A late trap of an instruction at `pc` for the context `cid` (R123): the slot resumes at the first instruction it
has not issued. -/
def State.lateTrap (s : State) (cid : Nat) (cls : TrapClass) (pc addr info : Word) : State :=
  s.postTrap cid (fun c =>
    { cls := cls, slot := c.slot, cid := cid, away := c.isAway, pc := pc, addr := addr, info := info, late := true, fetch := false,
      next := c.pc, cyc := s.cyc })

/-- RETURN FROM A TRAP: the slot of record `r` of core `core` continues at `pc` (R302), detached. -/
def State.resumeAt (s : State) (core : Nat) (r : TrapRec) (pc : Word) : State :=
  match s.at? core r.slot with
  | none => s
  | some c =>
    let w := match c.wait with | .syscRoom _ _ => Wait.none | .drain _ _ => Wait.none | w => w
    s.place { c with pc := pc, npc := pc, att := false, inHand := none, wait := w }

/-! ## Threads that leave their slot (R260) -/

/-- The wait counters are all zero, so that no reply is outstanding (R260). -/
def Ctx.quiet (c : Ctx) : Bool := c.ld == 0 && c.st == 0 && c.cp == 0 && c.tl == 0

/-- The thread of slot `c` is sent to a core as `t`, to run there from `pc`; its slot stays parked with its state until a slot is
claimed there, and only then the words in `pops` leave its ports (R28, R260, R261). -/
def State.launch (s : State) (c t : Ctx) (core : Nat) (slot : Option Nat) (dest pc : Word) (back : Bool) (pops : List Reg) : State :=
  let m : ThreadMsg :=
    { ctx := { t with pc := pc, npc := pc, att := false, inHand := none }, core := core, slot := slot,
      fromCore := c.core, fromSlot := c.slot, dest := dest, parent := none, back := back, code := 15, pc := c.pc,
      rejected := false, pops := pops }
  { (s.place { c with wait := .moving, att := false, inHand := none }) with threads := s.threads ++ [m] }

/-- The automatic return of an away thread to its anchor, with the pc at the instruction that needs it (R259). It
parks until the counters are zero (R260). -/
def State.autoReturn (s : State) : State :=
  let c := s.me
  if c.quiet then
    s.launch c c c.anchorCore (if c.anchorMode == .saved then none else some c.anchorSlot)
      (BitVec.ofNat 64 (c.anchorCore + c.anchorSlot * 2 ^ 16)) c.pc true []
  else s.modMe Ctx.bubble

/-- The state after a slot's instruction. A completed instruction advances the pc; a parked one leaves only the
bubble's count; a trap is taken. -/
def runOp (m : Op Unit) (s : State) : State :=
  match m s with
  | .ok r => r.2.modMe Ctx.issue
  | .error .park => s.modMe Ctx.bubble
  | .error (.trap c a i) => s.takeTrap c a i false
  | .error .home => s.autoReturn
  | .error (.go t) => t

/-- The outcome of a slot's instruction: always a next state. -/
def issueOp (m : Op Unit) (s : State) : Host.Outcome State Fault Refusal := .next (runOp m s)

end Sys2Proof.Machine
end

