-- ==== Sys2Proof/Machine/Flags.lean ====
section
/-!
DEFINITION. Floating-point arithmetic (R141-R150, R157, R158, R162-R164, R188-R192, R208): the formats, the exact values
that bits stand for, the one rounding of an exact result, and the flags that it raises.
-/

namespace Sys2Proof.Machine

/-! ## Formats (R141-R143) -/

/-- A floating-point format. -/
structure Fmt where
  /-- exponent width -/
  ew : Nat
  /-- fraction width -/
  fw : Nat
  /-- the code of the largest finite magnitude -/
  top : Nat
  /-- the code of infinity, if it has one -/
  infty : Option Nat
  /-- the canonical NaN; 0 for E2M1, which has none -/
  nan : Nat
  /-- its NaNs may be signalling -/
  sig : Bool

/-- A format with infinities whose largest exponent field is reserved. -/
def Fmt.ieee (ew fw : Nat) (sig : Bool) : Fmt :=
  let i := (2 ^ ew - 1) * 2 ^ fw
  { ew := ew, fw := fw, top := i - 1, infty := some i, nan := i + 2 ^ (fw - 1), sig := sig }

/-- The formats of R141. -/
def fmtOf : FFmt → Fmt
  | .f32 => Fmt.ieee 8 23 true
  | .f64 => Fmt.ieee 11 52 true
  | .f16 => Fmt.ieee 5 10 true
  | .bf16 => Fmt.ieee 8 7 true
  | .e4m3 => { ew := 4, fw := 3, top := 0x7E, infty := none, nan := 0x7F, sig := false }
  | .e5m2 => Fmt.ieee 5 2 false
  | .e2m1 => { ew := 2, fw := 1, top := 0x7, infty := none, nan := 0, sig := false }

/-- The results of R208: binary32 with fraction bits 10:0 zero. -/
def fmtApprox : Fmt := Fmt.ieee 8 12 true

/-- The format of a floating lane type (R194). -/
def fmtOfTy : VTy → Fmt
  | .bf16x2 => fmtOf .bf16
  | .f16x2 => fmtOf .f16
  | _ => fmtOf .f32

/-- Bits of the format. -/
def Fmt.width (f : Fmt) : Nat := f.ew + f.fw + 1
/-- The sign bit's weight. -/
def Fmt.sbit (f : Fmt) : Nat := 2 ^ (f.ew + f.fw)
/-- The exponent bias. -/
def Fmt.bias (f : Fmt) : Int := 2 ^ (f.ew - 1) - 1
/-- The exponent of the least quantum, that of the subnormal values. -/
def Fmt.qmin (f : Fmt) : Int := 1 - f.bias - f.fw
/-- The sign applied to a magnitude's code. -/
def Fmt.signed (f : Fmt) (neg : Bool) (mag : Nat) : Nat := if neg then f.sbit + mag else mag

/-- What a code stands for: a NaN, an infinity, or the number m × 2^e with a sign. -/
inductive Fp where
  | nan (sig : Bool)
  | inf (neg : Bool)
  | num (neg : Bool) (m : Nat) (e : Int)
  deriving DecidableEq, Repr

/-- The value of a code (R141, R142). -/
def Fmt.dec (f : Fmt) (b : Nat) : Fp :=
  let mag := b % f.sbit
  let neg := decide (b / f.sbit % 2 = 1)
  if mag ≤ f.top then
    if mag < 2 ^ f.fw then .num neg mag f.qmin
    else .num neg (2 ^ f.fw + mag % 2 ^ f.fw) (f.qmin + (mag / 2 ^ f.fw - 1 : Nat))
  else if f.infty = some mag then .inf neg
  else .nan (f.sig && decide (mag / 2 ^ (f.fw - 1) % 2 = 0))

/-- A NaN. -/
def Fp.isNan : Fp → Bool
  | .nan _ => true
  | _ => false
/-- A signalling NaN. -/
def Fp.isSig : Fp → Bool
  | .nan s => s
  | _ => false
/-- A zero. -/
def Fp.isZero : Fp → Bool
  | .num _ 0 _ => true
  | _ => false
/-- The sign. -/
def Fp.neg? : Fp → Bool
  | .nan _ => false
  | .inf n => n
  | .num n _ _ => n
/-- The value with its sign changed. -/
def Fp.negate : Fp → Fp
  | .nan s => .nan s
  | .inf n => .inf (!n)
  | .num n m e => .num (!n) m e

/-! ## Modes and flags (R144, R146) -/

/-- The rounding modes of `fcs.rm`. -/
inductive Rm where
  | rne | rtz | rup | rdn
  deriving DecidableEq, Repr

/-- The mode that two bits code. -/
def rmOf (b : BitVec 2) : Rm :=
  if b = 0 then .rne else if b = 1 then .rtz else if b = 2 then .rup else .rdn

/-- `fcs.nv` -/
def flagNv : Word := 0x100
/-- `fcs.dz` -/
def flagDz : Word := 0x080
/-- `fcs.of` -/
def flagOf : Word := 0x040
/-- `fcs.uf` -/
def flagUf : Word := 0x020
/-- `fcs.nx` -/
def flagNx : Word := 0x010
/-- A flag raised when `b` holds. -/
def flagIf (b : Bool) (f : Word) : Word := if b then f else 0

/-- What a conversion does with a result that is too large: R145, or the two ways of R148 and R149. -/
inductive Over where
  | ieee | sat | ns
  deriving DecidableEq, Repr

/-! ## The one rounding (R145, R146) -/

/-- The quotient by 2^s rounded in a mode, and whether it is inexact; `s` may be negative. -/
def shiftRound (mode : Rm) (neg : Bool) (m : Nat) (s : Int) : Nat × Bool :=
  if s ≤ 0 then (m * 2 ^ (-s).toNat, false)
  else
    -- past two bits below the leading bit only the fact that the value is not zero counts
    let t := if s.toNat > Nat.log2 m + 2 then 2 else s.toNat
    let m := if s.toNat > Nat.log2 m + 2 then (if m = 0 then 0 else 1) else m
    let q := m / 2 ^ t
    let r := m % 2 ^ t
    let half := 2 ^ (t - 1)
    let up := match mode with
      | .rne => decide (r > half) || (decide (r = half) && decide (q % 2 = 1))
      | .rtz => false
      | .rup => decide (r ≠ 0) && !neg
      | .rdn => decide (r ≠ 0) && neg
    (if up then q + 1 else q, decide (r ≠ 0))

/-- The code and the flags of a number rounded to a format (R145, R146, R148, R149). -/
def Fmt.round (f : Fmt) (mode : Rm) (ov : Over) (neg : Bool) (m : Nat) (e : Int) : Nat × Word :=
  if m = 0 then (f.signed neg 0, 0)
  else
    let top : Int := (Nat.log2 m : Int) + e
    let qu := top - f.fw
    let q := max qu f.qmin
    let r := shiftRound mode neg m (q - e)
    let mag := (q - f.qmin).toNat * 2 ^ f.fw + r.1
    if mag > f.top then
      let toInf := match mode with
        | .rne => true
        | .rtz => false
        | .rup => !neg
        | .rdn => neg
      let code := match ov with
        | .ieee => if toInf then f.infty.getD f.top else f.top
        | .sat => f.top
        | .ns => f.infty.getD f.nan
      -- the canonical NaN has no sign
      (if ov == .ns && f.infty.isNone then code else f.signed neg code, flagOf ||| flagNx)
    else
      -- the rounding with unbounded exponent stays below the smallest normal
      let ru := shiftRound mode neg m (qu - e)
      let tiny := decide (top < f.qmin + f.fw) &&
        !(decide (top + 1 = f.qmin + f.fw) && decide (ru.1 = 2 ^ (f.fw + 1)))
      (f.signed neg mag, flagIf (r.2 && tiny) flagUf ||| flagIf r.2 flagNx)

/-- The code and the flags of a value rounded to a format that has NaNs and infinities. -/
def Fmt.enc (f : Fmt) (mode : Rm) (x : Fp) : Nat × Word :=
  match x with
  | .nan s => (f.nan, flagIf s flagNv)
  | .inf n => (f.signed n (f.infty.getD f.top), 0)
  | .num n m e => f.round mode .ieee n m e

/-- A conversion from a value to a floating format (R148, R149). -/
def Fmt.conv (f : Fmt) (mode : Rm) (ns : Bool) (x : Fp) : Nat × Word :=
  if f.ew = 4 || (f.ew = 5 && f.fw = 2) || f.ew = 2 then
    let ov : Over := if ns then .ns else .sat
    match x with
    | .nan s => (f.nan, flagIf (s || f.ew == 2) flagNv)
    | .inf n =>
      match f.infty with
      | some i => (f.signed n i, 0)
      | none => (if ns then f.nan else f.signed n f.top, flagNv)
    | .num n m e => f.round .rne ov n m e
  else f.enc mode x

/-! ## Exact arithmetic -/

/-- The exact product, and whether it is invalid: 0 × ∞ (R188, R157). -/
def Fp.mul (x y : Fp) : Fp × Bool :=
  match x, y with
  | .nan s, .nan t => (.nan (s || t), false)
  | .nan s, _ => (.nan s, false)
  | _, .nan s => (.nan s, false)
  | .inf a, .inf b => (.inf (a != b), false)
  | .inf a, .num b m _ => if m = 0 then (.nan false, true) else (.inf (a != b), false)
  | .num a m _, .inf b => if m = 0 then (.nan false, true) else (.inf (a != b), false)
  | .num a m e, .num b n k => (.num (a != b) (m * n) (e + k), false)

/-- The least exponent of the numbers of a list. -/
def minExp : List Fp → Int
  | [] => 0
  | [.num _ _ e] => e
  | .num _ _ e :: r => min e (minExp r)
  | _ :: r => minExp r

/-- A number as a multiple of 2^q, for q at or below its exponent. -/
def Fp.scaled (q : Int) : Fp → Int
  | .num n m e => let v := (m * 2 ^ (e - q).toNat : Int); if n then -v else v
  | _ => 0

/-- The exact sum of a list of terms, with its invalid case ∞ − ∞ (R145, R157). An exact zero takes the sign that every
term has, else + or, rounding down, −. -/
def fpSum (mode : Rm) (l : List Fp) : Fp × Bool :=
  let both := l.any (fun x => x == .inf true) && l.any (fun x => x == .inf false)
  if l.any Fp.isNan then (.nan (l.any Fp.isSig), both)
  else if both then (.nan false, true)
  else if l.any (fun x => x == .inf true) then (.inf true, false)
  else if l.any (fun x => x == .inf false) then (.inf false, false)
  else
    let q := minExp l
    let v := (l.map (Fp.scaled q)).foldl (· + ·) 0
    if v = 0 then
      (.num (if l.all Fp.neg? then true else if l.any Fp.neg? then mode == .rdn else false) 0 0, false)
    else (.num (decide (v < 0)) v.natAbs q, false)

/-- A sum rounded once, with its flags; `nv` is the invalid cases met before. -/
def Fmt.sum (f : Fmt) (mode : Rm) (l : List Fp) (nv : Bool) : Nat × Word :=
  let s := fpSum mode l
  let r := f.enc mode s.1
  (r.1, r.2 ||| flagIf (nv || s.2) flagNv)

/-- x + y (R188). -/
def Fmt.add (f : Fmt) (mode : Rm) (x y : Nat) : Nat × Word := f.sum mode [f.dec x, f.dec y] false
/-- x − y (R188). -/
def Fmt.sub (f : Fmt) (mode : Rm) (x y : Nat) : Nat × Word := f.sum mode [f.dec x, (f.dec y).negate] false
/-- x × y (R188). -/
def Fmt.mul (f : Fmt) (mode : Rm) (x y : Nat) : Nat × Word :=
  let p := (f.dec x).mul (f.dec y)
  let r := f.enc mode p.1
  (r.1, r.2 ||| flagIf p.2 flagNv)

/-- p × q + c with one rounding (R188, R201); `np` and `nc` change the sign of the product and of c. -/
def Fmt.fma (f : Fmt) (mode : Rm) (np nc : Bool) (p q c : Nat) : Nat × Word :=
  let m := (f.dec p).mul (f.dec q)
  let a := if np then m.1.negate else m.1
  let b := if nc then (f.dec c).negate else f.dec c
  let r := f.sum mode [a, b] m.2
  -- a signalling NaN among the operands is invalid beside 0 × ∞ too
  (r.1, r.2)

/-- A number known to lie strictly between m × 2^e and (m + 1) × 2^e when `more` holds. -/
def stick (m : Nat) (more : Bool) : Nat := 2 * m + more.toNat

/-- x ÷ y (R188). -/
def Fmt.div (f : Fmt) (mode : Rm) (x y : Nat) : Nat × Word :=
  match f.dec x, f.dec y with
  | .nan s, .nan t => (f.nan, flagIf (s || t) flagNv)
  | .nan s, _ => (f.nan, flagIf s flagNv)
  | _, .nan s => (f.nan, flagIf s flagNv)
  | .inf _, .inf _ => (f.nan, flagNv)
  | .inf a, .num b _ _ => (f.signed (a != b) (f.infty.getD f.top), 0)
  | .num a _ _, .inf b => (f.signed (a != b) 0, 0)
  | .num a m e, .num b n k =>
    if n = 0 then
      if m = 0 then (f.nan, flagNv) else (f.signed (a != b) (f.infty.getD f.top), flagDz)
    else
      let w := m * 2 ^ 128
      f.round mode .ieee (a != b) (stick (w / n) (decide (w % n ≠ 0))) (e - k - 129)

/-- The square root of n rounded down, one bit at a time from bit k - 1. -/
def isqrtFrom (n : Nat) : Nat → Nat → Nat
  | 0, r => r
  | k + 1, r =>
    let t := r + 2 ^ k
    isqrtFrom n k (if t * t ≤ n then t else r)

/-- The square root of n rounded down. -/
def isqrt (n : Nat) : Nat := isqrtFrom n (Nat.log2 n / 2 + 1) 0

/-- √a (R188). -/
def Fmt.sqrt (f : Fmt) (mode : Rm) (a : Nat) : Nat × Word :=
  match f.dec a with
  | .nan s => (f.nan, flagIf s flagNv)
  | .inf n => if n then (f.nan, flagNv) else (f.signed false (f.infty.getD f.top), 0)
  | .num n m e =>
    if m = 0 then (f.signed n 0, 0)
    else if n then (f.nan, flagNv)
    else
      let m := if e % 2 = 0 then m else 2 * m
      let e := if e % 2 = 0 then e else e - 1
      let w := m * 2 ^ 128
      let r := isqrt w
      f.round mode .ieee false (stick r (decide (r * r ≠ w))) (e / 2 - 65)

/-- The order of two numbers of a format: −0 below +0. -/
def Fmt.key (f : Fmt) (b : Nat) : Int :=
  if b / f.sbit % 2 = 1 then -((b % f.sbit : Nat) : Int) - 1 else (b % f.sbit : Nat)
/-- The order of two numbers of a format in which both zeros are equal. -/
def Fmt.rank (f : Fmt) (b : Nat) : Int :=
  if b / f.sbit % 2 = 1 then -((b % f.sbit : Nat) : Int) else (b % f.sbit : Nat)

/-- minimumNumber and maximumNumber with `nv` (R163, R189). -/
def Fmt.minmax (f : Fmt) (isMax : Bool) (x y : Nat) : Nat × Word :=
  let nx := f.dec x
  let ny := f.dec y
  let fl := flagIf (nx.isSig || ny.isSig) flagNv
  if nx.isNan then (if ny.isNan then f.nan else y, fl)
  else if ny.isNan then (x, fl)
  else (if decide (f.key x < f.key y) != isMax then x else y, fl)

/-- The predicates of FCMP and of VCMP on floating types (R190, R205): x = y, x < y, x ≤ y, unordered. -/
def Fmt.compare (f : Fmt) (c : FPred) (x y : Nat) : Bool × Word :=
  let a := f.dec x
  let b := f.dec y
  let un := a.isNan || b.isNan
  let sig := flagIf (a.isSig || b.isSig) flagNv
  match c with
  | .eq => (!un && decide (f.rank x = f.rank y), sig)
  | .lt => (!un && decide (f.rank x < f.rank y), flagIf un flagNv)
  | .le => (!un && decide (f.rank x ≤ f.rank y), flagIf un flagNv)
  | .un => (un, sig)

/-- FCLASS (R191): the number of the set bit. -/
def Fmt.cls (f : Fmt) (x : Nat) : Nat :=
  match f.dec x with
  | .inf n => if n then 0 else 7
  | .nan s => if s then 8 else 9
  | .num n m _ =>
    if m = 0 then (if n then 3 else 4)
    else if x % f.sbit < 2 ^ f.fw then (if n then 2 else 5)
    else if n then 1 else 6

/-! ## Conversions to and from integers (R150) -/

/-- A value rounded to an integer of the range lo..hi; outside it the limit with `nv`, a NaN 0 with `nv`. -/
def toIntIn (mode : Rm) (lo hi : Int) (x : Fp) : Int × Word :=
  match x with
  | .nan _ => (0, flagNv)
  | .inf n => (if n then lo else hi, flagNv)
  | .num n m e =>
    let r := shiftRound mode n m (-e)
    let v : Int := if n then -(r.1 : Int) else r.1
    if v < lo then (lo, flagNv) else if v > hi then (hi, flagNv) else (v, flagIf r.2 flagNx)

/-- An integer rounded to a floating format; the 8-bit and 4-bit formats follow R148. -/
def Fmt.ofInt (f : Fmt) (mode : Rm) (i : Int) : Nat × Word :=
  f.conv mode false (.num (decide (i < 0)) i.natAbs 0)

/-- An integer clamped to a range. -/
def clampInt (lo hi i : Int) : Int := if i < lo then lo else if i > hi then hi else i

/-! ## Approximations (R208) -/

/-- 1/a. -/
def approxRcp (a : Nat) : Nat × Word :=
  match (fmtOf .f32).dec a with
  | .nan s => (0x7FC00000, flagIf s flagNv)
  | .inf n => ((fmtOf .f32).signed n 0, 0)
  | .num n m e =>
    if m = 0 then ((fmtOf .f32).signed n 0x7F800000, flagDz)
    else
      let w := 2 ^ 128
      let r := fmtApprox.round .rne .ieee n (stick (w / m) (decide (w % m ≠ 0))) (-e - 129)
      (r.1 * 2048, r.2)

/-- 1/√a. -/
def approxRsq (a : Nat) : Nat × Word :=
  match (fmtOf .f32).dec a with
  | .nan s => (0x7FC00000, flagIf s flagNv)
  | .inf n => if n then (0x7FC00000, flagNv) else (0, 0)
  | .num n m e =>
    if m = 0 then ((fmtOf .f32).signed n 0x7F800000, flagDz)
    else if n then (0x7FC00000, flagNv)
    else
      let m := if e % 2 = 0 then m else 2 * m
      let e := if e % 2 = 0 then e else e - 1
      -- 2^100/√m lies between r and r + 1, and is r exactly when r × r × m = 2^200
      let w := 2 ^ 200
      let r := isqrt (w / m)
      let z := fmtApprox.round .rne .ieee false (stick r (decide (r * r * m ≠ w))) (-(e / 2) - 101)
      (z.1 * 2048, z.2)

/-- The rounding of a number that lies strictly between lo × 2^e and hi × 2^e, or the free value of the manual's exact
result where that interval does not decide it (log 5). -/
def approxBetween (op : Nat) (a : Nat) (neg : Bool) (lo hi : Nat) (e : Int) : Nat × Word :=
  let x := fmtApprox.round .rne .ieee neg (4 * lo + 1) (e - 2)
  let y := fmtApprox.round .rne .ieee neg (4 * hi - 1) (e - 2)
  if x = y then (x.1 * 2048, x.2)
  else ((Config.approxOpen op (BitVec.ofNat 32 a)).toNat, flagNx)

/-- Fixed point of the interval evaluation: 96 fraction bits. -/
def fx : Nat := 2 ^ 96

/-- Bounds, times 2^96, of 2 to the power of a binary fraction: `bits` are its bits, most significant first, and
lo..hi bounds 2 to the power of the weight above the next bit. -/
def exp2Bits : List Bool → Nat → Nat → Nat → Nat → Nat × Nat
  | [], _, _, l, h => (l, h)
  | b :: r, rl, rh, l, h =>
    let sl := isqrt (rl * fx)
    let sh := isqrt (rh * fx) + 1
    if b then exp2Bits r sl sh (l * sl / fx) (h * sh / fx + 1) else exp2Bits r sl sh l h

/-- 2^a. -/
def approxExp2 (a : Nat) : Nat × Word :=
  match (fmtOf .f32).dec a with
  | .nan s => (0x7FC00000, flagIf s flagNv)
  | .inf n => (if n then 0 else 0x7F800000, 0)
  | .num n m e =>
    if m = 0 then (0x3F800000, 0)
    else
      -- a clipped to the range that matters, as an integer part and 64 fraction bits rounded down
      let s := shiftRound .rdn n m (-64 - e)
      let t : Int := if n then -(s.1 : Int) else s.1
      let i := clampInt (-1000) 1000 (t / 2 ^ 64)
      let fr := (t % 2 ^ 64).toNat
      if fr = 0 && !s.2 then
        let z := fmtApprox.round .rne .ieee false 1 i
        (z.1 * 2048, z.2)
      else
        let b := exp2Bits ((List.range 64).map (fun j => Nat.testBit fr (63 - j))) (2 * fx) (2 * fx) fx fx
        -- the bits of a below 2^-64 raise the result by less than 2^-64 of it
        approxBetween 0 a false (b.1 - 1) (b.2 + b.2 / 2 ^ 64 + 2) (i - 96)

/-- Bits of log2 of a number between l and h times 2^-256, in 1..2, as far as the bounds decide them. -/
def log2Bits : Nat → Nat → Nat → Nat → Nat → Nat × Nat
  | 0, _, _, v, k => (v, k)
  | n + 1, l, h, v, k =>
    let l2 := l * l / 2 ^ 256
    let h2 := h * h / 2 ^ 256 + 1
    if l2 ≥ 2 ^ 257 then log2Bits n (l2 / 2) (h2 / 2 + 1) (2 * v + 1) (k + 1)
    else if h2 < 2 ^ 257 then log2Bits n l2 h2 (2 * v) (k + 1)
    else (v, k)

/-- log2 a. -/
def approxLog2 (a : Nat) : Nat × Word :=
  match (fmtOf .f32).dec a with
  | .nan s => (0x7FC00000, flagIf s flagNv)
  | .inf n => if n then (0x7FC00000, flagNv) else (0x7F800000, 0)
  | .num n m e =>
    if m = 0 then (0xFF800000, flagDz)
    else if n then (0x7FC00000, flagNv)
    else
      let top : Int := Nat.log2 m + e
      if m = 2 ^ Nat.log2 m then
        let z := fmtApprox.round .rne .ieee (decide (top < 0)) top.natAbs 0
        (z.1 * 2048, z.2)
      else
        let y := m * 2 ^ 256 / 2 ^ Nat.log2 m
        let b := log2Bits 96 y y 0 0
        let t : Int := top * 2 ^ b.2 + b.1
        if t ≥ 0 then approxBetween 1 a false t.toNat (t.toNat + 1) (-b.2)
        else approxBetween 1 a true (-(t + 1)).toNat (-t).toNat (-b.2)

/-! ## The mode and the flags of the slot in its turn (R144, R147) -/

/-- `fcs.rm` of a context. -/
def Ctx.rm (c : Ctx) : Rm := rmOf (c.fcs.extractLsb' 0 2)

/-- Flags OR-ed into `fcs`. -/
def raiseFlags (f : Word) : Op Unit := modS (fun s => s.modMe (fun c => { c with fcs := c.fcs ||| f }))

/-- The rounding mode of the slot. -/
def modeOp : Op Rm := fun s => .ok (s.me.rm, s)

end Sys2Proof.Machine
end

