-- ==== Sys2Proof/Machine/Operands.lean ====
section
/-!
DEFINITION. Reading and writing the registers of the slot in its turn (R26-R28, R43, R364), the gates of R1 and R259,
and the operand forms of the scalar and the lane instructions (R33, R35, R165, R166, R195, R196).
-/

namespace Sys2Proof

/-- The registers that a two-source instruction names. -/
def IntBin.regs (o : IntBin) : List Reg := [o.d, o.s, match o.src with | .reg t => t | _ => 0]

/-- The width of an element (R194). -/
def VTy.width : VTy → Nat
  | .f32 | .s32 | .n32 => 32
  | .bf16x2 | .f16x2 | .s16x2 => 16
  | .s8x4 | .n8x4 => 8
/-- A signed integer type. -/
def VTy.isSigned : VTy → Bool
  | .s32 | .s16x2 | .s8x4 => true
  | _ => false
/-- Elements of a lane. -/
def VTy.count (t : VTy) : Nat := 32 / t.width
end Sys2Proof

namespace Sys2Proof.Machine

/-! ## Which core may run an instruction -/

/-- An instruction that needs a unit of the thread's anchor (R1, R259): an away thread returns first; a core that lacks
the unit traps NOTPRESENT with the unit's number. -/
def needUnit (unit : Nat) : Op Unit := fun s =>
  if s.me.isAway then .error .home
  else if s.part.isBarrel s.me.core then .ok ((), s)
  else .error (.trap .notPresent 0 (BitVec.ofNat 64 unit))

/-- A unit that only barrel cores have, where an away thread does not return (R294). -/
def needBarrel (unit : Nat) : Op Unit := fun s =>
  trapIf (!s.part.isBarrel s.me.core) .notPresent 0 (BitVec.ofNat 64 unit) s

/-- What `unit` asks for; where it would trap NOTPRESENT, an operand that `bad` finds ILLEGAL comes first (R351). -/
def illegalFirst (unit : Op Unit) (bad : Op Unit) : Op Unit := fun s =>
  match unit s with
  | .error (.trap c a i) =>
    match bad s with
    | .error (.trap .illegal b j) => .error (.trap .illegal b j)
    | _ => .error (.trap c a i)
  | r => r

/-- The instruction names these registers as operands: `q0`-`q3` and `bq` need the anchor (R259). -/
def gate (rs : List Reg) : Op Unit := fun s =>
  if rs.any isPort then needUnit 3 s else .ok ((), s)

/-! ## Full/empty, pending and poison of a register -/

/-- `g0`, `rb` and `rl` are always full and are never emptied (R26). -/
def alwaysFull (x : Reg) : Bool := x == 0 || x == 61 || x == 62

/-- The value of an ordinary `g` register: it parks while the register is empty (R27) and traps while it is poisoned
(R364). -/
def readPlain (x : Reg) : Op Word := fun s =>
  if !(alwaysFull x) && !s.me.gFull.getLsbD x.toNat then .error .park
  else if s.me.gPoison.getLsbD x.toNat then
    .error (.trap .memErr (BitVec.ofNat 64 (2 ^ 63 + x.toNat)) 7)
  else .ok (s.me.g[x.toNat], s)

/-- The number of a port register's stream. -/
def portOf (x : Reg) : Fin 4 := ⟨(x.toNat - 56) % 4, Nat.mod_lt _ (by decide)⟩

/-- `tinfo` of a PORT trap (R263). -/
def portInfo (bq : Bool) (k cause : Nat) : Word := BitVec.ofNat 64 (bq.toNat * 128 + k * 16 + cause)

/-- The first word of inbound stream `k` of a context leaves it (R26, R270). When the last word of a message goes, its sender gets one
unit of allowance back. -/
def State.popWord (s : State) (c : Ctx) (k : Fin 4) : State :=
  let st := c.streams[k]
  match st.inn.msgs with
  | [] => s
  | m :: r =>
    match m.words with
    | [] | [_] =>
      { (s.place { c with streams := c.streams.set k { st with inn := { st.inn with msgs := r } } })
        with allowances := s.allowances ++ [(m.core, m.slot, m.strm)] }
    | _ :: ws => s.place { c with streams := c.streams.set k { st with inn := { st.inn with msgs := { m with words := ws } :: r } } }

/-- Pops one word from inbound stream `k` (R26, R270). -/
def popPort (k : Fin 4) : Op Word := fun s =>
  let st := s.me.streams[k]
  if !st.inn.bound then .error (.trap .port 0 (portInfo false k 1))
  else
    match st.inn.msgs with
    | [] => .error .park
    | m :: _ =>
      match m.words with
      | [] => .error .park
      | x :: _ => .ok (x, s.popWord s.me k)

/-- Pops the oldest entry of `bq` (R26). -/
def popBq : Op Word := fun s =>
  match s.me.bq.q with
  | [] => .error .park
  | b :: r => .ok (if b then 1 else 0, s.modMe (fun c => { c with bq := { c.bq with q := r } }))

/-- `read_g(x)` (R43). -/
def readG (x : Reg) : Op Word :=
  if x = 0 then pure 0
  else if x = 60 then popBq
  else if isPort x then popPort (portOf x)
  else readPlain x

/-- A synchronised read (R27): `g0`, the ports and the registers that are always full read plainly (R26). -/
def readSync (x : Reg) : Op Word :=
  if isPort x || alwaysFull x then readG x
  else do
    let y ← readPlain x
    modS (fun s => s.modMe (fun c => { c with gFull := c.gFull &&& ~~~(1#64 <<< x.toNat) }))
    pure y

/-- Sends a message on outbound stream `k` (R270): it parks without allowance. -/
def sendPort (k : Fin 4) (ws : List Word) : Op Unit := fun s =>
  let st := s.me.streams[k]
  if !st.out.bound then .error (.trap .port 0 (portInfo false k 1))
  else if ws.length > st.out.wlim then .error (.trap .port 0 (portInfo false k 4))
  else if st.out.allow = 0 then .error .park
  else
    let m : StreamMsg :=
      { core := st.out.core, slot := st.out.slot, k := st.out.pstrm,
        msg := { core := s.me.core, slot := s.me.slot, strm := k, words := ws }, tenid := s.me.tenid, sender := s.me.cid,
        pc := s.me.pc }
    .ok ((), { (s.modMe (fun c =>
      { c with streams := c.streams.set k { st with out := { st.out with allow := st.out.allow - 1 } } }))
      with streamQ := s.streamQ ++ [m] })

/-- Pushes a bit into the branch-outcome queue that the slot's writes go to (R26, R271). -/
def pushBq (b : Bool) : Op Unit := fun s =>
  if s.me.bq.bound then
    match s.at? s.me.core s.me.bq.slot with
    | none => .error .park
    | some c =>
      if c.bq.q.length ≥ 16 || c.tenid != s.me.tenid then .error .park
      else .ok ((), s.place { c with bq := { c.bq with q := c.bq.q ++ [b] } })
  else if s.me.bq.q.length ≥ 16 then .error .park
  else .ok ((), s.modMe (fun c => { c with bq := { c.bq with q := c.bq.q ++ [b] } }))

/-- A value placed in a `g` register: full, not pending, not poisoned. -/
def Ctx.setG (c : Ctx) (x : Reg) (v : Word) : Ctx :=
  { c with g := c.g.set x.toNat v, gFull := c.gFull ||| (1#64 <<< x.toNat), gPend := c.gPend &&& ~~~(1#64 <<< x.toNat),
           gPoison := c.gPoison &&& ~~~(1#64 <<< x.toNat) }

/-- A `g` register marked pending and empty (R27). -/
def Ctx.pendG (c : Ctx) (x : Reg) : Ctx :=
  { c with gFull := c.gFull &&& ~~~(1#64 <<< x.toNat), gPend := c.gPend ||| (1#64 <<< x.toNat) }

/-- `write_g(x, v)` (R43): `g0` discards, a port sends, a pending register parks. -/
def writeG (x : Reg) (v : Word) : Op Unit :=
  if x = 0 then pure ()
  else if x = 60 then pushBq (v.getLsbD 0)
  else if isPort x then sendPort (portOf x) [v]
  else fun s =>
    if s.me.gPend.getLsbD x.toNat then .error .park
    else .ok ((), s.modMe (fun c => c.setG x v))

/-- Parks, or traps, as the write of a register would, without writing (R27, R43). -/
def readyG (x : Reg) : Op Unit := fun s =>
  match writeG x 0 s with
  | .ok _ => .ok ((), s)
  | .error e => .error e

/-- Parks as the write of a register would. An unbound port traps later, when the value is written (R125, R127, R351). -/
def roomG (x : Reg) : Op Unit := fun s =>
  match writeG x 0 s with
  | .error .park => .error .park
  | _ => .ok ((), s)

/-- Parks while an ordinary destination is pending, where an entry marks it before it writes (R27). -/
def freeG (x : Reg) : Op Unit := fun s =>
  if x ≠ 0 && !isPort x && s.me.gPend.getLsbD x.toNat then .error .park else .ok ((), s)

/-! ## Vector and mask registers -/

/-- Lane i of a vector value (R194). -/
def lane (v : VWord) (i : Nat) : BitVec 32 := v.extractLsb' (32 * i) 32
/-- The vector value of a list of lanes, lane 0 first. -/
def ofLanes : List (BitVec 32) → VWord
  | [] => 0
  | x :: r => (ofLanes r <<< 32) ||| x.setWidth 512
/-- The sixteen lane numbers. -/
def lanes16 : List Nat := List.range 16
/-- The vector value of a function on lanes. -/
def genLanes (f : Nat → BitVec 32) : VWord := ofLanes (lanes16.map f)

/-- `v` in the reading of R43: it parks while empty, traps while poisoned (R364). -/
def readV (x : Reg) : Op VWord := fun s =>
  if !s.me.vFull.getLsbD x.toNat then .error .park
  else if s.me.vPoison.getLsbD x.toNat then
    .error (.trap .memErr (BitVec.ofNat 64 (2 ^ 63 + 64 + x.toNat)) 7)
  else .ok (s.me.v[x.toNat % 32]'(Nat.mod_lt _ (by decide)), s)

/-- A synchronised read of a vector register. -/
def readVSync (x : Reg) : Op VWord := do
  let y ← readV x
  modS (fun s => s.modMe (fun c => { c with vFull := c.vFull &&& ~~~(1#32 <<< x.toNat) }))
  pure y

/-- Enabled lanes of `v`, the other lanes of `old` (R196). -/
def blend (mask : BitVec 16) (v old : VWord) : VWord :=
  genLanes (fun i => if mask.getLsbD i then lane v i else lane old i)

/-- A vector register written in its enabled lanes: full; a write of every lane clears the poison (R364). -/
def Ctx.setV (c : Ctx) (x : Reg) (mask : BitVec 16) (v : VWord) : Ctx :=
  let i := x.toNat % 32
  { c with v := c.v.set i (blend mask v (c.v[i]'(Nat.mod_lt _ (by decide)))) (Nat.mod_lt _ (by decide)),
           vFull := c.vFull ||| (1#32 <<< x.toNat), vPend := c.vPend &&& ~~~(1#32 <<< x.toNat),
           vPoison := if mask = BitVec.allOnes 16 then c.vPoison &&& ~~~(1#32 <<< x.toNat) else c.vPoison }

/-- A vector register marked pending and empty (R27). -/
def Ctx.pendV (c : Ctx) (x : Reg) : Ctx :=
  { c with vFull := c.vFull &&& ~~~(1#32 <<< x.toNat), vPend := c.vPend ||| (1#32 <<< x.toNat) }

/-- Parks while a vector destination is pending (R27). -/
def freeV (x : Reg) : Op Unit := fun s => if s.me.vPend.getLsbD x.toNat then .error .park else .ok ((), s)

/-- Writes the enabled lanes of a vector register (R43, R196). -/
def writeV (x : Reg) (mask : BitVec 16) (v : VWord) : Op Unit := do
  freeV x
  modS (fun s => s.modMe (fun c => c.setV x mask v))

/-- A mask register; `k0` reads as all ones (R26). A poisoned one traps as its use is made; the manual names no address
code for it, so `taddr` is a free value (R364, log 9). -/
def readK (x : BitVec 3) : Op (BitVec 16) := fun s =>
  if x = 0 then .ok (BitVec.allOnes 16, s)
  else if s.me.kPoison.getLsbD x.toNat then .error (.trap .memErr (Config.kCode x.toNat) 7)
  else .ok (s.me.k[x.toNat], s)

/-- Writes a mask register. -/
def writeK (x : BitVec 3) (v : BitVec 16) : Op Unit :=
  modS (fun s => s.modMe (fun c => { c with k := c.k.set x.toNat v, kPoison := c.kPoison &&& ~~~(1#8 <<< x.toNat) }))

/-! ## Selectors, modifiers and immediates -/

/-- The immediate of PXI payloads and an own field of `k` bits, sign-extended (R33). -/
def immS (p : Pxi) (k : Nat) (own : Nat) : Word := (BitVec.ofNat (10 * p.length + k) (immOwn p k own)).signExtend 64

/-- A field of `n` bits at bit `o` of a 32-bit value, extended to `w` bits. -/
def fieldExt (w n o : Nat) (signed : Bool) (x : BitVec 32) : BitVec w :=
  let f := x.extractLsb' o n
  if signed then f.signExtend w else f.setWidth w

/-- Step 2 of R35 on a scalar operand. -/
def selectG (sel : Sel) (signed : Bool) (x : Word) : Word :=
  let lo := x.extractLsb' 0 32
  match sel with
  | .all => x
  | .half i => fieldExt 64 16 (16 * i.toNat) signed lo
  | .byte i => fieldExt 64 8 (8 * i.toNat) signed lo
  | .nib i => fieldExt 64 4 (4 * i.toNat) signed lo

/-- Step 3 of R35 on an integer operand of page 0. -/
def modG (m : SMod) (x : Word) : Word :=
  match m with
  | .neg => -x
  | .abs => if x.msb then -x else x
  | _ => x

/-- `read_s()` of page 0 (R43, R166). -/
def readS (s : Reg) (q : Pxs) (signed : Bool) : Op Word := do
  let x ← if q.smod = .sync then readSync s else readG s
  pure (modG q.smod (selectG q.sel signed x))

/-- `int_operands()` (R165). -/
def intOperands (o : IntBin) (signed : Bool) : Op (Word × Word) :=
  match o.src with
  | .imm p => do
    let x ← readS o.s o.q signed
    pure (x, immS p 0 0)
  | .reg t => do
    let x ← readS o.s o.q signed
    let y ← readG t
    pure (x, y)
  | .two => do
    let y ← readS o.s o.q signed
    let x ← readG o.d
    pure (x, y)

/-! ## Lane operands -/

/-- Element `j` of a lane. -/
def elemOf (t : VTy) (x : BitVec 32) (j : Nat) : BitVec 32 := (x >>> (t.width * j)) &&& (BitVec.ofNat 32 (2 ^ t.width - 1))
/-- The lane of a list of elements, element 0 first. -/
def ofElems (t : VTy) : List (BitVec 32) → BitVec 32
  | [] => 0
  | e :: r => (ofElems t r <<< t.width) ||| (e &&& (BitVec.ofNat 32 (2 ^ t.width - 1)))
/-- The lane whose element `j` is `f j`. -/
def genElems (t : VTy) (f : Nat → BitVec 32) : BitVec 32 := ofElems t ((List.range t.count).map f)
/-- The value of an element as an integer. -/
def elemInt (t : VTy) (e : BitVec 32) : Int :=
  if t.isSigned then (e.setWidth t.width).toInt else ((e.setWidth t.width).toNat : Int)

/-- Step 2 of R35 on a lane. -/
def selectLane (t : VTy) (sel : Sel) (x : BitVec 32) : BitVec 32 :=
  let pick (n o : Nat) : BitVec 32 := fieldExt 32 n o t.isSigned x
  match sel with
  | .all => x
  | .half i =>
    match t with
    | .bf16x2 | .f16x2 => let h := x.extractLsb' (16 * i.toNat) 16; h ++ h
    | _ => pick 16 (16 * i.toNat)
  | .byte i => pick 8 (8 * i.toNat)
  | .nib i => pick 4 (4 * i.toNat)

/-- Step 3 of R35 on an element: a sign bit on floating types, two's complement on integer ones; the absolute value of an
unsigned element is the element. -/
def modElem (t : VTy) (m : SMod) (e : BitVec 32) : BitVec 32 :=
  let sb := BitVec.ofNat 32 (2 ^ (t.width - 1))
  match m with
  | .neg => if t.isFloat then e ^^^ sb else -e
  | .abs =>
    if t.isFloat then e &&& ~~~sb
    else if t.isSigned && (e &&& sb) != 0 then -e else e
  | _ => e

/-- Steps 2 and 3 of R35 on a lane. -/
def qualLane (t : VTy) (q : Pxs) (x : BitVec 32) : BitVec 32 :=
  let y := selectLane t q.sel x
  genElems t (fun j => modElem t q.smod (elemOf t y j))

/-- `read_s()` of page 1 (R195). -/
def readVS (t : VTy) (s : Reg) (q : Pxs) : Op VWord := do
  let x ← if q.smod = .sync then readVSync s else readV s
  pure (genLanes (fun i => qualLane t q (lane x i)))

/-- The immediate broadcast at the element width (R195). -/
def broadcast (t : VTy) (x : Word) : VWord := genLanes (fun _ => genElems t (fun _ => x.setWidth 32))

/-- `vec_operands()` (R195). -/
def vecOperands (o : VBin) : Op (VWord × VWord) :=
  match o.src with
  | .imm p => do
    let x ← readVS o.ty o.s o.q
    pure (x, broadcast o.ty (immS p 0 0))
  | .reg t => do
    let x ← readVS o.ty o.s o.q
    let y ← readV t
    pure (x, y)
  | .two => do
    let y ← readVS o.ty o.s o.q
    let x ← readV o.d
    pure (x, y)

end Sys2Proof.Machine
end

