-- ==== Sys2Proof/Machine/Integer.lean ====
section
/-!
DEFINITION. The integer instructions of page 0 (R165-R175).
-/

namespace Sys2Proof.Machine

/-! ## Shared forms -/

/-- The outcome of a move. -/
abbrev Res := Host.Outcome State Fault Refusal

/-- A two-source instruction that writes `f x y` (R165, R166); `signed` is the extension of a selected field. -/
def intBin (signed : Bool) (f : Word → Word → Word) (o : IntBin) : Op Unit := do
  gate o.regs
  let r ← intOperands o signed
  writeG o.d (f r.1 r.2)

/-- The operand of a unary instruction (R171). -/
def unOperand (src : UnSrc) : Op Word :=
  match src with
  | .reg s q => readS s q false
  | .imm p => pure (immS p 0 0)

/-- The registers of a unary operand. -/
def UnSrc.regs : UnSrc → List Reg
  | .reg s _ => [s]
  | .imm _ => []

/-- A unary instruction that writes `f a` (R171). -/
def intUn (f : Word → Word) (o : IntUn) : Op Unit := do
  gate (o.d :: UnSrc.regs o.src)
  let a ← unOperand o.src
  writeG o.d (f a)

/-! ## Functions of the table of R167 -/

/-- The lesser of two values, signed. -/
def sMin (x y : Word) : Word := if BitVec.slt y x then y else x
/-- The greater of two values, signed. -/
def sMax (x y : Word) : Word := if BitVec.slt x y then y else x
/-- The lesser of two values, unsigned. -/
def uMin (x y : Word) : Word := if BitVec.ult y x then y else x
/-- The greater of two values, unsigned. -/
def uMax (x y : Word) : Word := if BitVec.ult x y then y else x
/-- A shift count: bits 5:0. -/
def shCount (y : Word) : Nat := (y.extractLsb' 0 6).toNat
/-- Bits 127:64 of the signed product. -/
def mulHigh (x y : Word) : Word := (x.signExtend 128 * y.signExtend 128).extractLsb' 64 64
/-- Bits 127:64 of the unsigned product. -/
def mulHighN (x y : Word) : Word := (x.setWidth 128 * y.setWidth 128).extractLsb' 64 64
/-- The quotient, towards zero (R168). -/
def divS (x y : Word) : Word := if y = 0 then BitVec.allOnes 64 else BitVec.ofInt 64 (x.toInt.tdiv y.toInt)
/-- The unsigned quotient (R168). -/
def divU (x y : Word) : Word := if y = 0 then BitVec.allOnes 64 else BitVec.ofNat 64 (x.toNat / y.toNat)
/-- The remainder, with the sign of x (R168). -/
def remS (x y : Word) : Word := if y = 0 then x else BitVec.ofInt 64 (x.toInt.tmod y.toInt)
/-- The unsigned remainder (R168). -/
def remU (x y : Word) : Word := if y = 0 then x else BitVec.ofNat 64 (x.toNat % y.toNat)
/-- Leading zero bits (R171). -/
def clz64 (a : Word) : Word := BitVec.ofNat 64 (if a = 0 then 64 else 63 - Nat.log2 a.toNat)
/-- Trailing zero bits (R171): the bits below the lowest one bit. -/
def ctz64 (a : Word) : Word := BitVec.ofNat 64 (if a = 0 then 64 else Nat.log2 (a &&& -a).toNat)
/-- One bits of the low n bits of a number. -/
def popCount : Nat → Nat → Nat
  | 0, _ => 0
  | n + 1, x => x % 2 + popCount n (x / 2)
/-- One bits (R171). -/
def popc64 (a : Word) : Word := BitVec.ofNat 64 (popCount 64 a.toNat)
/-- The width of SEXT and ZEXT. -/
def extBits (w : ExtW) : Nat := match w with | .w8 => 8 | .w16 => 16 | .w32 => 32

/-! ## The instructions -/

/-- NOP (R23) has no effect. -/
def execNop (s : State) : Res := issueOp (pure ()) s
/-- MOV. -/
def execMov (o : IntUn) (s : State) : Res := issueOp (intUn id o) s
/-- CLZ. -/
def execClz (o : IntUn) (s : State) : Res := issueOp (intUn clz64 o) s
/-- CTZ. -/
def execCtz (o : IntUn) (s : State) : Res := issueOp (intUn ctz64 o) s
/-- POPC. -/
def execPopc (o : IntUn) (s : State) : Res := issueOp (intUn popc64 o) s
/-- ADD. -/
def execAdd (o : IntBin) (s : State) : Res := issueOp (intBin false (· + ·) o) s
/-- SUB. -/
def execSub (o : IntBin) (s : State) : Res := issueOp (intBin false (· - ·) o) s
/-- AND. -/
def execAnd (o : IntBin) (s : State) : Res := issueOp (intBin false (· &&& ·) o) s
/-- OR. -/
def execOr (o : IntBin) (s : State) : Res := issueOp (intBin false (· ||| ·) o) s
/-- XOR. -/
def execXor (o : IntBin) (s : State) : Res := issueOp (intBin false (· ^^^ ·) o) s
/-- ANDN: x and not y. -/
def execAndn (o : IntBin) (s : State) : Res := issueOp (intBin false (fun x y => x &&& ~~~y) o) s
/-- MIN, signed. -/
def execMin (o : IntBin) (s : State) : Res := issueOp (intBin true sMin o) s
/-- MAX, signed. -/
def execMax (o : IntBin) (s : State) : Res := issueOp (intBin true sMax o) s
/-- MINN, unsigned. -/
def execMinn (o : IntBin) (s : State) : Res := issueOp (intBin false uMin o) s
/-- MAXN, unsigned. -/
def execMaxn (o : IntBin) (s : State) : Res := issueOp (intBin false uMax o) s
/-- SEL (R169): reads s, t, then d as its condition; y is 0 without PXR and PXI. -/
def execSel (o : IntBin) (s : State) : Res :=
  issueOp (do
    gate o.regs
    let x ← readS o.s o.q false
    let y ← match o.src with
      | .imm p => pure (immS p 0 0)
      | .reg t => readG t
      | .two => pure 0
    let c ← readG o.d
    writeG o.d (if c ≠ 0 then x else y)) s
/-- SHL. -/
def execShl (o : IntBin) (s : State) : Res := issueOp (intBin false (fun x y => x <<< shCount y) o) s
/-- SHRA. -/
def execShra (o : IntBin) (s : State) : Res := issueOp (intBin true (fun x y => x.sshiftRight (shCount y)) o) s
/-- SHRL. -/
def execShrl (o : IntBin) (s : State) : Res := issueOp (intBin false (fun x y => x >>> shCount y) o) s
/-- ROTL. -/
def execRotl (o : IntBin) (s : State) : Res := issueOp (intBin false (fun x y => x.rotateLeft (shCount y)) o) s
/-- MUL. -/
def execMul (o : IntBin) (s : State) : Res := issueOp (intBin false (· * ·) o) s
/-- MULH. -/
def execMulh (o : IntBin) (s : State) : Res := issueOp (intBin true mulHigh o) s
/-- MULHN. -/
def execMulhn (o : IntBin) (s : State) : Res := issueOp (intBin false mulHighN o) s
/-- DIV (R168). -/
def execDiv (o : IntBin) (s : State) : Res := issueOp (intBin true divS o) s
/-- DIVN (R168). -/
def execDivn (o : IntBin) (s : State) : Res := issueOp (intBin false divU o) s
/-- REM (R168). -/
def execRem (o : IntBin) (s : State) : Res := issueOp (intBin true remS o) s
/-- REMN (R168). -/
def execRemn (o : IntBin) (s : State) : Res := issueOp (intBin false remU o) s

/-- SEXT (R171): the low bits of the operand, sign-extended. -/
def execSext (o : ExtOp) (s : State) : Res :=
  issueOp (do
    gate [o.d, o.s]
    let a ← readS o.s o.q true
    writeG o.d ((a.setWidth (extBits o.w)).signExtend 64)) s
/-- ZEXT (R171). -/
def execZext (o : ExtOp) (s : State) : Res :=
  issueOp (do
    gate [o.d, o.s]
    let a ← readS o.s o.q false
    writeG o.d ((a.setWidth (extBits o.w)).setWidth 64)) s

/-- The condition of CMP, before m6[0] (R170). -/
def cmpHolds (c : CmpCond) (x y : Word) : Bool :=
  match c with
  | .eq => x == y
  | .lt => BitVec.slt x y
  | .ltn => BitVec.ult x y
  | .le => BitVec.sle x y
/-- CMP (R170); its lt and le take a selected field with its sign (R166). -/
def execCmp (c : CmpCond) (inv : Bool) (o : IntBin) (s : State) : Res :=
  issueOp (intBin (c == .lt || c == .le) (fun x y => if cmpHolds c x y != inv then 1 else 0) o) s

/-- ADD, immediate form (R172). -/
def execAddImm (o : RegImm) (s : State) : Res :=
  issueOp (do
    gate [o.d]
    let x ← readG o.d
    writeG o.d (x + immS o.p 6 o.i.toNat)) s
/-- MOV, immediate form (R172). -/
def execMovImm (o : RegImm) (s : State) : Res :=
  issueOp (do
    gate [o.d]
    writeG o.d (immS o.p 6 o.i.toNat)) s

/-- EXTB (R173). -/
def execExtb (o : FieldOp) (s : State) : Res :=
  issueOp (do
    gate [o.d, o.s]
    let a ← readS o.s o.q false
    writeG o.d ((a >>> o.pos.toNat) &&& BitVec.ofNat 64 (2 ^ o.wid.toNat - 1))) s
/-- INSB (R173): the operands are read s first, then d. -/
def execInsb (o : FieldOp) (s : State) : Res :=
  issueOp (do
    gate [o.d, o.s]
    let a ← readS o.s o.q false
    let x ← readG o.d
    let m : Word := BitVec.ofNat 64 (2 ^ o.wid.toNat - 1) <<< o.pos.toNat
    writeG o.d ((x &&& ~~~m) ||| ((a <<< o.pos.toNat) &&& m))) s

/-- LEA (R174). -/
def execLea (o : LeaOp) (s : State) : Res :=
  issueOp (do
    gate [o.d, o.s, o.t]
    let b ← readG o.s
    let i ← readG o.t
    writeG o.d (b + (i <<< o.f.toNat) + immS o.p 0 0)) s

/-- The length of BND (R175). -/
def bndLen (l : BndLen) : Nat :=
  match l with
  | .size f => if f = 0 then 1 else if f = 1 then 8 else if f = 2 then 16 else 64
  | .imm p => immN p
/-- BND (R175): a range outside the region traps CONFINE with the checked address. -/
def execBnd (d src : Reg) (len : BndLen) (s : State) : Res :=
  issueOp (do
    gate [d, src]
    let a ← readG src
    let lo ← readG 61
    let hi ← readG 62
    let n := bndLen len
    trapIf (decide (a.toNat < lo.toNat) || decide (hi.toNat < a.toNat + n)) .confine a
      (BitVec.ofNat 64 (n * 2 ^ 20 + 16 * 2 ^ 12))
    writeG d a) s

end Sys2Proof.Machine
end

