-- ==== Sys2Proof/Machine/Float.lean ====
section
/-!
DEFINITION. The scalar floating-point instructions of page 4 (R187-R192).
-/

namespace Sys2Proof.Machine

/-- The format of a `.s` or `.d` operand (R187). -/
def fmtS (dbl : Bool) : Fmt := if dbl then fmtOf .f64 else fmtOf .f32

/-- The bits of an operand (R187). -/
def bitsS (dbl : Bool) (x : Word) : Nat := if dbl then x.toNat else x.toNat % 2 ^ 32

/-- A sign modifier on a code of a floating format: it flips or clears the sign bit (R35, R187). -/
def modF (f : Fmt) (m : SMod) (x : Nat) : Nat :=
  match m with
  | .neg => if x / f.sbit % 2 = 1 then x - f.sbit else x + f.sbit
  | .abs => if x / f.sbit % 2 = 1 then x - f.sbit else x
  | _ => x

/-- `read_s()` of page 4 (R43, R187). -/
def readF (dbl : Bool) (s : Reg) (m : SMod) : Op Nat := do
  let x ← if m = .sync then readSync s else readG s
  pure (modF (fmtS dbl) m (bitsS dbl x))

/-- The operands of a binary instruction (R187): x := s and y := t with PXR, else y := s and x := d. -/
def fltOperands (o : FBin) : Op (Nat × Nat) :=
  match o.src with
  | some t => do
    let x ← readF o.dbl o.s o.m
    let y ← readG t
    pure (x, bitsS o.dbl y)
  | none => do
    let y ← readF o.dbl o.s o.m
    let x ← readG o.d
    pure (bitsS o.dbl x, y)

/-- A result and its flags, written zero-extended. -/
def putF (d : Reg) (r : Nat × Word) : Op Unit := do
  writeG d (BitVec.ofNat 64 r.1)
  raiseFlags r.2

/-- A binary instruction in `fcs.rm`. -/
def fltBin (f : Fmt → Rm → Nat → Nat → Nat × Word) (o : FBin) : Op Unit := do
  gate [o.d, o.s, o.src.getD 0]
  let r ← fltOperands o
  let m ← modeOp
  putF o.d (f (fmtS o.dbl) m r.1 r.2)

/-- FADD. -/
def execFadd (o : FBin) (s : State) : Res := issueOp (fltBin Fmt.add o) s
/-- FSUB. -/
def execFsub (o : FBin) (s : State) : Res := issueOp (fltBin Fmt.sub o) s
/-- FMUL. -/
def execFmul (o : FBin) (s : State) : Res := issueOp (fltBin Fmt.mul o) s
/-- FDIV. -/
def execFdiv (o : FBin) (s : State) : Res := issueOp (fltBin Fmt.div o) s
/-- FMA (R188): s × t + d with one rounding. -/
def execFma (dbl : Bool) (d src t : Reg) (m : SMod) (s : State) : Res :=
  issueOp (do
    gate [d, src, t]
    let p ← readF dbl src m
    let q ← readG t
    let c ← readG d
    let rm ← modeOp
    putF d ((fmtS dbl).fma rm false false p (bitsS dbl q) (bitsS dbl c))) s
/-- FSQRT. -/
def execFsqrt (o : FUn) (s : State) : Res :=
  issueOp (do
    gate [o.d, o.s]
    let a ← readF o.dbl o.s o.m
    let rm ← modeOp
    putF o.d ((fmtS o.dbl).sqrt rm a)) s
/-- FMIN (R189). -/
def execFmin (o : FBin) (s : State) : Res := issueOp (fltBin (fun f _ => f.minmax false) o) s
/-- FMAX (R189). -/
def execFmax (o : FBin) (s : State) : Res := issueOp (fltBin (fun f _ => f.minmax true) o) s
/-- FCMP (R190). -/
def execFcmp (c : FPred) (o : FBin) (s : State) : Res :=
  issueOp (fltBin (fun f _ x y => ((f.compare c x y).1.toNat, (f.compare c x y).2)) o) s
/-- FCLASS (R191). -/
def execFclass (o : FUn) (s : State) : Res :=
  issueOp (do
    gate [o.d, o.s]
    let a ← readF o.dbl o.s o.m
    putF o.d (2 ^ (fmtS o.dbl).cls a, 0)) s

/-! ## FCVT (R192) -/

/-- The least and the greatest value of an integer format. -/
def intRange : IFmt → Int × Int
  | .s32 => (-(2 ^ 31), 2 ^ 31 - 1)
  | .n32 => (0, 2 ^ 32 - 1)
  | .s64 => (-(2 ^ 63), 2 ^ 63 - 1)
  | .n64 => (0, 2 ^ 64 - 1)

/-- The value of an integer operand. -/
def intIn (f : IFmt) (x : Word) : Int :=
  match f with
  | .s32 => (x.extractLsb' 0 32).toInt
  | .n32 => ((x.extractLsb' 0 32).toNat : Int)
  | .s64 => x.toInt
  | .n64 => (x.toNat : Int)

/-- A sign modifier on an integer source: two's complement at its width; the absolute value of an unsigned one is itself (log 13). -/
def modI (f : IFmt) (m : SMod) (x : Word) : Word :=
  match m with
  | .neg => -x
  | .abs => if intIn f x < 0 then -x else x
  | _ => x

/-- The conversion of a register's value. -/
def cvt (k : CvtKind) (rm : Rm) (m : SMod) (x : Word) : Word × Word :=
  let src (f : FFmt) : Fp := (fmtOf f).dec (modF (fmtOf f) m (x.toNat % 2 ^ (fmtOf f).width))
  match k with
  | .ff a b => let r := (fmtOf b).conv rm false (src a); (BitVec.ofNat 64 r.1, r.2)
  | .ns a b => let r := (fmtOf b).conv rm true (src a); (BitVec.ofNat 64 r.1, r.2)
  | .fi a rtz b =>
    let r := toIntIn (if rtz then .rtz else rm) (intRange b).1 (intRange b).2 (src a)
    (BitVec.ofInt 64 r.1, r.2)
  | .if_ a b => let r := (fmtOf b).ofInt rm (intIn a (modI a m x)); (BitVec.ofNat 64 r.1, r.2)

/-- FCVT. -/
def execFcvt (k : CvtKind) (d src : Reg) (m : SMod) (s : State) : Res :=
  issueOp (do
    gate [d, src]
    let x ← if m = .sync then readSync src else readG src
    let rm ← modeOp
    let r := cvt k rm m x
    writeG d r.1
    raiseFlags r.2) s

end Sys2Proof.Machine
end

