-- ==== Sys2Proof/Machine/Rcb.lean ====
section
/-!
DEFINITION. The RCB tree (R335-R337): nodes in main memory, the effective value of a field group, and the values that a
context latches. Nodes are read under key slot 0, the policy core's own (DEDUCED, log 10).
-/

namespace Sys2Proof.Machine

/-- Word `i` of the RCB at an address. -/
def State.rcbWord (s : State) (a i : Nat) : Word := s.rdWord 0 (a % 2 ^ 56 + 8 * i)

/-- Bits hi:lo of a word as a number. -/
def fld (x : Word) (hi lo : Nat) : Nat := (x.extractLsb' lo (hi - lo + 1)).toNat

/-- The parent of an RCB. -/
def State.rcbParent (s : State) (a : Nat) : Nat := fld (s.rcbWord a 0) 55 0
/-- The level of an RCB. -/
def State.rcbLevel (s : State) (a : Nat) : Nat := fld (s.rcbWord a 4) 38 36

/-- The nearest node, this one included, that gives field group `g` (R336). The tree has at most 8 levels. -/
def State.rcbGiver (s : State) (a g : Nat) : Nat → Nat
  | 0 => a
  | n + 1 =>
    if (s.rcbWord a 3).getLsbD g || s.rcbParent a == 0 then a else s.rcbGiver (s.rcbParent a) g n

/-- Word `i` of the node that gives group `g` to the RCB at `a`. -/
def State.effWord (s : State) (a g i : Nat) : Word := s.rcbWord (s.rcbGiver a g 8) i

/-- The effective values of an RCB (R336). -/
def State.rcbEff (s : State) (a : Nat) : RcbEff :=
  let w (g i hi lo : Nat) : Nat := fld (s.effWord a g i) hi lo
  { tenant := w 0 4 15 0, key := w 1 4 22 16, prio := w 2 4 27 24, mweight := w 3 4 31 28, hslots := w 4 4 35 32,
    sfloor := w 5 5 15 0, scap := w 5 5 31 16, bfloor := w 6 6 15 0, bcap := w 6 6 31 16, wlist := w 7 6 42 32,
    uqueue := w 7 6 48 43, fbytes := w 8 7 31 0, fdom := w 9 8 15 0, frec := w 9 9 55 0, xtab := w 10 10 55 0,
    xlen := w 10 11 16 0, save := w 11 12 55 0 }

/-- The values of groups 2-8 renewed, the others kept (R337). -/
def RcbEff.renew (old new : RcbEff) : RcbEff :=
  { new with tenant := old.tenant, key := old.key, fdom := old.fdom, frec := old.frec, xtab := old.xtab,
             xlen := old.xlen, save := old.save }

/-- The ancestor of an RCB at a level, or the root of its chain. -/
def State.rcbAt (s : State) (a level : Nat) : Nat → Nat
  | 0 => a
  | n + 1 => if s.rcbLevel a ≤ level || s.rcbParent a == 0 then a else s.rcbAt (s.rcbParent a) level n

/-- The level-1 RCB above an RCB. -/
def State.rcbTenantNode (s : State) (a : Nat) : Nat := s.rcbAt a 1 8
/-- The partition root above an RCB. -/
def State.rcbRoot (s : State) (a : Nat) : Nat := s.rcbAt a 0 8

/-- The first node of a chain of siblings whose group 0 names a tenant; the chain has at most `n` nodes. -/
def State.rcbSibling (s : State) (tenant : Nat) : Nat → Nat → Option Nat
  | _, 0 => none
  | a, n + 1 =>
    if a = 0 then none
    else if fld (s.rcbWord a 4) 15 0 = tenant then some a
    else s.rcbSibling tenant (fld (s.rcbWord a 2) 55 0) n

/-- The level-1 RCB of a tenant of a partition (R71, R335). -/
def State.tenantRcb (s : State) (part tenant : Nat) : Option Nat :=
  let root := fld (s.partn part).prcb 55 0
  if root = 0 then none else s.rcbSibling tenant (fld (s.rcbWord root 1) 55 0) 65536

/-- A chain of siblings of at most `n` nodes. -/
def State.rcbChain (s : State) : Nat → Nat → List Nat
  | _, 0 => []
  | a, n + 1 => if a = 0 then [] else a :: s.rcbChain (fld (s.rcbWord a 2) 55 0) n

/-- The level-1 RCBs of a partition. -/
def State.tenantNodes (s : State) (part : Nat) : List Nat :=
  let root := fld (s.partn part).prcb 55 0
  if root = 0 then [] else s.rcbChain (fld (s.rcbWord root 1) 55 0) 65536

/-- The line at an address is the control block of a spill queue: a core's diversion queue, or a tenant's queue (R355). -/
def State.spillBlockAt (s : State) (a : Nat) : Bool :=
  s.cores.any (fun p => a != 0 && p.2.spqa.toNat % 2 ^ 56 == a) ||
  s.parts.any (fun p => (s.tenantNodes p.1).any (fun n => a != 0 && (s.rcbEff n).save == a))

/-- A byte that software writes to the control block of a spill queue: `head`, `tail` and reserved bits stay, and a one clears its bit of `fulls`
(R3, R355). -/
def State.blockByte (s : State) (key a : Nat) (b : Byte) : State :=
  let o := a % 128
  if o < 7 || o = 16 || o = 17 || o = 18 || o = 19 then s.wrKey key a b
  else if 20 ≤ o ∧ o < 24 then s.wrKey key a ((s.rdMain key a 1).headD 0 &&& ~~~b)
  else s

/-- Bytes of main memory at offsets from an address, written by software or an engine under a key slot. -/
def State.wrSoft (s : State) (key a : Nat) (bs : List (Nat × Byte)) : State :=
  if s.spillBlockAt (a / 128 * 128) then bs.foldl (fun t b => t.blockByte key (a + b.1) b.2) s
  else bs.foldl (fun t b => t.wrKey key (a + b.1) b.2) s

/-- The key slot of a tenant: the effective group 1 of its level-1 RCB (R71). Key slot 0 where it has none. -/
def State.tenantKey (s : State) (part tenant : Nat) : Nat :=
  match s.tenantRcb part tenant with
  | some a => (s.rcbEff a).key
  | none => 0

/-! ## Trees that the policy core refuses (R336) -/

/-- A node below a root: its level, group 0 and `part`, its base priority and its save base. -/
def State.rcbNodeOk (s : State) (root a : Nat) : Bool :=
  let e := s.rcbEff a
  let part (x : Nat) : Nat := fld (s.rcbWord x 4) 43 39
  s.rcbLevel a == s.rcbLevel (s.rcbParent a) + 1 && (s.rcbLevel a == 1 || !(s.rcbWord a 3).getLsbD 0) && (part a == 0 || part a == part root) &&
  decide (e.prio < 12) && e.save != 0 && e.save % 128 == 0

/-- The nodes below one, through at most `n` levels. -/
def State.rcbBelow (s : State) (root : Nat) : Nat → Nat → Bool
  | 0, _ => false
  | n + 1, a => (s.rcbChain (fld (s.rcbWord a 1) 55 0) 65536).all (fun c => s.rcbParent c == a && s.rcbNodeOk root c && s.rcbBelow root n c)

/-- The tree of a partition keeps R336: its root gives every group, each node is in order, and the tenants' floors fit their channels and slots. -/
def State.rcbTreeOk (s : State) (part : Nat) : Bool :=
  let root := fld (s.partn part).prcb 55 0
  let es := (s.tenantNodes part).map s.rcbEff
  root == 0 || (fld (s.rcbWord root 3) 11 0 == 0xFFF && s.rcbBelow root 8 root && decide ((es.map RcbEff.bfloor).sum ≤ 1600) &&
    decide ((es.map RcbEff.sfloor).sum ≤ 120 * 2 ^ fld (s.partn part).psqd 15 12))

/-- The bits of word `i` of an RCB that R335 names. -/
def rcbMask : Nat → Word
  | 0 | 1 | 2 | 9 | 10 | 12 => 0x00FFFFFFFFFFFFFF#64
  | 3 => 0xFFF#64
  | 4 => 0x00000FFFFF7FFFFF#64
  | 5 | 7 => 0xFFFFFFFF#64
  | 6 => 0x0001FFFFFFFFFFFF#64
  | 8 => 0xFFFF#64
  | 11 => 0x1FFFF#64
  | _ => 0

/-- A change of word `i` changes groups 0, 1, 10 or 11, or where they come from (R337). -/
def rcbFrozen (i : Nat) (old new : Word) : Bool :=
  let d := old ^^^ new
  match i with
  | 0 | 10 | 11 | 12 => d != 0
  | 3 => (d &&& 0xC03#64) != 0
  | 4 => (d &&& 0x7FFFFF#64) != 0
  | _ => false

/-- An RCB is a descendant of another, or that one itself. -/
def State.rcbUnder (s : State) (a top : Nat) : Nat → Bool
  | 0 => a == top
  | n + 1 => a == top || (s.rcbParent a != 0 && s.rcbUnder (s.rcbParent a) top n)

/-- The contexts, loaded or saved or under way, whose RCB lies under `top`. -/
def State.liveUnder (s : State) (top : Nat) : Bool :=
  s.ctxs.any (fun c => s.rcbUnder c.rcb.toNat top 8) || s.saved.any (fun c => s.rcbUnder c.2.rcb.toNat top 8) ||
  s.threads.any (fun m => s.rcbUnder m.ctx.rcb.toNat top 8)

end Sys2Proof.Machine
end

