-- ==== Sys2Proof/Machine/Save.lean ====
section
/-!
DEFINITION. The save area (R296): a context as the 3,072 bytes of its area and back, the poison of registers through it
(R364), and the delivery of a late reply to a context wherever it stands (R108, R121, R306).
-/

namespace Sys2Proof.Machine

/-- Bytes of a save area. -/
def areaBytes : Nat := 3072

/-- The word whose fields, from bit 0 up, have these widths and values. -/
def packFields : List (Nat × Nat) → Nat
  | [] => 0
  | (w, v) :: r => v % 2 ^ w + 2 ^ w * packFields r

/-- An outbound half in the layout of R271; the word limit recorded at binding stands in `wlim` (DEDUCED, log 11). -/
def OutHalf.word (h : OutHalf) : Nat :=
  if h.bound then packFields [(4, 1), (12, 0), (4, h.wlim), (4, 0), (2, h.pstrm), (2, 0), (4, h.slot), (16, h.core)] else 0
/-- An inbound half in the layout of R271. -/
def InHalf.word (h : InHalf) : Nat :=
  if h.bound then packFields [(4, 2), (12, 0), (4, h.wlim), (4, h.allow)] else 0

/-- The anchor word of R260 and R296. -/
def Ctx.anchorWord (c : Ctx) : Nat :=
  packFields [(16, c.anchorCore), (4, c.anchorSlot), (2, if c.anchorMode = .saved then 2 else 1)]

/-- A word with bit i set where the list holds true at i. -/
def ofBools : List Bool → Nat
  | [] => 0
  | b :: r => b.toNat + 2 * ofBools r

/-- The full bits as R26 and R296 give them: `g0`, `rb` and `rl` are always full, a port register is full while its inbound stream holds a word,
and `bq` while it holds an entry. -/
def Ctx.fullWord (c : Ctx) : Word :=
  let p (k : Nat) : Nat := if (c.streams.toList.map (fun t => t.inn.msgs.isEmpty)).getD k true then 0 else 2 ^ (56 + k)
  (c.gFull &&& 0xE0FFFFFFFFFFFFFF#64) ||| 0x6000000000000001#64 |||
    BitVec.ofNat 64 (p 0 + p 1 + p 2 + p 3 + (if c.bq.q.isEmpty then 0 else 2 ^ 60))

/-- The image of a context (R296). -/
def Ctx.image (c : Ctx) : List Byte :=
  let g (i : Nat) : Nat := if i = 0 || (56 ≤ i && i ≤ 60) then 0 else (c.g.toList.getD i 0).toNat
  (List.range 64).flatMap (fun i => toBytes 8 (g i)) ++
  c.v.toList.flatMap (fun x => toBytes 64 x.toNat) ++
  (List.range 8).flatMap (fun i => toBytes 2 (if i = 0 then 0xFFFF else (c.k.toList.getD i 0).toNat)) ++
  toBytes 8 c.fullWord.toNat ++ toBytes 8 c.gPend.toNat ++ toBytes 8 (c.vFull.toNat + 2 ^ 32 * c.vPend.toNat) ++
  toBytes 8 (c.pc.toNat % 2 ^ 56 + 2 ^ 63) ++ toBytes 8 c.fcs.toNat ++
  toBytes 8 (packFields [(8, c.ld), (8, c.st), (8, c.tl), (8, c.cp), (32, c.cseq.toNat)]) ++
  toBytes 8 c.ctrs.toNat ++
  toBytes 8 (packFields [(16, c.tenid.toNat), (16, c.ctxtag.toNat), (5, c.ptag), (7, c.key), (16, c.gang.toNat)]) ++
  toBytes 8 c.anchorWord ++ toBytes 8 c.rcb.toNat ++
  c.streams.toList.flatMap (fun t => toBytes 8 t.out.word ++ toBytes 8 t.inn.word) ++
  toBytes 8 (if c.bq.bound then packFields [(4, 1), (24, 0), (4, c.bq.slot), (16, c.core)] else 0) ++ toBytes 8 0 ++
  toBytes 8 (packFields (c.streams.toList.map (fun t => (4, t.out.allow)))) ++
  toBytes 8 (packFields [(16, ofBools c.bq.q), (5, c.bq.q.length)]) ++
  c.audw.toList.flatMap (fun w => toBytes 8 w.1.toNat ++ toBytes 8 w.2.toNat)

/-- The number that `n` bytes at offset `o` spell. -/
def fieldAt (b : List Byte) (o n : Nat) : Nat := ofBytes (slice b o n)

/-- A stream from its two descriptors and its allowance; what the area does not hold comes from `t`. -/
def streamOf (t : StreamSt) (o i al : Nat) : StreamSt :=
  { out :=
      if o % 16 = 1 then
        { bound := true, core := o / 2 ^ 32 % 2 ^ 16, slot := o / 2 ^ 28 % 16, pstrm := o / 2 ^ 24 % 4, allow := al,
          wlim := o / 2 ^ 16 % 16 }
      else StreamSt.unbound.out,
    inn :=
      if i % 16 = 2 then
        { bound := true, allow := i / 2 ^ 20 % 16, wlim := i / 2 ^ 16 % 16, granted := t.inn.granted, msgs := t.inn.msgs }
      else StreamSt.unbound.inn }

/-- The context that an image holds (R304); what it does not hold comes from `c`. -/
def Ctx.ofImage (c : Ctx) (b : List Byte) : Ctx :=
  let w (o : Nat) : Nat := fieldAt b o 8
  let cnt := w 0xA38
  let idw := w 0xA48
  let anc := w 0xA50
  { c with
    g := Vector.ofFn (fun (i : Fin 64) => BitVec.ofNat 64 (w (8 * i))),
    v := Vector.ofFn (fun (i : Fin 32) => BitVec.ofNat 512 (fieldAt b (0x200 + 64 * i) 64)),
    k := Vector.ofFn (fun (i : Fin 8) => BitVec.ofNat 16 (fieldAt b (0xA00 + 2 * i) 2)),
    gFull := BitVec.ofNat 64 (w 0xA10) ||| 0x7F00000000000001#64, gPend := BitVec.ofNat 64 (w 0xA18),
    vFull := BitVec.ofNat 32 (w 0xA20), vPend := BitVec.ofNat 32 (w 0xA20 / 2 ^ 32),
    pc := BitVec.ofNat 64 (w 0xA28 % 2 ^ 56), npc := BitVec.ofNat 64 (w 0xA28 % 2 ^ 56),
    fcs := BitVec.ofNat 64 (w 0xA30) &&& 0x1F3#64,
    ld := cnt % 64, st := cnt / 2 ^ 8 % 64, tl := cnt / 2 ^ 16 % 64, cp := cnt / 2 ^ 24 % 64,
    cseq := BitVec.ofNat 32 (cnt / 2 ^ 32), ctrs := BitVec.ofNat 64 (w 0xA40),
    tenid := BitVec.ofNat 16 idw, ctxtag := BitVec.ofNat 16 (idw / 2 ^ 16), ptag := idw / 2 ^ 32 % 32,
    key := idw / 2 ^ 37 % 128, gang := BitVec.ofNat 16 (idw / 2 ^ 44),
    anchorCore := anc % 2 ^ 16, anchorSlot := anc / 2 ^ 16 % 16,
    anchorMode := if anc / 2 ^ 20 % 4 = 2 then .saved else .here,
    rcb := BitVec.ofNat 64 (w 0xA58),
    streams := Vector.ofFn (fun (i : Fin 4) =>
      streamOf c.streams[i] (w (0xA60 + 16 * i)) (w (0xA68 + 16 * i)) (w 0xAB0 / 2 ^ (4 * i.val) % 16)),
    bq := { bound := decide (w 0xAA0 % 16 = 1), slot := w 0xAA0 / 2 ^ 28 % 16,
            q := (List.range (w 0xAB8 / 2 ^ 16 % 32)).map (fun i => Nat.testBit (w 0xAB8) i) },
    audw := Vector.ofFn (fun (i : Fin 4) =>
      (BitVec.ofNat 64 (w (0xAC0 + 16 * i)), BitVec.ofNat 64 (w (0xAC8 + 16 * i)))) }

/-! ## Poison (R364) -/

/-- The lines of an area that hold a byte of n bytes at offset o. -/
def linesOf (area o n : Nat) : List Nat := (List.range ((o % 128 + n + 127) / 128)).map (fun i => area + o / 128 * 128 + 128 * i)

/-- A line of the area is poisoned among those that hold the bytes. -/
def State.anyPoison (s : State) (l : List Nat) : Bool := l.any s.isPoison

/-- The poisoned registers of a context, as byte ranges of its area. -/
def Ctx.poisoned (c : Ctx) : List (Nat × Nat) :=
  ((List.range 64).filter (fun i => c.gPoison.getLsbD i)).map (fun i => (8 * i, 8)) ++
  ((List.range 32).filter (fun i => c.vPoison.getLsbD i)).map (fun i => (0x200 + 64 * i, 64)) ++
  ((List.range 8).filter (fun i => c.kPoison.getLsbD i)).map (fun i => (0xA00 + 2 * i, 2))

/-- Every line of an area written, which clears its poison (R53); then the lines of poisoned registers are poisoned. A sealed range is not
changed (R377). -/
def State.storeArea (s : State) (area : Nat) (c : Ctx) : State :=
  let s1 := s.unitWrite 0 area (c.image ++ List.replicate (areaBytes - c.image.length) 0)
  (c.poisoned.flatMap (fun r => linesOf area r.1 r.2)).foldl (fun t l => if t.sealedAt l 128 then t else t.setPoison l true) s1

/-- Bytes of an area rewritten by a unit that keeps the poison of its lines. -/
def State.patchArea (s : State) (area o : Nat) (bs : List Byte) : State :=
  let bad := (linesOf area o bs.length).filter s.isPoison
  bad.foldl (fun t l => if t.isPoison l then t else t.setPoison l true) (s.unitWrite 0 (area + o) bs)

/-- The context of an area, with its poisoned registers (R364). -/
def State.loadArea (s : State) (area : Nat) (base : Ctx) : Ctx :=
  { base.ofImage (s.rdMain 0 area areaBytes) with
    gPoison := BitVec.ofNat 64 (ofBools ((List.range 64).map (fun i => s.anyPoison (linesOf area (8 * i) 8)))),
    vPoison := BitVec.ofNat 32 (ofBools ((List.range 32).map (fun i => s.anyPoison (linesOf area (0x200 + 64 * i) 64)))),
    kPoison := BitVec.ofNat 8 (ofBools ((List.range 8).map (fun i => s.anyPoison (linesOf area (0xA00 + 2 * i) 2)))) }

/-- A poisoned line holds a field of the area other than a register (R364): any line past the one that holds `k`, or the
line of `k` itself, which holds other fields too. -/
def State.areaSpoilt (s : State) (area : Nat) : Bool := s.anyPoison (linesOf area 0xA00 (areaBytes - 0xA00))

/-- The save area that holds a context of a number. -/
def State.areaOf (s : State) (cid : Nat) : Option Nat :=
  (List.find? (fun (p : Nat × Ctx) => p.2.cid == cid && cid != 0) s.saved).map Prod.fst

/-- A reply delivered to a context: in its slot, or in its save area, where poison stays (R108, R121, R364). -/
def State.onCtx (s : State) (cid : Nat) (f : Ctx → Ctx) : State :=
  match s.byCid cid with
  | some c => s.place (f c)
  | none =>
    match s.areaOf cid with
    | some a =>
      let base := Tbl.getD s.saved Ctx.fresh a
      let c := f (base.ofImage (s.rdMain 0 a areaBytes))
      { s.patchArea a 0 c.image with saved := s.saved.put a { base with wait := c.wait } }
    | none => s

/-- The context of a number, in its slot or in its area. -/
def State.ctxOf (s : State) (cid : Nat) : Option Ctx :=
  match s.byCid cid with
  | some c => some c
  | none => (s.areaOf cid).map (fun a => (Tbl.getD s.saved Ctx.fresh a).ofImage (s.rdMain 0 a areaBytes))

end Sys2Proof.Machine
end

