-- ==== Sys2Proof/Machine/Spill.lean ====
section
/-!
DEFINITION. Spill queues (R355, R356): the control block, the entries in memory, and how they leave. They are read and written under key slot 0
with firmware rights (R294).
-/

namespace Sys2Proof.Machine

/-! ## The thread message of R260 -/

/-- The 536 bytes of a thread message. -/
def ThreadMsg.image (m : ThreadMsg) : List Byte :=
  let c := m.ctx
  let g (i : Nat) : Nat := (c.g.toList.getD i 0).toNat
  toBytes 8 (c.pc.toNat % 2 ^ 56) ++ (List.range 55).flatMap (fun i => toBytes 8 (g (i + 1))) ++
  toBytes 8 (g 61) ++ toBytes 8 (g 62) ++ toBytes 8 (g 63) ++
  toBytes 8 (c.gFull &&& 0x80FFFFFFFFFFFFFE#64).toNat ++
  toBytes 8 (packFields [(16, c.tenid.toNat), (16, c.ctxtag.toNat), (9, c.fcs.toNat), (5, c.ptag), (7, c.key)]) ++
  toBytes 8 c.anchorWord ++ toBytes 8 c.ctrs.toNat ++ toBytes 8 c.cseq.toNat ++ toBytes 8 c.rcb.toNat ++ toBytes 8 c.save.toNat ++
  toBytes 8 m.dest.toNat

/-! ## Entries (R355) -/

/-- Kind, stream, word count, register, sender core and slot, and payload of a message in a spill queue. -/
def Spilled.parts : Spilled → Nat × Nat × Nat × Nat × Nat × Nat × List Byte
  | .thread m => (1, 0, 0, 0, m.fromCore, m.fromSlot, m.image)
  | .stream m => (2, m.k, m.msg.words.length, 0, m.msg.core, m.msg.slot, m.msg.words.flatMap (fun w => toBytes 8 w.toNat))
  | .fill m => (3, 0, 0, m.x.toNat, m.fromCore, m.fromSlot, toBytes 8 m.val.toNat)
  | .words k m => (4, k, m.words.length, 0, m.core, m.slot, m.words.flatMap (fun w => toBytes 8 w.toNat))

/-- The 640 bytes of an entry. -/
def SpillEnt.image (e : SpillEnt) : List Byte :=
  match e.msg.parts with
  | (kind, k, n, x, core, slot, body) =>
    let b := toBytes 8 (packFields [(16, e.core), (4, e.slot), (16, e.tag.toNat), (4, kind), (2, k), (4, n), (6, x)]) ++
      toBytes 8 (packFields [(16, core), (4, slot)]) ++ List.replicate 48 0 ++ body
    b ++ List.replicate (640 - b.length) 0

/-- The first entry's address, the head, the tail and the size of a queue. -/
def State.spillBlock (s : State) (block : Nat) : Nat × Nat × Nat × Nat :=
  let w (i : Nat) : Word := s.rdWord 0 (block + 8 * i)
  (fld (w 0) 55 0, fld (w 1) 31 0, fld (w 1) 63 32, fld (w 2) 15 0)

/-- Entries that a queue holds. -/
def State.spillLen (s : State) (block : Nat) : Nat := (s.spillQ.filter (fun e => e.block == block)).length

/-- Places of a queue in use: `tail` - `head` (R356). -/
def State.spillUsed (s : State) (block : Nat) : Nat :=
  let b := s.spillBlock block
  (b.2.2.1 + 2 ^ 32 - b.2.1) % 2 ^ 32

/-- A queue has room for `n` more entries. -/
def State.spillRoom (s : State) (block n : Nat) : Bool := decide (s.spillUsed block + n ≤ (s.spillBlock block).2.2.2)

/-- `head` and `tail` of a queue written. -/
def State.spillIdx (s : State) (block head tail : Nat) : State :=
  s.unitWords 0 (block + 8) [BitVec.ofNat 64 (head % 2 ^ 32 + tail % 2 ^ 32 * 2 ^ 32)]

/-- The entries of a queue that `p` names leave it; those for others keep their places and their order, and `head` is the oldest of them
(R355, R356). -/
def State.spillTake (s : State) (block : Nat) (p : SpillEnt → Bool) : State :=
  let t := { s with spillQ := s.spillQ.filter (fun e => !(e.block == block && p e)) }
  let tail := (s.spillBlock block).2.2.1
  t.spillIdx block (((t.spillQ.filter (fun e => e.block == block)).head?.map SpillEnt.n).getD tail) tail

/-- The control block of the spill queue of a tenant (R355), with the RCB that its reports name. -/
def State.tenantQueue (s : State) (part tenant : Nat) : Option (Nat × Nat) :=
  (s.tenantRcb part tenant).map (fun a => ((s.rcbEff a).save, a))

/-- The first word of inbound stream `k` of a saved context leaves it: it stands in the tenant's spill queue (R122, R296), or with the context
where its tenant has no queue. -/
def State.popSaved (s : State) (area : Nat) (c : Ctx) (k : Fin 4) : State :=
  match s.tenantQueue c.ptag c.tenid.toNat with
  | none =>
    match c.streams[k].inn.msgs with
    | [] => s
    | m :: r =>
      let rest := if m.words.length ≤ 1 then r else { m with words := m.words.drop 1 } :: r
      let st := c.streams[k]
      { s with
        saved := s.saved.put area { c with streams := c.streams.set k { st with inn := { st.inn with msgs := rest } } },
        allowances := if m.words.length ≤ 1 then s.allowances ++ [(m.core, m.slot, m.strm)] else s.allowances }
  | some q =>
    let mine (e : SpillEnt) : Bool := e.block == q.1 && e.tag == c.ctxtag && (match e.msg with | .words j _ => j == k.val | _ => false)
    match List.find? mine s.spillQ with
    | none => s
    | some e =>
      match e.msg with
      | .words j m =>
        if m.words.length ≤ 1 then
          let t := s.spillTake q.1 (fun x => x.n == e.n)
          { t with allowances := t.allowances ++ [(m.core, m.slot, m.strm)] }
        else
          let e1 := { e with msg := .words j { m with words := m.words.drop 1 } }
          let b := s.spillBlock q.1
          { (s.unitWrite 0 (b.1 + 640 * (e.n % Nat.max b.2.2.2 1)) e1.image) with
            spillQ := s.spillQ.map (fun x => if x.block == q.1 && x.n == e.n then e1 else x) }
      | _ => s

end Sys2Proof.Machine
end

