-- ==== Sys2Proof/Machine/Home.lean ====
section
/-!
DEFINITION. Main memory and its home cores: the L1 (R62-R66, R314), snapshots (R54), the copies that the caches hold
dirty (R48, R49, R58), the operations that a home core or a tile unit performs on a location (R51, R127-R129, R265-R267),
the service of wait lists (R51), the delivery of replies (R43, R121), and fault records (R357, R358).
-/

namespace Sys2Proof.Machine

/-! ## The L1 (R62-R66) -/

/-- `l1mode.wt` of a core. -/
def State.wt (s : State) (core : Nat) : Bool := s.part.isBarrel core && (s.core core).l1mode.getLsbD 0
/-- Loads of a core may allocate and hit: a barrel core whose `l1mode.off` is 0 (R62, R63). -/
def State.l1On (s : State) (core : Nat) : Bool := s.part.isBarrel core && !(s.core core).l1mode.getLsbD 1

/-- The copy that a load of the core hits: same line, tags of the context, at most 65,536 cycles old (R62, R64). -/
def State.l1Find (s : State) (core ptag key line : Nat) : Option L1Line :=
  if s.l1On core then
    List.find? (fun (e : L1Line) => e.line == line && e.ptag == ptag && e.key == key && decide (s.cyc < e.filled + 65536))
      (s.core core).l1
  else none

/-- A core without the copies that `p` names. -/
def State.l1Keep (s : State) (core : Nat) (p : L1Line → Bool) : State :=
  if (s.core core).l1 = [] then s else s.modCore core (fun k => { k with l1 := k.l1.filter p })
/-- The copy of a line invalidated. -/
def State.l1Drop (s : State) (core line : Nat) : State := s.l1Keep core (fun e => e.line != line)
/-- Every copy invalidated. -/
def State.l1Clear (s : State) (core : Nat) : State := s.l1Keep core (fun _ => false)

/-- The four newest copies of each set, newest first; `n` further copies of the set may follow (DESIGN CHOICE, log 81). -/
def l1Trim (set : Nat) : List L1Line → Nat → List L1Line
  | [], _ => []
  | e :: r, n => if e.line % 32 = set then (match n with | 0 => l1Trim set r 0 | k + 1 => e :: l1Trim set r k) else e :: l1Trim set r n

/-- A line filled into the L1 of a core: it replaces a copy of the line, and the oldest copy of a full set (DESIGN CHOICE, log 81: R62 says
pseudo-LRU and names no victim). A poisoned line is never allocated (R65). -/
def State.l1Fill (s : State) (core ptag key line : Nat) : State :=
  if s.part.isBarrel core && !s.isPoison (128 * line) then
    s.modCore core (fun k => { k with
      l1 := l1Trim (line % 32)
        ({ line := line, data := s.rdMain key (128 * line) 128, ptag := ptag, key := key, filled := s.cyc } ::
          k.l1.filter (fun e => e.line != line)) 4 })
  else s

/-- Bytes replaced in a list from position `o`. -/
def patch (l : List Byte) (o : Nat) (b : List Byte) : List Byte := l.take o ++ b ++ l.drop (o + b.length)

/-- A store of bytes to one line issued by a core: its copy is invalidated, in write-through mode updated (R65, R66), and no
fill requested before is installed (R314). -/
def State.l1Store (s : State) (core ptag key a : Nat) (b : List Byte) : State :=
  let line := a / 128
  let s1 :=
    if s.wt core then
      let mine (e : L1Line) : Bool := e.ptag == ptag && e.key == key
      let put (e : L1Line) : L1Line := if e.line == line then { e with data := patch e.data (a % 128) b } else e
      s.modCore core (fun k => { k with l1 := (k.l1.filter (fun e => e.line != line || mine e)).map put })
    else s.l1Drop core line
  { s1 with sliceQ := s1.sliceQ.map (fun r => if r.core == core && r.addr / 128 == line then { r with fill := false } else r) }

/-- A line dropped at the issue of an operation that its home performs; no fill requested before is installed (R65, R314). -/
def State.l1Kill (s : State) (core a : Nat) : State :=
  let s1 := s.l1Drop core (a / 128)
  { s1 with sliceQ := s1.sliceQ.map (fun r => if r.core == core && r.addr / 128 == a / 128 then { r with fill := false } else r) }

/-- The copy that a request to a home drops at its issue: FEQ drops none (R65, R129). -/
def State.l1Kills (s : State) (r : HomeReq) : State :=
  match r.op with
  | .feq _ => s
  | _ => s.l1Kill r.core r.addr

/-- An acquire in write-through mode (R66). -/
def State.acquire (s : State) (core : Nat) : State := if s.wt core then s.l1Clear core else s

/-! ## Bytes of main memory and of the vault -/

/-- `n` bytes at a device address of main memory, under a key slot, or of the vault. -/
def State.rdDev (s : State) (key a n : Nat) : List Byte := if a < 2 ^ 48 then s.rdMain key a n else rdBytes s.mem a n
/-- Bytes written at a device address of main memory or of the vault. -/
def State.wrDev (s : State) (key a : Nat) (b : List Byte) : State :=
  if a < 2 ^ 48 then s.wrSoft key a ((List.range b.length).zip b) else { s with mem := wrBytes s.mem a b }

/-! ## Atomic operations (R265, R163) -/

/-- The format of an atomic's width. -/
def AtFmt (w : AtW) : Fmt := match w with | .n64 | .f64 => fmtOf .f64 | _ => fmtOf .f32
/-- Bytes of an atomic's width. -/
def atSize (w : AtW) : Nat := match w with | .n64 | .f64 => 8 | _ => 4

/-- A value of `n` bytes as a signed number. -/
def signedOf (n : Nat) (x : Nat) : Int := if x % 256 ^ n ≥ 256 ^ n / 2 then (x % 256 ^ n : Nat) - (256 ^ n : Nat) else (x % 256 ^ n : Nat)

/-- The new value from the old value y and the operand x, with `nv` (R265, R162, R163). -/
def atNew (op : AtOp) (w : AtW) (y x : Nat) : Nat × Word :=
  let n := atSize w
  let m := 256 ^ n
  let f := AtFmt w
  match op with
  | .add => ((y + x) % m, 0)
  | .and => (y &&& x, 0)
  | .or => (y ||| x, 0)
  | .xor => (y ^^^ x, 0)
  | .swap => (x, 0)
  | .min => (if signedOf n x < signedOf n y then x else y, 0)
  | .max => (if signedOf n x > signedOf n y then x else y, 0)
  | .minn => (if x < y then x else y, 0)
  | .maxn => (if x > y then x else y, 0)
  | .fadd => ((f.add .rne y x).1, 0)
  | .fmin => f.minmax false y x
  | .fmax => f.minmax true y x
  | .jdec => ((y + m - 1) % m, 0)

/-! ## Operations on a location -/

/-- The condition of a conditional operation on a granule's state (R127). -/
def HomeOp.ready (o : HomeOp) (full : Bool) : Bool :=
  match o with
  | .ldw _ _ _ | .ldt _ _ _ => full
  | .stf _ => !full
  | _ => true

/-- The operation reads its granule's data and traps on poison (R124, R266). -/
def HomeOp.traps : HomeOp → Bool
  | .femark _ _ | .feq _ | .rupd _ _ _ => false
  | _ => true

/-- The operation may change memory or full/empty state. -/
def HomeOp.changes : HomeOp → Bool
  | .ldw _ _ _ | .feq _ => false
  | _ => true

/-- A value of `n` bytes extended to a register (R125). -/
def extend (sx : Bool) (n : Nat) (x : Nat) : Word :=
  BitVec.ofInt 64 (if sx then signedOf n x else (x % 256 ^ n : Nat))

/-- What an operation on a location answers. -/
structure Ans where
  s : State
  /-- the value for the destination register -/
  y : Word
  /-- flags for `fcs` -/
  fl : Word
  /-- granules whose full/empty state has changed -/
  grans : List Nat

/-- An operation performed on a location at device address `a` (R127-R129, R265-R267). -/
def State.perform (s : State) (op : HomeOp) (key a n : Nat) : Ans :=
  let g := a / 16
  let old := ofBytes (s.rdDev key a n)
  match op with
  | .ldw _ sx _ => { s := s, y := extend sx n old, fl := 0, grans := [] }
  | .ldt _ sx _ => { s := s.setFull g false, y := extend sx n old, fl := 0, grans := [g] }
  | .stf x => { s := (s.wrDev key a (toBytes n x.toNat)).setFull g true, y := 0, fl := 0, grans := [g] }
  | .femark k full =>
    let gs := (List.range k).map (fun i => g + i)
    { s := gs.foldl (fun t i => t.setFull i full) s, y := 0, fl := 0, grans := gs.filter (fun i => s.isFull i != full) }
  | .feq _ =>
    { s := s, y := BitVec.ofNat 64 ((s.isFull g).toNat + 2 * (s.isPoison a).toNat), fl := 0, grans := [] }
  | .amo op w _ _ x =>
    let r := atNew op w old (x.toNat % 256 ^ n)
    let s1 := s.wrDev key a (toBytes n r.1)
    let z := op == .jdec && r.1 == 0
    { s := if z then s1.setFull g true else s1, y := BitVec.ofNat 64 old, fl := r.2,
      grans := if z && !s.isFull g then [g] else [] }
  | .cas _ _ _ e x =>
    { s := if old = e.toNat % 256 ^ n then s.wrDev key a (toBytes n x.toNat) else s.wrDev key a (toBytes n old),
      y := BitVec.ofNat 64 old, fl := 0, grans := [] }
  | .rupd op w x =>
    if s.isPoison a then { s := s, y := 0, fl := 0, grans := [] }
    else
      let r := atNew op w old (x.toNat % 256 ^ n)
      let s1 := s.wrDev key a (toBytes n r.1)
      let z := op == .jdec && r.1 == 0
      { s := if z then s1.setFull g true else s1, y := 0, fl := 0, grans := if z && !s.isFull g then [g] else [] }

/-- The destination register of an operation. -/
def HomeOp.dest : HomeOp → Reg
  | .ldw d _ _ | .ldt d _ _ | .feq d | .amo _ _ _ d _ | .cas _ _ d _ _ => d
  | _ => 0

/-- The operation is an acquire. -/
def HomeOp.isAcq : HomeOp → Bool
  | .ldw _ _ a | .ldt _ _ a | .amo _ _ a _ _ | .cas _ a _ _ _ => a
  | _ => false

/-! ## Delivery of a value to a register (R43) -/

/-- A destination of a context that is a port whose stream is not bound: the write raises PORT (R26). -/
def State.unboundPort (s : State) (cid : Nat) (x : Reg) : Bool :=
  isPort x && x != 60 && (match s.ctxOf cid with
    | some c => !c.streams[portOf x].out.bound
    | none => false)

/-- A bit pushed into a branch-outcome queue that holds fewer than 16 (R26). -/
def Ctx.pushBit (c : Ctx) (b : Bool) : Ctx := { c with bq := { c.bq with q := c.bq.q ++ [b] } }

/-- A value written to a register of a context as a reply, in its slot or in its save area: discarded by `g0`, sent by a port, pushed by `bq`.
None while a port has no allowance or the queue no room, and the reply waits; nothing is written to an unbound port. -/
def State.deliverG (s : State) (cid : Nat) (x : Reg) (v : Word) : Option State :=
  if x = 0 then some s
  else if isPort x then
    match s.ctxOf cid with
    | none => some s
    | some c =>
      if x = 60 then
        if c.bq.bound then
          match s.at? c.core c.bq.slot with
          | none => none
          | some b => if b.bq.q.length ≥ 16 || b.tenid != c.tenid then none else some (s.place (b.pushBit (v.getLsbD 0)))
        else if c.bq.q.length ≥ 16 then none
        else some (s.onCtx cid (fun c => c.pushBit (v.getLsbD 0)))
      else
        let k := portOf x
        let o := c.streams[k].out
        if !o.bound then some s
        else if o.allow = 0 then none
        else
          let m : StreamMsg :=
            { core := o.core, slot := o.slot, k := o.pstrm,
              msg := { core := c.core, slot := c.slot, strm := k, words := [v] }, tenid := c.tenid, sender := cid,
              pc := c.pc }
          some { (s.onCtx cid (fun c =>
              { c with streams := c.streams.set k { c.streams[k] with out := { c.streams[k].out with allow := o.allow - 1 } } }))
            with streamQ := s.streamQ ++ [m] }
  else some (s.onCtx cid (fun c => c.setG x v))

/-- A synchronous instruction completes by its reply: the pc advances and the slot is ready (R120, R122). -/
def Ctx.finish (c : Ctx) (npc fl : Word) : Ctx :=
  { c with pc := npc, npc := npc, wait := .none, fcs := c.fcs ||| fl, ctrs := c.ctrs + 0x100000000#64,
           issues := c.issues + 1, consumed := c.consumed + 1, inHand := none, bubbled := false }

/-- The port words that an instruction has read leave their queues (R26, R28). -/
def State.popQuiet (s : State) (cid : Nat) (x : Reg) : State :=
  if x = 60 then s.onCtx cid (fun c => { c with bq := { c.bq with q := c.bq.q.drop 1 } })
  else
    match s.byCid cid with
    | some c => s.popWord c (portOf x)
    | none =>
      match s.areaOf cid with
      | some a => s.popSaved a (Tbl.getD s.saved Ctx.fresh a) (portOf x)
      | none => s

/-- A synchronous instruction that its unit has performed completes: its value is delivered, or waits for room (R43, R127). -/
def State.complete (s : State) (cid : Nat) (d : Reg) (y npc fl : Word) (acq : Bool) : Option State :=
  match s.deliverG cid d y with
  | none => none
  | some t =>
    let u := t.onCtx cid (fun c => c.finish npc fl)
    some (match acq, u.byCid cid with
      | true, some c => u.acquire c.core
      | _, _ => u)

/-- As `complete`; where the destination has no room the value is under way as a load reply is, and the slot waits for it. -/
def State.completeOr (s : State) (cid : Nat) (d : Reg) (y npc fl : Word) (acq : Bool) (a code : Nat) (pc : Word) : State :=
  match s.complete cid d y npc fl acq with
  | some t => t
  | none =>
    { (s.onCtx cid (fun c => { c with wait := .reply })) with
      loads := s.loads ++ [{ cid := cid, val := .done d y npc fl acq, addr := a, code := code, pc := pc, tag := 0, acq := none }] }

/-- The reply to a waiting request (R51, R122, R164, R266). -/
def State.reply (s : State) (r : HomeReq) (y fl : Word) : State :=
  (r.pops.foldl (fun t x => t.popQuiet r.cid x) s).completeOr r.cid r.op.dest y r.npc fl r.op.isAcq r.addr r.code r.pc

/-- The destination of a request that waits in a list is marked pending and empty (R27). -/
def Ctx.listed (c : Ctx) (d : Reg) : Ctx :=
  let c1 := if d = 0 || isPort d then c else c.pendG d
  { c1 with wait := .listed }
/-- A request has left its list with no change: its destination is as it was (R44, R122). -/
def Ctx.unlisted (c : Ctx) (d : Reg) (full : Bool) : Ctx :=
  if d = 0 || isPort d then c
  else { c with gPend := c.gPend &&& ~~~(1#64 <<< d.toNat), gFull := if full then c.gFull ||| (1#64 <<< d.toNat) else c.gFull }

/-- A precise trap for a waiting request: the slot leaves its wait with no change. -/
def State.replyTrap (s : State) (r : HomeReq) (cls : TrapClass) (addr info : Word) : State :=
  (s.onCtx r.cid (fun c => { c.unlisted r.op.dest r.wasFull with wait := .none })).postTrap r.cid (fun c =>
    { cls := cls, slot := c.slot, cid := r.cid, away := c.isAway, pc := r.pc, addr := addr, info := info, late := false, fetch := false,
      next := r.npc, cyc := s.cyc })

/-! ## Wait lists (R51, R88) -/

/-- The oldest entry of a list that `p` holds of, and the list without it. -/
def takeFirst {α : Type} (p : α → Bool) : List α → Option (α × List α)
  | [] => none
  | x :: r => if p x then some (x, r) else (takeFirst p r).map (fun z => (z.1, x :: z.2))

/-- The oldest request of each core, in the order of issue. -/
def headsOf {α : Type} (core : α → Nat) : List α → List α
  | [] => []
  | x :: r => x :: (headsOf core r).filter (fun y => core y != core x)

/-- One of some requests of different cores, whose order of arrival is open (R61). -/
def State.pick {α : Type} (s : State) : List α → Option (α × State)
  | [] => none
  | [x] => some (x, s)
  | x :: y :: r => let c := s.choose (r.length + 2); some ((x :: y :: r).getD c.1 x, c.2)

/-- Serves a granule's entries of a list, oldest first, until none's condition holds (R51 step 3). `at_` gives the device address of a
request, where it has one. -/
def State.serveList (gran : Nat) : Nat → State → List HomeReq → (State → HomeReq → Option Nat) → State × List HomeReq
  | 0, s, q, _ => (s, q)
  | n + 1, s, q, at_ =>
    match takeFirst (fun r => match at_ s r with
        | some a => a / 16 == gran && r.op.ready (s.isFull gran)
        | none => false) q with
    | none => (s, q)
    | some (r, rest) =>
      let a := (at_ s r).getD 0
      if s.isPoison a && r.op.traps then
        State.serveList gran n (s.replyTrap r .memErr (BitVec.ofNat 64 r.ea) (accInfo r.code 7 false)) rest at_
      else if s.unboundPort r.cid r.op.dest then
        State.serveList gran n (s.replyTrap r .port 0 (portInfo false (portOf r.op.dest) 1)) rest at_
      else
        let z := s.perform r.op r.key a r.size
        State.serveList gran n (z.s.reply r z.y z.fl) rest at_

/-- Serves the wait list of the home core of a granule of main memory. -/
def State.serveHome (s : State) (gran : Nat) : State :=
  let ch := s.chanOf (16 * gran)
  let q := (s.chan ch).wlist
  if q = [] then s
  else
    let r := State.serveList gran (q.length + 1) s q (fun _ r => some r.addr)
    r.1.modChan ch (fun c => { c with wlist := r.2 })

/-- Serves the wait lists of the granules of main memory whose state has changed. -/
def State.serveHomes (s : State) (gs : List Nat) : State := gs.foldl State.serveHome s

/-- Requests of a tenant in a wait list. -/
def countOf (t : BitVec 16) (q : List HomeReq) : Nat := (q.filter (fun r => r.tenid == t)).length

/-- The wait-list cap of a context, where its RCB sets one (R56). -/
def Ctx.waitCap (c : Ctx) (size : Nat) : Nat := if c.eff.wlist = 0 then size else c.eff.wlist

/-- A 32-bit count that saturates. -/
def satInc (x : BitVec 32) : BitVec 32 := if x = BitVec.allOnes 32 then x else x + 1

/-- A request whose condition does not hold is appended to the home's wait list, or rejected (R51 step 2). -/
def State.homeWait (s : State) (r : HomeReq) (cap : Nat) : State :=
  let ch := s.chanOf r.addr
  let q := (s.chan ch).wlist
  if q.length ≥ 1024 ∨ countOf r.tenid q ≥ cap then
    { (s.modChan ch (fun c => { c with rejects := satInc c.rejects })).modLive r.cid (fun c => { c with wait := .rejected })
      with rejected := s.rejected ++ [r] }
  else (s.modChan ch (fun c => { c with wlist := q ++ [r] })).modLive r.cid (fun c => c.listed r.op.dest)

/-! ## Writes of whole granules by the device's own units -/

/-- A granule of main memory written under a key slot by the device, then set full, and its wait list served (R345, R357). -/
def State.putGranule (s : State) (key a : Nat) (ws : List Word) : State :=
  ((s.unitWords key a ws).unitFull a true).serveHome (a / 16)

/-! ## Interrupts (R359, R360, R402) -/

/-- An interrupt routing entry. -/
def State.irq (s : State) (n : Nat) : Irq := s.irqs.getD Irq.reset n
/-- Changes an interrupt routing entry. -/
def State.modIrq (s : State) (n : Nat) (f : Irq → Irq) : State := { s with irqs := s.irqs.put n (f (s.irq n)) }
/-- An MSI-X message of an entry to its host function. -/
def State.sendMsix (s : State) (n : Nat) : State :=
  let e := s.irq n
  { s with msix := s.msix ++ [((e.irte.extractLsb' 16 8).toNat, (e.irte.extractLsb' 4 12).toNat)] }

/-- An event reaches its routing entry (R360). Entries from 1,094 on are never raised (R402). -/
def State.raiseIrq (s : State) (n : Nat) : State :=
  if n ≥ 1094 then s
  else
    let e := s.irq n
    let s1 := s.modIrq n (fun e => { e with events := e.events + 1 })
    if e.st != .idle || !e.irte.getLsbD 2 then s1
    else
      match (e.irte.extractLsb' 0 2).toNat with
      | 0 => { s1.modIrq n (fun e => { e with st := .device }) with signals := s1.signals ++ [n] }
      | 1 => (s1.modIrq n (fun e => { e with st := .host })).sendMsix n
      | _ => { s1.modIrq n (fun e => { e with st := .devWait, t0 := s.clk }) with signals := s1.signals ++ [n] }

/-! ## Fault records (R357, R358) -/

/-- An RCB is live: of level 0 or 1, or a context of its subtree is loaded or saved (R358). -/
def State.rcbLive (s : State) (a : Nat) : Bool := s.rcbLevel a ≤ 1 || s.liveUnder a

/-- The RCB itself if live, else its nearest live ancestor. -/
def State.rcbReport (s : State) (a : Nat) : Nat → Nat
  | 0 => a
  | n + 1 => if s.rcbLive a || s.rcbParent a == 0 then a else s.rcbReport (s.rcbParent a) n

/-- A record written to the ring of a fault domain; what it cannot take goes to the firmware domain (R357). -/
def State.ringRecord (s : State) (ring key part : Nat) (r : FwFault) : State :=
  let fw := { s with fwFaults := s.fwFaults ++ [r] }
  if ring = 0 ∨ ring ≥ 2 ^ 48 ∨ ring % 128 ≠ 0 then fw
  -- refused by its home: the record is dropped, and one of kind 4 about the ring goes to the firmware domain (log 85)
  else if s.refused46 part ring then s.fwRecord 4 0 0 0 (r.w0.toNat / 2 ^ 48) (BitVec.ofNat 64 ring) 0 (r.w4.toNat % 2 ^ 16) (r.w4.toNat / 2 ^ 16)
  else if s.sealedAt ring 128 then fw
  else
    let tail := fld (s.rdWord key ring) 31 0
    let head := fld (s.rdWord key (ring + 8)) 31 0
    let ls := fld (s.rdWord key (ring + 16)) 4 0
    if ls < 4 ∨ ls > 16 then fw
    else if (tail + 2 ^ 32 - head) % 2 ^ 32 ≥ 2 ^ ls then
      let lost := fld (s.rdWord key (ring + 24)) 31 0
      s.unitWords key (ring + 24) [BitVec.ofNat 64 (if lost = 2 ^ 32 - 1 then lost else lost + 1)]
    else
      let at_ := ring + 128 + 64 * (tail % 2 ^ ls)
      let s1 := s.unitWords key at_ [r.w0, r.w1, r.w2, r.w3, r.w4, 0, 0, 0]
      let s2 := s1.unitWords key ring [BitVec.ofNat 64 ((tail + 1) % 2 ^ 32)]
      let s3 := (s2.unitFull (ring + 64) true).serveHome ((ring + 64) / 16)
      -- the bell of the root domain of a partition (R402)
      let root := fld (s.partn part).prcb 55 0
      if root != 0 && (s.rcbEff root).frec == ring then s3.raiseIrq (1024 + part) else s3

/-- A report about a context's RCB (R358): of a kind, with a trap class and an engine status. -/
def State.report (s : State) (rcb kind cls status tenant : Nat) (a t : Word) (tag core : Nat) : State :=
  if rcb = 0 then s.fwRecord kind cls status 0 tenant a t tag core
  else
    let n := s.rcbReport rcb 8
    let e := s.rcbEff n
    let part := fld (s.rcbWord (s.rcbRoot n) 4) 43 39
    s.ringRecord e.frec e.key part
      { w0 := BitVec.ofNat 64 (kind + cls * 2 ^ 8 + status * 2 ^ 16 + e.fdom * 2 ^ 32 + tenant * 2 ^ 48),
        w1 := BitVec.ofNat 64 s.clk, w2 := a, w3 := t, w4 := BitVec.ofNat 64 (tag + core * 2 ^ 16) }

/-- A report about a context of a partition: where its RCB is not known, to the domain of the partition's root (R358). -/
def State.reportIn (s : State) (part : Nat) (rcb : Word) (kind cls status tenant : Nat) (a t : Word) (tag core : Nat) : State :=
  s.report (if rcb = 0 then fld (s.partn part).prcb 55 0 else rcb.toNat) kind cls status tenant a t tag core

/-- A record of kind 3 about an address, to the domain of a partition's root (R362, R363). -/
def State.rootReport (s : State) (part : Nat) (a : Word) : State :=
  let root := fld (s.partn part).prcb 55 0
  s.report root 3 0 0 0 a 0 0 0

/-- A poisoned line has been met with no reader (R362, R363): its channel's owner hears of it. -/
def State.poisonReport (s : State) (line : Nat) : State :=
  let c := s.chan (s.chanOf (128 * line))
  if c.own && fld (s.partn c.part).prcb 55 0 != 0 then s.rootReport c.part (BitVec.ofNat 64 (128 * line)) else s

/-- The poisoned lines that caches have evicted with no reader are reported (R363). -/
def State.reportEvicted (s : State) : State := s.evicted.foldl State.poisonReport { s with evicted := [] }

end Sys2Proof.Machine
end

