-- ==== Sys2Proof/Machine/Tiles.lean ====
section
/-!
DEFINITION. The tile unit of a squad (R67-R92): who may use a tile, fetches and departures, the pending-operation log,
its application, and the wait list of the tile unit.
-/

namespace Sys2Proof.Machine

/-- Why a core access to a tile is refused (R72, R123), if it is. -/
def State.tileRefused (s : State) (ptag : Nat) (tenid : BitVec 16) (q t : Nat) : Option Nat :=
  let o := ((s.squad q).tile t).owner
  if s.squadPart q ≠ some ptag then some 3
  else if o = 0 ∨ (tenid ≠ 0 ∧ tenid.toNat ≠ o) then some 4
  else none

/-- Changes a residency entry. -/
def State.modTile (s : State) (q t : Nat) (f : TileEnt → TileEnt) : State := s.modSquad q (fun k => k.modTile t f)

/-- The device address of a tile's frame. -/
def TileEnt.base (e : TileEnt) (q : Nat) : Nat := vaultAddr q (4096 * e.frame)

/-- The vault address of a tile-space or vault-window address, while its tile is resident. -/
def State.vaultOf (s : State) (a : Nat) : Option Nat :=
  match regionOf s.part a with
  | .vault q b => some (vaultAddr q b)
  | .tile q t b =>
    let e := (s.squad q).tile t
    if e.st = .resident then some (e.base q + b) else none
  | _ => none

/-! ## Frames, pins and holds (R76, R78) -/

/-- A pin of the tile is active. -/
def TileEnt.pinned (e : TileEnt) : Bool := decide (0 < e.pins) && !e.sus

/-- `tlstat` of a squad: wait-list entries, frames whose tile has an active pin, frames not free, and log entries in use (R73). -/
def SquadSt.tlstat (k : SquadSt) : Word :=
  let inFrame (e : TileEnt) : Bool := e.st == .resident || e.st == .leaving || (e.st == .arriving && e.framed)
  BitVec.ofNat 64 (packFields [(14, (k.tiles.map (fun p => p.2.log.length)).sum), (9, 0), (11, (k.tiles.filter (fun p => inFrame p.2)).length),
    (11, (k.tiles.filter (fun p => inFrame p.2 && p.2.pinned)).length), (9, k.twait.length)])

/-- A tile that a wait-list entry names (R76). -/
def SquadSt.waitedOn (k : SquadSt) (p : Part) (q t : Nat) : Bool :=
  k.twait.any (fun r => match regionOf p r.addr with
    | .tile q' t' _ => q' == q && t' == t
    | _ => false)

/-- A tile is held (R76). -/
def State.held (s : State) (q t : Nat) : Bool :=
  let k := s.squad q
  let e := k.tile t
  e.pinned || k.waitedOn s.part q t || decide (0 < e.holds) || e.st == .arriving || e.st == .leaving

/-- A frame is in use. -/
def SquadSt.frameUsed (k : SquadSt) (f : Nat) : Bool :=
  k.tiles.any (fun p => p.2.frame == f &&
    (p.2.st == .resident || p.2.st == .leaving || (p.2.st == .arriving && p.2.framed)))

/-- The free frames of a squad. -/
def SquadSt.freeFrames (k : SquadSt) : List Nat := (List.range 1024).filter (fun f => !k.frameUsed f)

/-- The resident tile, not held, that has gone longest without access (R78). -/
def oldest : List (Nat × TileEnt) → Option (Nat × TileEnt)
  | [] => none
  | p :: r =>
    match oldest r with
    | none => some p
    | some b => if p.2.last ≤ b.2.last then some p else some b

/-- The victim of a squad. -/
def State.victim (s : State) (q : Nat) : Option Nat :=
  (oldest ((s.squad q).tiles.filter (fun p => p.2.st == .resident && !s.held q p.1))).map Prod.fst

/-- A departure starts (R77). -/
def State.depart (s : State) (q t : Nat) : State := s.modTile q t (fun e => { e with st := .leaving })

/-- A fetch claims a free frame, or starts the departure of a victim and waits (R78). -/
def State.claim (s : State) (q t : Nat) : State :=
  match (s.squad q).freeFrames with
  | f :: r =>
    let c := s.choose (r.length + 1)
    c.2.modTile q t (fun e => { e with frame := (f :: r).getD c.1 f, framed := true })
  | [] =>
    match s.victim q with
    | some v => s.depart q v
    | none => s

/-- A fetch of an ABSENT tile starts (R77, R78). -/
def State.startFetch (s : State) (q t : Nat) : State :=
  (s.modTile q t (fun e => { e with st := .arriving, framed := false })).claim q t

/-- A fetch that an access forces: counted, if the tile is ABSENT, in `tlfetch.forced` (R73). -/
def State.forceFetch (s : State) (q t : Nat) : State :=
  if ((s.squad q).tile t).st = .absent then
    (s.startFetch q t).modSquad q (fun k => { k with forced := satInc k.forced })
  else s

/-- Fetches that have no frame yet try again, in order of tile number. -/
def State.retryClaims (s : State) (q : Nat) : State :=
  ((s.squad q).tiles.filter (fun p => p.2.st == .arriving && !p.2.framed)).foldl (fun t p => t.claim q p.1) s

/-- Every issuer parked on a tile issues again (R77). -/
def State.wake (s : State) (q t : Nat) : State :=
  (s.ctxs.filter (fun c => c.wait == .tile q t)).foldl (fun u c => u.place { c with wait := .none }) s

/-! ## Log entries (R81-R86) -/

/-- Codes of `op` in an entry (R81). -/
def opStore : Nat := 0
/-- ADD -/
def opAdd : Nat := 1
/-- MAX -/
def opMax : Nat := 2
/-- MIN -/
def opMin : Nat := 3
/-- OR -/
def opOr : Nat := 4
/-- XOR -/
def opXor : Nat := 5
/-- AND -/
def opAnd : Nat := 6
/-- FILL -/
def opFill : Nat := 7
/-- EMPTY -/
def opEmpty : Nat := 8
/-- Type codes of an entry (R81): s32, n32, f32, s64, untyped. -/
def tyS32 : Nat := 0
/-- n32 -/
def tyN32 : Nat := 1
/-- f32 -/
def tyF32 : Nat := 2
/-- s64 -/
def tyS64 : Nat := 3
/-- untyped -/
def tyNone : Nat := 4

/-- An update before it becomes an entry: granule, type, op, mask and data. -/
structure Upd where
  gran : Nat
  ty : Nat
  op : Nat
  mask : BitVec 16
  data : Granule

/-- Bytes of a lane of a type; 1 for the untyped entries, which act bytewise. -/
def tyBytes (ty : Nat) : Nat := if ty = tyS64 then 8 else if ty = tyNone then 1 else 4

/-- The mask of n bytes from byte o. -/
def maskOf (o n : Nat) : BitVec 16 := BitVec.ofNat 16 ((2 ^ n - 1) * 2 ^ o)

/-- Lane j of a granule, n bytes wide, as a number. -/
def gLane (n : Nat) (x : Granule) (j : Nat) : Nat := x.toNat / 256 ^ (n * j) % 256 ^ n

/-- The granule whose lane j, n bytes wide, is f j. -/
def genGran (n : Nat) (f : Nat → Nat) : Granule :=
  BitVec.ofNat 128 (((List.range (16 / n)).map (fun j => f j % 256 ^ n * 256 ^ (n * j))).sum)

/-- One lane combined by an op (R85): x is the older value, y the newer one. -/
def combine (ty op : Nat) (x y : Nat) : Nat :=
  let n := tyBytes ty
  let f := fmtOf .f32
  if op = opStore then y
  else if op = opAdd then (if ty = tyF32 then (f.add .rne x y).1 else (x + y) % 256 ^ n)
  else if op = opMax ∨ op = opMin then
    let m := decide (op = opMax)
    if ty = tyF32 then (f.minmax m x y).1
    else if ty = tyN32 then (if m == decide (x < y) then y else x)
    else (if m == decide (signedOf n x < signedOf n y) then y else x)
  else if op = opOr then x ||| y
  else if op = opXor then x ^^^ y
  else if op = opAnd then x &&& y
  else x

/-- A lane's bytes are in a mask. -/
def inMask (m : BitVec 16) (n j : Nat) : Bool := m.getLsbD (n * j)

/-- Lanes in both masks combined, lanes in one mask copied (R84). -/
def mergeData (ty op : Nat) (p : LogEnt) (u : Upd) : Granule :=
  let n := tyBytes ty
  genGran n (fun j =>
    let a := gLane n p.data j
    let b := gLane n u.data j
    if inMask p.mask n j && inMask u.mask n j then combine ty op a b else if inMask u.mask n j then b else a)

/-- A new entry merges into the granule's most recent entry (R84). -/
def merges (p : LogEnt) (u : Upd) : Bool :=
  if u.op = opStore then decide (u.mask ≠ BitVec.allOnes 16) && p.op == opStore
  else if u.op = opAdd then p.op == opAdd && p.ty == u.ty && u.ty != tyF32
  else if u.op = opFill ∨ u.op = opEmpty then false
  else p.op == u.op && p.ty == u.ty

/-- The newest entry of a granule. -/
def newest (log : List LogEnt) (gran : Nat) : Option LogEnt := (log.filter (fun e => e.gran == gran)).getLast?

/-- The lowest index of the log memory from `k` on, cyclically, that no entry uses. -/
def freeIdx (used : List Nat) (k : Nat) : Nat → Nat
  | 0 => k
  | n + 1 => if used.contains k then freeIdx used ((k + 1) % 8192) n else k

/-- A log without the entries that an update frees: a STORE of a whole granule frees every earlier entry of it but the newest FILL or EMPTY
(R84). -/
def freed (log : List LogEnt) (u : Upd) : List LogEnt :=
  if u.op = opStore ∧ u.mask = BitVec.allOnes 16 then
    let keep := (log.filter (fun x => x.gran == u.gran && (x.op == opFill || x.op == opEmpty))).getLast?
    log.filter (fun x => x.gran != u.gran || some x.idx == keep.map LogEnt.idx)
  else log

/-- The log with an update appended, or merged into the entry of index `p.idx` (R84). -/
def appendTo (log : List LogEnt) (u : Upd) (idx : Nat) (seq : BitVec 32) : List LogEnt :=
  let e : LogEnt :=
    { idx := idx, gran := u.gran, ty := u.ty, op := u.op, mask := u.mask, seq := seq, data := u.data,
      whole := u.op == opStore && u.mask == BitVec.allOnes 16, poison := false }
  if u.op = opStore ∧ u.mask = BitVec.allOnes 16 then freed log u ++ [e]
  else
    match newest log u.gran with
    | some p =>
      if merges p u then
        log.map (fun x => if x.idx == p.idx then
          { x with data := mergeData u.ty u.op p u, mask := p.mask ||| u.mask, seq := seq } else x)
      else log ++ [e]
    | none => log ++ [e]

/-- Log entries in use in a squad. -/
def SquadSt.entries (k : SquadSt) : Nat := (k.tiles.map (fun p => p.2.log.length)).sum

/-- Updates appended to a tile's log, all together or not at all (R84, R86). -/
def State.append? (s : State) (q t : Nat) (us : List Upd) : Option State :=
  let step (c : State) (u : Upd) : State :=
    let k := c.squad q
    let o := c.choose 8192
    let used := k.tiles.flatMap (fun p => (if p.1 = t then freed p.2.log u else p.2.log).map LogEnt.idx)
    let i := freeIdx used o.1 (used.length + 1)
    o.2.modSquad q (fun k => { (k.modTile t (fun e =>
      let l := appendTo e.log u i k.seq
      { e with log := l, head := (l.head?.map LogEnt.idx).getD e.head, last := c.cyc })) with seq := k.seq + 1 })
  let r := us.foldl step s
  if (((r.squad q).tile t).log.length ≤ (s.squad q).tlcap.toNat) && (r.squad q).entries ≤ 8192 then some r else none

/-! ## Applying updates to a frame (R85, R89) -/

/-- The data of a granule after an update (R85). -/
def applyData (g : Granule) (ty op : Nat) (mask : BitVec 16) (data : Granule) : Granule :=
  let n := if op = opStore then 1 else tyBytes ty
  genGran n (fun j => if inMask mask n j then combine ty op (gLane n g j) (gLane n data j) else gLane n g j)

/-- One update applied at the granule of vault address `a`. `whole` clears its poison (R79). -/
def State.applyUpd (s : State) (a ty op : Nat) (mask : BitVec 16) (data : Granule) (whole : Bool) : State :=
  if op = opFill then s.setFull (a / 16) true
  else if op = opEmpty then s.setFull (a / 16) false
  else
    let s1 := { s with mem := wrBytes s.mem a (toBytes 16 (applyData (granOf s.mem (a / 16)) ty op mask data).toNat) }
    if whole then s1.setPoison a false else s1

/-- A log entry applied to its tile's frame at vault address `base`. -/
def State.applyEnt (s : State) (base : Nat) (e : LogEnt) : State :=
  let a := base + 16 * e.gran
  let s1 := s.applyUpd a e.ty e.op e.mask e.data e.whole
  if e.poison then s1.setPoison a true else s1

/-- The wait list of a tile unit served after a change of a granule of the vault (R88). -/
def State.serveTile (s : State) (q gran : Nat) : State :=
  let l := (s.squad q).twait
  if l = [] then s
  else
    let r := State.serveList gran (l.length + 1) s l (fun u r => u.vaultOf r.addr)
    r.1.modSquad q (fun k => { k with twait := r.2 })

/-- A request whose condition does not hold enters the tile wait list, or is rejected (R88). -/
def State.tileWait (s : State) (q : Nat) (r : HomeReq) : State :=
  if (s.squad q).twait.length ≥ 256 then
    { (s.modSquad q (fun k => { k with rejects := satInc k.rejects })).modLive r.cid (fun c => { c with wait := .rejected })
      with rejected := s.rejected ++ [r] }
  else (s.modSquad q (fun k => { k with twait := k.twait ++ [r] })).modLive r.cid (fun c => c.listed r.op.dest)

/-- The wait lists served after changes. -/
def State.serveTiles (s : State) (q : Nat) (gs : List Nat) : State := gs.foldl (fun t g => t.serveTile q g) s

/-- Updates performed in a frame, as direct accesses (R85), with the wait list served. -/
def State.applyUpds (s : State) (q base : Nat) (us : List Upd) : State :=
  us.foldl (fun t u =>
    let a := base + 16 * u.gran
    let t1 := t.applyUpd a u.ty u.op u.mask u.data (u.op == opStore && u.mask == BitVec.allOnes 16)
    if t1.isFull (a / 16) == t.isFull (a / 16) then t1 else t1.serveTile q (a / 16)) s

/-- A tile accessed now. -/
def State.touch (s : State) (q t : Nat) : State := s.modTile q t (fun e => { e with last := s.cyc })

/-- What a tile unit does with an access: it is done, or it waits for the tile. -/
inductive TileAns where
  | done (s : State)
  | hold (s : State)

/-- Updates of a tile: in the frame, into the log, or held (R77, R83, R86). -/
def State.tileUpdate (s : State) (q t : Nat) (us : List Upd) : TileAns :=
  let e := (s.squad q).tile t
  match e.st with
  | .resident => .done ((s.touch q t).applyUpds q (e.base q) us)
  | .leaving => .hold s
  | _ =>
    match s.append? q t us with
    | some r => .done r
    | none => .hold (s.forceFetch q t)

/-- The data of a log hit for the granules of a range of bytes of a tile (R87). -/
def logHit (log : List LogEnt) (o : Nat) : Nat → Option (List Byte)
  | 0 => some []
  | n + 1 =>
    match newest log (o / 16) with
    | some e =>
      if e.op = opStore ∧ e.mask = BitVec.allOnes 16 ∧ e.poison = false then
        (logHit log (o + 1) n).map (fun r => granByte e.data (o % 16) :: r)
      else none
    | none => none

/-- A list of granule numbers of the range of n bytes at a. -/
def gransOf (a n : Nat) : List Nat := (List.range ((a % 16 + n + 15) / 16)).map (fun i => a / 16 + i)

/-- A granule of a byte range of the vault is poisoned. -/
def State.poisonIn (s : State) (a n : Nat) : Bool := (gransOf a n).any (fun g => s.isPoison (16 * g))

/-! ## Arrival and departure (R71, R77, R79, R89) -/

/-- The backing store of a tile. -/
def State.backing (s : State) (q t : Nat) : Nat := fld (s.squad q).tbase 39 26 * 2 ^ 26 + 4096 * t

/-- The key slot of a tile's backing store (R71). -/
def State.tileKey (s : State) (q t : Nat) : Nat :=
  s.tenantKey ((s.squadPart q).getD 0) ((s.squad q).tile t).owner

/-- Every line of a backing store can be served by its home now; the state after the slices have dropped them. -/
def State.linesReady (s : State) (a : Nat) (change : Bool) : Nat → Option State
  | 0 => some s
  | n + 1 =>
    match s.linesReady a change n with
    | none => none
    | some t =>
      let r := t.homeReady (a + 128 * n) change
      if r.1 then some r.2 else none

/-- A line of a backing store copied into a frame, with full/empty and poison bits. A refused or poisoned line arrives with
every granule poisoned (R79); what a refused line holds is a free value (log 12). -/
def State.lineIn (s : State) (part key src dst : Nat) : State :=
  let bad := s.refused46 part src
  let p := bad || s.isPoison src
  let s1 := { s with mem := wrBytes s.mem dst (if bad then (List.range 128).map (fun i => Config.refusedByte part (src + i)) else s.rdMain key src 128) }
  (List.range 8).foldl (fun t i =>
    (t.setFull (dst / 16 + i) (if bad then Config.refusedFull part (src / 16 + i) else s.isFull (src / 16 + i))).setPoison (dst + 16 * i) p) s1

/-- A line of a frame written back, with full/empty and poison bits; a refused line is not written (R46), nor one in a sealed range (R377). -/
def State.lineOut (s : State) (part key src dst : Nat) : State :=
  if s.refused46 part dst || s.sealedAt dst 128 then s
  else
    let p := s.poisonIn src 128
    let s1 := (s.wrMain key dst (rdBytes s.mem src 128)).setPoison dst p
    let s2 := (List.range 8).foldl (fun t i => t.setFull (dst / 16 + i) (s.isFull (src / 16 + i))) s1
    s2.serveHomes ((List.range 8).map (fun i => dst / 16 + i))

/-- A counter of a context falls by one (R135). -/
def State.tlDown (s : State) (cid : Nat) : State := s.onCtx cid (fun c => { c with tl := c.tl - 1 })

/-- The slots that wait in TSYNC for a tile get their count (R137). -/
def State.tsyncDone (s : State) (q t n : Nat) : State :=
  s.ctxs.foldl (fun u c =>
    match c.wait with
    | .tsync q' t' d ps =>
      if q' = q ∧ t' = t then
        if u.unboundPort c.cid d then
          (u.place { c with wait := .none }).postTrap c.cid (fun c =>
            { cls := .port, slot := c.slot, cid := c.cid, away := c.isAway, pc := c.pc, addr := 0, info := portInfo false (portOf d) 1, late := false,
              fetch := false, next := c.npc, cyc := s.cyc })
        else (ps.foldl (fun v x => v.popQuiet c.cid x) u).completeOr c.cid d (BitVec.ofNat 64 n) c.npc 0 false 0 9 c.pc
      else u
    | _ => u) s

/-- The last line of a tile arrives: the log is applied and the tile is RESIDENT (R77, R89). -/
def State.tileArrive (s : State) (q t : Nat) : State :=
  let e := (s.squad q).tile t
  if e.st = .arriving ∧ e.framed then
    let part := (s.squadPart q).getD 32
    let key := s.tileKey q t
    let src := s.backing q t
    match s.linesReady src false 32 with
    | none => s
    | some s0 =>
      let s1 := (List.range 32).foldl (fun u i => u.lineIn part key (src + 128 * i) (e.base q + 128 * i)) s0
      let s2 := if e.lost then (List.range 256).foldl (fun u i => u.setPoison (e.base q + 16 * i) true) s1 else s1
      let s3 := e.log.foldl (fun u x => u.applyEnt (e.base q) x) s2
      let s4 := s3.modTile q t (fun k => { k with st := .resident, log := [], last := s.cyc, tlRes := [], lost := false })
      (e.tlRes.foldl State.tlDown (s4.tsyncDone q t e.log.length)).wake q t
  else s

/-- The last write-back of a tile is performed: the frame is free and the tile ABSENT (R77). -/
def State.tileDeparted (s : State) (q t : Nat) : State :=
  let e := (s.squad q).tile t
  if e.st = .leaving then
    let part := (s.squadPart q).getD 32
    let key := s.tileKey q t
    let dst := s.backing q t
    match s.linesReady dst true 32 with
    | none => s
    | some s0 =>
      let s1 := (List.range 32).foldl (fun u i => u.lineOut part key (e.base q + 128 * i) (dst + 128 * i)) s0
      let s2 := s1.modTile q t (fun k => { k with st := .absent, framed := false, tlAbs := [] })
      let s3 := (e.tlAbs.foldl State.tlDown s2).retryClaims q
      -- a TFETCH met the tile LEAVING: it is fetched once ABSENT (R135)
      (if e.tlRes.isEmpty then s3 else s3.startFetch q t).wake q t
  else s

end Sys2Proof.Machine
end

