-- ==== Sys2Proof/Machine/Slices.lean ====
section
/-!
DEFINITION. Requests on their way (R49, R51, R56, R58-R61, R121, R267, R377): an L2 slice performs the head of its queue,
a home core its requests and its update queue; what a synchronous access of a core waits for (R317).
-/

namespace Sys2Proof.Machine

/-! ## L2 slices -/

/-- The bytes that a slice request names, with their offsets. -/
def SliceReq.bytes (r : SliceReq) : List (Nat × Byte) :=
  match r.op with
  | .store x _ => (List.range r.size).zip (toBytes r.size x.toNat)
  | .vstorex x => (List.range r.size).zip (toBytes r.size x.toNat)
  | _ => []

/-- The request is a load. -/
def SliceOp.isLoad : SliceOp → Bool
  | .load _ _ | .vbcast _ _ | .vloadx _ _ _ _ _ | .fetchOnly => true
  | _ => false

/-- The lanes that a VLD of a form writes, from its bytes (R215). -/
def vldValue (w : VldW) (b : List Byte) : VWord :=
  match w with
  | .w64 => BitVec.ofNat 512 (ofBytes b)
  | .w32 => BitVec.ofNat 512 (ofBytes (b.take 32))
  | .b => genLanes (fun _ => BitVec.ofNat 32 (ofBytes (b.take 4)))

/-- The value in lane `l` alone. -/
def oneLane (l : Nat) (x : BitVec 32) : VWord := x.setWidth 512 <<< (32 * l)

/-- What a load brings, from the bytes read (R125, R215, R216). -/
def SliceOp.value (o : SliceOp) (n : Nat) (b : List Byte) : ReplyVal :=
  match o with
  | .load d sx => .g d (extend sx n (ofBytes b))
  | .vbcast d mask => .v d mask (vldValue .b b) false
  | .vloadx d sx l mask all => .v d mask (oneLane l ((extend sx n (ofBytes b)).setWidth 32)) all
  | _ => .g 0 0

/-- The register that a failing load leaves (R123). -/
def SliceOp.fails (o : SliceOp) (c : TrapClass) (why : Nat) : ReplyVal :=
  match o with
  | .load d _ => .fail c why (some d) none
  | .vbcast d _ => .fail c why none (some d)
  | .vloadx d _ _ _ _ => .fail c why none (some d)
  | _ => .fail c why none none

/-- A load reply sets out. -/
def State.sendLoad (s : State) (r : SliceReq) (v : ReplyVal) : State :=
  if r.op = .fetchOnly then s
  else { s with loads := s.loads ++ [{ cid := r.cid, val := v, addr := r.addr, code := r.code, pc := r.pc, tag := r.tag, acq := r.acq }] }
/-- An acknowledgement, or a refusal, sets out. -/
def State.sendAck (s : State) (cid : Nat) (f : Option (TrapClass × Nat)) (addr code : Nat) (pc : Word) (tag : Nat) (each : Bool) : State :=
  { s with acks := s.acks ++ [{ cid := cid, fail := f, addr := addr, code := code, pc := pc, tag := tag, each := each }] }
/-- The acknowledgement, or the refusal, of a request to a home or a tile unit that its issuer does not wait for. -/
def State.ackHome (s : State) (r : HomeReq) (f : Option (TrapClass × Nat)) : State :=
  s.sendAck r.cid (if r.quiet then none else f) r.ea r.code r.pc r.tag true

/-- `fij` of kind 2 is armed by this context (R186). -/
def State.fijArmed (s : State) (cid : Nat) : Bool := s.fij.extractLsb' 0 4 == 2 && s.fijBy == cid

/-- A slice holds a line dirty under another key slot than `key` (R58). -/
def State.l2Other (s : State) (line key : Nat) : Bool :=
  s.l2.any (fun p => p.1 / 8 == line && s.keys.find? p.1 != some key)

/-- A slice performs a request on a line that it may hold dirty under another key slot: the line is written back first (R46, R52, R53, R58,
R61, R377). None while the write-back waits for the copy of its snapshot page (R54). -/
def State.slicePerform (s0 : State) (r : SliceReq) : Option State :=
  let ack (t : State) (f : Option (TrapClass × Nat)) : State :=
    t.sendAck r.cid (if r.quiet then none else f) r.addr r.code r.pc r.tag false
  if s0.refused46 r.ptag r.addr then
    some (if r.op.isLoad then s0.sendLoad r (r.op.fails .confine 3) else ack s0 (some (.confine, 3)))
  else if !r.op.isLoad && s0.sealedAt r.addr r.size then some (ack s0 (some (.confine, 5)))
  else
    let w := if s0.l2Other (r.addr / 128) r.key then s0.homeReady r.addr true else (true, s0)
    let s := w.2
    if !w.1 then none
    else if r.op.isLoad then
      if s.isPoison r.addr then some (s.sendLoad r (r.op.fails .memErr 7))
      else
        let b := s.rdMain r.key r.addr r.size
        let s1 := s.sendLoad r (r.op.value r.size b)
        some (if r.fill then s1.l1Fill r.core r.ptag r.key (r.addr / 128) else s1)
    else
      let s1 := (gransOf r.addr r.size).foldl State.l2Note s
      let s2 := s1.wrSoft r.key r.addr r.bytes
      let s3 := match r.op with
        | .store _ true => s2.setPoison r.addr true
        | _ => s2
      some (ack s3 none)

/-- An earlier request of the core to the line is still on its way to, or at, the home core (R317). -/
def State.homeBefore (s : State) (r : SliceReq) : Bool :=
  let ch := r.slice / 4
  let b (h : HomeReq) : Bool := h.core == r.core && h.addr / 128 == r.addr / 128 && decide (h.seq < r.seq)
  (s.chan ch).hq.any b || (s.chan ch).uq.any b || s.rupds.any (fun p => p.1 == ch && b p.2)

/-- An earlier request of the core is still in the queue of the slice that forwards to this home, or among the other requests to it
(R49, R61, R317). -/
def State.sliceBefore (s : State) (ch : Nat) (r : HomeReq) : Bool :=
  s.sliceQ.any (fun q => q.core == r.core && q.slice / 4 == ch && q.slice == s.sliceOf r.addr && decide (q.seq < r.seq)) ||
  (s.chan ch).hq.any (fun h => h.core == r.core && decide (h.seq < r.seq)) ||
  (s.chan ch).uq.any (fun h => h.core == r.core && decide (h.seq < r.seq)) ||
  s.rupds.any (fun p => p.1 == ch && p.2.core == r.core && decide (p.2.seq < r.seq))

/-- SLICE_REQUEST: the request performed that has reached a slice first: the oldest of some core, since R61 orders the requests of one core only.
None while it follows a request of its core that the home has not performed. -/
def State.sliceStep (s : State) (sl : Nat) : State :=
  match s.pick ((headsOf SliceReq.core (s.sliceQ.filter (fun r => r.slice == sl))).filter (fun r => !s.homeBefore r)) with
  | none => s
  | some (r, s1) => ({ s1 with sliceQ := s1.sliceQ.filter (fun q => q.seq != r.seq) }.slicePerform r).getD (s1.homeReady r.addr true).2

/-- A slice evicts a line, with no reader (R363): a dirty one is written back to its home, unless its snapshot page is being copied (R54). -/
def State.sliceEvict (s : State) (sl line : Nat) : State :=
  if s.sliceOf (128 * line) != sl then s
  else if s.l2Dirty line then
    let r := s.homeReady (128 * line) true
    if r.1 then r.2.leftCache line else r.2
  else s.leftCache line

/-! ## Home cores -/

/-- A request to a home that its issuer does not wait for (R128, R267). -/
def HomeOp.counted : HomeOp → Bool
  | .femark _ _ | .rupd _ _ _ => true
  | _ => false

/-- A refusal at the home: late for a counted request, precise for one its slot waits on (R123). -/
def State.homeFail (s : State) (r : HomeReq) (c : TrapClass) (why : Nat) : State :=
  if r.op.counted then s.ackHome r (some (c, why))
  else s.replyTrap r c (BitVec.ofNat 64 r.ea) (accInfo r.code why false)

/-- Bytes that a request touches. -/
def HomeReq.span (r : HomeReq) : Nat := match r.op with | .femark n _ => 16 * n | _ => r.size

/-- A home core performs a request that has arrived, or appends it to its wait list (R46, R51, R377). None while a snapshot copy
of its page is under way (R54). -/
def State.homeTake (s : State) (r : HomeReq) : Option State :=
  if s.refused46 r.ptag r.addr then some (s.homeFail r .confine 3)
  else if r.op.changes && s.sealedAt r.addr r.span then some (s.homeFail r .confine 5)
  else
    let h := s.homeReady r.addr r.op.changes
    if !h.1 then none
    else if h.2.isPoison r.addr && r.op.traps then some (h.2.homeFail r .memErr 7)
    else if !r.op.ready (h.2.isFull (r.addr / 16)) then
      let cap := match h.2.ctxOf r.cid with | some c => c.waitCap 1024 | none => 1024
      some (h.2.homeWait r cap)
    else
      let z := h.2.perform r.op r.key r.addr r.size
      let s1 := if r.op.counted then z.s.ackHome r none else z.s.reply r z.y z.fl
      some (s1.serveHomes z.grans)

/-- HOME_REQUEST: the home core takes its next request whose page is not being copied (R51, R54). -/
def State.homeStep (s : State) (ch : Nat) : State :=
  let ok (r : HomeReq) : Bool := (s.chan ch).copying != some (s.pageOf r.addr) && !s.sliceBefore ch r
  match s.pick (headsOf HomeReq.core ((s.chan ch).hq.filter ok)) with
  | none => s
  | some (r, s1) =>
    match (s1.modChan ch (fun c => { c with hq := c.hq.filter (fun q => q.seq != r.seq) })).homeTake r with
    | some t => t
    | none => (s1.homeReady r.addr r.op.changes).2

/-! ## RUPD (R267) -/

/-- The unit of an RUPD: the channel of its home, or 4,096 + the squad. -/
def State.unitOf (s : State) (a : Nat) : Option Nat :=
  match regionOf s.part a with
  | .main => some (s.chanOf a)
  | .tile q _ _ => some (4096 + q)
  | .vault q _ => some (4096 + q)
  | _ => none

/-- The log form of an RUPD to a tile, if it has one (R83). -/
def rupdUpd (op : AtOp) (w : AtW) (x : Word) (b : Nat) : Option Upd :=
  let n := atSize w
  let mk (ty o : Nat) : Option Upd :=
    some { gran := b / 16, ty := ty, op := o, mask := maskOf (b % 16) n,
           data := BitVec.ofNat 128 (x.toNat % 256 ^ n * 256 ^ (b % 16)) }
  let wide := n == 8
  match op, w with
  | .add, _ => mk (if wide then tyS64 else tyS32) opAdd
  | .and, _ => mk tyNone opAnd
  | .or, _ => mk tyNone opOr
  | .xor, _ => mk tyNone opXor
  | .min, _ => mk (if wide then tyS64 else tyS32) opMin
  | .max, _ => mk (if wide then tyS64 else tyS32) opMax
  | .minn, .n32 => mk tyN32 opMin
  | .maxn, .n32 => mk tyN32 opMax
  | .fadd, .f32 => mk tyF32 opAdd
  | .fmin, .f32 => mk tyF32 opMin
  | .fmax, .f32 => mk tyF32 opMax
  | _, _ => none

/-- An operation performed at a vault address by the tile unit, its wait list served; a poisoned location discards an RUPD. -/
def State.unitPerform (s : State) (q : Nat) (r : HomeReq) (a : Nat) : Ans :=
  let z := s.perform r.op r.key a r.size
  { z with s := z.s.serveTiles q z.grans }

/-- A remote update arrives at a tile unit: appended, performed, or none while it waits for its tile (R83, R267). -/
def State.rupdTile (s : State) (r : HomeReq) : State × Bool :=
  let ack (t : State) : State × Bool := (t.ackHome r none, true)
  match regionOf s.part r.addr with
  | .vault q b => ack (s.unitPerform q r (vaultAddr q b)).s
  | .tile q t b =>
    match s.tileRefused r.ptag r.tenid q t with
    | some why => (s.ackHome r (some (.confine, why)), true)
    | none =>
      let e := (s.squad q).tile t
      let upd := match r.op with | .rupd op w x => rupdUpd op w x b | _ => none
      match e.st with
      | .resident =>
        let a := e.base q + b
        -- a poisoned location keeps its poison, and the update is discarded (R267)
        if s.isPoison a then ack s else ack ((s.touch q t).unitPerform q r a).s
      | .leaving => (s, false)
      | _ =>
        match upd with
        | some u =>
          match s.append? q t [u] with
          | some s1 => ack s1
          | none => (s.forceFetch q t, false)
        | none => (s.forceFetch q t, false)
  | _ => (s.ackHome r (some (.confine, 6)), true)

/-- The oldest update of a home's queue performed (R267). -/
def State.uqStep (s : State) (ch : Nat) : State :=
  match (s.chan ch).uq with
  | [] => s
  | r :: rest =>
    match (s.modChan ch (fun c => { c with uq := rest })).homeTake r with
    | some t => t
    | none => (s.homeReady r.addr true).2

/-- An RUPD arrives at its unit, `rest` being the others: at a home core it enters the update queue, within its size and the tenant's cap, or is
rejected and stays with its source (R56, R267). -/
def State.rupdTake (s : State) (u : Nat) (p : Nat × HomeReq) (rest : List (Nat × HomeReq)) : State :=
  if u < 4096 then
    let c := s.chan u
    let cap := match s.ctxOf p.2.cid with
      | some k => if k.eff.uqueue = 0 then 32 else k.eff.uqueue
      | none => 32
    if c.uq.length ≥ 32 ∨ countOf p.2.tenid c.uq ≥ cap then
      (s.modChan u (fun k => { k with rejects := satInc k.rejects })).uqStep u
    else ({ s with rupds := rest }.modChan u (fun k => { k with uq := c.uq ++ [p.2] })).uqStep u
  else
    let r := { s with rupds := rest }.rupdTile p.2
    if r.2 then r.1 else { r.1 with rupds := s.rupds }

/-- REMOTE_UPDATE: an RUPD in flight to a unit arrives, the oldest of its core; at a home core the head of the update queue is then performed
(R267). -/
def State.rupdStep (s : State) (u : Nat) : State :=
  match s.pick (headsOf (fun (p : Nat × HomeReq) => p.2.core)
      (s.rupds.filter (fun p => p.1 == u && (decide (4096 ≤ u) || !s.sliceBefore u p.2)))) with
  | none => if u < 4096 then s.uqStep u else s
  | some (p, s1) => State.rupdTake s1 u p (s1.rupds.filter (fun q => q.2.seq != p.2.seq))

/-! ## What a synchronous access waits for (R61, R68, R317) -/

/-- No earlier request of the core is still on the route to the home of an offset: in the queue of its slice, on the way to the home
core, or among the updates sent to it. A later synchronous access of the core may then be performed. -/
def State.routeClear (s : State) (core a : Nat) : Bool :=
  let sl := s.sliceOf a
  let ch := sl / 4
  !s.sliceQ.any (fun r => r.core == core && r.slice == sl) && !(s.chan ch).hq.any (fun r => r.core == core) &&
  !(s.chan ch).uq.any (fun r => r.core == core) && !s.rupds.any (fun p => p.1 == ch && p.2.core == core)

/-- No earlier update of the core is still on its way to a tile unit. -/
def State.tileClear (s : State) (core q : Nat) : Bool := !s.rupds.any (fun p => p.1 == 4096 + q && p.2.core == core)

/-- The requests of a context that wait in a list. -/
def State.listedOf (s : State) (cid : Nat) : List HomeReq :=
  (s.chans.flatMap (fun p => p.2.wlist) ++ s.squads.flatMap (fun p => p.2.twait)).filter (fun r => r.cid == cid)

/-- A parked request is removed from the lists that hold it, with no change (R122). -/
def State.unlist (s0 : State) (cid : Nat) : State :=
  let out (r : HomeReq) : Bool := r.cid != cid || r.op.counted
  let s := (s0.listedOf cid).foldl (fun t r => t.onCtx cid (fun c => c.unlisted r.op.dest r.wasFull)) s0
  { s with
    rejected := s.rejected.filter out,
    chans := s.chans.map (fun p => (p.1, { p.2 with wlist := p.2.wlist.filter out })),
    squads := s.squads.map (fun p => (p.1, { p.2 with twait := p.2.twait.filter out })) }

end Sys2Proof.Machine
end

