-- ==== Sys2Proof/Machine/Control.lean ====
section
/-!
DEFINITION. Device control space as a core reaches it (R47, R73, R119, R234, R289, R346, R355, R359, R373, R374, R387, R389,
R390, R401, R404, R411, R419): what a context reads, and the one register that it may write.
-/

namespace Sys2Proof.Machine

/-- Task ring `n` of a squad. -/
def State.ring (s : State) (q n : Nat) : TaskRing := (s.squad q).rings.getD TaskRing.reset n
/-- Changes a task ring. -/
def State.modRing (s : State) (q n : Nat) (f : TaskRing → TaskRing) : State :=
  s.modSquad q (fun k => { k with rings := k.rings.put n (f (k.rings.getD TaskRing.reset n)) })

/-- `srcfg.tenant`. -/
def TaskRing.tenant (r : TaskRing) : BitVec 16 := r.srcfg.extractLsb' 48 16
/-- `srcfg.sidx`. -/
def TaskRing.sidx (r : TaskRing) : Nat := fld r.srcfg 47 44
/-- Tasks that the ring holds, 2^`lsize`. -/
def TaskRing.size (r : TaskRing) : Nat := 2 ^ fld r.srcfg 43 40
/-- `srtail` (R289). -/
def TaskRing.tailWord (r : TaskRing) : Word := 0#16 ++ r.head ++ 0#16 ++ r.tail

/-- A write of `srtail.tail` (R289): ignored when it would post more tasks than the ring holds. -/
def TaskRing.setTail (r : TaskRing) (t : BitVec 16) : TaskRing := if (t - r.head).toNat > r.size then r else { r with tail := t }

/-- A seal-table entry (R373). -/
def SealSt.code : SealSt → Nat
  | .free => 0
  | .sealing => 1
  | .live => 2
  | .revoking => 3
  | .revoked => 4

/-- Word `i` of a seal-table entry (R373). -/
def SealEnt.word (e : SealEnt) (i : Nat) : Word :=
  match i with
  | 0 => BitVec.ofNat 64 (e.base % 2 ^ 56)
  | 1 => BitVec.ofNat 64 (packFields [(40, e.len), (24, e.flen)])
  | 2 => BitVec.ofNat 64 (packFields [(16, e.tenant.toNat), (1, e.sup.toNat), (3, e.st.code), (12, 0), (32, e.sgen.toNat)])
  | 3 => BitVec.ofNat 64 e.tgen.toNat
  | _ => e.digest.extractLsb' (64 * (i - 4)) 64

/-- The code of a group's state (R411). -/
def GrpSt.code : GrpSt → Nat
  | .none => 0
  | .forming => 1
  | .formed => 2
  | .broken => 3
  | .lost => 4

/-- Word `i` of a group entry (R411). -/
def Group.word (e : Group) (i : Nat) : Word :=
  match i with
  | 0 => BitVec.ofNat 64 (packFields [(16, e.gen.toNat), (3, e.st.code), (11, e.members), (11, e.rank)])
  | 1 => BitVec.ofNat 64 (packFields [(32, e.dline), (32, e.stale.toNat)])
  | 2 => BitVec.ofNat 64 (e.list % 2 ^ 56)
  | 3 => BitVec.ofNat 64 (packFields [(32, e.lcrc.toNat), (16, e.bstat), (11, e.brank)])
  | _ => 0

/-- The key of a group entry in its table. -/
def groupKey (part id : Nat) : Nat := 256 * part + id
/-- A group entry. -/
def State.group (s : State) (part id : Nat) : Group := s.fab.groups.getD Group.reset (groupKey part id)
/-- Changes a group entry. -/
def State.modGroup (s : State) (part id : Nat) (f : Group → Group) : State :=
  { s with fab := { s.fab with groups := s.fab.groups.put (groupKey part id) (f (s.group part id)) } }

/-- The code of an interrupt entry's state (R359). -/
def IrqSt.code : IrqSt → Nat
  | .idle => 0
  | .devWait => 1
  | .device => 2
  | .host => 3

/-- `istat` (R359). -/
def Irq.istat (e : Irq) : Word := e.events ++ BitVec.ofNat 32 e.st.code

/-- `sema` (R387), with the ms that are left of the lease. -/
def State.semaWord (s : State) : Word :=
  let x := s.sema
  BitVec.ofNat 64 (packFields [(1, x.busy.toNat), (1, 0), (2, x.holder.toNat), (28, 0), (32, if x.busy then x.lease - (s.clk - x.t0) / 1000000 else 0)])

/-- The block of an offset that starts at `b`, of `n` units of `k` bytes: the unit and the byte within it. -/
def inBlock (off b n k : Nat) : Option (Nat × Nat) :=
  if b ≤ off ∧ off < b + n * k then some ((off - b) / k, (off - b) % k) else none

/-- The ring and the register of an offset of the serve rings (R289). -/
def State.ringAt (s : State) (off : Nat) : Option (Nat × Nat × Nat) :=
  (inBlock off 0x400000 s.part.squads 0x100).map (fun p => (p.1, p.2 / 16, p.2 % 16))

/-- The code of a snapshot's state (R47). -/
def SnapSt.code : SnapSt → Nat
  | .off => 0
  | .armed => 1
  | .active => 2
  | .overflow => 3

/-- A register of a channel's control block (R47). -/
def State.chanWord (s : State) (ch r : Nat) : Word :=
  let c := s.chan ch
  match r with
  | 0x00 => BitVec.ofNat 64 (packFields [(5, c.part), (3, 0), (1, c.own.toNat)])
  | 0x08 => c.snapt
  | 0x10 => BitVec.ofNat 64 (packFields [(3, c.snap.code), (5, 0), (16, c.alen), (15, c.abase)])
  | 0x18 => BitVec.ofNat 64 c.ncopies
  | 0x20 => c.rejects ++ BitVec.ofNat 32 c.wlist.length
  | _ => 0

/-- A register of a squad's tile or matrix control block (R73, R234). -/
def State.squadWord (s : State) (q r : Nat) (matrix : Bool) : Word :=
  let k := s.squad q
  match matrix, r with
  | false, 0x00 => k.tbase
  | false, 0x08 => k.townc
  | false, 0x10 => k.tlstat
  | false, 0x18 => k.forced ++ k.rejects
  | true, 0x00 => if s.part = .c2 then 0 else k.mbudget.setWidth 64
  | true, 0x08 => if s.part = .c2 then 0 else k.deferred ++ k.mused
  | _, _ => 0

/-- A register of the seal unit (R374). -/
def State.sealWord (s : State) (r : Nat) : Word :=
  let u := s.sealU
  if r = 0x00 then u.scdesc
  else if r = 0x08 then u.sccmd
  else if r = 0x10 then BitVec.ofNat 64 (packFields [(1, u.busy.toNat), (7, 0), (8, u.result), (16, 0), (32, u.lastGen.toNat)])
  else if 0x100 ≤ r ∧ r < 0x200 then BitVec.ofNat 64 (s.partn ((r - 0x100) / 8)).audit.toNat
  else 0

/-- The code of a link port's state (R404). -/
def LinkState.code : LinkState → Nat
  | .down => 0
  | .training => 1
  | .up => 2
  | .failed => 3

/-- A register of the link ports' blocks, and `lnode` (R404). -/
def State.linkWord (s : State) (r : Nat) : Word :=
  let k := s.fab.links.getD Link.reset (r / 0x100)
  if r = 0x18000 then BitVec.ofNat 64 (packFields [(16, s.fab.node), (32, s.fab.ldead)])
  else if s.part.links ≤ r / 0x100 then 0
  else if r % 0x100 = 0x00 then BitVec.ofNat 64 (packFields [(2, k.st.code), (38, 0), (8, k.pport), (16, k.pnode)])
  else if r % 0x100 = 0x08 then k.replays ++ k.discards
  else 0

/-- A register of a partition's control block (R419). -/
def State.partWord (s : State) (p r : Nat) : Word :=
  let x := s.partn p
  match r with
  | 0x00 => x.pchan
  | 0x08 => x.psqd
  | 0x10 => x.pqslot
  | 0x18 => x.prcb
  | 0x20 => (match x.pstate with | .free => 0 | .active => 1 | .draining => 2)
  | _ => 0

/-- A word of a host-window descriptor (R389). -/
def State.winWord (s : State) (p r : Nat) : Word :=
  let d := (s.partn p).wins.getD HostWin.reset (r / 0x20)
  match r % 0x20 with
  | 0x00 => d.w0
  | 0x08 => d.w1
  | 0x10 => d.w2
  | _ => 0

/-- The register at an offset in a block that its own agents alone read: the firmware complex (R47, R73, R234, R346, R374, R404), or the policy
core (R389, R419). -/
def State.ownWord (s : State) (off : Nat) : Option Word :=
  let blk (b n k : Nat) (f : Nat → Nat → Word) : Option Word := (inBlock off b n k).map (fun x => f x.1 x.2)
  (blk 0x100000 s.part.squads 0x100 s.chanWord).orElse fun _ =>
  (blk 0x200000 s.part.squads 0x100 (fun q r => s.squadWord q r false)).orElse fun _ =>
  (blk 0x300000 s.part.squads 0x100 (fun q r => s.squadWord q r true)).orElse fun _ =>
  (blk 0x500000 32 0x100 (fun p r => if r = 0 then (s.partn p).kcfg else if r = 8 then (s.partn p).kstat else 0)).orElse fun _ =>
  (blk 0xA00000 1 0x200 (fun _ r => s.sealWord r)).orElse fun _ =>
  (blk 0xD00000 32 0x100 s.winWord).orElse fun _ =>
  (blk 0xF00000 1 0x18008 (fun _ r => s.linkWord r)).orElse fun _ =>
  (blk 0x1100000 32 0x100 s.partWord).orElse fun _ =>
  (blk 0x2000000 65536 8 (fun n _ => BitVec.ofNat 64 (s.fab.lroute.getD 0 n))).orElse fun _ =>
  (blk 0x4000000 65536 0x80 (fun n r =>
    BitVec.ofNat 64 (packFields [(32, s.fab.lpmap.getD 0 (32 * n + r / 4)), (32, s.fab.lpmap.getD 0 (32 * n + r / 4 + 1))])))

/-- A context in privileged mode on a pivot core: its supervisor (R374, log 89). -/
def State.privileged (s : State) (c : Ctx) : Bool := s.part.isPivot c.core && c.slot == 15

/-- The 8-byte register at an offset, as a context of a tenant and a partition reads it; `priv`: a pivot core in privileged mode, which reads the
seal unit's registers (R374). The blocks of `ownWord` read zero for every other agent. A core that reads `sema` has no port and acquires nothing
(log 14). -/
def State.ctlWord (s : State) (priv : Bool) (tenid : BitVec 16) (ptag : Nat) (off : Nat) : Word :=
  if priv && (inBlock off 0xA00000 1 0x200).isSome then (s.ownWord off).getD 0
  else
  match s.ringAt off with
  | some (q, n, b) =>
    let r := s.ring q n
    if r.tenant = tenid ∧ tenid ≠ 0 then (if b = 0 then r.srcfg else if b = 8 then r.tailWord else 0) else 0
  | none =>
    match inBlock off 0x900000 4096 0x40 with
    | some (i, b) => (s.sealU.tab.getD SealEnt.reset i).word (b / 8)
    | none =>
      match inBlock off 0x1000000 32 0x4000 with
      | some (p, b) => if p = ptag then (s.group p (b / 0x40)).word (b % 0x40 / 8) else 0
      | none =>
        match inBlock off 0x800000 2048 0x10 with
        | some (n, b) => if b = 0 then (s.irq n).irte else (s.irq n).istat
        | none =>
          match inBlock off 0x700000 4640 0x10 with
          | some (c, b) => if b = 0 then (s.core c).spqa else 0
          | none =>
            match inBlock off 0xE00000 32 0x8000 with
            | some (p, b) => (s.partn p).qtab.getD 0 (b / 8)
            | none =>
              match inBlock off 0xC00000 32 0x100 with
              | some (p, b) =>
                let x := s.partn p
                if b = 0 then BitVec.ofNat 64 x.sysBase
                else if b = 8 then BitVec.ofNat 64 x.sysLsize
                else if b = 16 then x.sysTail ++ x.sysHead
                else 0
              | none => if off = 0xB00000 then s.semaWord else if off = 0xB00008 then s.sema.rej.setWidth 64 else 0

/-- The bytes of n bytes at an offset, within one register or over whole registers. -/
def State.ctlBytes (s : State) (priv : Bool) (tenid : BitVec 16) (ptag : Nat) (off : Nat) : Nat → List Byte
  | 0 => []
  | n + 1 => (s.ctlWord priv tenid ptag (off / 8 * 8)).extractLsb' (8 * (off % 8)) 8 :: s.ctlBytes priv tenid ptag (off + 1) n

/-- A store of a context to a whole register (R289, R374): it may write `srtail.tail` of its tenant's rings, and a pivot core in privileged mode the
seal unit's registers, which the unit does in its next move. Every other write is discarded or ignored. -/
def State.ctlStore (s : State) (priv : Bool) (tenid : BitVec 16) (off : Nat) (v : Word) : State :=
  if priv && (inBlock off 0xA00000 1 0x200).isSome then { s with agenda := .controlRegisterWrite .firmware off v :: s.agenda }
  else
  match s.ringAt off with
  | some (q, n, b) =>
    if b = 8 && (s.ring q n).tenant == tenid && tenid != 0 then s.modRing q n (fun r => r.setTail (v.extractLsb' 0 16)) else s
  | none => s

end Sys2Proof.Machine
end

