-- ==== Sys2Proof/Machine/FrontEnd.lean ====
section
/-!
DEFINITION. Fetching and the front end of a squad (R276-R288, R376): what a fetch finds, the decode of a stream, the drift
window, the outcome that a stream follows, and the rendezvous.
-/

namespace Sys2Proof.Machine

/-! ## Fetch (R376, R40, R41) -/

/-- The word of an instruction at an address, read under key slot 0 (R369). -/
def State.iword (s : State) (a : Nat) : IWord :=
  ((s.rdKey 0 (a + 1)) ++ (s.rdKey 0 a) : BitVec 16)

/-- The whole word at `a` lies in the fetchable text of an entry. -/
def SealEnt.holds (e : SealEnt) (a : Nat) : Bool := decide (e.base ≤ a) && decide (a + 2 ≤ e.base + e.flen)

/-- The LIVE entry that lets a context fetch the word at `a` (R376). -/
def State.fetchEnt (s : State) (tenid : BitVec 16) (a : Nat) : Option SealEnt :=
  (List.find? (fun (p : Nat × SealEnt) =>
    p.2.st == .live && p.2.holds a && (if p.2.sup then tenid == 0 else p.2.tenant == tenid)) s.sealU.tab).map Prod.snd

/-- The REVOKING or REVOKED entry of the tenant whose text holds `a` (R376). -/
def State.revokedEnt (s : State) (tenid : BitVec 16) (a : Nat) : Option SealEnt :=
  (List.find? (fun (p : Nat × SealEnt) =>
    (p.2.st == .revoking || p.2.st == .revoked) && p.2.holds a && p.2.tenant == tenid) s.sealU.tab).map Prod.snd

/-- The words from `a` on, as far as the text reaches, at most eight: the longest chain and its base word. -/
def State.words (s : State) (a : Nat) : Nat → Nat → List IWord
  | 0, _ => []
  | n + 1, left => if left < 2 then [] else s.iword a :: s.words (a + 2) n (left - 2)

/-- A prefix word. -/
def isPrefixWord (w : IWord) : Bool := (pfxRank w).isSome

/-- Words of the chain at `a` and its base word, as far as the text reaches. -/
def State.chainLen (s : State) (a : Nat) : Nat → Nat
  | 0 => 0
  | n + 1 => if isPrefixWord (s.iword a) then 1 + s.chainLen (a + 2) n else 1

/-- What a fetch finds: a trap of the fetch with `taddr` and `tinfo`, a word that is ILLEGAL with its reason, its index and the length of
the chain, or an instruction with its length in words. -/
inductive Fetched where
  | stop (c : TrapClass) (addr info : Word)
  | illegal (code idx len : Nat)
  | instr (i : Instr) (n : Nat)

/-- The fetch of the next instruction of a context (R376). At an odd address no text holds a word (R268). -/
def State.fetch (s : State) (c : Ctx) : Fetched :=
  let a := c.pc.toNat
  match (if c.pc.getLsbD 0 then none else s.fetchEnt c.tenid a) with
  | some e =>
    match decodeWords (s.words a 8 (e.base + e.flen - a)) with
    | .ok r => .instr r.1 r.2
    | .error v => .illegal v.code v.idx (s.chainLen a ((e.base + e.flen - a) / 2))
  | none =>
    match (if c.pc.getLsbD 0 then none else s.revokedEnt c.tenid a) with
    | some e => .stop .revoked (BitVec.ofNat 64 e.base) (BitVec.ofNat 64 e.tenant.toNat)
    | none => .stop .unsealed c.pc 0

/-! ## Streams (R281-R284) -/

/-- The squad of a core. -/
def squadOf (core : Nat) : Nat := core / 8

/-- Stream `k` of a squad. -/
def State.stream (s : State) (q k : Nat) : FeStream := (s.squad q).fe.getD FeStream.reset k
/-- Changes a stream. -/
def State.modStream (s : State) (q k : Nat) (f : FeStream → FeStream) : State :=
  s.modSquad q (fun x => { x with fe := x.fe.put k (f (x.fe.getD FeStream.reset k)) })

/-- The place of least number in a list. -/
def leastPlace : List Ctx → Option Ctx
  | [] => none
  | c :: r =>
    match leastPlace r with
    | some b => if slotKey b.core b.slot < slotKey c.core c.slot then some b else some c
    | none => some c

/-- The gang of a context: its number, with the entry of the image that the members share (R281). -/
def Ctx.gangId (c : Ctx) : BitVec 16 × Word := (c.gang, c.entry)

/-- The contexts of any gang in slot `k` of the cores of a squad. -/
def State.gangSlots (s : State) (q k : Nat) : List Ctx :=
  s.ctxs.filter (fun c => squadOf c.core == q && c.slot == k && s.part.isBarrel c.core && c.gang != 0)

/-- The one gang whose contexts are the members of a stream (R281): the one it has, while a context of it is there; else that of the
lowest-numbered core (DESIGN CHOICE, log 87). -/
def State.gangOf (s : State) (q k : Nat) : Option (BitVec 16 × Word) :=
  let l := s.gangSlots q k
  match (s.stream q k).who with
  | some w => if l.any (fun c => c.gangId == w) then some w else (leastPlace l).map Ctx.gangId
  | none => (leastPlace l).map Ctx.gangId

/-- The members of a stream (R281). -/
def State.members (s : State) (q k : Nat) : List Ctx := (s.gangSlots q k).filter (fun c => s.gangOf q k == some c.gangId)

/-- A context has a stream on its core: it is a member there, and the thread at its anchor (R281, R287). -/
def State.hasStream (s : State) (c : Ctx) : Bool :=
  s.part.isBarrel c.core && c.gang != 0 && !c.isAway && decide (c.slot < 15) && s.gangOf (squadOf c.core) c.slot == some c.gangId

/-- A member that counts as one that has left: away, under way, or parked in WAITW (R286). -/
def Ctx.left (c : Ctx) : Bool :=
  c.isAway || (match c.wait with
    | .anchor _ | .moving | .serve _ _ _ => true
    | _ => false)

/-- Members attached to the stream. -/
def State.attached (s : State) (q k : Nat) : List Ctx := (s.members q k).filter (fun c => c.att)

/-- The least of a list, or `d`. -/
def minOf (l : List Nat) (d : Nat) : Nat := l.foldl Nat.min d
/-- The greatest of a list. -/
def maxOf (l : List Nat) : Nat := l.foldl Nat.max 0

/-- Instructions that the buffer of a stream holds: decoded and not consumed by every attached slot (R283). -/
def State.buffered (s : State) (q k : Nat) : Nat :=
  let f := s.stream q k
  f.decoded - minOf ((s.attached q k).map Ctx.consumed) f.decoded

/-- What the leading attached slot has consumed. The slots of a stream have their turns in the same cycle (R276): what one of them consumes in
this cycle is no lead over the others yet. -/
def State.leading (s : State) (q k : Nat) : Nat :=
  let n := maxOf ((s.attached q k).map Ctx.consumed)
  match (s.stream q k).lead with
  | some (t, m) => if t = s.cyc then m else n
  | none => n

/-- `drift.lag` of a context (R283). -/
def State.lag (s : State) (c : Ctx) : Nat := if c.att then s.leading (squadOf c.core) c.slot - c.consumed else 0

/-- A slot consumes an instruction in this cycle: what the leading slot had consumed before the cycle is kept. -/
def State.noteLead (s : State) (q k : Nat) (c : Ctx) : State :=
  let n := maxOf (c.consumed :: ((s.attached q k).filter (fun d => d.core != c.core)).map Ctx.consumed)
  s.modStream q k (fun f => { f with lead := some (match f.lead with
    | some (t, m) => if t = s.cyc then (t, m) else (s.cyc, n)
    | none => (s.cyc, n)) })

/-- A branch that holds the decode of its stream (R285). -/
def isBranch : Instr → Bool
  | .br _ _ | .call _ _ | .bc _ _ _ _ | .bcmp _ _ _ _ | .bqb _ _ _ | .jmp _ | .callr _ | .ret => true
  | _ => false

/-- The target of a J-form offset (R176). -/
def branchTo (pc : Word) (off : Word) : Word := (pc + 2#64 * off) &&& 0x00FFFFFFFFFFFFFF#64

/-- A stream decodes one instruction `i` of `n` words at its next address (R282, R285, R287). -/
def FeStream.decode (f : FeStream) (r : Option (Instr × Nat)) : FeStream :=
  let n := match r with | some x => x.2 | none => 1
  let br := match r with | some x => isBranch x.1 | none => true
  let f1 := { f with decoded := f.decoded + 1, buf := (f.buf ++ [f.next]).drop (f.buf.length - 31),
                     next := f.next + BitVec.ofNat 64 (2 * n), held := br }
  match r with
  | some (.join off p, _) => { f1 with st := .joinWait (branchTo f.next (immS p 10 off.toNat)), held := true }
  | _ => f1

/-- What a stream decodes at its next address, for a member `c`. An illegal word or a refused fetch ends the decode there. -/
def State.streamWord (s : State) (f : FeStream) (c : Ctx) : Option (Instr × Nat) :=
  match s.fetch { c with pc := f.next } with
  | .instr i n => some (i, n)
  | _ => none

/-- The next instruction of a context is available to it (R277). None while its slot is in a fetch wait, which a detached slot of a barrel core
is in until the private path has delivered (R280), or in a drift stall (R283); an attached leader has its stream decode it now. -/
def State.feGate (s : State) (c : Ctx) : Option State :=
  if !c.att then (if s.part.isBarrel c.core && c.inHand != some c.pc then none else some s)
  else
    let q := squadOf c.core
    let f := s.stream q c.slot
    if c.consumed < f.decoded then some s
    else if s.buffered q c.slot ≥ 32 then none
    else some (s.modStream q c.slot (fun f => (f.decode (s.streamWord f c))))

/-- A drift stall of an attached slot is noted with the cycle of its begin (R284). -/
def State.feStall (s : State) (c : Ctx) : State :=
  if !c.att then s
  else s.modStream (squadOf c.core) c.slot (fun f => { f with stallSince := some (f.stallSince.getD s.cyc) })

/-! ## Rendezvous (R287, R288) -/

/-- A slot released at L (R287): it has branched there. -/
def Ctx.releaseAt (c : Ctx) (l : Word) (att : Bool) (consumed : Nat) : Ctx :=
  { (c.finish l 0) with att := att, consumed := consumed, inHand := none }

/-- The gang of a stream noted, and a drift stall ended once the buffer has room (R281, R283). -/
def State.feNote (s : State) (q k : Nat) : State :=
  let f := s.stream q k
  let w := s.gangOf q k
  let over_ := f.stallSince.isSome && decide (s.buffered q k < 32)
  if f.who = w ∧ over_ = false then s
  else s.modStream q k (fun f => { f with who := w, stallSince := if over_ then none else f.stallSince })

/-- The state of a stream brought to what its members' state asks for (R287): a rendezvous completes, a stream without attached slots
releases the slots that wait, and in JOINWAIT(L) those that wait are counted or released. -/
def State.feCheck (s0 : State) (q k : Nat) : State :=
  let s := s0.feNote q k
  let f := s.stream q k
  match f.st with
  | .idle => s
  | .run =>
    if (s.attached q k).isEmpty then
      let s1 := (s.members q k).foldl (fun t c =>
        match c.wait with
        | .joinWait l _ => t.place (c.releaseAt l false 0)
        | _ => t) s
      s1.modStream q k (fun f => { f with st := .idle, buf := [], held := false, stallSince := none, lead := none })
    else s
  | .joinWait l =>
    let s1 := (s.members q k).foldl (fun t c =>
      match c.wait with
      | .joinWait m _ => t.place (if m = l then { c with wait := .joinCounted l } else c.releaseAt m false 0)
      | _ => t) s
    let open_ := (s1.members q k).filter (fun c => !c.left)
    if open_.all (fun c => c.wait == .joinCounted l) then
      let s2 := open_.foldl (fun t c => t.place { c.releaseAt l true f.decoded with notBefore := s.cyc + 1 }) s1
      s2.modStream q k (fun f => { f with st := (if open_.isEmpty then .idle else .run), next := l, held := false,
                                          buf := [], stallSince := none, lead := none })
    else s1

/-- Every stream of the device brought to what its members ask for. -/
def State.feCheckAll (s : State) : State :=
  s.squads.foldl (fun t p => p.2.fe.foldl (fun u x => u.feCheck p.1 x.1) t) s

/-- The outcome of the turn of slot `c`, which was attached, against its stream (R282, R285): the first slot past an unresolved branch
decides where the stream goes on; a slot whose own next address differs is detached. -/
def State.feIssue (s : State) (c : Ctx) : State :=
  if !c.att then s
  else
    match s.at? c.core c.slot with
    | none => s
    | some d =>
      if d.cid ≠ c.cid ∨ d.att = false ∨ d.consumed = c.consumed then s
      else
        let q := squadOf c.core
        let f := s.stream q c.slot
        let s0 := s.noteLead q c.slot c
        if d.consumed = f.decoded then
          if f.held then s0.modStream q c.slot (fun f => { f with next := d.pc, held := false })
          else if f.next = d.pc then s0 else s0.place { d with att := false }
        else
          let i := f.buf.length - (f.decoded - d.consumed)
          if f.buf[i]? = some d.pc then s0 else s0.place { d with att := false }

/-! ## The private-fetch path (R280) -/

/-- The slot is parked on something that its turn does not try again. -/
def Ctx.asleep (c : Ctx) : Bool :=
  match c.wait with
  | .none | .syscRoom _ _ | .drain _ _ => false
  | _ => true

/-- A detached slot without an instruction in hand asks the private path for one (R280). -/
def State.asksPrivate (s : State) (c : Ctx) : Bool :=
  s.part.isBarrel c.core && !c.att && c.inHand != some c.pc && !c.asleep && !s.trapped c

/-- The slot that the private path serves next: supervisors by core, then the others in turn after the place served last (R280). -/
def State.privateNext (s : State) (q : Nat) : Option Ctx :=
  let l := s.ctxs.filter (fun c => squadOf c.core == q && s.asksPrivate c)
  let sup := l.filter (fun c => c.slot == 15)
  let rest := l.filter (fun c => c.slot != 15)
  let later := rest.filter (fun c => decide ((s.squad q).pfLast < slotKey c.core c.slot))
  if !sup.isEmpty then leastPlace sup else if !later.isEmpty then leastPlace later else leastPlace rest

/-- The private path of a squad delivers one decoded instruction to a slot that asks, at most one in 4 cycles (R280). -/
def State.privateStep (s : State) (q : Nat) : State :=
  match (if s.cyc < (s.squad q).pfFree then none else s.privateNext q) with
  | none => s
  | some c =>
    (s.place { c with inHand := some c.pc }).modSquad q (fun k =>
      { k with pfFree := s.cyc + 4, pfLast := if c.slot = 15 then k.pfLast else slotKey c.core c.slot })

/-- The private path of every squad in which a slot asks. -/
def State.privateAll (s : State) : State :=
  (s.ctxs.foldl (fun l c => if s.asksPrivate c then insNat (squadOf c.core) l else l) []).foldl State.privateStep s

/-! ## Revocation (R286, R375) -/

/-- The text of an entry flushed from every front end: a slot whose next instruction lies in it is detached and meets the trap in its next
turn. -/
def State.flushText (s : State) (e : SealEnt) : State :=
  s.ctxs.foldl (fun t c =>
    if e.holds c.pc.toNat && c.tenid == e.tenant && !s.trapped c then t.place { c with att := false, inHand := some c.pc } else t) s

/-! ## The rotation (R276) -/

/-- One core cycle passes (R4, R276), with what the private-fetch paths deliver in it: once the servo runs (R423 step 4), device time advances by its length, in units of 1/`mhz` ns. An offset is
slewed by one unit in every tenth cycle, which is 100 ppm (R427). -/
def State.tick (s : State) : State :=
  let s1 := ({ s with cyc := s.cyc + 1, cursor := 0 } : State).privateAll
  if s.servo.run then
    let d : Int := if s.cyc % 10 = 0 then (if 0 < s.servo.slew then 1 else if s.servo.slew < 0 then -1 else 0) else 0
    let u := s.sub + (1000 + d).toNat
    { s1 with clk := s.clk + u / s.boot.mhz, sub := u % s.boot.mhz, servo := { s.servo with slew := s.servo.slew - d } }
  else s1

/-- The context of the lowest core, from the cursor on, that has its turn in this cycle. -/
def State.nextTurn (s : State) : Option (Nat × Ctx) :=
  List.find? (fun (p : Nat × Ctx) => p.2.live && p.1 % 16 == s.cyc % 16 && decide (s.cursor ≤ p.1 / 16)) s.slots

/-- The next context gets its turn; a cycle in which no core has one passes. -/
def State.seek : Nat → State → State
  | 0, s => s
  | n + 1, s =>
    match s.nextTurn with
    | some p => { s with me := p.2, slots := s.slots.erase p.1, cursor := p.1 / 16 + 1 }
    | none => State.seek n s.tick

/-- The turn ends, and the next context gets its turn. -/
def State.rotate (s : State) : State :=
  let s1 := if s.me.live then
      { s with slots := s.slots.put (slotKey s.me.core s.me.slot) s.me, me := Ctx.fresh, cursor := Nat.max s.cursor (s.me.core + 1) }
    else s
  State.seek 17 s1

/-! ## Parked slots (R277) -/

/-- The slot in its turn is parked: it waits, its core's trap queue holds a record of it, or its release is for a later turn (R277, R287,
R351). -/
def State.parked (s : State) : Bool := s.me.asleep || s.trapped s.me || decide (s.cyc < s.me.notBefore)

/-! ## Placing a program for the very next step -/

/-- Bytes laid over memory from an address that a granule starts at, with zeros up to the end of the last granule, under key slot 0. -/
def State.layText (s : State) (a n : Nat) (b : List Byte) : State :=
  let pad := b ++ List.replicate (16 * n - b.length) 0
  { s with mem := wrBytes s.mem a pad, keys := (List.range n).foldl (fun t i => Tbl.put t (a / 16 + i) 0) s.keys }

/-- The 16-bit words of an instruction numbered as the opcode table numbers them, as bytes in memory. -/
def wordBytes (ws : List IWord) : List Byte := ws.flatMap (fun w => [w.extractLsb' 0 8, w.extractLsb' 8 8])

end Sys2Proof.Machine
end

