-- ==== Sys2Proof/Machine/Memory.lean ====
section
/-!
DEFINITION. Loads, stores and full/empty operations of page 0 (R118-R132, R138): the address and its checks, the request to a
slice, the operation at a home core or a tile unit, and the instructions LD, ST, LDW, LDT, STF, FEMARK, FEQ, PFT, FENCE, WAITC and
CINV.
-/

namespace Sys2Proof

/-- Bytes of an M-format access (R118). -/
def MemOp.size (m : MemOp) : Nat := 2 ^ m.w.toNat

end Sys2Proof

namespace Sys2Proof.Machine

/-! ## The address and its checks (R9, R118, R119, R123, R380) -/

/-- An address of 56 bits: R118 takes the sum of an M-format instruction modulo 2^56, and the address register of every other form is read alike
(DESIGN CHOICE, log 80). -/
def addr56 (x : Word) : Nat := x.toNat % 2 ^ 56

/-- A CONFINE, ALIGN, MEMERR or WATCH trap at an address, with `tinfo` of R123. -/
def accTrap {α : Type} (c : TrapClass) (op why a : Nat) : Op α := trapOp c (BitVec.ofNat 64 a) (accInfo op why false)

/-- A misaligned address traps ALIGN before every other check (R118). -/
def alignTo (n op a : Nat) : Op Unit := if a % n = 0 then pure () else accTrap .align op 8 a

/-- What an access to an address of its region meets before it is made (R119): `ctl` allows control space. -/
def regionWhy (r : Region) (ctl : Bool) : Option Nat :=
  match r with
  | .malformed => some 1
  | .host _ _ => some 2
  | .control _ => if ctl then none else some 6
  | _ => none

/-- The region of an access, or CONFINE. -/
def accRegion (op : Nat) (ctl : Bool) (a : Nat) : Op Region := fun s =>
  let r := regionOf s.part a
  match regionWhy r ctl with
  | some why => accTrap .confine op why a s
  | none => .ok (r, s)

/-- Rights of an audit window (R310). -/
structure Rights where
  rd : Bool
  wr : Bool
  fe : Bool
  deriving DecidableEq, Repr

/-- An audit window holds the `n` bytes at `a` with the rights (R310, R380). -/
def windowHolds (w : Word × Word) (a n : Nat) (r : Rights) : Bool :=
  w.2.getLsbD 63 && decide (fld w.1 55 0 ≤ a) && decide (a + n ≤ fld w.1 55 0 + fld w.2 47 0) &&
  (!r.rd || w.2.getLsbD 48) && (!r.wr || w.2.getLsbD 49) && (!r.fe || w.2.getLsbD 50)

/-- The audit of a context lets it make an access (R379, R380). -/
def Ctx.allows (c : Ctx) (a n : Nat) (r : Rights) : Bool := !c.audited || c.audw.toList.any (fun w => windowHolds w a n r)

/-- An access of an audited context outside its windows traps WATCH (R380). -/
def watch (op a n : Nat) (r : Rights) : Op Unit := fun s =>
  if s.me.allows a n r then .ok ((), s) else accTrap .watch op 10 a s

/-- Rights of a load. -/
def rightsLd : Rights := { rd := true, wr := false, fe := false }
/-- Rights of a store. -/
def rightsSt : Rights := { rd := false, wr := true, fe := false }

/-- The effective address of an M-format instruction (R118). -/
def memEa (m : MemOp) : Op Nat := do
  let b ← readG m.b
  let t ← readG m.t
  pure (addr56 (b + (t <<< m.w.toNat) + immS m.p 0 0))

/-! ## Requests -/

/-- A request of the slot in its turn to the slice of an offset (R61). -/
def State.sendSlice (s : State) (op : SliceOp) (a n code : Nat) (fill : Bool) (tag : Nat) (acq : Option Bool) : State :=
  let c := s.me
  { s with
    nextReq := s.nextReq + 1,
    sliceQ := s.sliceQ ++ [{ slice := s.sliceOf a, core := c.core, cid := c.cid, op := op, addr := a, size := n, key := c.key,
                             ptag := c.ptag, tenid := c.tenid, code := code, pc := c.pc, fill := fill, tag := tag, acq := acq,
                             seq := s.nextReq, quiet := false }] }

/-- The request of the slot in its turn to a home core or a tile unit. -/
def State.homeReq (s : State) (op : HomeOp) (a n code : Nat) (pops : List Reg) : HomeReq :=
  { core := s.me.core, cid := s.me.cid, op := op, addr := a, size := n, key := s.me.key, ptag := s.me.ptag, tenid := s.me.tenid,
    code := code, pc := s.me.pc, npc := s.me.npc, seq := s.nextReq, pops := pops, tag := 0, ea := a, quiet := false,
    wasFull := s.me.gFull.getLsbD op.dest.toNat }

/-- A request sent to the home core of an offset, which its issuer does not wait for here. -/
def State.sendHome (s : State) (r : HomeReq) : State :=
  { (s.modChan (s.chanOf r.addr) (fun c => { c with hq := c.hq ++ [r] })) with nextReq := s.nextReq + 1 }

/-- Among the operands of an instruction, those that pop. -/
def popsOf (rs : List Reg) : List Reg := rs.filter isPort

/-- A load from main memory: by the L1 copy, or requested from the slice, which fills the L1 where `l1mode.off` was clear at its issue (R63-R65).
A load goes to the slice too while an earlier load of its thread to the line is still on its way there, so that it returns no older write (R315). -/
def State.loadMain (s : State) (op : SliceOp) (a n code : Nat) (cached : Bool) (tag : Nat) (acq : Option Bool) : State :=
  let c := s.me
  let before := s.sliceQ.any (fun r => r.cid == c.cid && r.addr / 128 == a / 128 && (tag == 0 || r.tag != tag))
  match (if cached && !before then s.l1Find c.core c.ptag c.key (a / 128) else none) with
  | some e =>
    { s with loads := s.loads ++ [{ cid := c.cid, val := op.value n (slice e.data (a % 128) n), addr := a, code := code, pc := c.pc,
                                    tag := tag, acq := acq }] }
  | none => s.sendSlice op a n code (s.l1On c.core) tag acq

/-! ## Waiting at a unit -/

/-- The slot parks on a tile, with what the unit has begun; the instruction has changed nothing else (R44, R77, R120). -/
def holdOn {α : Type} (s0 : State) (q t : Nat) (force : Bool) : Op α := fun _ =>
  .error (.go ((if force then s0.forceFetch q t else s0).modMe (fun c => ({ c with wait := .tile q t } : Ctx).bubble)))

/-- An access that needs the tile resident (R77): it holds unless it is, after the owner test (R72) and the core's own earlier
updates (R68). -/
def resident (s0 : State) (code a q t : Nat) : Op Unit := fun s =>
  match s.tileRefused s.me.ptag s.me.tenid q t with
  | some why => accTrap .confine code why a s
  | none =>
    if !s.tileClear s.me.core q then .error .park
    else
      match ((s.squad q).tile t).st with
      | .resident => .ok ((), s.touch q t)
      | .leaving => holdOn s0 q t false s
      | _ => holdOn s0 q t true s

/-- An operation at a vault address by the tile unit of squad `q`: performed, or waiting in its list (R88). -/
def unitOp (s0 : State) (q : Nat) (r : HomeReq) (v : Nat) : Op (Word × Word) := fun s =>
  if s.isPoison v && r.op.traps then accTrap .memErr r.code 7 r.addr s
  else if !r.op.ready (s.isFull (v / 16)) then .error (.go ((s0.tileWait q r).modMe Ctx.bubble))
  else
    let z := s.perform r.op r.key v r.size
    .ok ((z.y, z.fl), z.s.serveTiles q z.grans)

/-- An operation at a home core in the turn of its slot (R46, R49, R51, R61, R377). -/
def homeOp (s0 : State) (r : HomeReq) : Op (Word × Word) := fun s =>
  let a := r.addr
  if !s.routeClear r.core a then .error .park
  else if s.refused46 r.ptag a then accTrap .confine r.code 3 a s
  else if r.op.changes && s.sealedAt a r.span then accTrap .confine r.code 5 a s
  else
    let h := (s.l1Kills r).homeReady a r.op.changes
    let b := (s0.l1Kills r).homeReady a r.op.changes
    if !h.1 then .error (.go (b.2.modMe Ctx.bubble))
    else if h.2.isPoison a && r.op.traps then accTrap .memErr r.code 7 a s
    else if !r.op.ready (h.2.isFull (a / 16)) then .error (.go ((b.2.homeWait r (s.me.waitCap 1024)).modMe Ctx.bubble))
    else
      let z := h.2.perform r.op r.key a r.size
      .ok ((z.y, z.fl), z.s.serveHomes z.grans)

/-- A synchronous operation on a location, performed by its home core or tile unit (R119, R120, R127). -/
def locOp (s0 : State) (g : Region) (r : HomeReq) : Op (Word × Word) :=
  match g with
  | .tile q t b => do
    resident s0 r.code r.addr q t
    let s ← getS
    unitOp s0 q r (((s.squad q).tile t).base q + b)
  | .vault q b => fun s => if s.tileClear r.core q then unitOp s0 q r (vaultAddr q b) s else .error .park
  | _ => homeOp s0 r

/-- Bytes read from tile space or the vault window: from the frame, or by a log hit (R87). -/
def tileBytes (s0 : State) (g : Region) (code a n : Nat) : Op (List Byte) := fun s =>
  let frame (t : State) (v : Nat) : Except Stop (List Byte × State) :=
    if t.poisonIn v n then accTrap .memErr code 7 a t else .ok (rdBytes t.mem v n, t)
  match g with
  | .tile q t b =>
    match s.tileRefused s.me.ptag s.me.tenid q t with
    | some why => accTrap .confine code why a s
    | none =>
      let e := (s.squad q).tile t
      if !s.tileClear s.me.core q then .error .park
      else
        match e.st with
        | .resident => frame (s.touch q t) (e.base q + b)
        | .leaving => holdOn s0 q t false s
        | _ =>
          match logHit e.log b n with
          | some x => .ok (x, s)
          | none => holdOn s0 q t true s
  | .vault q b => if s.tileClear s.me.core q then frame s (vaultAddr q b) else .error .park
  | _ => .ok ([], s)

/-- The updates of a write of bytes given with their offsets in a tile: one STORE for each granule written (R83). -/
def storeUpds (b : List (Nat × Byte)) : List Upd :=
  (List.range 256).filterMap (fun g =>
    let x := b.filter (fun p => p.1 / 16 == g)
    if x.isEmpty then none
    else
      some { gran := g, ty := tyNone, op := opStore, mask := x.foldl (fun m p => m ||| (1#16 <<< (p.1 % 16))) 0,
             data := x.foldl (fun (d : Granule) p => d ||| ((p.2.setWidth 128 : Granule) <<< (8 * (p.1 % 16)))) 0 })

/-- Updates of tile space or the vault window by the slot in its turn (R83-R86, R120). -/
def tileWrite (s0 : State) (g : Region) (code a : Nat) (us : Nat → List Upd) : Op Unit := fun s =>
  match g with
  | .tile q t b =>
    match s.tileRefused s.me.ptag s.me.tenid q t with
    | some why => accTrap .confine code why a s
    | none =>
      if !s.tileClear s.me.core q then .error .park
      else
        match s.tileUpdate q t (us b) with
        | .done r => .ok ((), r)
        | .hold _ => holdOn s0 q t (((s.squad q).tile t).st != .leaving) s
  | .vault q b =>
    if s.tileClear s.me.core q then .ok ((), s.applyUpds q (vaultAddr q (b / 4096 * 4096)) (us (b % 4096))) else .error .park
  | _ => .ok ((), s)

/-! ## LD and ST (R125, R126) -/

/-- A counter below 63, or the slot parks (R121). -/
def roomLd : Op Unit := fun s => if s.me.ld < 63 then .ok ((), s) else .error .park
/-- As `roomLd`, for `n` writes. -/
def roomSt (n : Nat) : Op Unit := fun s => if s.me.st + n ≤ 63 then .ok ((), s) else .error .park

/-- A release waits until every earlier access is performed (R66, R126). -/
def releaseWait (rel : Bool) : Op Unit := fun s => if rel && !(s.me.ld == 0 && s.me.st == 0) then .error .park else .ok ((), s)

/-- The destination of a load is marked pending and empty (R27). -/
def Ctx.pendDest (c : Ctx) (d : Reg) : Ctx := if d = 0 || isPort d then c else c.pendG d

/-- LD (R125). -/
def execLd (m : MemOp) (q : LoadQ) (s0 : State) : Res :=
  issueOp (do
    gate [m.d, m.b, m.t]
    let a ← memEa m
    alignTo m.size 0 a
    let g ← accRegion 0 true a
    match g with
    | .main => do
      watch 0 a m.size rightsLd
      roomLd
      freeG m.d
      modS (fun s =>
        let s1 := if q.acq then s.acquire s.me.core else s
        let s2 := if q.fresh || q.acq then s1.l1Drop s1.me.core (a / 128) else s1
        let full := s.me.gFull.getLsbD m.d.toNat
        let s3 := s2.loadMain (.load m.d q.sx) a m.size 0 (!(q.fresh || q.acq)) 0 (if q.acq then some full else none)
        s3.modMe (fun c => { c.pendDest m.d with ld := c.ld + 1, wait := if q.acq then .reply else c.wait }))
    | .control off => do
      let s ← getS
      writeG m.d (extend q.sx m.size (ofBytes (s.ctlBytes (s.privileged s.me) s.me.tenid s.me.ptag off m.size)))
    | _ => do
      roomG m.d
      let x ← tileBytes s0 g 0 a m.size
      writeG m.d (extend q.sx m.size (ofBytes x))) s0

/-- A store to main memory leaves its core: the L1 copy, the count, the request, and an armed fault (R65, R66, R121, R186). -/
def State.storeMain (s : State) (x : Word) (a n : Nat) : State :=
  let c := s.me
  let f := s.fijArmed c.cid
  let s1 := s.l1Store c.core c.ptag c.key a (toBytes n x.toNat)
  let s2 := (s1.sendSlice (.store x f) a n 1 false 0 none).modMe (fun c => { c with st := c.st + 1 })
  if f then { s2 with fij := s2.fij &&& ~~~0xF#64 } else s2

/-- ST (R126). -/
def execSt (m : MemOp) (rel : Bool) (s0 : State) : Res :=
  issueOp (do
    gate [m.d, m.b, m.t]
    let a ← memEa m
    alignTo m.size 1 a
    let g ← accRegion 1 true a
    match g with
    | .main => watch 1 a m.size rightsSt
    | _ => pure ()
    releaseWait rel
    let x ← readG m.d
    match g with
    | .main => do
      roomSt 1
      modS (fun s => s.storeMain x a m.size)
    | .control off => if m.size = 8 then modS (fun s => s.ctlStore (s.privileged s.me) s.me.tenid off x) else pure ()
    | _ => tileWrite s0 g 1 a (fun b => storeUpds ((List.range m.size).map (b + ·) |>.zip (toBytes m.size x.toNat)))) s0

/-! ## LDW, LDT and STF (R127) -/

/-- LDW and LDT: `op` builds the operation at the unit. -/
def feLoad (op : HomeOp) (code : Nat) (acq : Bool) (m : MemOp) (s0 : State) : Res :=
  issueOp (do
    gate [m.d, m.b, m.t]
    let a ← memEa m
    alignTo m.size code a
    let g ← accRegion code false a
    match g with
    | .main => watch code a m.size { rightsLd with fe := true }
    | _ => pure ()
    roomG m.d
    let y ← locOp s0 g (s0.homeReq op a m.size code (popsOf [m.b, m.t]))
    writeG m.d y.1
    if acq then modS (fun s => s.acquire s.me.core) else pure ()) s0

/-- LDW. -/
def execLdw (m : MemOp) (q : LoadQ) (s : State) : Res := feLoad (.ldw m.d q.sx q.acq) 2 q.acq m s
/-- LDT. -/
def execLdt (m : MemOp) (q : LoadQ) (s : State) : Res := feLoad (.ldt m.d q.sx q.acq) 3 q.acq m s

/-- STF. -/
def execStf (m : MemOp) (rel : Bool) (s0 : State) : Res :=
  issueOp (do
    gate [m.d, m.b, m.t]
    let a ← memEa m
    alignTo m.size 4 a
    let g ← accRegion 4 false a
    match g with
    | .main => watch 4 a m.size { rightsSt with fe := true }
    | _ => pure ()
    releaseWait rel
    let x ← readG m.d
    let _ ← locOp s0 g (s0.homeReq (.stf x) a m.size 4 (popsOf [m.b, m.t, m.d]))) s0

/-! ## FEMARK, FEQ and PFT (R128-R130) -/

/-- The granules of a FEMARK by line: the address of the first and their number. -/
def femarkLines (a n : Nat) : List (Nat × Nat) :=
  (List.range 33).filterMap (fun i =>
    let l := a / 128 + i
    let lo := Nat.max a (128 * l)
    let hi := Nat.min (a + 16 * n) (128 * l + 128)
    if lo < hi then some (lo, (hi - lo) / 16) else none)

/-- FEMARK at `a`: each line of main memory goes to its home core as one write. The lines share a number, since one instruction raises one trap
at most, and that shows `a` (R123, R351). -/
def State.femarkMain (s : State) (full : Bool) (a : Nat) (ls : List (Nat × Nat)) : State :=
  ls.foldl (fun t l =>
    ((t.l1Kill t.me.core l.1).sendHome { t.homeReq (.femark l.2 full) l.1 16 5 [] with tag := s.nextReq, ea := a }).modMe
      (fun c => { c with st := c.st + 1 })) s

/-- FEMARK (R128). -/
def femark (full : Bool) (d sr : Reg) (s0 : State) : Res :=
  issueOp (do
    gate [d, sr]
    let x ← readG sr
    let n ← if d = 0 then pure 1#64 else readG d
    let a := addr56 x
    illegalIf (n.toNat = 0 || decide (256 < n.toNat) || decide (4096 < a % 4096 / 16 * 16 + 16 * n.toNat))
    alignTo 16 5 a
    let g ← accRegion 5 false a
    match g with
    | .main => do
      watch 5 a (16 * n.toNat) { rightsSt with fe := true }
      roomSt (femarkLines a n.toNat).length
      modS (fun s => s.femarkMain full a (femarkLines a n.toNat))
    | _ =>
      tileWrite s0 g 5 a (fun b => (List.range n.toNat).map (fun i =>
        { gran := b / 16 + i, ty := tyNone, op := if full then opFill else opEmpty, mask := 0, data := 0 }))) s0

/-- FEMARK empty. -/
def execFemarkEmpty (d sr : Reg) (s : State) : Res := femark false d sr s
/-- FEMARK full. -/
def execFemarkFull (d sr : Reg) (s : State) : Res := femark true d sr s

/-- FEQ (R129). -/
def execFeq (d sr : Reg) (s0 : State) : Res :=
  issueOp (do
    gate [d, sr]
    let x ← readG sr
    let a := addr56 x
    alignTo 16 6 a
    let g ← accRegion 6 false a
    match g with
    | .main => watch 6 a 16 { rightsLd with fe := true }
    | _ => pure ()
    roomG d
    let y ← locOp s0 g (s0.homeReq (.feq d) a 16 6 (popsOf [sr]))
    writeG d y.1) s0

/-- A prefetch of a tile: its fetch starts when it is ABSENT and the owner test passes (R130). -/
def State.prefetchTile (s : State) (q t : Nat) : State :=
  if (s.tileRefused s.me.ptag s.me.tenid q t).isNone && ((s.squad q).tile t).st == .absent then s.startFetch q t else s

/-- PFT to L1. The read of its address register may park, or trap as any read does (R26, R364: DESIGN CHOICE, log 82). -/
def execPftL1 (sr : Reg) (s0 : State) : Res :=
  issueOp (do
    gate [sr]
    let x ← readG sr
    let a := addr56 x
    modS (fun s =>
      match regionOf s.part a with
      | .main =>
        let c := s.me
        if s.l1On c.core && !s.wt c.core && c.allows a 1 rightsLd && (s.l1Find c.core c.ptag c.key (a / 128)).isNone &&
            decide ((s.sliceQ.filter (fun r => r.slice == s.sliceOf a)).length < 32) then
          s.sendSlice .fetchOnly (a / 128 * 128) 128 0 true 0 none
        else s
      | .tile q t _ => s.prefetchTile q t
      | _ => s)) s0

/-- PFT to L2: in main memory it changes timing only. -/
def execPftL2 (sr : Reg) (s0 : State) : Res :=
  issueOp (do
    gate [sr]
    let x ← readG sr
    modS (fun s =>
      match regionOf s.part (addr56 x) with
      | .tile q t _ => s.prefetchTile q t
      | _ => s)) s0

/-! ## FENCE, WAITC and CINV (R131, R132, R138) -/

/-- FENCE. At scope slot it imposes no wait. -/
def execFence (k : FenceKind) (c : FenceScope) (s0 : State) : Res :=
  issueOp (do
    if c = .slot then pure ()
    else do
      let s ← getS
      let m := s.me
      parkUntil (m.ld == 0 && (k == .acq || m.st == 0) && (k != .full || m.tl == 0) && (k != .engine || m.cp == 0))
      if k = .acq ∨ k = .acqrel ∨ k = .full then modS (fun s => s.acquire s.me.core) else pure ()) s0

/-- WAITC: a limit of 15 places no condition. -/
def execWaitc (ld st cp tl : BitVec 4) (s0 : State) : Res :=
  issueOp (do
    let s ← getS
    let ok (c : Nat) (n : BitVec 4) : Bool := n == 15 || decide (c ≤ n.toNat)
    parkUntil (ok s.me.ld ld && ok s.me.st st && ok s.me.cp cp && ok s.me.tl tl)) s0

/-- CINV: its registers hold a range of 64-bit numbers, none of which beyond 2^56 names a line (DESIGN CHOICE, log 80). Their reads may park, or
trap as any read does (DESIGN CHOICE, log 82). -/
def execCinv (d sr : Reg) (s0 : State) : Res :=
  issueOp (do
    gate [d, sr]
    let x ← readG sr
    let n ← readG d
    modS (fun s =>
      let c := s.me.core
      if d = 0 then (if sr = 0 then s.l1Clear c else s.l1Keep c (fun e => 128 * e.line != x.toNat / 128 * 128))
      else s.l1Keep c (fun e => !(decide (0 < n.toNat) && decide (128 * e.line < x.toNat + n.toNat) && decide (x.toNat < 128 * e.line + 128)))))
    s0

end Sys2Proof.Machine
end

