-- ==== Sys2Proof/Machine/Threads.lean ====
section
/-!
DEFINITION. Threads that move (R12, R257, R259-R262, R268, R269): slot selectors, the core an atomic carries its thread to, SPAWN and
MIGR, the arrival of a thread message, and the diversion of a core's inbound messages.
-/

namespace Sys2Proof.Machine

/-! ## Writers of a spill queue (R356) -/

/-- A writer finds the queue full and is counted once, while it waits (R356). -/
def State.spillFull (s : State) (block : Nat) (w : SpillWriter) : State :=
  if s.fullWaits.contains (block, w) || s.spillRoom block 1 then s
  else
    let x := s.rdWord 0 (block + 16)
    let n := satInc (x.extractLsb' 32 32)
    { (s.unitWords 0 (block + 16) [n ++ x.extractLsb' 0 32]) with fullWaits := s.fullWaits ++ [(block, w)] }

/-- An entry appended to its queue by a writer on a core, or none while the queue is full. A queue that becomes full is reported with a
record of kind 5 (R356). -/
def State.spillPut (s : State) (e : SpillEnt) (w : SpillWriter) (core rcb : Nat) : Option State :=
  let b := s.spillBlock e.block
  if !s.spillRoom e.block 1 then none
  else
    let n := b.2.2.1
    let s1 := s.unitWrite 0 (b.1 + 640 * (n % Nat.max b.2.2.2 1)) e.image
    let s2 := { (s1.spillIdx e.block b.2.1 (n + 1)) with
      spillQ := s1.spillQ ++ [{ e with n := n }], fullWaits := s1.fullWaits.filter (fun p => p != (e.block, w)) }
    if s.spillRoom e.block 2 then some s2
    else some (s2.report rcb 5 0 0 (fld (s.rdWord 0 (e.block + 16)) 31 16) (BitVec.ofNat 64 e.block) 0 0 core)

/-! ## Slots and cores -/

/-- The done granule of the last pre-emption message to a core is full, or there was none (R353). -/
def State.preemptDone (s : State) (core : Nat) : Bool :=
  match (s.core core).preemptAt with
  | some p => s.isFull p.2.1
  | none => true

/-- Places that the kickoff holds reserved for the stages of an instance that are not yet released (R340). -/
def PlayInst.reserved (i : PlayInst) : List (Nat × Nat) := (i.cells.take i.left).flatten

/-- A slot is reserved for a play, or for the load of an unanswered pre-emption message (R340, R353). -/
def State.slotReserved (s : State) (core slot : Nat) : Bool :=
  s.kick.insts.any (fun i => i.reserved.contains (core, slot)) || (s.kick.claims.any (fun x => x.1 == core && x.2.1 == slot) && !s.preemptDone core)

/-- A slot holds no context, is not reserved as an anchor or by the kickoff, and its core is not barred (R354). -/
def State.slotFree (s : State) (core slot : Nat) : Bool :=
  (s.at? core slot).isNone && !s.slotReserved core slot && !(s.core core).barred

/-- The free slots 0-14 of a core. -/
def State.freeSlots (s : State) (core : Nat) : List Nat := (List.range 15).filter (fun i => s.slotFree core i)

/-- A core has the slot free; any of its slots 0-14 for none. -/
def State.hasRoom (s : State) (core : Nat) (slot : Option Nat) : Bool :=
  match slot with
  | some k => s.slotFree core k
  | none => !(s.freeSlots core).isEmpty

/-- One of the cores of a list that have the slot free, as the device chooses; the first of all while none has, where the message then
waits (R12, R261). -/
def State.pickCore (s : State) (l : List Nat) (slot : Option Nat) : Nat × State :=
  let f := l.filter (fun c => s.hasRoom c slot)
  let g := if f.isEmpty then l.take 1 else f
  let r := s.choose g.length
  (g.getD r.1 0, r.2)

/-- The barrel cores of a squad. -/
def squadCores (q : Nat) : List Nat := (List.range 8).map (fun i => 8 * q + i)

/-- The slots of the pivot cores. -/
def State.pivotCores (s : State) : List Nat := (List.range s.part.pivots).map (fun i => 4608 + i)

/-- A thread stands on a barrel core of squad q. -/
def State.inSquad (s : State) (q : Nat) : Bool := s.part.isBarrel s.me.core && s.me.core / 8 == q

/-- The core of a squad to which the thread in its turn moves: its own, its anchor when that lies there, or any with a free slot (R257). -/
def State.squadCore (s : State) (q : Nat) (slot : Option Nat) : Nat × State :=
  if s.inSquad q then (s.me.core, s)
  else if s.me.anchorMode != .here && s.me.anchorCore / 8 == q then (s.me.anchorCore, s)
  else s.pickCore (squadCores q) slot

/-- Where the home of an address lets a thread stand: the home core of main memory, or a squad (R257). -/
inductive Stand where
  | core (c : Nat)
  | squad (q : Nat)

/-- The home of an address; an address with none traps CONFINE (R9, R12, R257). -/
def homeOf (a : Nat) : Op Stand := fun s =>
  match regionOf s.part a with
  | .main => .ok (.core (4096 + s.chanOf a), s)
  | .tile q _ _ => .ok (.squad q, s)
  | .vault q _ => .ok (.squad q, s)
  | .malformed => accTrap .confine 15 1 a s
  | _ => accTrap .confine 15 6 a s

/-- A core chosen by a function of the state, which uses up the choice. -/
def chooseOp (f : State → Nat × State) : Op Nat := fun s => .ok (f s)

/-- Where a slot selector leads (R12): a core, a slot, and the `dest` field of the message (R260). -/
def selector (spawn : Bool) (sel : Word) (addr : Op Word) : Op (Nat × Option Nat × Word) := do
  let kind := fld sel 23 20
  let slot := if fld sel 19 16 = 15 then none else some (fld sel 19 16)
  let core := fld sel 15 0
  illegalIf (fld sel 63 24 != 0 || decide (kind > 3) || (spawn && kind == 3))
  let s ← getS
  trapIf (decide (kind < 2) && !s.part.hasCore core) .notPresent 0 5
  illegalIf (kind == 1 && !s.part.isBarrel core)
  if kind = 0 then pure (core, slot, sel)
  else if kind = 1 then do
    let c ← chooseOp (fun s =>
      if !spawn && s.inSquad (core / 8) then (s.me.core, s) else s.pickCore (squadCores (core / 8)) slot)
    pure (c, slot, sel)
  else if kind = 2 then do
    let x ← addr
    let a := addr56 x
    let h ← homeOf a
    match h with
    | .core c => pure (c, slot, BitVec.ofNat 64 a)
    | .squad q => do
      let c ← chooseOp (fun s => if spawn then s.pickCore (squadCores q) slot else s.squadCore q slot)
      pure (c, slot, BitVec.ofNat 64 a)
  else do
    let c ← chooseOp (fun s => if s.part.isPivot s.me.core then (s.me.core, s) else s.pickCore s.pivotCores slot)
    pure (c, slot, sel)

/-! ## Leaving -/

/-- A migration parks until the counters are zero, then the thread is under way; the slot's turn ends (R260, R261). The slot keeps the state
`s0` in which the instruction began. `issued`: the thread goes on at the next instruction, and the operands in `pops` have been read; otherwise
it executes the instruction again on arrival. -/
def leave {α : Type} (s0 : State) (core : Nat) (slot : Option Nat) (dest : Word) (issued back : Bool) (pops : List Reg) : Op α := fun s =>
  if s0.me.quiet then
    let t := if issued then s0.me.issue else s0.me
    .error (.go ({ s0 with oracle := s.oracle }.launch s0.me t core slot dest t.pc back pops))
  else .error .park

/-- In an audited context MIGR traps WATCH (R380). -/
def migrWatch (dest : Word) : Op Unit := fun s => trapIf s.me.audited .watch dest (accInfo 15 10 false) s

/-- A thread leaves for a pivot core: its anchor becomes "saved" (R259, R269). -/
def leavePivot (s0 : State) (core : Nat) (slot : Option Nat) (dest : Word) (pops : List Reg) : Op Unit := fun s =>
  if s0.me.quiet then
    let c := s0.me.issue
    let t : Ctx := match s0.me.anchorMode with
      | .here => { c with anchorCore := s0.me.core, anchorSlot := s0.me.slot, anchorMode := .saved }
      | _ => { c with anchorMode := .saved }
    .error (.go ({ s0 with oracle := s.oracle }.launch s0.me t core slot dest t.pc false pops))
  else .error .park

/-- MIGR to a core: without effect where the thread already stands there; refused from a pivot core to another core of the anchor's
squad (R269). -/
def migrate (s0 : State) (core : Nat) (slot : Option Nat) (dest : Word) (pops : List Reg) : Op Unit := do
  let s ← getS
  illegalIf (s.part.isPivot s.me.core && s.part.isBarrel core && core / 8 == s.me.anchorCore / 8 && core != s.me.anchorCore)
  migrWatch dest
  if core = s.me.core then pure ()
  else if s.part.isPivot core then leavePivot s0 core slot dest pops
  else leave s0 core slot dest true false pops

/-- MIGR to a slot selector. -/
def execMigr (sr t : Reg) (s0 : State) : Res :=
  issueOp (do
    gate [sr, t]
    let sel ← readG sr
    let r ← selector false sel (readG t)
    migrate s0 r.1 r.2.1 r.2.2 (popsOf [sr, t])) s0

/-- MIGR to the home of an address. -/
def execMigrHome (sr : Reg) (s0 : State) : Res :=
  issueOp (do
    gate [sr]
    let x ← readG sr
    let a := addr56 x
    let h ← homeOf a
    match h with
    | .core c => migrate s0 c none (BitVec.ofNat 64 a) (popsOf [sr])
    | .squad q => do
      let c ← chooseOp (fun s => s.squadCore q none)
      migrate s0 c none (BitVec.ofNat 64 a) (popsOf [sr])) s0

/-- The vector and mask registers of a thread written to its save area, with their poison (R269, R296, R364). -/
def State.saveVectors (s : State) (c : Ctx) : State :=
  let img := c.image
  let a := c.save.toNat
  let s1 := (s.unitWrite 0 (a + 0x200) (slice img 0x200 0x810)).patchArea a 0xA20 (slice img 0xA20 8)
  (c.poisoned.filter (fun r => decide (0x200 ≤ r.1))).foldl (fun t r =>
    (linesOf a r.1 r.2).foldl (fun u l => if u.sealedAt l 128 then u else u.setPoison l true) t) s1

/-- The vector and mask registers of a thread loaded from its save area. -/
def State.loadVectors (s : State) (c : Ctx) : Ctx :=
  let t := s.loadArea c.save.toNat c
  { c with v := t.v, vFull := t.vFull, vPend := 0, vPoison := t.vPoison, k := t.k, kPoison := t.kPoison }

/-- MIGR to a pivot core: the vector and mask registers of the anchor are saved and the anchor slot is freed once the thread has claimed a slot
there. -/
def execMigrPivot (s0 : State) : Res :=
  issueOp (do
    let s ← getS
    if s.part.isPivot s.me.core then pure ()
    else do
      migrWatch 0
      let c ← chooseOp (fun s => s.pickCore s.pivotCores none)
      leavePivot s0 c none 0 []) s0

/-- MIGR back to the anchor. -/
def execMigrBack (s0 : State) : Res :=
  issueOp (do
    migrWatch 0
    let s ← getS
    if s.me.isAway then
      leave s0 s.me.anchorCore (if s.me.anchorMode == .saved then none else some s.me.anchorSlot)
        (BitVec.ofNat 64 (s.me.anchorCore + s.me.anchorSlot * 2 ^ 16)) true true []
    else pure ()) s0

/-! ## SPAWN (R268) -/

/-- Arguments of a SPAWN. -/
def spawnArgs : SpawnN → Nat
  | .n2 => 2
  | .n4 => 4
  | .n8 => 8
  | .n16 => 16

/-- The registers g1 up to gn read in order. -/
def readArgs : Nat → Nat → Op (List Word)
  | _, 0 => pure []
  | i, n + 1 => do
    let x ← readG (BitVec.ofNat 6 i)
    let r ← readArgs (i + 1) n
    pure (x :: r)

/-- The child of a SPAWN: arguments, and of its parent the tenant, tags, key slot, region and RCB; every other field as R29. -/
def Ctx.child (p : Ctx) (cid : Nat) (pc : Word) (args : List Word) : Ctx :=
  let g := ((List.range args.length).foldl (fun (v : Vector Word 64) i =>
    v.set ((i + 1) % 64) (args.getD i 0) (Nat.mod_lt _ (by decide))) Ctx.fresh.g)
  { Ctx.fresh with
    live := true, cid := cid, pc := pc, npc := pc, g := (g.set 61 p.g[61]).set 62 p.g[62], tenid := p.tenid, ptag := p.ptag,
    key := p.key, rcb := p.rcb, eff := p.eff, entry := pc }

/-- SPAWN. -/
def execSpawn (n : SpawnN) (d sr : Reg) (s0 : State) : Res :=
  issueOp (do
    gate [d, sr]
    let sel ← readG sr
    let pc ← readG d
    let args ← readArgs 1 (spawnArgs n)
    let r ← selector true sel (pure (args.headD 0))
    let _ ← readPlain 61
    let _ ← readPlain 62
    modS (fun s =>
      let m : ThreadMsg :=
        { ctx := s.me.child s.nextCid pc args, core := r.1, slot := r.2.1, fromCore := s.me.core, fromSlot := s.me.slot, dest := r.2.2,
          parent := some s.me.cid, back := false, code := 15, pc := s.me.pc, rejected := false, pops := [] }
      { (s.modMe (fun c => { c with st := c.st + 1 })) with threads := s.threads ++ [m], nextCid := s.nextCid + 1 })
    let s ← getS
    parkUntil (s0.me.ld == 0 && s0.me.st == 0 && decide (s.me.st ≤ 63))) s0

/-- A context tag that no context holds (R185), with the counter moved past it. -/
def State.newTag (s : State) : Nat → BitVec 16 × State
  | 0 => (s.kick.tag, s)
  | n + 1 =>
    let t := s.kick.tag
    let s1 := { s with kick := { s.kick with tag := t + 1 } }
    if t = 0 || s.ctxs.any (fun c => c.ctxtag == t) || s.saved.any (fun p => p.2.ctxtag == t) ||
       s.threads.any (fun m => m.parent.isNone && m.ctx.ctxtag == t) then s1.newTag n
    else (t, s1)

/-! ## Arrival (R261) -/

/-- Contexts that live anywhere: in a slot, saved, under way or in a spill queue. -/
def State.everyCtx (s : State) : List Ctx :=
  s.ctxs ++ s.saved.map Prod.snd ++ (s.threads.filter (fun m => m.parent.isSome)).map ThreadMsg.ctx

/-- The lowest index from `i` on whose area at base `e` no live context holds (R355). -/
def State.freeArea (s : State) (e : Nat) : Nat → Nat → Nat
  | i, 0 => e + 128 + areaBytes * i
  | i, n + 1 =>
    let a := e + 128 + areaBytes * i
    if s.everyCtx.any (fun c => c.save == BitVec.ofNat 64 a) then s.freeArea e (i + 1) n else a

/-- The save area of a new context of an RCB (R355); none where it has no RCB. -/
def State.newSave (s : State) (c : Ctx) : Word :=
  if c.rcb = 0 then 0 else BitVec.ofNat 64 (s.freeArea c.eff.save 0 s.everyCtx.length)

/-- The anchor of a thread that goes to a pivot core: its vector and mask registers are saved, and its slot is free (R259, R269). -/
def State.saveAnchor (s : State) (c : Ctx) : State :=
  let k := if c.anchorMode = .here then (c.core, c.slot) else (c.anchorCore, c.anchorSlot)
  match s.at? k.1 k.2 with
  | none => s
  | some a => (s.saveVectors a).vacate k.1 k.2

/-- The source slot of a thread that has been claimed elsewhere: the words that its instruction has read leave its ports, and it becomes the
anchor, or is free (R259, R261, R269). -/
def State.freeSource (s0 : State) (m : ThreadMsg) : State :=
  match m.parent with
  | some _ => s0
  | none =>
    let s := m.pops.foldl (fun t x => t.popQuiet m.ctx.cid x) s0
    match s.at? m.fromCore m.fromSlot with
    | none => s
    | some c =>
      if m.ctx.anchorMode = .here then s.place { c with cid := 0, wait := .anchor m.ctx.cid, att := false }
      else (if m.ctx.anchorMode = .saved ∧ c.anchorMode ≠ .saved then s.saveAnchor c else s).vacate m.fromCore m.fromSlot

/-- A thread claims a slot where it has no anchor: its vector and mask registers, streams and audit windows do not travel. -/
def Ctx.landed (c : Ctx) (core slot : Nat) : Ctx :=
  { c with core := core, slot := slot, wait := .none, att := false, inHand := none, consumed := 0, v := Ctx.fresh.v,
           vFull := BitVec.allOnes 32, vPend := 0, vPoison := 0, k := Ctx.fresh.k, kPoison := 0, streams := Ctx.fresh.streams,
           bq := Ctx.fresh.bq, audw := Ctx.fresh.audw }

/-- The L1 of a barrel core at the arrival of a migrating thread (R322). -/
def State.arrivalL1 (s : State) (core : Nat) : State := if s.part.isBarrel core then s.l1Clear core else s

/-- A free slot that a message may claim, as its selector names or as the device chooses. -/
def State.claimSlot (s : State) (m : ThreadMsg) : Option (Nat × State) :=
  match m.slot with
  | some k => if s.slotFree m.core k then some (k, s) else none
  | none =>
    match s.freeSlots m.core with
    | [] => none
    | f :: r => let c := s.choose (r.length + 1); some ((f :: r).getD c.1 f, c.2)

/-- A thread message is delivered at its core: it claims a slot (R261 step 3). None while no suitable slot is free. -/
def State.arriveIn (s : State) (m : ThreadMsg) : Option State :=
  let c := m.ctx
  match m.parent with
  | some p =>
    (s.claimSlot m).map (fun r =>
      let e := if c.rcb = 0 then c.eff else r.2.rcbEff c.rcb.toNat
      let k := r.2.newTag 65536
      let c1 : Ctx := { c.landed m.core r.1 with eff := e, ctxtag := k.1, anchorCore := m.core, anchorSlot := r.1,
                                                 anchorMode := .here, loadedAt := s.clk }
      (k.2.place { c1 with save := k.2.newSave c1 }).onCtx p (fun x => { x with st := x.st - 1 }))
  | none =>
    if c.anchorMode = .away ∧ c.anchorCore = m.core then
      match s.at? m.core c.anchorSlot with
      | none => none
      | some a =>
        let c1 : Ctx := { c with core := m.core, slot := c.anchorSlot, wait := .none, att := false, consumed := 0, v := a.v,
                                 vFull := a.vFull, vPend := a.vPend, vPoison := a.vPoison, k := a.k, kPoison := a.kPoison,
                                 streams := a.streams, bq := a.bq, audw := a.audw, anchorMode := .here }
        some (((s.freeSource m).place c1).arrivalL1 m.core)
    else
      (s.claimSlot m).map (fun r =>
        let c1 := c.landed m.core r.1
        let c2 : Ctx :=
          if c.anchorMode = .saved ∧ c.anchorCore = m.core then
            { r.2.loadVectors c1 with anchorMode := .here, anchorSlot := r.1 }
          else if c.anchorMode = .here then { c1 with anchorCore := m.fromCore, anchorSlot := m.fromSlot, anchorMode := .away }
          else c1
        ((r.2.freeSource m).place c2).arrivalL1 m.core)

/-- A context comes to a core, whose bank group leaves retention (R69). -/
def State.wakeCore (s : State) (core : Nat) : State :=
  if (s.core core).retention then s.modCore core (fun k => { k with retention := false }) else s

/-- A thread message is delivered at its core, or none (R261). -/
def State.arrive (s : State) (m : ThreadMsg) : Option State := (s.arriveIn m).map (fun t => t.wakeCore m.core)

/-- The mesh ingress of a core lets a partition tag pass: its own partition's, or any at a pivot core (R261 step 1). -/
def State.ingress (s : State) (core ptag : Nat) : Bool := s.part.isPivot core || s.corePart core == some ptag

/-- Slots of a home core that threads of a tenant hold (R56). -/
def State.homeSlots (s : State) (core : Nat) (tenid : BitVec 16) : Nat :=
  (s.ctxs.filter (fun c => c.core == core && c.tenid == tenid && decide (c.slot < 15))).length

/-- The thread returns to its anchor slot, which it holds already (R259, R261). -/
def ThreadMsg.returns (m : ThreadMsg) : Bool := m.parent.isNone && m.ctx.anchorMode == .away && m.ctx.anchorCore == m.core

/-- The tenant may take a further slot of a home core, or the thread takes none (R56). -/
def State.homeRoom (s : State) (m : ThreadMsg) : Bool :=
  !s.part.isHome m.core || m.ctx.eff.hslots == 0 || m.returns || decide (s.homeSlots m.core m.ctx.tenid < m.ctx.eff.hslots)

/-- A message refused at the ingress returns to its source, which traps CONFINE with `why` 3 (R261 step 1, R268). -/
def State.refuseThread (s : State) (m : ThreadMsg) : State :=
  match m.parent with
  | some p => (s.onCtx p (fun x => { x with st := x.st - 1 })).lateTrap p .confine m.pc m.dest (accInfo 15 3 true)
  | none =>
    match s.at? m.fromCore m.fromSlot with
    | none => s
    | some c =>
      (s.place { c with wait := .none }).postTrap c.cid (fun c =>
        { cls := .confine, slot := c.slot, cid := c.cid, away := c.isAway, pc := m.pc, addr := m.dest, info := accInfo 15 3 false,
          late := false, fetch := false, next := c.npc, cyc := s.cyc })

/-- The entry of a message in the diversion queue of its core (R261, R355). -/
def State.divert? (s : State) (core slot from_ : Nat) (msg : Spilled) : Option State :=
  let b := (s.core core).spqa.toNat % 2 ^ 56
  if b = 0 then none else s.spillPut { block := b, n := 0, core := core, slot := slot, tag := 0, msg := msg } (.message msg) from_ 0

/-- A thread message enters the diversion queue; none while it is full. -/
def State.divertThread (s : State) (m : ThreadMsg) : Option State :=
  s.divert? m.core (m.slot.getD 15) m.fromCore (.thread m)

/-- A writer without room in a core's diversion queue is counted (R356). -/
def State.divertFull (s : State) (core : Nat) (msg : Spilled) : State := s.spillFull ((s.core core).spqa.toNat % 2 ^ 56) (.message msg)

/-- The mesh holds a message back at a core since a cycle (R261 step 4); none ends it. -/
def State.press (s : State) (core : Nat) (on : Bool) : State :=
  let p := if on then some ((s.core core).pressed.getD s.cyc) else none
  if (s.core core).pressed = p then s else s.modCore core (fun k => { k with pressed := p })

/-- A thread message reaches its core: refused at the ingress, rejected at a home core's cap, diverted, delivered, or held back (R261). -/
def State.threadIn (s : State) (m : ThreadMsg) : State :=
  let core := m.core
  let t := { s with threads := s.threads.filter (fun x => x != m) }
  if !s.ingress core m.ctx.ptag then t.refuseThread m
  else if !s.homeRoom m then
    ({ s with threads := s.threads.map (fun x => if x == m then { x with rejected := true } else x) }).modChan (core - 4096)
      (fun c => { c with rejects := satInc c.rejects })
  else if (s.core core).diverted then (match t.divertThread m with | some u => u | none => s.divertFull core (.thread m))
  else
    match t.arrive m with
    | some u => u.press core false
    | none => s.press core true

/-- THREAD_ARRIVAL: the oldest thread message in flight to a core arrives (R261). -/
def execThreadArrival (core : Nat) (s : State) : Res :=
  .next (match List.find? (fun (m : ThreadMsg) => m.core == core && !m.rejected) s.threads with
    | none => s
    | some m => s.threadIn m)

/-- SPILL_DIVERSION: a message has been back-pressured for 8,192 cycles, and the routers divert the core's inbound messages to its
spill queue; the core's supervisor gets a SPILLQ record, once per diversion (R261, R352). -/
def execSpillDiversion (core : Nat) (s : State) : Res :=
  .next (
    let ms := s.threads.filter (fun m => m.core == core && !m.rejected)
    let long := match (s.core core).pressed with | some t => decide (t + 8192 ≤ s.cyc) | none => false
    let b := (s.core core).spqa
    if !long || (s.core core).diverted || b.toNat % 2 ^ 56 == 0 then s
    else
      let s1 := ms.foldl State.threadIn (s.modCore core (fun k => { k with diverted := true, pressed := none }))
      s1.modCore core (fun k => { k with spill := some {
        cls := .spillQ, slot := 15, cid := 0, away := false, pc := 0, addr := b,
        info := BitVec.ofNat 64 (s1.spillLen (b.toNat % 2 ^ 56) % 2 ^ 32), late := false, fetch := false, next := 0, cyc := s.cyc } }))

end Sys2Proof.Machine
end

