-- ==== Sys2Proof/Machine/Atomics.lean ====
section
/-!
DEFINITION. AMO, CAS and RUPD (R257, R258, R264-R267, R380).
-/

namespace Sys2Proof.Machine

/-- Rights of an atomic. -/
def rightsAt : Rights := { rd := true, wr := true, fe := false }

/-- The address of an atomic: alignment, then its home, then the audit (R266, R380). -/
def atomicAt (sr : Reg) (n : Nat) : Op Nat := do
  let x ← readG sr
  let a := addr56 x
  alignTo n 15 a
  let _ ← homeOf a
  let s ← getS
  if regionOf s.part a = .main then watch 15 a n rightsAt else pure ()
  pure a

/-- A thread that may not stand at the home of an address, and is neither on a pivot core nor audited, moves there; the instruction
executes again on arrival (R257, R266). The core that issues it drops its copy of the line (R65). -/
def standAt (s0 : State) (a : Nat) : Op Unit := do
  let h ← homeOf a
  let s ← getS
  if s.part.isPivot s.me.core || s.me.audited then pure ()
  else
    match h with
    | .core c => if s.me.core = c then pure () else leave (s0.l1Kill s0.me.core a) c none (BitVec.ofNat 64 a) false false []
    | .squad q =>
      if s.inSquad q then pure ()
      else do
        let c ← chooseOp (fun s => s.squadCore q none)
        leave s0 c none (BitVec.ofNat 64 a) false false []

/-- The order of an atomic is a release. -/
def AtOrd.isRel (o : AtOrd) : Bool := o == .rel || o == .acqrel
/-- The order of an atomic is an acquire. -/
def AtOrd.isAcq (o : AtOrd) : Bool := o == .acq || o == .acqrel

/-- The operation at the home, and the return of the old value (R266). -/
def atomicDo (s0 : State) (op : HomeOp) (a n : Nat) (d : Reg) (acq : Bool) (pops : List Reg) : Op Unit := do
  let s ← getS
  let z ← locOp s0 (regionOf s.part a) (s0.homeReq op a n 15 pops)
  writeG d z.1
  raiseFlags z.2
  if acq then modS (fun s => s.acquire s.me.core) else pure ()

/-- AMO. -/
def execAmo (op : AtOp) (w : AtW) (ord : AtOrd) (d sr t : Reg) (s0 : State) : Res :=
  issueOp (do
    gate [d, sr, t]
    let a ← atomicAt sr (atSize w)
    standAt s0 a
    let x ← readG t
    releaseWait (AtOrd.isRel ord)
    atomicDo s0 (.amo op w (AtOrd.isAcq ord) d x) a (atSize w) d (AtOrd.isAcq ord) (popsOf [sr, t])) s0

/-- CAS. -/
def execCas (w64 : Bool) (ord : AtOrd) (d sr t : Reg) (s0 : State) : Res :=
  issueOp (do
    gate [d, sr, t]
    let n := if w64 then 8 else 4
    let a ← atomicAt sr n
    standAt s0 a
    let x ← readG t
    let e ← readG d
    releaseWait (AtOrd.isRel ord)
    atomicDo s0 (.cas w64 (AtOrd.isAcq ord) d e x) a n d (AtOrd.isAcq ord) (popsOf [sr, t, d])) s0

/-- RUPD: the thread never moves. -/
def execRupd (op : AtOp) (w : AtW) (ord : AtOrd) (sr t : Reg) (s0 : State) : Res :=
  issueOp (do
    gate [sr, t]
    let a ← atomicAt sr (atSize w)
    releaseWait (AtOrd.isRel ord)
    roomSt 1
    let x ← readG t
    modS (fun s =>
      match s.unitOf a with
      | none => s
      | some u =>
        let s1 := if u < 4096 then s.l1Kill s.me.core a else s
        { (s1.modMe (fun c => { c with st := c.st + 1 })) with
          rupds := s1.rupds ++ [(u, s1.homeReq (.rupd op w x) a (atSize w) 15 [])], nextReq := s1.nextReq + 1 })) s0

end Sys2Proof.Machine
end

