-- ==== Sys2Proof/Machine/Scoreboard.lean ====
section
/-!
DEFINITION. Local memory of a squad as its engines and its matrix unit use it (R72, R90, R97, R242), and the range-overlap scoreboard (R103).
-/

namespace Sys2Proof.Machine

/-! ## Local addresses (R97) -/

/-- A local address of a squad: its tile space or its vault window. -/
def State.isLocal (s : State) (q a : Nat) : Bool :=
  match regionOf s.part a with
  | .tile q' _ _ => q' == q
  | .vault q' _ => q' == q
  | _ => false

/-- The end of the tile space or the vault window that an address lies in. -/
def localEnd (a : Nat) : Nat := if a / 2 ^ 48 % 256 = 2 then a / 2 ^ 26 * 2 ^ 26 + 2 ^ 26 else a / 2 ^ 22 * 2 ^ 22 + 2 ^ 22

/-- A range of local memory stays within its tile space or vault window. -/
def State.localFits (s : State) (q a n : Nat) : Bool := s.isLocal q a && decide (a + n ≤ localEnd a)

/-- The tiles that a range of tile space covers; none for the vault window. -/
def tilesOf (a n : Nat) : List Nat :=
  if a / 2 ^ 48 % 256 = 2 ∧ 0 < n then (List.range ((a % 4096 + n + 4095) / 4096)).map (fun i => a % 2 ^ 26 / 4096 + i) else []

/-- Why a range of local memory is refused to a context (R72, R97, R242), if it is. -/
def State.localRefused (s : State) (q : Nat) (ptag : Nat) (tenid : BitVec 16) (a n : Nat) : Option Nat :=
  if !s.localFits q a n then some 6
  else
    let w := (tilesOf a n).filterMap (fun t => s.tileRefused ptag tenid q t)
    if w.contains 3 then some 3 else w.head?

/-- Every tile of a list is resident. -/
def State.allResident (s : State) (q : Nat) (ts : List Nat) : Bool := ts.all (fun t => ((s.squad q).tile t).st == .resident)

/-- Tiles are held, and fetched where they are ABSENT, which `tlfetch.forced` counts (R73, R90). -/
def State.holdTiles (s : State) (q : Nat) (ts : List Nat) : State :=
  ts.foldl (fun u t => (u.modTile q t (fun e => { e with holds := e.holds + 1 })).forceFetch q t) s

/-- Tiles that are ABSENT again are fetched again. -/
def State.refetch (s : State) (q : Nat) (ts : List Nat) : State := ts.foldl (fun u t => u.forceFetch q t) s

/-- Held tiles are released, and fetches that wait for a frame try again. -/
def State.releaseTiles (s : State) (q : Nat) (ts : List Nat) : State :=
  if ts = [] then s
  else (ts.foldl (fun u t => u.modTile q t (fun e => { e with holds := e.holds - 1 })) s).retryClaims q

/-- The vault address of a local address whose tile is resident. -/
def State.locAddr (s : State) (a : Nat) : Nat := (s.vaultOf a).getD 0

/-- `n` bytes of local memory. -/
def State.rdLoc (s : State) (a n : Nat) : List Byte := (List.range n).map (fun i => rd8 s.mem (s.locAddr (a + i)))

/-- A granule of a range of local memory is poisoned. -/
def State.locPoison (s : State) (a n : Nat) : Bool :=
  (List.range ((a % 16 + n + 15) / 16)).any (fun i => s.isPoison (s.locAddr (a / 16 * 16 + 16 * i)))

/-- Bytes written to local memory; a granule written whole loses its poison (R79). -/
def State.wrLoc (s : State) (a : Nat) (b : List Byte) : State :=
  let s1 := (List.range b.length).foldl (fun t i => { t with mem := wr8 t.mem (s.locAddr (a + i)) (b.getD i 0) }) s
  (List.range (b.length / 16 + 1)).foldl (fun t i =>
    let g := (a + 15) / 16 * 16 + 16 * i
    if g + 16 ≤ a + b.length then t.setPoison (s.locAddr g) false else t) s1

/-- The tiles of a range accessed now. -/
def State.touchAll (s : State) (q : Nat) (ts : List Nat) : State := ts.foldl (fun u t => u.touch q t) s

/-! ## The scoreboard (R103) -/

/-- A range of tile space. -/
def isTileRange (r : Nat × Nat × Bool) : Bool := r.1 / 2 ^ 48 % 256 == 2

/-- Two recorded ranges conflict: a vault range and a tile range always, two of one kind when they share a byte and one is written. -/
def rangesClash (x y : Nat × Nat × Bool) : Bool :=
  if isTileRange x != isTileRange y then true
  else decide (x.1 < y.1 + y.2.1) && decide (y.1 < x.1 + x.2.1) && (x.2.2 || y.2.2)

/-- Two commands conflict. -/
def clash (x y : Cmd) : Bool := x.ranges.any (fun r => y.ranges.any (rangesClash r))

/-- Scoreboard entries in use in a squad. -/
def State.sbUsed (s : State) (q : Nat) : Nat := ((s.squad q).cmds.filter (fun (c : Cmd) => c.entry)).length

/-- An older entry of the squad conflicts with the entry of this number. -/
def State.blocked (s : State) (q id : Nat) : Bool :=
  match List.find? (fun (c : Cmd) => c.id == id) (s.squad q).cmds with
  | none => false
  | some c => (s.squad q).cmds.any (fun (o : Cmd) => o.entry && decide (o.id < id) && clash o c)

/-- A command leaves its squad, with its entry. -/
def State.dropCmd (s : State) (q id : Nat) : State :=
  s.modSquad q (fun k => { k with cmds := k.cmds.filter (fun (c : Cmd) => c.id != id) })

/-- A command with no field of its own. -/
def Cmd.blank : Cmd :=
  { id := 0, squad := 0, op := .cabt, desc := [], cseq := 0, ca := 0, d := 0, cid := 0, core := 0, tenid := 0, ptag := 0, key := 0,
    xtab := 0, xlen := 0, rcb := 0, ctxtag := 0, st := .accepted, ranges := [], entry := false, ext := none, xent := none, status := 0,
    bytes := 0, part := false, detail := 0, holds := [], orphan := false,
    fem := 0, row := 0, left := [], made := false, todo := [], paid := 0, pend := [], got := [], bad := none, t0 := 0 }

end Sys2Proof.Machine
end

