-- ==== Sys2Proof/Machine/Fabric.lean ====
section
/-!
DEFINITION. Ports of Ligrim Link, packets and their sequence numbers (R404-R410), and engine commands by number.
-/

namespace Sys2Proof.Machine

/-! ## Commands by number -/

/-- The engine command of a number. -/
def State.cmd? (s : State) (id : Nat) : Option Cmd :=
  List.find? (fun (c : Cmd) => c.id == id) (s.squads.flatMap (fun p => p.2.cmds))

/-- Changes an engine command. -/
def State.modCmd (s : State) (id : Nat) (f : Cmd → Cmd) : State :=
  match s.cmd? id with
  | none => s
  | some c =>
    s.modSquad c.squad (fun k => { k with cmds := k.cmds.map (fun (x : Cmd) => if x.id == id then f x else x) })

/-- A command goes to COMPLETING (R104). -/
def State.endCmd (s : State) (id status bytes : Nat) (part : Bool) (detail : Nat) : State :=
  s.modCmd id (fun c => { c with
    st := .completing, status := status, bytes := bytes, part := part, detail := BitVec.ofNat 32 detail, todo := [], pend := [] })

/-- Status codes (R106). -/
def stOk : Nat := 0x0000
/-- EXTENT_RANGE -/
def stRange : Nat := 0x0001
/-- EXTENT_STALE -/
def stStale : Nat := 0x0002
/-- EXTENT_RIGHTS -/
def stRights : Nat := 0x0003
/-- LOCAL_OWNER -/
def stOwner : Nat := 0x0004
/-- MEMERR -/
def stMemErr : Nat := 0x0005
/-- FORMAT -/
def stFormat : Nat := 0x0006
/-- ABORTED_LOCAL -/
def stAbortL : Nat := 0x0010
/-- ABORTED_REMOTE -/
def stAbortR : Nat := 0x0011
/-- TIMEOUT -/
def stTimeout : Nat := 0x0012
/-- LINK_DOWN -/
def stLinkDown : Nat := 0x0013
/-- MEMBER_LOST -/
def stLost : Nat := 0x0014
/-- GROUP_STALE -/
def stGroup : Nat := 0x0015

/-! ## Ports (R404) -/

/-- A link port. -/
def State.link (s : State) (p : Nat) : Link := s.fab.links.getD Link.reset p
/-- Changes a link port. -/
def State.modLink (s : State) (p : Nat) (f : Link → Link) : State :=
  { s with fab := { s.fab with links := s.fab.links.put p (f (s.link p)) } }
/-- A port of the part that is UP. -/
def State.linkUp (s : State) (p : Nat) : Bool := decide (p < s.part.links) && (s.link p).st == .up
/-- The port on which packets for a node leave: its `lroute`, while that is valid. -/
def State.routeOf (s : State) (n : Nat) : Option Nat := (s.fab.lroute.find? n).bind (fun v => if Nat.testBit v 8 then some (v % 256) else none)
/-- A packet discarded at a port: counted (R404). -/
def State.linkDiscard (s : State) (p : Nat) : State := s.modLink p (fun k => { k with discards := satInc k.discards })

/-! ## Packets (R406) -/

/-- Packet kinds. -/
def pkWrite : Nat := 0
/-- READ -/
def pkRead : Nat := 1
/-- READ_REPLY -/
def pkReadReply : Nat := 2
/-- ATOMIC_REPLY -/
def pkAtomicReply : Nat := 4
/-- WRITE_ACK -/
def pkWriteAck : Nat := 5
/-- COLL_DATA -/
def pkColl : Nat := 6
/-- JOIN -/
def pkJoin : Nat := 7
/-- ABORT -/
def pkAbort : Nat := 8
/-- RELEASE -/
def pkRelease : Nat := 9

/-- A packet with no field of its own. -/
def Packet.blank : Packet :=
  { via := 0, src := 0, dst := 0, kind := 0, part := 0, pseq := 0, group := 0, gen := 0, key := 0, addr := 0, rank := 0, operand := 0, params := 0,
    data := [] }

/-- Flits of a packet with `n` data bytes: 24 in the head, 56 in each body flit. -/
def flitsOf (n : Nat) : Nat := 1 + (n - 24 + 55) / 56

/-- The CRC-32 of IEEE 802.3 of bytes, with the remainder so far (R405, R411). -/
def crcByte (r : BitVec 32) (b : Byte) : BitVec 32 :=
  (List.range 8).foldl (fun x _ => if x.getLsbD 0 then (x >>> 1) ^^^ 0xEDB88320#32 else x >>> 1) (r ^^^ b.setWidth 32)
/-- The CRC-32 of bytes. -/
def crc32 (l : List Byte) : BitVec 32 := ~~~(l.foldl crcByte (BitVec.allOnes 32))

/-- Bytes 59:0 of a flit (R405). -/
def flitBody (f : Flit) : List Byte :=
  toBytes 2 (packFields [(12, f.lseq.toNat), (4, f.lkind.toNat)]) ++ toBytes 2 f.credit.toNat ++ (f.pay ++ List.replicate 56 0).take 56
/-- The CRC of a flit holds. -/
def flitOk (f : Flit) : Bool := f.crc == crc32 (flitBody f)
/-- A flit with the CRC that it needs. -/
def withCrc (f : Flit) : Flit := { f with crc := crc32 (flitBody f) }

/-- The header of a packet (R406). A COLL_DATA carries the operation word of its collective in bits that its kind leaves free (log 20). -/
def packetHeader (p : Packet) : List Byte :=
  let c := decide (p.kind = pkColl)
  let w := p.params.toNat
  toBytes 8 (packFields [(16, p.src), (16, p.dst), (4, p.kind), (5, p.part), (13, p.data.length)]) ++
  toBytes 8 (packFields [(32, p.pseq.toNat), (8, p.group), (16, p.gen.toNat), (7, p.key)]) ++
  toBytes 8 (if c then packFields [(32, p.addr), (24, w)] else p.addr % 2 ^ 56) ++
  toBytes 8 (if c then packFields [(24, p.rank), (8, w / 2 ^ 40), (16, p.operand.toNat), (16, w / 2 ^ 24)] else
    packFields [(32, p.rank), (32, p.operand.toNat)])

/-- Bytes cut into `n` payloads of 56. -/
def payloads : Nat → List Byte → List (List Byte)
  | 0, _ => []
  | n + 1, b => (b.take 56 ++ List.replicate (56 - b.length) 0) :: payloads n (b.drop 56)

/-- The flits of a packet: a head with 24 data bytes, then body flits (R406). -/
def packetFlits (p : Packet) : List (BitVec 4 × List Byte) :=
  match payloads (flitsOf p.data.length) (packetHeader p ++ p.data) with
  | [] => []
  | h :: r => (1, h) :: r.map (fun b => (2, b))

/-- Flits put on the wire from number `n` on. -/
def flitRun (n : BitVec 12) : List (BitVec 4 × List Byte) → List Flit
  | [] => []
  | x :: r => withCrc { lseq := n, lkind := x.1, credit := 0, pay := x.2, crc := 0 } :: flitRun (n + 1) r

/-- The packet that payloads from a head flit on spell, once they are all there. -/
def packetOf (via : Nat) (l : List (List Byte)) : Option Packet :=
  let b := l.flatten
  let w (i : Nat) : Nat := ofBytes (slice b (8 * i) 8)
  let n := w 0 / 2 ^ 41 % 2 ^ 13
  let c := decide (w 0 / 2 ^ 32 % 16 = pkColl)
  if l.length < flitsOf n then none
  else some
    { via := via, src := w 0 % 2 ^ 16, dst := w 0 / 2 ^ 16 % 2 ^ 16, kind := w 0 / 2 ^ 32 % 16, part := w 0 / 2 ^ 36 % 32,
      pseq := BitVec.ofNat 32 (w 1), group := w 1 / 2 ^ 32 % 256, gen := BitVec.ofNat 16 (w 1 / 2 ^ 40), key := w 1 / 2 ^ 56 % 128,
      addr := if c then w 2 % 2 ^ 32 else w 2 % 2 ^ 56, rank := if c then w 3 % 2 ^ 24 else w 3 % 2 ^ 32,
      operand := BitVec.ofNat 32 (if c then w 3 / 2 ^ 32 % 2 ^ 16 else w 3 / 2 ^ 32),
      params := BitVec.ofNat 64 (if c then w 2 / 2 ^ 32 % 2 ^ 24 + w 3 / 2 ^ 48 * 2 ^ 24 + w 3 / 2 ^ 24 % 256 * 2 ^ 40 else 0),
      data := slice b 32 n }

/-- A packet leaves on a port that is UP, flit by flit. A device whose node number is 0 sends nothing. -/
def State.transmit (s : State) (port : Option Nat) (p : Packet) : State :=
  match port with
  | some q =>
    if s.fab.node != 0 && s.linkUp q then
      { s with fab := { s.fab with sent := s.fab.sent ++ [(q, p)] } }.modLink q (fun k =>
        { k with out := k.out ++ packetFlits p, wire := k.wire ++ flitRun (k.tx + BitVec.ofNat 12 k.out.length) (packetFlits p) })
    else s
  | none => s

/-- A packet takes the next sequence number of its destination and leaves on a port; `wait` keeps it until it is answered (R409). -/
def State.sendPacket (s : State) (port : Option Nat) (wait : Bool) (p : Packet) : State × BitVec 32 :=
  let n := s.fab.pseqTx.getD 0 p.dst
  let p1 := { p with src := s.fab.node, pseq := n }
  let s1 := { s with fab := { s.fab with
    pseqTx := s.fab.pseqTx.put p.dst (n + 1), unanswered := if wait then s.fab.unanswered ++ [p1] else s.fab.unanswered } }
  (s1.transmit port p1, n)

/-- A packet sent by its route, without an answer. -/
def State.sendOne (s : State) (p : Packet) : State := (s.sendPacket (s.routeOf p.dst) false p).1

/-- Every unanswered packet leaves again on its route, under its number (R409). -/
def State.resendAll (s : State) : State := s.fab.unanswered.foldl (fun t p => t.transmit (t.routeOf p.dst) p) s

/-- A packet has been answered. -/
def State.answered (s : State) (dst : Nat) (n : BitVec 32) : State :=
  { s with fab := { s.fab with unanswered := s.fab.unanswered.filter (fun p => !(p.dst == dst && p.pseq == n)) } }

/-- A number is at or below another, in numbers that wrap (R409). -/
def seqLe (x y : BitVec 32) : Bool := decide ((y - x).toNat < 2 ^ 31)

/-- The local partition paired with a partition of a node (R407). -/
def State.paired (s : State) (src part : Nat) : Option Nat :=
  (s.fab.lpmap.find? (32 * src + part)).bind (fun v => if Nat.testBit v 7 then some (v % 32) else none)

/-! ## Packets of a remote command (R407, R409) -/

/-- The fabric budget of a command's tenant. -/
def State.fbytesOf (s : State) (c : Cmd) : Nat :=
  match s.ctxOf c.cid with
  | some k => k.eff.fbytes
  | none => (s.rcbEff c.rcb.toNat).fbytes

/-- The account of a command's tenant. -/
def Cmd.account (c : Cmd) : Nat := c.ptag * 65536 + c.tenid.toNat

/-- A command sends its packets, as far as the budget of the period lets their flits through (R407). -/
def State.sendTodo (s : State) (c : Cmd) (lim : Nat) : List (Nat × Nat × Packet) → State × Cmd
  | [] => (s, { c with todo := [], paid := 0 })
  | x :: r =>
    let u := s.fab.used.getD 0 c.account
    let n := flitsOf x.2.2.data.length
    let k := Nat.min (n - c.paid) (lim - u)
    let s1 := { s with fab := { s.fab with used := s.fab.used.put c.account (u + k) } }
    if c.paid + k < n then (s1, { c with todo := x :: r, paid := c.paid + k })
    else
      let t := s1.sendPacket (s1.routeOf x.2.2.dst) true x.2.2
      t.1.sendTodo { c with paid := 0, pend := c.pend ++ [(t.2, x.1, x.2.1)] } lim r

/-- The waiting packets of a command. -/
def State.sendWaiting (s : State) (id : Nat) : State :=
  match s.cmd? id with
  | none => s
  | some c =>
    let r := s.sendTodo c (s.fbytesOf c) c.todo
    r.1.modCmd id (fun _ => r.2)

/-- The numbers of the commands that have packets to send, oldest first. -/
def State.senders (s : State) : List Nat :=
  ((s.squads.flatMap (fun p => p.2.cmds)).filter (fun (c : Cmd) => !c.todo.isEmpty)).map (fun (c : Cmd) => c.id)

end Sys2Proof.Machine
end

