-- ==== Sys2Proof/Machine/Engines.lean ====
section
/-!
DEFINITION. The issue of the engine commands (R93-R96), the extent checks (R97-R99) and the transfers of the copy and gather engines
(R101, R102, R109-R113).
-/

namespace Sys2Proof.Machine

/-! ## The descriptor -/

/-- Registers of a descriptor (R94). -/
def EngOp.count : EngOp → Nat
  | .cpy _ _ | .cfill _ _ => 5
  | .cpyx _ _ | .gath | .scat => 6
  | .cpyc | .echk _ | .coll | .cgrp => 4
  | _ => 2

/-- The engine that serves a command (R93). -/
def EngOp.engine : EngOp → Nat
  | .gath | .scat => 1
  | .coll | .cgrp | .cabt => 2
  | _ => 0

/-- Commands that take an entry of the scoreboard (R103). -/
def EngOp.takesEntry : EngOp → Bool
  | .echk _ | .cgrp | .cabt => false
  | _ => true

/-- Register `i` of a descriptor. -/
def Cmd.w (c : Cmd) (i : Nat) : Nat := (c.desc.getD i 0).toNat

/-- The rows of a strided copy (R109). -/
structure Shape where
  loc : Nat
  off : Nat
  rowb : Nat
  rows : Nat
  lstr : Nat
  xstr : Nat
  deriving DecidableEq, Repr

/-- The rows that a CPY or CPYX moves. -/
def Cmd.shape (c : Cmd) : Shape :=
  match c.op with
  | .cpyx _ _ =>
    { loc := c.w 1, off := c.w 3, rowb := c.w 4 % 2 ^ 16, rows := c.w 4 / 2 ^ 16 % 2 ^ 16, lstr := c.w 5 % 2 ^ 32, xstr := c.w 5 / 2 ^ 32 }
  | _ => { loc := c.w 1, off := c.w 3, rowb := c.w 4 % 2 ^ 27, rows := 1, lstr := 0, xstr := 0 }

/-- Bytes from the first byte of rows to the last. -/
def rowSpan (rows rowb str : Nat) : Nat := if rows = 0 ∨ rowb = 0 then 0 else (rows - 1) * str + rowb

/-- Bytes of an element of a collective (R114, R417). -/
def collSize (ty : Nat) : Nat := if ty = 1 then 2 else 4

/-- The local ranges of a command (R103, R109-R114). -/
def Cmd.locals (c : Cmd) : List (Nat × Nat × Bool) :=
  match c.op with
  | .cpy put _ | .cpyx put _ => [(c.shape.loc, rowSpan c.shape.rows c.shape.rowb c.shape.lstr, !put)]
  | .cpyc => [(c.w 1, c.w 3 % 2 ^ 27, true), (c.w 2, c.w 3 % 2 ^ 27, false)]
  | .cfill x _ => if x then [] else [(c.w 1, c.w 3 % 2 ^ 27, true)]
  | .gath => [(c.w 1, c.w 4 / 2 ^ 32 % 2 ^ 16 * (c.w 4 % 2 ^ 16), true), (c.w 3, 4 * (c.w 4 / 2 ^ 32 % 2 ^ 16), false)]
  | .scat => [(c.w 1, c.w 4 / 2 ^ 32 % 2 ^ 16 * (c.w 4 % 2 ^ 16), false), (c.w 3, 4 * (c.w 4 / 2 ^ 32 % 2 ^ 16), false)]
  | .coll => [(c.w 2, c.w 3 % 2 ^ 24 * collSize (c.w 3 / 2 ^ 28 % 16), true)]
  | _ => []

/-! ## Issue (R96) -/

/-- `n` registers from `g[s]` on, in ascending order. -/
def readDesc (sr : Reg) : Nat → Nat → Op (List Word)
  | _, 0 => pure []
  | i, n + 1 => do
    let x ← readG (sr + BitVec.ofNat 6 i)
    let r ← readDesc sr (i + 1) n
    pure (x :: r)

/-- The checks of a completion address, as a store to it would make (R96, R123, R380). -/
def caChecks (ca : Nat) : Op Unit := do
  alignTo 16 1 ca
  let s ← getS
  if ca / 2 ^ 48 % 256 = 0 ∨ ca / 2 ^ 48 % 256 = 2 then
    match regionOf s.part ca with
    | .main => do
      if s.refused46 s.me.ptag ca then accTrap .confine 1 3 ca
      watch 1 ca 16 rightsSt
    | .tile q t _ =>
      match s.tileRefused s.me.ptag s.me.tenid q t with
      | some why => accTrap .confine 1 why ca
      | none => pure ()
    | _ => accTrap .confine 1 1 ca
  else accTrap .confine 1 6 ca

/-- A CGRP raises the generation of its group at issue: what runs on the older one ends, and the entry is FORMING (R115, R412, R417). -/
def State.cgrpIssue (s : State) (c : Cmd) : State :=
  let gid := c.w 1 % 256
  let g := s.group c.ptag gid
  let s1 := g.colls.foldl (fun t (r : CollRun) => t.endCmd r.id stGroup 0 true g.rank) s
  let s2 := match g.cmd with | some i => s1.endCmd i stGroup 0 false g.rank | none => s1
  let gen := g.gen + 1
  s2.modGroup c.ptag gid (fun g => { g with
    gen := gen, st := .forming, members := c.w 3 % 2 ^ 16, rank := c.w 3 / 2 ^ 16 % 2 ^ 16,
    dline := if c.w 3 / 2 ^ 32 = 0 then 2000 else c.w 3 / 2 ^ 32, bstat := 0, brank := 0, nodes := [], joined := [], cmd := some c.id,
    begun := false, abortKept := none, colls := [], ncoll := 0, inbox := g.inbox.filter (fun p => p.gen == gen) })

/-- The command passes issue (R96): `cseq` and `cp` rise, g[d] is pending, and the engine has the command. -/
def State.passCmd (s : State) (op : EngOp) (d : Reg) (desc : List Word) (ca fem : Nat) : State :=
  let k := s.me
  let q := squadOf k.core
  let gen := if op = .cgrp then [((s.group k.ptag ((desc.getD 1 0).toNat % 256)).gen + 1).setWidth 64] else []
  let c0 : Cmd := { Cmd.blank with
    id := s.nextCmd, squad := q, op := op, desc := desc ++ gen, cseq := k.cseq + 1, ca := ca, d := d, cid := k.cid, core := k.core,
    tenid := k.tenid, ptag := k.ptag, key := k.key, xtab := k.eff.xtab, xlen := k.eff.xlen, rcb := k.rcb, ctxtag := k.ctxtag,
    entry := op.takesEntry, fem := fem }
  let c : Cmd := { c0 with ranges := c0.locals.filter (fun r => decide (0 < r.2.1)) }
  let s1 := { (s.modMe (fun k => { (if d = 0 then k else k.pendG d) with cseq := k.cseq + 1, cp := k.cp + 1 })) with nextCmd := s.nextCmd + 1 }
  let s2 := s1.modSquad q (fun z => { z with cmds := z.cmds ++ [c] })
  if op = .cgrp then s2.cgrpIssue c else s2

/-- `engine_issue(n)` (R96). -/
def engineIssue (op : EngOp) (d sr : Reg) (s0 : State) : Res :=
  issueOp (do
    if op.engine = 2 && s0.part == .c2 then trapOp .notPresent 0 4
    needUnit 3
    let desc ← readDesc sr 0 op.count
    let ca := addr56 (desc.getD 0 0)
    if ca ≠ 0 then caChecks ca
    let s ← getS
    let main := ca != 0 && decide (ca < 2 ^ 48)
    parkUntil (decide (s.sbUsed (squadOf s.me.core) < 64) && decide (s.me.cp < 63) && (!main || decide (s.me.st < 63)))
    if d ≠ 0 then freeG d
    let fem := if main then s.nextReq else 0
    if main then modS (fun s => s.femarkMain false ca [(ca, 1)])
    else if ca ≠ 0 then
      tileWrite s0 (regionOf s.part ca) 1 ca (fun b => [{ gran := b / 16, ty := tyNone, op := opEmpty, mask := 0, data := 0 }])
    modS (fun s => s.passCmd op d desc ca fem)) s0

/-- CPY (R109). -/
def execCpy (put fe : Bool) (d sr : Reg) (s : State) : Res := engineIssue (.cpy put fe) d sr s
/-- CPYX (R109). -/
def execCpyx (put fe : Bool) (d sr : Reg) (s : State) : Res := engineIssue (.cpyx put fe) d sr s
/-- CPYC (R110). -/
def execCpyc (d sr : Reg) (s : State) : Res := engineIssue .cpyc d sr s
/-- CFILL (R111). -/
def execCfill (x : Bool) (m : FillMark) (d sr : Reg) (s : State) : Res := engineIssue (.cfill x m) d sr s
/-- GATH (R112). -/
def execGath (d sr : Reg) (s : State) : Res := engineIssue .gath d sr s
/-- SCAT (R112). -/
def execScat (d sr : Reg) (s : State) : Res := engineIssue .scat d sr s
/-- ECHK (R113). -/
def execEchk (rights : BitVec 3) (d sr : Reg) (s : State) : Res := engineIssue (.echk rights) d sr s
/-- COLL (R114). -/
def execColl (d sr : Reg) (s : State) : Res := engineIssue .coll d sr s
/-- CGRP (R115). -/
def execCgrp (d sr : Reg) (s : State) : Res := engineIssue .cgrp d sr s
/-- CABT (R116). -/
def execCabt (d sr : Reg) (s : State) : Res := engineIssue .cabt d sr s

/-! ## Extents (R98-R100) -/

/-- The four words of an extent entry. -/
def State.extentWords (s : State) (a : Nat) : List Word := (List.range 4).map (fun i => s.rdWord 0 (a + 8 * i))

/-- The words of an entry as the extent cache of a squad gives them; a miss reads the entry, and a full cache drops one. The words of a poisoned
line are used as they stand (DESIGN CHOICE, log 83). -/
def State.extentCached (s : State) (q a : Nat) : List Word × State :=
  match List.find? (fun (x : Nat × List Word) => x.1 == a) (s.squad q).xcache with
  | some x => (x.2, s)
  | none =>
    let w := s.extentWords a
    let l := (s.squad q).xcache
    let r := if l.length < 256 then (l, s) else
      let v := s.choose 256
      (l.eraseIdx v.1, v.2)
    (w, r.2.modSquad q (fun k => { k with xcache := r.1 ++ [(a, w)] }))

/-- The entry that four words spell; none when it is not valid or a reserved field is not zero. -/
def extentOf (w : List Word) : Option Extent :=
  let g (i hi lo : Nat) : Nat := fld (w.getD i 0) hi lo
  if g 0 63 56 = 0 ∧ g 1 63 48 = 0 ∧ g 2 63 48 = 0 ∧ g 2 23 19 = 0 ∧ g 3 63 0 = 0 ∧ g 2 31 31 = 1 then
    some { base := g 0 55 0, len := g 1 47 0, gen := g 2 15 0, rights := BitVec.ofNat 3 (g 2 18 16), key := g 2 30 24, node := g 2 47 32 }
  else none

/-- The address of the entry of a handle. -/
def Cmd.entryAt (c : Cmd) (h : Nat) : Nat := (c.xtab + 32 * (h % 2 ^ 16)) % 2 ^ 56

/-- What the extent check answers: a status, the entry of a valid index, and whether the order was 5. -/
structure ExtAns where
  status : Nat
  ext : Option Extent
  order5 : Bool

/-- The check of a handle, an offset and a length against the rights `need` (R99). -/
def extentCheck (c : Cmd) (w : List Word) (h o n : Nat) (need : BitVec 3) : ExtAns :=
  if h / 2 ^ 32 ≠ 0 then { status := stFormat, ext := if h % 2 ^ 16 < c.xlen then extentOf w else none, order5 := false }
  else if c.xlen ≤ h % 2 ^ 16 then { status := stRange, ext := none, order5 := false }
  else
    match extentOf w with
    | none => { status := stRange, ext := none, order5 := false }
    | some e =>
      let a (st : Nat) (b : Bool) : ExtAns := { status := st, ext := some e, order5 := b }
      if h / 2 ^ 16 % 2 ^ 16 ≠ e.gen then a stStale false
      else if need &&& ~~~e.rights ≠ 0 then a stRights false
      else if e.len < o + n then a stRange true
      else a stOk false

/-- The first extent offset in transfer order at or beyond the length (R105). -/
def beyond (off len rowb xstr : Nat) : Nat → Nat → Nat
  | _, 0 => off
  | r, n + 1 => if len < off + r * xstr + rowb then Nat.max (off + r * xstr) len else beyond off len rowb xstr (r + 1) n

/-- Rights read, write and full/empty as a mask. -/
def rightsMask (wr fe : Bool) : BitVec 3 := (if wr then 2 else 1) ||| (if fe then 4 else 0)

/-! ## The checks of a command that leaves ACCEPTED (R97, R99, R109-R113) -/

/-- Numbers that are not multiples of 16. -/
def ragged (l : List Nat) : Bool := l.any (fun x => x % 16 != 0)

/-- A descriptor field is reserved, not zero where zero is required, or beyond its limit. -/
def Cmd.malformed (c : Cmd) : Bool :=
  let z := c.shape
  match c.op with
  | .cpy _ fe => c.w 3 / 2 ^ 48 != 0 || decide (2 ^ 26 < c.w 4) || (fe && ragged [z.loc, z.off, c.w 4])
  | .cpyx put fe =>
    c.w 3 / 2 ^ 48 != 0 || c.w 4 / 2 ^ 32 != 0 || z.rowb == 0 ||
    (decide (1 < z.rows) && decide ((if put then z.xstr else z.lstr) < z.rowb)) || (fe && ragged [z.loc, z.off, z.rowb, z.lstr, z.xstr])
  | .cpyc => decide (2 ^ 26 < c.w 3)
  | .cfill x m =>
    c.w 3 / 2 ^ 27 != 0 || (!x && c.w 2 != 0) || (m != .keep && ragged [if x then c.w 2 else c.w 1, c.w 3])
  | .gath | .scat =>
    c.w 4 / 2 ^ 16 % 2 ^ 16 != 0 || c.w 4 / 2 ^ 48 != 0 || c.w 5 / 2 ^ 48 != 0 || c.w 4 % 2 ^ 16 == 0 || decide (4096 < c.w 4 % 2 ^ 16)
  | _ => false

/-- Bytes that a command asks for. An ECHK asks for none, so that `part` stays 0 whatever its status (DEDUCED, log 51). -/
def Cmd.requested (c : Cmd) : Nat :=
  match c.op with
  | .cpy _ _ | .cpyx _ _ => c.shape.rows * c.shape.rowb
  | .cpyc | .cfill _ _ => c.w 3 % 2 ^ 27
  | .gath | .scat => c.w 4 / 2 ^ 32 % 2 ^ 16 * (c.w 4 % 2 ^ 16)
  | _ => 0

/-- Handle, offset, length and rights of a command's extent, where it has one. -/
def Cmd.extentArgs (c : Cmd) : Option (Nat × Nat × Nat × BitVec 3) :=
  let z := c.shape
  match c.op with
  | .cpy put fe | .cpyx put fe => some (c.w 2, z.off, rowSpan z.rows z.rowb z.xstr, rightsMask put fe)
  | .cfill x m => if x then some (c.w 1, c.w 2, c.w 3 % 2 ^ 27, rightsMask true (m != .keep)) else none
  | .gath => some (c.w 2, c.w 5, 0, rightsMask false false)
  | .scat => some (c.w 2, c.w 5, 0, rightsMask true false)
  | .echk r => some (c.w 1, c.w 2, c.w 3, r)
  | _ => none

/-- The start of the first of the local ranges, in the order of the descriptor, that the engine refuses (R97; DESIGN CHOICE, log 51). -/
def State.localFail (s : State) (c : Cmd) : Option Nat :=
  (List.find? (fun (r : Nat × Nat × Bool) =>
    decide (2 ^ 56 ≤ r.1) || (s.localRefused c.squad c.ptag c.tenid r.1 r.2.1).isSome) c.locals).map Prod.fst

/-- `detail` of an extent check that fails (R105, R113). -/
def Cmd.extentDetail (c : Cmd) (o n : Nat) (x : ExtAns) : Nat :=
  match c.op with
  | .echk _ => match x.ext with | some e => e.gen + 2 ^ 16 * e.rights.toNat | none => 0
  | _ =>
    if x.status = stFormat then 0
    else
      match x.ext, x.order5 with
      | some e, true =>
        (match c.op with
          | .cfill _ _ => beyond o e.len n 0 0 1
          | _ => beyond o e.len c.shape.rowb c.shape.xstr 0 c.shape.rows)
      | _, _ => o

/-- The tiles of the local ranges of a command. -/
def Cmd.tiles (c : Cmd) : List Nat := (c.locals.flatMap (fun r => tilesOf r.1 r.2.1)).dedup

/-- A data command, or an ECHK, leaves ACCEPTED: RUNNING with its extent and its tiles held, or COMPLETING with a status (R104). -/
def State.startData (s : State) (c : Cmd) : State :=
  let stop (t : State) (st detail : Nat) : State := t.endCmd c.id st 0 (decide (0 < c.requested)) detail
  if c.malformed then stop s stFormat 0
  else
    let go (t : State) (e : Option Extent) (a : Option Nat) : State :=
      match t.localFail c with
      | some l => stop t stOwner l
      | none =>
        let ts := c.tiles
        (t.holdTiles c.squad ts).modCmd c.id (fun k => { k with st := .running, ext := e, xent := a, holds := ts, t0 := s.clk })
    match c.extentArgs with
    | none => go s none none
    | some (h, o, n, need) =>
      let a := c.entryAt h
      let r := if h % 2 ^ 16 < c.xlen then s.extentCached c.squad a else ([], s)
      let x := extentCheck c r.1 h o n need
      -- a gather or scatter checks the length row by row (R112)
      let st := if x.order5 && (c.op == .gath || c.op == .scat) then stOk else x.status
      match c.op with
      | .echk _ => stop r.2 x.status (c.extentDetail o n x)
      | _ => if st ≠ stOk then stop r.2 st (c.extentDetail o n x) else go r.2 x.ext (some a)

/-! ## The far side of a transfer (R101, R389) -/

/-- The die of a squad, whose service core has a window cache of its own (R10). -/
def State.dieOf (s : State) (q : Nat) : Nat := q * s.part.dies / s.part.squads

/-- A host-window descriptor as the service core of a die has it: from its cache, or read (R10, R389). -/
def State.winAt (s : State) (die part w : Nat) : HostWin :=
  match s.wcache.find? (256 * die + 8 * part + w) with
  | some d => d
  | none => (s.partn part).wins.getD HostWin.reset w

/-- The service core of a die has looked a descriptor up. -/
def State.winLoad (s : State) (die part w : Nat) : State := { s with wcache := s.wcache.put (256 * die + 8 * part + w) (s.winAt die part w) }

/-- A host-window access of a partition that its descriptor refuses (R389). -/
def HostWin.refuses (d : HostWin) (off n : Nat) (wr : Bool) : Option Nat :=
  if !d.w1.getLsbD 63 || decide (fld d.w1 47 0 < off + n) then some stRange
  else if !(if wr then d.w1.getLsbD 50 else d.w1.getLsbD 49) then some stRights
  else none

/-- The host bus address of an offset of a window. -/
def HostWin.addr (d : HostWin) (off : Nat) : Nat := d.w0.toNat + off

/-- The status of an access to `n` bytes of one granule of an extent, if it fails (R46, R53, R72, R106, R377). An address in none of the
regions that an extent may name is refused as by its home. -/
def State.farFails (s : State) (c : Cmd) (e : Extent) (o n : Nat) (wr : Bool) : Option Nat :=
  let a := (e.base + o) % 2 ^ 56
  match regionOf s.part a with
  | .main =>
    if s.refused46 c.ptag a then some stRange
    else if wr then (if s.sealedAt a n then some stRights else none)
    else if s.isPoison a then some stMemErr else none
  | .tile q t b =>
    if (s.tileRefused c.ptag c.tenid q t).isSome then some stOwner
    else if !wr && s.isPoison (((s.squad q).tile t).base q + b) then some stMemErr else none
  | .host w off => (s.winAt (s.dieOf c.squad) c.ptag w).refuses off n wr
  | _ => some stRange

/-- Where an access fails, that may cross from one granule into the next: status and offset. -/
def State.farFails2 (s : State) (c : Cmd) (e : Extent) (o n : Nat) (wr : Bool) : Option (Nat × Nat) :=
  let k := 16 - (e.base + o) % 16
  match s.farFails c e o (Nat.min n k) wr with
  | some st => some (st, o)
  | none => if k < n then (s.farFails c e (o + k) (n - k) wr).map (fun st => (st, o + k)) else none

/-- Bytes of one granule of an extent, and its full/empty bit. Host memory has no such bits. -/
def State.farGran (s : State) (c : Cmd) (e : Extent) (o n : Nat) : List Byte × Option Bool :=
  let a := (e.base + o) % 2 ^ 56
  match regionOf s.part a with
  | .main => (s.rdDev e.key a n, some (s.isFull (a / 16)))
  | .tile q t b =>
    let v := ((s.squad q).tile t).base q + b
    (rdBytes s.mem v n, some (s.isFull (v / 16)))
  | .host w off => (rdBytes s.hostMem ((s.winAt (s.dieOf c.squad) c.ptag w).addr off) n, none)
  | _ => ([], none)

/-- Up to 16 bytes of an extent, that may lie in two granules, and so in two tiles, with the full/empty bit of the first. -/
def State.farRead (s : State) (c : Cmd) (e : Extent) (o n : Nat) : List Byte × Option Bool :=
  let k := 16 - (e.base + o) % 16
  let r := s.farGran c e o (Nat.min n k)
  if k < n then (r.1 ++ (s.farGran c e (o + k) (n - k)).1, r.2) else r

/-- A full/empty bit set at a device address of main memory or of the vault, and its wait list served when it changes (R51, R88). -/
def State.setFullAt (s : State) (a : Nat) (full : Bool) : State :=
  if s.isFull (a / 16) == full then s
  else if a < 2 ^ 48 then (s.setFull (a / 16) full).serveHome (a / 16)
  else (s.setFull (a / 16) full).serveTile ((a - 2 ^ 48) / 2 ^ 22) (a / 16)

/-- Bytes written into a granule of an extent; a whole granule of a vault loses its poison. -/
def State.farWrite (s : State) (c : Cmd) (e : Extent) (o : Nat) (b : List Byte) (full : Option Bool) : State :=
  let a := (e.base + o) % 2 ^ 56
  let mark (t : State) (v : Nat) : State := match full with | some f => t.setFullAt v f | none => t
  match regionOf s.part a with
  | .main => mark (s.wrDev e.key a b) a
  | .tile q t k =>
    let v := ((s.squad q).tile t).base q + k
    let s1 := { (s.touch q t) with mem := wrBytes s.mem v b }
    mark (if b.length = 16 ∧ v % 16 = 0 then s1.setPoison v false else s1) v
  | .host w off =>
    let die := s.dieOf c.squad
    { (s.winLoad die c.ptag w) with hostMem := wrBytes s.hostMem ((s.winAt die c.ptag w).addr off) b }
  | _ => s

/-! ## Transfers (R101, R102, R312) -/

/-- A row cut at the granules of the addresses that start at `g`. -/
def cutRow : Nat → Nat → Nat → Nat → Nat → Nat → List Piece
  | 0, _, _, _, _, _ => []
  | k + 1, g, pos, l, o, n =>
    if n = 0 then []
    else
      let m := Nat.min n (16 - g % 16)
      { pos := pos, loc := l, off := o, n := m } :: cutRow k (g + m) (pos + m) (l + m) (o + m) (n - m)

/-- A row of a copy, cut at the granules of its destination. -/
def rowPieces (base : Nat) (put : Bool) (pos l o n : Nat) : List Piece :=
  cutRow (n / 16 + 2) (if put then base + o else l) pos l o n

/-- Where a transfer stopped: status, detail and bytes done. -/
abbrev EngFail := Option (Nat × Nat × Nat)

/-- The local address of the first poisoned granule among at most 16 bytes. -/
def State.locBad (s : State) (a n : Nat) : Option Nat :=
  if s.locPoison a 1 then some a
  else if a / 16 ≠ (a + n - 1) / 16 ∧ s.locPoison (a + n - 1) 1 then some ((a + n - 1) / 16 * 16)
  else none

/-- One piece moved between local memory and an extent (R101, R109), or its failure: status and detail. -/
def State.movePiece (s : State) (c : Cmd) (e : Extent) (put fe : Bool) (p : Piece) : Except (Nat × Nat) State :=
  if put then
    match s.locBad p.loc p.n with
    | some l => .error (stMemErr, l)
    | none =>
      match s.farFails c e p.off p.n true with
      | some st => .error (st, if st = stOwner then (e.base + p.off) % 2 ^ 56 else p.off)
      | none => .ok (s.farWrite c e p.off (s.rdLoc p.loc p.n) (if fe then some (s.isFull (s.locAddr p.loc / 16)) else none))
  else
    match s.farFails2 c e p.off p.n false with
    | some f => .error (f.1, if f.1 = stOwner then (e.base + f.2) % 2 ^ 56 else f.2)
    | none =>
      let r := s.farRead c e p.off p.n
      let s1 := (match regionOf s.part ((e.base + p.off) % 2 ^ 56) with | .host w _ => s.winLoad (s.dieOf c.squad) c.ptag w | _ => s).wrLoc p.loc r.1
      .ok (if fe then (match r.2 with | some f => s1.setFullAt (s.locAddr p.loc) f | none => s1) else s1)

/-- The bytes of a pattern at device addresses from `a` on (R111). -/
def patternAt (x : Word) (a n : Nat) : List Byte := (List.range n).map (fun i => x.extractLsb' (8 * ((a + i) % 8)) 8)

/-- The state that CFILL sets a granule to. -/
def markBit : FillMark → Option Bool
  | .keep => none
  | .empty => some false
  | .full => some true

/-- One piece of a command moved, or its failure (R109-R112). -/
def State.moveOf (s : State) (c : Cmd) (p : Piece) : Except (Nat × Nat) State :=
  let x := c.desc.getD 4 0
  match c.op, c.ext with
  | .cpy put fe, some e => s.movePiece c e put fe p
  | .cpyx put fe, some e => s.movePiece c e put fe p
  | .gath, some e => s.movePiece c e false false p
  | .scat, some e => s.movePiece c e true false p
  | .cpyc, _ =>
    match s.locBad p.off p.n with
    | some l => .error (stMemErr, l)
    | none => .ok (s.wrLoc p.loc (s.rdLoc p.off p.n))
  | .cfill false m, _ =>
    let t := s.wrLoc p.loc (patternAt x p.loc p.n)
    .ok (match markBit m with | none => t | some f => t.setFullAt (t.locAddr p.loc) f)
  | .cfill true m, some e =>
    match s.farFails c e p.off p.n true with
    | some st => .error (st, if st = stOwner then (e.base + p.off) % 2 ^ 56 else p.off)
    | none => .ok (s.farWrite c e p.off (patternAt x (e.base + p.off) p.n) (markBit m))
  | _, _ => .ok s

/-- The index list of a gather or scatter: value `i`. -/
def State.indexAt (s : State) (c : Cmd) (i : Nat) : Nat := ofBytes (s.rdLoc (c.w 3 + 4 * i) 4)

/-- Rows of a command. -/
def Cmd.rowCount (c : Cmd) : Nat :=
  match c.op with
  | .cpy _ _ | .cpyx _ _ => c.shape.rows
  | .gath | .scat => c.w 4 / 2 ^ 32 % 2 ^ 16
  | .cpyc | .cfill _ _ => 1
  | _ => 0

/-- The ranges of a CPYC share a byte, so that its pieces have an order (R110). -/
def Cmd.overlaps (c : Cmd) : Bool :=
  c.op == .cpyc && decide (c.w 1 < c.w 2 + c.w 3 % 2 ^ 27) && decide (c.w 2 < c.w 1 + c.w 3 % 2 ^ 27)

/-- The pieces of row `i` in the order of the transfer, or the failure of the row: status, detail and place (R109-R112). Overlapping ranges of a
CPYC are copied from the end on which no source byte is written before it is read. -/
def State.cutOf (s : State) (c : Cmd) (i : Nat) : Except (Nat × Nat × Nat) (List Piece) :=
  let z := c.shape
  let base := match c.ext with | some e => e.base | none => 0
  match c.op with
  | .cpy put _ | .cpyx put _ => .ok (rowPieces base put (i * z.rowb) (z.loc + i * z.lstr) (z.off + i * z.xstr) z.rowb)
  | .cpyc =>
    let n := c.w 3 % 2 ^ 27
    let ps := cutRow (n / 16 + 2) (c.w 1) 0 (c.w 1) (c.w 2) n
    .ok (if c.overlaps && decide (c.w 2 < c.w 1) then ps.reverse else ps)
  | .cfill x _ => .ok (if x then rowPieces base true 0 0 (c.w 2) (c.w 3) else cutRow (c.w 3 / 16 + 2) (c.w 1) 0 (c.w 1) 0 (c.w 3))
  | .gath | .scat =>
    let rowb := c.w 4 % 2 ^ 16
    if s.locPoison (c.w 3 + 4 * i) 4 then .error (stMemErr, c.w 3 + 4 * i, i * rowb)
    else
      let o := s.indexAt c i * rowb + c.w 5
      if c.ext.any (fun e => decide (e.len < o + rowb)) then .error (stRange, i, i * rowb)
      else .ok (rowPieces base (c.op == .scat) (i * rowb) (c.w 1 + i * rowb) o rowb)
  | _ => .ok []

/-- Main-memory lines that a run of bytes covers whole lose their poison (R53). -/
def State.wholeLines (s : State) (a n : Nat) : State :=
  if a < 2 ^ 48 then
    (List.range (n / 128 + 1)).foldl (fun t i =>
      let l := (a + 127) / 128 * 128 + 128 * i
      if l + 128 ≤ a + n then t.setPoison l false else t) s
  else s

/-- A command writes its extent. -/
def EngOp.writesFar : EngOp → Bool
  | .cpy put _ | .cpyx put _ => put
  | .cfill x _ => x
  | .scat => true
  | _ => false

/-- Bytes at an offset of the extent have been written: lines covered whole lose their poison (R53). -/
def State.farWhole (s : State) (c : Cmd) (o n : Nat) : State :=
  match c.ext with
  | some e => if c.op.writesFar then s.wholeLines (e.base + o) n else s
  | none => s

/-- The run of bytes of the extent that pieces write. -/
def State.rowWhole (s : State) (c : Cmd) : List Piece → State
  | [] => s
  | p :: r => s.farWhole c p.off (((p :: r).map Piece.n).sum)

/-- One line of main memory, or one tile, that a transfer needs: whether it may be accessed now. -/
def State.farUnit (s : State) (c : Cmd) (wr : Bool) (a : Nat) : Bool × State :=
  match regionOf s.part a with
  | .main => if s.refused46 c.ptag a || (wr && s.sealedAt a 1) then (true, s) else s.homeReady (a / 128 * 128) wr
  | .tile q t _ =>
    if (s.tileRefused c.ptag c.tenid q t).isSome then (true, s)
    else if ((s.squad q).tile t).st == .resident then (true, s) else (false, s.forceFetch q t)
  | _ => (true, s)

/-- Every unit of the far side that a piece needs may be accessed now; else the state in which that has been furthered. -/
def State.pieceReady (s : State) (c : Cmd) (p : Piece) : Bool × State :=
  match c.ext, c.op with
  | none, _ => (true, s)
  | some _, .cpyc => (true, s)
  | some e, op =>
    let a := (e.base + p.off) % 2 ^ 56
    let b := (e.base + p.off + p.n - 1) % 2 ^ 56
    let r := s.farUnit c op.writesFar a
    if !r.1 || a / 16 == b / 16 then r else r.2.farUnit c op.writesFar b

/-- Changes the rows and pieces of a command that are still to be moved. -/
def State.setLeft (s : State) (id row : Nat) (ps : List Piece) : State := s.modCmd id (fun k => { k with row := row, left := ps })

/-- A piece of a command has been moved; with the last of its row the lines that the row covers lose their poison (R53). -/
def State.moved (s : State) (c : Cmd) (p : Piece) : State :=
  let rest := c.left.filter (fun x => x != p)
  let t := s.setLeft c.id c.row rest
  if rest.isEmpty then
    match s.cutOf c (c.row - 1) with
    | .ok ps => t.rowWhole c ps
    | .error _ => t
  else t

/-- A piece holds the place of the transfer at which the host's access fails, if there is one (R389). -/
def Piece.hit (bad : Option Nat) (p : Piece) : Bool := bad.any (fun b => decide (p.pos ≤ b) && decide (b < p.pos + p.n))

/-- How far a transfer has come: every access is performed, one has to wait, or one fails. -/
inductive Moved where
  | all (s : State)
  | wait (s : State)
  | fail (s : State) (status detail bytes : Nat)

/-- The accesses of a command that are left, granule by granule in the order of the transfer, up to one that waits or fails; `bad` is the place at
which an access to host memory fails. -/
def runData (id : Nat) (bad : Option Nat) : Nat → State → Moved
  | 0, s => .wait s
  | n + 1, s =>
    match s.cmd? id with
    | none => .wait s
    | some c =>
      match c.left with
      | [] =>
        if c.rowCount ≤ c.row then .all s
        else
          match s.cutOf c c.row with
          | .error f => .fail s f.1 f.2.1 f.2.2
          | .ok ps => runData id bad n (s.setLeft id (c.row + 1) ps)
      | p :: _ =>
        let w := s.pieceReady c p
        if !w.1 then .wait w.2
        else
          match (if p.hit bad then .error (stMemErr, p.off) else w.2.moveOf c p) with
          | .ok t => runData id bad n (t.moved c p)
          | .error f =>
            let d := if (c.op = .gath ∨ c.op = .scat) then p.pos / Nat.max (c.w 4 % 2 ^ 16) 1 else f.2
            let b := c.left.foldl (fun m x => Nat.min m x.pos) p.pos
            .fail w.2 f.1 d (if c.op = .gath ∨ c.op = .scat then d * (c.w 4 % 2 ^ 16) else b)

/-- Steps that the whole transfer of a command takes at most. -/
def Cmd.steps (c : Cmd) : Nat := c.requested + 2 * c.rowCount + 2

/-- Some piece of the row under way, in the order that the device chooses (R102), or the next row cut. A piece that would fail is left to
ENGINE_ACCESS_FAILURE. -/
def State.moveSome (s : State) (c : Cmd) : State :=
  match c.left with
  | [] =>
    if c.rowCount ≤ c.row then s
    else (match s.cutOf c c.row with | .error _ => s | .ok ps => s.setLeft c.id (c.row + 1) ps)
  | l =>
    let o := if c.overlaps then (0, s) else s.choose l.length
    match l[o.1]? with
    | none => o.2
    | some p =>
      let w := o.2.pieceReady c p
      if !w.1 then w.2 else (match w.2.moveOf c p with | .ok t => t.moved c p | .error _ => w.2)

/-- Pieces after a failure, each of which may or may not have been moved, as the device chooses (R102, R104). -/
def State.strayPieces (s : State) (c : Cmd) : List Piece → State
  | [] => s
  | p :: r =>
    let o := s.choose 2
    let w := o.2.pieceReady c p
    let t := if o.1 = 0 || !w.1 then o.2 else (match w.2.moveOf c p with | .error _ => o.2 | .ok u => u)
    t.strayPieces c r

/-- The rows from row `i` on after a failure; none of a CPYC whose pieces have an order. -/
def State.strayRows (s : State) (c : Cmd) : Nat → Nat → State
  | _, 0 => s
  | i, n + 1 => (match s.cutOf c i with | .ok ps => s.strayPieces c ps | .error _ => s).strayRows c (i + 1) n

/-- What may have been moved when an access has failed: the rest of its row, and the rows after it. What has been written before it counts as
written. -/
def State.strayRest (s : State) (c : Cmd) : State :=
  match c.left with
  | [] => s.strayRows c (c.row + 1) (c.rowCount - c.row - 1)
  | p :: r =>
    let done := (match s.cutOf c (c.row - 1) with | .ok ps => ps.takeWhile (fun x => x != p) | .error _ => [])
    let t := s.rowWhole c done
    (if c.overlaps then t else t.strayPieces c r).strayRows c c.row (c.rowCount - c.row)

/-! ## What a transfer waits for -/

/-- An address in each line of a range. -/
def linesIn (a n : Nat) : List Nat :=
  if n = 0 then [] else (List.range ((a % 128 + n + 127) / 128)).map (fun i => if i = 0 then a else a / 128 * 128 + 128 * i)

/-- The lines of a range of the extent, each of which may be accessed now. -/
def State.farReady (s : State) (c : Cmd) (wr : Bool) : List Nat → Bool × State
  | [] => (true, s)
  | a :: r =>
    let x := s.farUnit c wr a
    if x.1 then x.2.farReady c wr r else x

/-- Every local tile of a command is resident; those that are not are fetched. -/
def State.localReady (s : State) (c : Cmd) : Bool × State :=
  if s.allResident c.squad c.holds then (true, s) else (false, c.holds.foldl (fun u t => u.forceFetch c.squad t) s)

/-! ## Remote extents (R328, R407-R409) -/

/-- The parts of a remote transfer, one packet each: at most 4,096 bytes, and 512 when full/empty bits travel with them. -/
def chunks (lim : Nat) : Nat → Nat → Nat → Nat → Nat → List Piece
  | 0, _, _, _, _ => []
  | k + 1, pos, l, o, n =>
    if n = 0 then []
    else
      let m := Nat.min n lim
      { pos := pos, loc := l, off := o, n := m } :: chunks lim k (pos + m) (l + m) (o + m) (n - m)

/-- The parts of a remote command, and where its checks row by row stop it: status, detail and place. -/
def State.remoteParts (s : State) (c : Cmd) (e : Extent) : List Piece × EngFail :=
  let z := c.shape
  match c.op with
  | .cpy _ fe | .cpyx _ fe =>
    let lim := if fe then 512 else 4096
    ((List.range z.rows).flatMap (fun r => chunks lim (z.rowb / lim + 1) (r * z.rowb) (z.loc + r * z.lstr) (z.off + r * z.xstr) z.rowb), none)
  | .cfill _ m =>
    let lim := if m = .keep then 4096 else 512
    (chunks lim (c.w 3 / lim + 1) 0 0 (c.w 2) (c.w 3), none)
  | .gath | .scat =>
    let rowb := c.w 4 % 2 ^ 16
    let rows := c.w 4 / 2 ^ 32 % 2 ^ 16
    let stop (i : Nat) : EngFail :=
      if s.locPoison (c.w 3 + 4 * i) 4 then some (stMemErr, c.w 3 + 4 * i, i * rowb)
      else if e.len < s.indexAt c i * rowb + c.w 5 + rowb then some (stRange, i, i * rowb)
      else none
    let k := ((List.range rows).takeWhile (fun i => (stop i).isNone)).length
    ((List.range k).map (fun i => { pos := i * rowb, loc := c.w 1 + i * rowb, off := s.indexAt c i * rowb + c.w 5, n := rowb }),
      if k < rows then stop k else none)
  | _ => ([], none)

/-- Full/empty bits of up to 32 granules of local memory, as bits. -/
def State.locBits (s : State) (a n : Nat) : Nat := ofBools ((List.range (n / 16)).map (fun i => s.isFull (s.locAddr (a + 16 * i) / 16)))

/-- The packet of a part. `operand` 1 marks full/empty bits, that stand in `rank`; in a READ `rank` is the number of bytes (log 20). -/
def State.partPacket (s : State) (c : Cmd) (e : Extent) (p : Piece) : Packet :=
  let b : Packet := { Packet.blank with dst := e.node, part := c.ptag, key := e.key, addr := (e.base + p.off) % 2 ^ 56 }
  match c.op with
  | .cpy true fe | .cpyx true fe =>
    { b with kind := pkWrite, data := s.rdLoc p.loc p.n, operand := if fe then 1 else 0, rank := if fe then s.locBits p.loc p.n else 0 }
  | .cfill _ m =>
    { b with kind := pkWrite, data := patternAt (c.desc.getD 4 0) (e.base + p.off) p.n, operand := if m = .keep then 0 else 1,
             rank := match m with | .full => 2 ^ (p.n / 16) - 1 | _ => 0 }
  | .scat => { b with kind := pkWrite, data := s.rdLoc p.loc p.n }
  | .cpy false fe | .cpyx false fe => { b with kind := pkRead, rank := p.n, operand := if fe then 1 else 0 }
  | _ => { b with kind := pkRead, rank := p.n }

/-- The first part of a write that reads poisoned local memory: the parts before it, and the failure. -/
def State.cutPoison (s : State) (c : Cmd) : List Piece → List Piece × EngFail
  | [] => ([], none)
  | p :: r =>
    match (if c.op.writesFar && p.loc != 0 then List.find? (fun i => s.locPoison (p.loc + i) 1) (List.range p.n) else none) with
    | some i => ([], some (stMemErr, if c.op = .scat then p.pos / Nat.max p.n 1 else p.loc + i, p.pos))
    | none =>
      let x := s.cutPoison c r
      (p :: x.1, x.2)

/-- A remote command makes its packets and sends what its budget lets through. -/
def State.makeRemote (s : State) (c : Cmd) (e : Extent) : State :=
  let r := s.remoteParts c e
  let x := s.cutPoison c r.1
  let ps := x.1
  let f := match x.2 with | some f => some f | none => r.2
  let t := s.modCmd c.id (fun k => { k with
    made := true, todo := ps.map (fun p => (p.pos, p.n, s.partPacket c e p)), bad := f.map (fun z => (z.1, z.2.2)),
    detail := match f with | some z => BitVec.ofNat 32 z.2.1 | none => k.detail })
  t.sendWaiting c.id

/-- Bytes of a transfer whose answers have come without a gap from its start. -/
def gotUpTo (l : List (Nat × Nat × List Byte × BitVec 32)) : Nat → Nat → Nat
  | 0, b => b
  | k + 1, b =>
    match List.find? (fun (x : Nat × Nat × List Byte × BitVec 32) => x.1 == b && x.2.1 != 0) l with
    | some x => gotUpTo l k (b + x.2.1)
    | none => b

/-- The local address of a place of a transfer. -/
def Cmd.locOf (c : Cmd) (pos : Nat) : Nat :=
  let z := c.shape
  match c.op with
  | .cpy _ _ | .cpyx _ _ => z.loc + pos / Nat.max z.rowb 1 * z.lstr + pos % Nat.max z.rowb 1
  | _ => c.w 1 + pos

/-- The data of a remote read written to local memory. -/
def State.landRemote (s : State) (c : Cmd) : State :=
  let n := gotUpTo c.got c.got.length 0
  c.got.foldl (fun t x =>
    if x.1 < n ∧ x.2.2.1 ≠ [] then
      let a := c.locOf x.1
      let t1 := t.wrLoc a x.2.2.1
      let fe := match c.op with | .cpy _ fe => fe | .cpyx _ fe => fe | _ => false
      if fe then (List.range (x.2.1 / 16)).foldl (fun u i => u.setFullAt (u.locAddr (a + 16 * i)) (x.2.2.2.getLsbD i)) t1 else t1
    else t) s

/-- A remote command with every packet answered goes to COMPLETING. -/
def State.endRemote (s : State) (c : Cmd) : State :=
  if c.todo.isEmpty && c.pend.isEmpty && c.made then
    let n := gotUpTo c.got c.got.length 0
    let t := if c.op.writesFar then s else s.landRemote c
    match c.bad with
    | some (st, _) => t.endCmd c.id st n (decide (n < c.requested)) c.detail.toNat
    | none => t.endCmd c.id stOk c.requested false 0
  else s

/-! ## Completion (R105, R107, R108) -/

/-- The FEMARK of issue has been performed (R96). -/
def State.femarkDone (s : State) (c : Cmd) : Bool := c.fem == 0 || !s.chans.any (fun p => p.2.hq.any (fun r => r.seq == c.fem))

/-- Word 0 of the completion object. -/
def Cmd.word0 (c : Cmd) : Nat := packFields [(16, c.status), (8, c.op.engine), (1, c.part.toNat), (1, c.orphan.toNat)]

/-- The completion object: words 0 and 1, then 2 and 3. -/
def Cmd.object (c : Cmd) : List Word :=
  [BitVec.ofNat 64 (c.word0 + 2 ^ 32 * c.cseq.toNat), BitVec.ofNat 64 (Nat.min c.bytes (2 ^ 32 - 1) + 2 ^ 32 * c.detail.toNat)]

/-- The write of the completion object: done, refused, or not yet possible. -/
inductive CoAns where
  | done (s : State)
  | refused
  | wait (s : State)

/-- Step 2 of R107. A tile that is not resident is fetched first (R83). -/
def State.writeObject (s : State) (c : Cmd) : CoAns :=
  if c.ca = 0 then .done s
  else
    match regionOf s.part c.ca with
    | .main =>
      if s.refused46 c.ptag c.ca || s.sealedAt c.ca 16 then .refused
      else
        let r := s.homeReady c.ca true
        if r.1 then .done (r.2.putGranule c.key c.ca c.object) else .wait r.2
    | .tile q t b =>
      if (s.tileRefused c.ptag c.tenid q t).isSome then .refused
      else
        let e := (s.squad q).tile t
        if e.st = .resident then
          let v := e.base q + b
          let s1 := { (s.touch q t) with mem := wrBytes s.mem v (c.object.flatMap (fun (x : Word) => toBytes 8 x.toNat)) }
          .done (((s1.setPoison v false).setFull (v / 16) true).serveTile q (v / 16))
        else .wait (s.forceFetch q t)
    | _ => .refused

/-- The handle and the generation of a collective command (R416). -/
def Cmd.groupOf (c : Cmd) : Nat × Nat := match c.op with | .cgrp => (c.w 1 % 256, c.w 4) | _ => (c.w 1 % 256, c.w 1 / 2 ^ 16 % 2 ^ 16)

/-- A record of a kind about a command, with its detail. -/
def State.cmdRecord (s : State) (c : Cmd) (kind : Nat) (t : Word) : State :=
  s.reportIn c.ptag c.rcb kind 0 c.status c.tenid.toNat (BitVec.ofNat 64 c.ca) t c.ctxtag.toNat c.core

/-- The records of a completion: an orphan that did not end OK (R108), a refused object (R107), a collective that failed (R416). -/
def State.completionRecords (s : State) (c : Cmd) (refused : Bool) : State :=
  let s1 := if c.orphan && c.status != stOk then s.cmdRecord c 2 (c.detail.setWidth 64) else s
  let s2 := if refused then s1.cmdRecord c 7 (c.detail.setWidth 64) else s1
  if (c.op = .coll ∨ c.op = .cgrp) ∧ c.status ≠ stOk then
    s2.cmdRecord c 6 (BitVec.ofNat 64 (c.detail.toNat + 2 ^ 32 * c.groupOf.1 + 2 ^ 48 * c.groupOf.2))
  else s2

/-- COMPLETING: the object is written and set full, g[d] is filled, `cp` falls, the entry is free and the tiles are released (R104). -/
def State.finishCmd (s : State) (c : Cmd) : State :=
  if !s.femarkDone c then s
  else
    let close (t : State) (refused : Bool) : State :=
      let x : Word := BitVec.ofNat 64 (2 ^ 32 * c.cseq.toNat + c.word0)
      let t1 := t.onCtx c.cid (fun k => { (if c.d = 0 then k else k.setG c.d x) with cp := k.cp - 1 })
      ((t1.dropCmd c.squad c.id).releaseTiles c.squad c.holds).completionRecords c refused
    match s.writeObject c with
    | .wait t => t
    | .done t => close t false
    | .refused => close s true

/-- ENGINE_COMPLETE of a data command: the accesses that are left are performed as far as none waits or fails, and then the completion. -/
def State.completeData (s : State) (c : Cmd) : State :=
  let finish (t : State) : State :=
    match t.cmd? c.id with
    | some k => if k.st = .completing then t.finishCmd k else t
    | none => t
  match c.st with
  | .accepted => s
  | .completing => s.finishCmd c
  | .running =>
    let l := s.localReady c
    match c.ext.filter (fun e => e.node != 0) with
    | some e => if c.made then finish (s.endRemote c) else if l.1 then s.makeRemote c e else l.2
    | none =>
      if !l.1 then l.2
      else
        match runData c.id none c.steps s with
        | .wait t => t
        | .fail t _ _ _ => t
        | .all t => finish ((t.touchAll c.squad c.holds).endCmd c.id stOk c.requested false 0)

/-- ENGINE_START of a data command that is RUNNING: it goes on by one piece. -/
def State.furtherData (s : State) (c : Cmd) : State :=
  let l := s.localReady c
  if c.st ≠ .running ∨ c.ext.any (fun e => e.node != 0) then s else if !l.1 then l.2 else s.moveSome c

/-- ENGINE_ACCESS_FAILURE of a data command: the accesses before the first that fails are performed, and the command is COMPLETING with its
status (R102, R104). An access to host memory may fail by a completion error of the host (R389), at a place that the host chooses. -/
def State.failData (s : State) (c : Cmd) : State :=
  if c.st ≠ .running ∨ (c.ext.any (fun e => e.node != 0)) then s
  else
    let l := s.localReady c
    if !l.1 then l.2
    else
      let host := c.ext.any (fun e => decide (0x10 ≤ e.base / 2 ^ 48) && decide (e.base / 2 ^ 48 ≤ 0x17)) && decide (0 < c.requested)
      let end_ (m : Moved) : State :=
        match m with
        | .fail t st d b => (((match t.cmd? c.id with | some k => t.strayRest k | none => t).touchAll c.squad c.holds).endCmd c.id st b
            (decide (b < c.requested)) d)
        | .wait t => t
        | .all _ => s
      match runData c.id none c.steps s with
      | .all _ =>
        if host then
          let o := s.choose c.requested
          end_ (runData c.id (some o.1) c.steps o.2)
        else s
      | m => end_ m

end Sys2Proof.Machine
end

