-- ==== Sys2Proof/Machine/Collective.lean ====
section
/-!
DEFINITION. The Rally engine (R114-R117, R410-R417): CGRP and its JOINs, the ring steps of COLL, CABT and abort notices; the start and the
end of every engine command (R104).
-/

namespace Sys2Proof.Machine

/-! ## Generations and members -/

/-- A generation is below another, in generations that wrap (R115). -/
def genBelow (x y : BitVec 16) : Bool := x != y && decide ((y - x).toNat < 2 ^ 15)

/-- The deadline of a group in ns (R115, R412). -/
def Group.deadline (g : Group) : Nat := (if g.dline = 0 then 2000 else g.dline) * 1000

/-- The node number of a rank. -/
def Group.node (g : Group) (r : Nat) : Nat := g.nodes.getD (r % Nat.max g.members 1) 0

/-- The neighbours of a rank in the ring. -/
def Group.next (g : Group) : Nat := (g.rank + 1) % Nat.max g.members 1
/-- The rank before. -/
def Group.prev (g : Group) : Nat := (g.rank + g.members - 1) % Nat.max g.members 1

/-- The lowest-numbered UP port whose peer is a node (R412). -/
def State.ringPort (s : State) (node : Nat) : Option Nat :=
  List.find? (fun p => s.linkUp p && (s.link p).pnode == node) (List.range s.part.links)

/-- The header of a packet of a group. -/
def Group.packet (g : Group) (part gid kind dst : Nat) : Packet :=
  { Packet.blank with dst := dst, kind := kind, part := part, group := gid, gen := g.gen, rank := g.rank }

/-- A notice to every other member (R414): an ABORT with the sender's rank and status. -/
def State.notices (s : State) (part gid status : Nat) : State :=
  let g := s.group part gid
  (g.nodes.filter (fun n => n != s.fab.node)).foldl
    (fun t n => t.sendOne { g.packet part gid pkAbort n with operand := BitVec.ofNat 32 status }) s

/-- A packet of an older generation is discarded and counted (R404, R411). -/
def State.stalePacket (s : State) (part gid via : Nat) : State :=
  (s.modGroup part gid (fun g => { g with stale := satInc g.stale })).linkDiscard via

/-- A packet that flits have brought is taken up (R405, R406). -/
def State.takeUp (s : State) (p : Packet) : State := { s with fab := { s.fab with arrived := s.fab.arrived.erase p } }
/-- A packet that has been taken up has to wait. -/
def State.waitHere (s : State) (p : Packet) : State := { s with fab := { s.fab with arrived := p :: s.fab.arrived } }

/-- A packet arrives (R406): one for another node is forwarded, one that no route serves or of a reserved kind is discarded and counted, and the rest
is for this device. -/
def State.arriving (s0 : State) (p : Packet) (f : State → State) : State :=
  let s := s0.takeUp p
  if p.dst ≠ s.fab.node ∨ s.fab.node = 0 then
    match s.routeOf p.dst with
    | some q => s.transmit (some q) p
    | none => s.linkDiscard p.via
  else if 9 < p.kind then s.linkDiscard p.via
  else f s

/-- A packet of a group arrives for the paired local partition (R407). -/
def State.groupPacket (s : State) (p : Packet) (f : State → Nat → State) : State :=
  s.arriving p (fun s => match s.paired p.src p.part with
    | some lp => f s lp
    | none => s.linkDiscard p.via)

/-! ## The end of collective commands (R414, R417) -/

/-- A COLL that runs ends with a status other than OK, with notices or without (R414). -/
def State.collFail (s : State) (part gid : Nat) (r : CollRun) (status detail : Nat) (notify : Bool) : State :=
  let s1 := (s.endCmd r.id status 0 true detail).modGroup part gid (fun g => { g with
    st := .broken, bstat := status, brank := detail, colls := g.colls.filter (fun x => x.id != r.id) })
  if notify then s1.notices part gid status else s1

/-- Every COLL that runs on a group ends. -/
def State.collsFail (s : State) (part gid status detail : Nat) (notify : Bool) : State :=
  (s.group part gid).colls.foldl (fun t r => t.collFail part gid r status detail notify) s

/-- A CGRP ends with a status other than OK: the entry is LOST, and a kept ABORT is discarded (R115, R412, R414). -/
def State.cgrpFail (s : State) (part gid id status detail : Nat) : State :=
  (s.endCmd id status 0 false detail).modGroup part gid (fun g => { g with st := .lost, cmd := none, begun := false, abortKept := none })

/-- Every JOIN has arrived and the own ones have left: the entry is FORMED and CGRP ends OK; a kept ABORT breaks it at once (R407, R412, R414). -/
def State.cgrpDone (s : State) (part gid : Nat) : State :=
  let g := s.group part gid
  match g.cmd with
  | some id =>
    if g.begun && (List.range g.members).all (fun i => g.joined.contains i) && ((s.cmd? id).map Cmd.todo).getD [] == [] then
      (s.endCmd id stOk 0 false g.gen.toNat).modGroup part gid (fun g =>
        match g.abortKept with
        | some r => { g with st := .broken, bstat := stAbortR, brank := r, cmd := none, begun := false, abortKept := none }
        | none => { g with st := .formed, cmd := none, begun := false })
    else s
  | none => s

/-! ## CGRP (R115, R412) -/

/-- A JOIN counts (R412): of the current generation and the same list, within the deadline. -/
def State.countJoin (s : State) (part gid : Nat) (p : Packet) (t : Nat) : State :=
  let g := s.group part gid
  match List.find? (fun i => g.node i == p.src) (List.range g.members) with
  | some i =>
    if p.operand = g.lcrc ∧ t < g.t0 + g.deadline then
      (s.modGroup part gid (fun g => { g with joined := insNat i g.joined })).cgrpDone part gid
    else s
  | none => s

/-- The packets held for the generation that the CGRP has reached (R412, R414): JOINs count, an ABORT is kept; those of higher ones stay,
and those older than the deadline are dropped. -/
def State.takeHeld (s : State) (part gid : Nat) : State :=
  let g := s.group part gid
  let mine := g.heldPk.filter (fun x => x.1.gen == g.gen && decide (s.clk < x.2 + g.deadline))
  let s1 := s.modGroup part gid (fun g => { g with heldPk := g.heldPk.filter (fun x => genBelow g.gen x.1.gen) })
  mine.foldl (fun t x =>
    if x.1.kind = pkAbort then t.modGroup part gid (fun g => if g.st = .forming then { g with abortKept := some (g.abortKept.getD x.1.rank) } else g)
    else t.countJoin part gid x.1 t.clk) s1

/-- CGRP with its member list at hand: the rest of its checks, then a JOIN to every member, as the budget lets them leave (R115, R407, R412). On a device whose own node number is
still 0, which no list entry names, check 3 fails (DESIGN CHOICE, log 84). -/
def State.cgrpBegin (s : State) (c : Cmd) : State :=
  let gid := c.w 1 % 256
  let g := s.group c.ptag gid
  let n := 4 * g.members
  if g.cmd ≠ some c.id ∨ g.begun then s
  else
    match List.find? (fun (p : Piece) => s.locPoison p.loc 1) (cutRow (n / 16 + 2) (c.w 2) 0 (c.w 2) 0 n) with
    | some p => s.cgrpFail c.ptag gid c.id stMemErr p.loc
    | none =>
      let b := s.rdLoc (c.w 2) n
      let nodes := (List.range g.members).map (fun i => ofBytes (slice b (4 * i) 4))
      let g1 : Group := { g with nodes := nodes, lcrc := crc32 b, list := c.w 2 }
      let s1 := s.modGroup c.ptag gid (fun _ => g1)
      if nodes.getD g.rank 0 ≠ s.fab.node ∨ s.fab.node = 0 then s1.cgrpFail c.ptag gid c.id stFormat 0
      else
        match s1.ringPort (g1.node g1.next), s1.ringPort (g1.node g1.prev) with
        | none, _ => s1.cgrpFail c.ptag gid c.id stLinkDown g1.next
        | some _, none => s1.cgrpFail c.ptag gid c.id stLinkDown g1.prev
        | some o, some i =>
          let s2 := s1.modGroup c.ptag gid (fun g => { g with outPort := o, inPort := i, begun := true, t0 := s.clk, joined := [g.rank] })
          let js := (nodes.filter (fun m => m != s.fab.node)).map (fun m => (0, 0, { g1.packet c.ptag gid pkJoin m with operand := g1.lcrc }))
          let s3 := (s2.modCmd c.id (fun k => { k with todo := js })).sendWaiting c.id
          (s3.takeHeld c.ptag gid).cgrpDone c.ptag gid

/-- CGRP leaves ACCEPTED (R115). -/
def State.cgrpStart (s : State) (c : Cmd) : State :=
  let gid := c.w 1 % 256
  let m := c.w 3 % 2 ^ 16
  if (s.group c.ptag gid).cmd ≠ some c.id then s
  else if c.w 1 / 256 ≠ 0 ∨ m < 2 ∨ 1024 < m ∨ m ≤ c.w 3 / 2 ^ 16 % 2 ^ 16 ∨ 1000000 < c.w 3 / 2 ^ 32 then
    s.cgrpFail c.ptag gid c.id stFormat 0
  else if 2 ^ 56 ≤ c.w 2 ∨ (s.localRefused c.squad c.ptag c.tenid (c.w 2) (4 * m)).isSome then
    s.cgrpFail c.ptag gid c.id stOwner (c.w 2)
  else
    let ts := tilesOf (c.w 2) (4 * m)
    let s1 := (s.holdTiles c.squad ts).modCmd c.id (fun k => { k with st := .running, holds := ts, t0 := s.clk })
    if s1.allResident c.squad ts then s1.cgrpBegin c else s1

/-! ## COLL (R114, R159, R413) -/

/-- The operation word of a COLL: count, op, type, kind and root. -/
structure CollOp where
  count : Nat
  op : Nat
  ty : Nat
  kind : Nat
  root : Nat
  deriving DecidableEq, Repr

/-- The fields of g[s+3]. -/
def Cmd.collOp (c : Cmd) : CollOp :=
  { count := c.w 3 % 2 ^ 24, op := c.w 3 / 2 ^ 24 % 16, ty := c.w 3 / 2 ^ 28 % 16, kind := c.w 3 / 2 ^ 32 % 16, root := c.w 3 / 2 ^ 36 % 2 ^ 12 }

/-- Reserved bits and values of a COLL (R114 check 1). -/
def Cmd.collMalformed (c : Cmd) : Bool :=
  let o := c.collOp
  c.w 1 / 256 % 256 != 0 || c.w 1 / 2 ^ 32 != 0 || c.w 3 / 2 ^ 48 != 0 || o.count == 0 || decide (2 < o.op) || decide (2 < o.ty) ||
  decide (3 < o.kind) || (o.kind != 3 && o.root != 0)

/-- Steps of a collective (R413): reduce-scatter, allgather and broadcast take N - 1, allreduce twice as many. -/
def CollOp.steps (o : CollOp) (n : Nat) : Nat := if o.kind = 0 then 2 * (n - 1) else n - 1

/-- The elements of chunk `k`, as a first index and a number (R159). -/
def CollOp.chunk (o : CollOp) (n k : Nat) : Nat × Nat := (k * o.count / n, (k + 1) * o.count / n - k * o.count / n)

/-- What rank `r` sends and receives in step `j`, as elements (R413). -/
def CollOp.plan (o : CollOp) (n r j : Nat) : Option (Nat × Nat) × Option (Nat × Nat) :=
  let m (x : Int) : Nat := (x % (n : Int)).toNat
  let ri : Int := r
  if o.kind = 3 then
    (if r = m (o.root + j - 1) then some (0, o.count) else none, if r = m (o.root + j) then some (0, o.count) else none)
  else if o.kind = 2 ∨ (o.kind = 0 ∧ n ≤ j) then
    let k : Int := if o.kind = 0 then (j : Int) - (n - 1) else j
    (some (o.chunk n (m (ri - k + 1))), some (o.chunk n (m (ri - k))))
  else (some (o.chunk n (m (ri - j))), some (o.chunk n (m (ri - 1 - j))))

/-- Step `j` reduces. -/
def CollOp.reduces (o : CollOp) (n j : Nat) : Bool := o.kind == 1 || (o.kind == 0 && decide (j < n))

/-- One element combined (R114, R159): the partial first, the own value second. -/
def CollOp.combine (o : CollOp) (x y : BitVec 32) : BitVec 32 :=
  if o.ty = 2 then
    (match o.op with
      | 0 => x + y
      | 1 => if x.toInt ≥ y.toInt then x else y
      | _ => if x.toInt ≤ y.toInt then x else y)
  else
    let f := fmtOf (if o.ty = 1 then .bf16 else .f32)
    BitVec.ofNat 32 (match o.op with
      | 0 => (f.add .rne x.toNat y.toNat).1
      | 1 => (f.minmax true x.toNat y.toNat).1
      | _ => (f.minmax false x.toNat y.toNat).1)

/-- Elements as bytes. -/
def CollOp.bytes (o : CollOp) (l : List (BitVec 32)) : List Byte := l.flatMap (fun x => toBytes (collSize o.ty) x.toNat)
/-- `n` elements from bytes. -/
def CollOp.elems (o : CollOp) (b : List Byte) (n : Nat) : List (BitVec 32) :=
  (List.range n).map (fun i => BitVec.ofNat 32 (ofBytes (slice b (collSize o.ty * i) (collSize o.ty))))

/-- A list with elements from `i` on replaced. -/
def replaceAt (l : List (BitVec 32)) (i : Nat) (v : List (BitVec 32)) : List (BitVec 32) := l.take i ++ v ++ l.drop (i + v.length)

/-- The run of a command in its group. -/
def Group.run? (g : Group) (id : Nat) : Option CollRun := List.find? (fun (r : CollRun) => r.id == id) g.colls
/-- Changes a run. -/
def State.modRun (s : State) (part gid id : Nat) (f : CollRun → CollRun) : State :=
  s.modGroup part gid (fun g => { g with colls := g.colls.map (fun r => if r.id == id then f r else r) })

/-- A COLL ends OK: the final values are written, of all elements or of the own chunk (R114, R417). -/
def State.collOk (s : State) (c : Cmd) (r : CollRun) : State :=
  let gid := c.w 1 % 256
  let g := s.group c.ptag gid
  let o := c.collOp
  let z := if o.kind = 1 then o.chunk g.members g.rank else (0, o.count)
  let v := ((if o.kind = 1 then r.acc else r.res).drop z.1).take z.2
  let s1 := (s.wrLoc (c.w 2 + collSize o.ty * z.1) (o.bytes v)).touchAll c.squad c.holds
  (s1.endCmd c.id stOk (o.count * collSize o.ty) false 0).modGroup c.ptag gid (fun g => { g with colls := g.colls.filter (fun x => x.id != c.id) })

/-- Flits of a step that the budget of the period lets through, and the data once all have passed (R407). -/
def State.collSend (s : State) (c : Cmd) (r : CollRun) : State :=
  if r.owed = 0 then s
  else
    let gid := c.w 1 % 256
    let g := s.group c.ptag gid
    let o := c.collOp
    let u := s.fab.used.getD 0 c.account
    let k := Nat.min r.owed (s.fbytesOf c - u)
    let s1 := ({ s with fab := { s.fab with used := s.fab.used.put c.account (u + k) } } : State).modRun c.ptag gid c.id
      (fun r => { r with owed := r.owed - k })
    if k < r.owed then s1
    else
      match (o.plan g.members g.rank r.step).1 with
      | none => s1
      | some z =>
        let v := ((if o.reduces g.members r.step then r.acc else r.res).drop z.1).take z.2
        (s1.sendPacket (some g.outPort) false { g.packet c.ptag gid pkColl (g.node g.next) with
          addr := r.step, operand := BitVec.ofNat 32 r.idx, params := c.desc.getD 3 0, data := o.bytes v }).1

/-- The data of the step under way taken from a message (R413): the reduction, or the values; then it is acknowledged. A message that shows
other parameters ends the command (R114). -/
def State.collTake (s : State) (c : Cmd) (r : CollRun) (p : Packet) : State :=
  let gid := c.w 1 % 256
  let g := s.group c.ptag gid
  let o := c.collOp
  if p.params ≠ c.desc.getD 3 0 then s.collFail c.ptag gid r stFormat p.rank true
  else
    match (o.plan g.members g.rank r.step).2 with
    | none => s
    | some z =>
      let v := o.elems p.data z.2
      let red := o.reduces g.members r.step
      let own := (r.x.drop z.1).take z.2
      let s1 := s.modRun c.ptag gid c.id (fun r =>
        if red then { r with got := true, acc := replaceAt r.acc z.1 (List.zipWith o.combine v own) }
        else { r with got := true, res := replaceAt r.res z.1 v })
      (s1.sendPacket (some g.inPort) false { g.packet c.ptag gid pkWriteAck p.src with addr := r.step, operand := BitVec.ofNat 32 r.idx }).1

/-- An armed link fault takes its port down (R186, R404): FAILED, and every COLL that uses it as a ring port ends LINK_DOWN. -/
def State.portFails (s : State) (port : Nat) : State :=
  let s1 := s.modLink port (fun k => { k with st := .failed })
  let hit := s1.fab.groups.filter (fun x => x.2.outPort == port || x.2.inPort == port)
  let s2 := hit.foldl (fun t x =>
    let part := x.1 / 256
    let gid := x.1 % 256
    let g := t.group part gid
    if g.colls = [] then t
    else t.collsFail part gid stLinkDown (if g.outPort = port then g.next else g.prev) true) s1
  s2.resendAll

/-- A message for a step of a run. -/
def CollRun.wants (r : CollRun) (g : Group) (p : Packet) : Bool :=
  p.gen == g.gen && p.operand == BitVec.ofNat 32 r.idx && p.addr % 2 ^ 32 == r.step && r.step != 0 && !r.got

/-- The step of a run starts, and those after it as long as nothing is to be waited for (R413): an armed fault fires, a ring port that is
down ends the command, the data leaves, and a message that has come early is taken. -/
def State.collStep (c : Cmd) : Nat → State → State
  | 0, s => s
  | k + 1, s =>
    let gid := c.w 1 % 256
    let g := s.group c.ptag gid
    let o := c.collOp
    match g.run? c.id with
    | none => s
    | some r =>
      if !(r.got && r.acked) then s
      else if o.steps g.members ≤ r.step then s.collOk c r
      else
        let j := r.step + 1
        let hit := s.fij.extractLsb' 0 4 == 1 && fld s.fij 47 32 == j && (fld s.fij 23 16 == g.outPort || fld s.fij 23 16 == g.inPort)
        let s1 := if hit then ({ s with fij := s.fij &&& ~~~0xF#64 } : State).portFails (fld s.fij 23 16) else s
        match (s1.group c.ptag gid).run? c.id with
        | none => s1
        | some _ =>
          if !s1.linkUp g.outPort then s1.collFail c.ptag gid r stLinkDown g.next true
          else if !s1.linkUp g.inPort then s1.collFail c.ptag gid r stLinkDown g.prev true
          else
            let pl := o.plan g.members g.rank j
            let z := o.chunk g.members g.rank
            let owed := match pl.1 with | some z => flitsOf (z.2 * collSize o.ty) | none => 0
            let s2 := s1.modRun c.ptag gid c.id (fun r => { r with
              step := j, got := pl.2.isNone, acked := pl.1.isNone, owed := owed, t0 := s.clk,
              res := if o.kind = 0 ∧ j = g.members then replaceAt r.res z.1 ((r.acc.drop z.1).take z.2) else r.res })
            let s3 := match (s2.group c.ptag gid).run? c.id with | some r => s2.collSend c r | none => s2
            let s4 := match (s3.group c.ptag gid).run? c.id with
              | none => s3
              | some r =>
                match takeFirst (fun p => r.wants g p) (s3.group c.ptag gid).inbox with
                | some (p, rest) => (s3.modGroup c.ptag gid (fun g => { g with inbox := rest })).collTake c r p
                | none => s3
            State.collStep c k s4

/-- Steps may be started until the command waits or ends. -/
def State.collGo (s : State) (c : Cmd) : State := State.collStep c 2048 s

/-- The buffer is at hand: its elements go to the staging memory, and step 1 starts. -/
def State.collBegin (s : State) (c : Cmd) : State :=
  let gid := c.w 1 % 256
  let o := c.collOp
  let n := o.count * collSize o.ty
  match (s.group c.ptag gid).run? c.id with
  | none => s
  | some r =>
    if r.step ≠ 0 ∨ r.x ≠ [] then s
    else
      match List.find? (fun (p : Piece) => s.locPoison p.loc 1) (cutRow (n / 16 + 2) (c.w 2) 0 (c.w 2) 0 n) with
      | some p =>
        (s.endCmd c.id stMemErr 0 true p.loc).modGroup c.ptag gid (fun g => { g with colls := g.colls.filter (fun x => x.id != c.id) })
      | none =>
        let x := o.elems (s.rdLoc (c.w 2) n) o.count
        (s.modRun c.ptag gid c.id (fun r => { r with x := x, acc := x, res := x, got := true, acked := true })).collGo c

/-- COLL leaves ACCEPTED (R114); on a generation that is FORMING it waits. -/
def State.collStart (s : State) (c : Cmd) : State :=
  let gid := c.w 1 % 256
  let g := s.group c.ptag gid
  let o := c.collOp
  let stop (st detail : Nat) : State := s.endCmd c.id st 0 true detail
  if c.collMalformed then stop stFormat 0
  else if c.w 1 / 2 ^ 16 % 2 ^ 16 ≠ g.gen.toNat then stop stGroup g.rank
  else
    match g.st with
    | .forming => s
    | .none | .lost => stop stGroup g.rank
    | .broken => stop g.bstat g.brank
    | .formed =>
      if ((o.kind = 1 ∨ o.kind = 2) ∧ o.count % g.members ≠ 0) ∨ g.members ≤ o.root then stop stFormat 0
      else
        match s.localFail c with
        | some l => stop stOwner l
        | none =>
          let ts := c.tiles
          let s1 := (s.holdTiles c.squad ts).modCmd c.id (fun k => { k with st := .running, holds := ts, t0 := s.clk })
          let s2 := s1.modGroup c.ptag gid (fun g => { g with
            colls := g.colls ++ [{ id := c.id, idx := g.ncoll, step := 0, got := false, acked := false, owed := 0, t0 := s.clk, x := [],
                                   acc := [], res := [] }],
            ncoll := g.ncoll + 1 })
          if s2.allResident c.squad ts then s2.collBegin c else s2

/-! ## CABT (R116) -/

/-- CABT leaves ACCEPTED: the COLLs of the group end ABORTED_LOCAL and every member hears of it. While the current generation is FORMING and its
CGRP has not read the member list, no member is known: no notice leaves and the CABT ends OK (DESIGN CHOICE, log 84). -/
def State.cabtStart (s : State) (c : Cmd) : State :=
  let gid := c.w 1 % 256
  let g := s.group c.ptag gid
  if c.w 1 / 256 % 256 ≠ 0 ∨ c.w 1 / 2 ^ 32 ≠ 0 then s.endCmd c.id stFormat 0 false 0
  else if c.w 1 / 2 ^ 16 % 2 ^ 16 ≠ g.gen.toNat then s.endCmd c.id stGroup 0 false g.rank
  else
    let s1 := (s.collsFail c.ptag gid stAbortL g.rank false).notices c.ptag gid stAbortL
    s1.endCmd c.id stOk 0 false g.colls.length

/-! ## Start and end of every engine command (R104) -/

/-- A command that runs goes on as far as it can: one of the Rally engine reads its list or its buffer once the tiles are resident. -/
def State.rallyOn (s : State) (c : Cmd) : State :=
  if !s.allResident c.squad c.holds then c.holds.foldl (fun u t => u.forceFetch c.squad t) s
  else
    match c.op with
    | .cgrp => s.cgrpBegin c
    | .coll => s.collBegin c
    | _ => s

/-- ENGINE_START: a command with no older conflict is checked and starts (R104). -/
def execEngineStart (id : Nat) (s : State) : Res :=
  .next (match s.cmd? id with
    | none => s
    | some c =>
      match c.op, c.st with
      | .matrix _, _ => s
      | _, .completing => s
      | _, .running => if c.op.engine = 2 then s.rallyOn c else s.furtherData c
      | o, .accepted =>
        if s.blocked c.squad id then s
        else
          match o with
          | .coll => s.collStart c
          | .cgrp => s.cgrpStart c
          | .cabt => s.cabtStart c
          | _ => s.startData c)

/-- ENGINE_ACCESS_FAILURE: an access of a running command fails (R104). -/
def execEngineAccessFailure (id : Nat) (s : State) : Res :=
  .next (match s.cmd? id with
    | none => s
    | some c => if c.op.engine = 2 then s else s.failData c)

/-- ENGINE_COMPLETE: the command ends (R104, R107). -/
def execEngineComplete (id : Nat) (s : State) : Res :=
  .next (match s.cmd? id with
    | none => s
    | some c =>
      match c.op with
      | .matrix _ => s
      | _ =>
        if c.op.engine = 2 && c.st == .running then s.rallyOn c else s.completeData c)

/-- The entry leaves every extent cache, and its invalidation has begun (R100). -/
def State.extentGone (s : State) (entry : Nat) : State :=
  { s with
    squads := s.squads.map (fun (p : Nat × SquadSt) =>
      (p.1, { p.2 with xcache := p.2.xcache.filter (fun (x : Nat × List Word) => x.1 != entry) })),
    invalidating := insNat entry s.invalidating }

/-- The invalidation completes once no command holds the old entry (R100). -/
def State.extentDone (s : State) (entry : Nat) : State :=
  let now := extentOf (s.extentWords entry)
  let old (c : Cmd) : Bool := c.xent == some entry && c.ext != now
  if s.squads.any (fun p => p.2.cmds.any old) then s else { s with invalidating := delNat entry s.invalidating }

/-! ## Packets of groups (R412-R415) -/

/-- JOIN_PACKET: counted, held or discarded (R412). It is answered as an ATOMIC on the membership counter (R410). -/
def execJoinPacket (p : Packet) (s : State) : Res :=
  .next (s.groupPacket p (fun s lp =>
    let g := s.group lp p.group
    let ack (t : State) : State :=
      (t.sendOne { Packet.blank with dst := p.src, kind := pkAtomicReply, part := lp, group := p.group, gen := p.gen,
                                     addr := p.pseq.toNat, operand := BitVec.ofNat 32 g.joined.length })
    if genBelow p.gen g.gen then ack (s.stalePacket lp p.group p.via)
    else if p.gen ≠ g.gen ∨ (g.cmd.isSome ∧ !g.begun) then
      ack (s.modGroup lp p.group (fun g => { g with heldPk := g.heldPk ++ [(p, s.clk)] }))
    else if g.begun then ack (s.countJoin lp p.group p s.clk)
    else ack s))

/-- JOIN_HOLD_EXPIRY: packets held as long as the deadline are dropped (R412, R414). -/
def execJoinHoldExpiry (part group : Nat) (s : State) : Res :=
  .next (s.modGroup part group (fun g => { g with heldPk := g.heldPk.filter (fun x => decide (s.clk < x.2 + g.deadline)) }))

/-- CGRP_DEADLINE: a member has not joined in time (R115, R412). -/
def execCgrpDeadline (part group : Nat) (s : State) : Res :=
  .next (
    let g := s.group part group
    match g.cmd with
    | some id =>
      if g.begun && decide (g.t0 + g.deadline ≤ s.clk) then
        s.cgrpFail part group id stLost ((List.find? (fun i => !g.joined.contains i) (List.range g.members)).getD g.rank)
      else s
    | none => s)

/-- COLL_DATA: the data of a ring step arrives (R413). -/
def execCollData (p : Packet) (s : State) : Res :=
  .next (s.groupPacket p (fun s lp =>
    let g := s.group lp p.group
    if genBelow p.gen g.gen then s.stalePacket lp p.group p.via
    else
      match List.find? (fun (r : CollRun) => r.wants g p && r.x != []) g.colls with
      | some r =>
        (match s.cmd? r.id with
          | some c => (s.collTake c r p).collGo c
          | none => s)
      | none => s.modGroup lp p.group (fun g => { g with inbox := g.inbox ++ [p] })))

/-- COLL_STEP_ACK: the data sent in the step under way is acknowledged; the next step starts, or the COLL ends (R413). -/
def execCollStepAck (id : Nat) (s : State) : Res :=
  .next (match s.cmd? id with
    | none => s
    | some c =>
      let gid := c.w 1 % 256
      match (s.group c.ptag gid).run? id with
      | none => s
      | some r =>
        if r.step = 0 ∨ r.owed ≠ 0 then s
        else (s.modRun c.ptag gid id (fun r => { r with acked := true })).collGo c)

/-- COLL_STEP_TIMEOUT: a wait of the step reaches the deadline (R413, R414, R117). -/
def execCollStepTimeout (id : Nat) (s : State) : Res :=
  .next (match s.cmd? id with
    | none => s
    | some c =>
      let gid := c.w 1 % 256
      let g := s.group c.ptag gid
      match g.run? id with
      | none => s
      | some r =>
        if r.step ≠ 0 ∧ !(r.got && r.acked) ∧ r.t0 + g.deadline ≤ s.clk then
          s.collFail c.ptag gid r stTimeout (if r.got then g.next else g.prev) true
        else s)

/-- ABORT: a notice arrives (R414, R415). -/
def execAbort (p : Packet) (s : State) : Res :=
  .next (s.groupPacket p (fun s lp =>
    let g := s.group lp p.group
    if genBelow p.gen g.gen then s.stalePacket lp p.group p.via
    else if p.gen ≠ g.gen then s.modGroup lp p.group (fun g => { g with heldPk := g.heldPk ++ [(p, s.clk)] })
    else
      match g.st with
      | .forming => s.modGroup lp p.group (fun g => { g with abortKept := some (g.abortKept.getD p.rank) })
      | .formed =>
        if g.colls = [] then s.modGroup lp p.group (fun g => { g with st := .broken, bstat := stAbortR, brank := p.rank })
        else s.collsFail lp p.group stAbortR p.rank false
      | .broken => if g.colls = [] then s else s.collsFail lp p.group stAbortR p.rank false
      | _ => s))

end Sys2Proof.Machine
end

