-- ==== Sys2Proof/Machine/Instances.lean ====
section
/-!
DEFINITION. The records of play instances (R345), the end of an instance, and what a context leaves behind when it ends (R69, R108, R186,
R262, R291).
-/

namespace Sys2Proof.Machine

/-- The granule of a record (R345): status, instance number, delay and stage, 32 bits each. -/
def launchWords (status k delay stage : Nat) : List Word :=
  [BitVec.ofNat 64 (status % 2 ^ 32 + k % 2 ^ 32 * 2 ^ 32), BitVec.ofNat 64 (Nat.min delay (2 ^ 32 - 1) + stage % 2 ^ 32 * 2 ^ 32)]

/-- A record written under the key slot of the play's RCB, set full, and its wait list served (R345). -/
def State.playRecord (s : State) (rcb at_ status k delay stage : Nat) : State :=
  s.putGranule (s.rcbEff rcb).key (at_ % 2 ^ 56 / 16 * 16) (launchWords status k delay stage)

/-- A record written where its home accepts a write (R46, R345, R377). -/
def State.launchWrite (s : State) (part rcb at_ status k delay stage : Nat) : State :=
  let a := at_ % 2 ^ 56 / 16 * 16
  if regionOf s.part a != .main || s.refused46 part a || s.sealedAt a 16 then s else s.playRecord rcb at_ status k delay stage

/-- The end record of an instance, if it has one (R345): in the form of the launch record, with its release time. -/
def State.endRecord (s : State) (i : PlayInst) : State :=
  if i.drec = 0 then s else s.launchWrite i.part i.rcb i.drec 0x0010 i.k i.relT 0

/-- Changes a play instance. -/
def State.modInst (s : State) (n : Nat) (f : PlayInst → PlayInst) : State :=
  { s with kick := { s.kick with insts := s.kick.insts.map (fun i => if i.n == n then f i else i) } }

/-- A play instance leaves the kickoff. -/
def State.dropInst (s : State) (n : Nat) : State := { s with kick := { s.kick with insts := s.kick.insts.filter (fun i => i.n != n) } }

/-- A play instance. -/
def State.inst? (s : State) (n : Nat) : Option PlayInst := List.find? (fun (i : PlayInst) => i.n == n && n != 0) s.kick.insts

/-- A context of a play instance has ended. With the last one the end record is written (R345). -/
def State.instLess (s : State) (n : Nat) : State :=
  match s.inst? n with
  | none => s
  | some i =>
    if i.alive > 1 ∨ i.released = false then s.modInst n (fun i => { i with alive := i.alive - 1 })
    else (s.dropInst n).endRecord i

/-- A core holds a live context in slots 0-14. -/
def State.coreBusy (s : State) (core : Nat) : Bool := s.ctxs.any (fun c => c.core == core && decide (c.slot < 15))

/-- The bank group of a core without a live context enters retention, unless a hold keeps it powered (R69, R292). -/
def State.retire (s : State) (core : Nat) : State :=
  if s.part.isBarrel core && !s.coreBusy core && (s.core core).retain.isNone then s.modCore core (fun k => { k with retention := true }) else s

/-- Engine commands of a context that has ended are orphans (R108), an armed fault of it is disarmed (R186), and its play instance counts it
out. -/
def State.forget (s : State) (cid inst : Nat) : State :=
  let s1 := if s.fijBy = cid then { s with fij := s.fij &&& ~~~0xF#64, fijBy := 0 } else s
  let s2 := { s1 with squads := s1.squads.map (fun (p : Nat × SquadSt) =>
    (p.1, { p.2 with cmds := p.2.cmds.map (fun (c : Cmd) => if c.cid == cid then { c with orphan := true } else c) })) }
  s2.instLess inst

/-- The counters `ld` and `st` that an area holds are 0. -/
def State.areaQuiet (s : State) (area : Nat) : Bool := (s.rdWord 0 (area + 0xA38) &&& 0x3F3F#64) == 0

/-- A saved context that RETT has ended ends once its `ld` and `st` are 0; its area is no longer valid (R302, R303, R306). -/
def State.reapSaved (s : State) : State :=
  s.saved.foldl (fun t p =>
    if p.2.wait == Wait.ending && t.areaQuiet p.1 then
      { (t.patchArea p.1 0xA28 (toBytes 8 (t.rdWord 0 (p.1 + 0xA28) &&& 0x00FFFFFFFFFFFFFF#64).toNat)) with
        saved := t.saved.erase p.1 }.forget p.2.cid p.2.inst
    else t) s

/-- Messages discarded: their allowance units return to their senders (R271). -/
def State.discard (s : State) (ms : List Msg) : State :=
  { s with allowances := s.allowances ++ ms.map (fun m => (m.core, m.slot, m.strm)) }

/-- The messages held by the inbound streams of a slot. -/
def Ctx.heldMsgs (c : Ctx) : List Msg := c.streams.toList.flatMap (fun t => t.inn.msgs)

/-- A context ends (R291): its slot is free and may be claimed, an away thread's anchor too (R262). -/
def State.endContext (s : State) (c : Ctx) : State :=
  let away := c.anchorMode == .away
  let a := if away then s.at? c.anchorCore c.anchorSlot else none
  let s1 := (s.vacate c.core c.slot).discard ((a.getD c).heldMsgs)
  let s2 := (if away then (s1.vacate c.anchorCore c.anchorSlot).retire c.anchorCore else s1).retire c.core
  s2.forget c.cid c.inst

end Sys2Proof.Machine
end

