-- ==== Sys2Proof/Machine/Messages.lean ====
section
/-!
DEFINITION. Streams, channels, register fills and the huddle barrier (R270-R275): SEND, QBIND, QSTAT, HBAR, HWAIT, HSTAT, and the
arrival of stream messages, fills, bind requests, their replies and allowance units.
-/

namespace Sys2Proof.Machine

/-! ## SEND (R272) -/

/-- `n` registers from `x` on, read in order. -/
def readRun : Reg → Nat → Op (List Word)
  | _, 0 => pure []
  | x, n + 1 => do
    let y ← readG x
    let r ← readRun (x + 1) n
    pure (y :: r)

/-- SEND: a message of `t` words on a stream, or a register fill of `t` in the slot that g[d] selects. -/
def execSend (d sr t : Reg) (s0 : State) : Res :=
  issueOp (do
    gate [d, sr]
    if isPort d then do
      let ws ← readRun sr t.toNat
      sendPort (portOf d) ws
    else do
      let v ← readG sr
      let sel ← readG d
      illegalIf (fld sel 63 20 != 0 || fld sel 19 16 == 15)
      let s ← getS
      trapIf (!s.part.hasCore (fld sel 15 0)) .notPresent 0 5
      roomSt 1
      modS (fun s =>
        let m : FillMsg :=
          { core := fld sel 15 0, slot := fld sel 19 16, x := t, val := v, sender := s.me.cid, fromCore := s.me.core,
            fromSlot := s.me.slot, tenid := s.me.tenid, addr := sel, pc := s.me.pc }
        { (s.modMe (fun c => { c with st := c.st + 1 })) with fills := s.fills ++ [m] })) s0

/-! ## QBIND and QSTAT (R271, R273) -/

/-- A descriptor that QBIND does not take (R271). -/
def badBind (bq : Bool) (core : Nat) (x : Word) : Bool :=
  let kind := fld x 3 0
  let allow := fld x 23 20
  let wlim := fld x 19 16
  fld x 63 48 != 0 || fld x 27 26 != 0 || fld x 15 4 != 0 || decide (kind > 2) ||
  (kind == 2 && (allow == 0 || decide (wlim > 8))) ||
  (kind == 1 && (allow != 0 || wlim != 0 || fld x 31 28 == 15 ||
    (bq && (fld x 47 32 != core || fld x 25 24 != 0))))

/-- Kind 0: both halves unbound. -/
def State.unbind (s : State) (k : Fin 4) : State :=
  (s.discard s.me.streams[k].inn.msgs).modMe (fun c => { c with streams := c.streams.set k StreamSt.unbound })

/-- Kind 2: the inbound half bound. -/
def Ctx.bindIn (c : Ctx) (k : Fin 4) (allow wlim : Nat) : Ctx :=
  let t := c.streams[k]
  { c with streams := c.streams.set k { t with inn := { t.inn with bound := true, allow := allow, wlim := if wlim = 0 then 8 else wlim } } }

/-- QBIND. Binding the inbound half of `bq`, which it does not have, has no effect. -/
def execQbind (d sr : Reg) (s0 : State) : Res :=
  issueOp (do
    let bq := d == 60
    let k := portOf d
    let ill : Op Word := do
      let x ← readG sr
      illegalIf (badBind bq s0.me.core x)
      pure x
    illegalFirst (needUnit 3) (ill *> pure ())
    let x ← ill
    let kind := fld x 3 0
    if bq then do
      let s ← getS
      -- the named slot is empty, or belongs to another tenant
      trapIf (kind == 1 && !((s.at? s.me.core (fld x 31 28)).any (fun c => c.tenid == s.me.tenid))) .port 0 (portInfo true 0 2)
      modS (fun s =>
        if kind = 0 then s.modMe (fun c => { c with bq := { c.bq with bound := false, slot := 0 } })
        else if kind = 1 then s.modMe (fun c => { c with bq := { c.bq with bound := true, slot := fld x 31 28 } })
        else s)
    else if kind = 0 then modS (fun s => s.unbind k)
    else if kind = 2 then modS (fun s => s.modMe (fun c => c.bindIn k (fld x 23 20) (fld x 19 16)))
    else do
      let s ← getS
      let m : BindMsg :=
        { cid := s.me.cid, k := k, core := fld x 47 32, slot := fld x 31 28, pstrm := fld x 25 24, tenid := s.me.tenid, pc := s.me.pc,
          npc := s.me.npc, seq := s0.nextReq, pops := popsOf [sr], reply := none }
      goOp { (s0.modMe (fun c => ({ c with wait := .bind s0.nextReq } : Ctx).bubble)) with
        binds := s0.binds ++ [m], nextReq := s0.nextReq + 1 }) s0

/-- The words that messages hold. -/
def wordsIn (ms : List Msg) : Nat := (ms.map (fun m => m.words.length)).sum

/-- The state of a stream in the layout of R273. -/
def StreamSt.stat (t : StreamSt) : Word :=
  BitVec.ofNat 64 (packFields [(13, wordsIn t.inn.msgs), (5, t.inn.msgs.length), (1, t.inn.bound.toNat), (1, t.out.bound.toNat),
    (4, if t.out.bound then t.out.allow else 0)])

/-- The state of `bq` in the layout of R273. -/
def BqSt.stat (b : BqSt) : Word := BitVec.ofNat 64 (packFields [(13, 0), (5, b.q.length), (1, 0), (1, b.bound.toNat)])

/-- QSTAT: it pops nothing. -/
def execQstat (d sr : Reg) (s0 : State) : Res :=
  issueOp (do
    needUnit 3
    let s ← getS
    writeG d (if sr = 60 then s.me.bq.stat else (s.me.streams[portOf sr]).stat)) s0

/-! ## Arrivals (R270-R272) -/

/-- The saved context of a tenant that a slot held (R272). -/
def State.savedAt (s : State) (core slot : Nat) (tenid : BitVec 16) : Option Ctx :=
  List.find? (fun (c : Ctx) => c.core == core && c.slot == slot && c.tenid == tenid) (s.saved.map Prod.snd)

/-- A message for a saved context enters its tenant's spill queue; none while it is full, or where the tenant has none. -/
def State.spillFor? (s : State) (c : Ctx) (from_ : Nat) (msg : Spilled) : Option State :=
  match s.tenantQueue c.ptag c.tenid.toNat with
  | none => none
  | some q => s.spillPut { block := q.1, n := 0, core := c.core, slot := c.slot, tag := c.ctxtag, msg := msg } (.message msg) from_ q.2

/-- A writer that finds the spill queue of a tenant full is counted (R356). -/
def State.spillForFull (s : State) (c : Ctx) (w : SpillWriter) : State :=
  match s.tenantQueue c.ptag c.tenid.toNat with
  | none => s
  | some q => s.spillFull q.1 w

/-- A stream message reaches its slot: into the inbound half, or discarded where it is unbound. None where the slot holds no context of the
tenant. -/
def State.streamIn (s : State) (m : StreamMsg) : Option State :=
  let kk : Fin 4 := ⟨m.k % 4, Nat.mod_lt _ (by decide)⟩
  ((s.at? m.core m.slot).filter (fun c => c.tenid == m.tenid)).map (fun c =>
    let st := c.streams[kk]
    if st.inn.bound then
      s.place { c with streams := c.streams.set kk { st with inn := { st.inn with msgs := st.inn.msgs ++ [m.msg] } } }
    else s.discard [m.msg])

/-- A stream message that no context takes: its sender traps CONFINE (R263). -/
def State.streamLost (s : State) (m : StreamMsg) : State :=
  (s.discard [m.msg]).lateTrap m.sender .confine m.pc (BitVec.ofNat 64 (m.core + m.slot * 2 ^ 16)) (accInfo 15 9 true)

/-- STREAM_MESSAGE_ARRIVAL: the oldest message in flight to a stream of a slot. A slot without a context of the tenant refuses it, and
the sender traps CONFINE with `why` 9 (R263); an unbound half discards it. -/
def execStreamMessageArrival (core slot k : Nat) (s : State) : Res :=
  .next (match takeFirst (fun (m : StreamMsg) => m.core == core && m.slot == slot && m.k == k) s.streamQ with
    | none => s
    | some (m, rest) =>
      let t := { s with streamQ := rest }
      if (s.core core).diverted then
        (match t.divert? core slot m.msg.core (.stream m) with | some u => u | none => s.divertFull core (.stream m))
      else
        match t.streamIn m with
        | some u => u
        | none =>
          match s.savedAt core slot m.tenid with
          | some c =>
            (match t.spillFor? c m.msg.core (.stream m) with | some u => u | none => s.spillForFull c (.message (.stream m)))
          | none => t.streamLost m)

/-- A fill has been made, or refused: the sender's `st` falls. -/
def State.fillDone (s : State) (m : FillMsg) : State := s.onCtx m.sender (fun c => { c with st := c.st - 1 })

/-- A fill of the register of a context that waits for it: neither pending nor full (R272). -/
def Ctx.takesFill (c : Ctx) (x : Reg) : Bool := !c.gPend.getLsbD x.toNat && !c.gFull.getLsbD x.toNat

/-- The slot to which a fill goes can take it now: its register is empty, or the fill goes elsewhere. -/
def State.fillReady (s : State) (m : FillMsg) : Bool :=
  match (s.at? m.core m.slot).filter (fun c => c.tenid == m.tenid) with
  | some c => c.cid != 0 && c.takesFill m.x
  | none => true

/-- A fill is made in its slot (R272). None where the slot holds no context of the tenant. -/
def State.fillIn (s : State) (m : FillMsg) : Option State :=
  ((s.at? m.core m.slot).filter (fun c => c.tenid == m.tenid)).map (fun c => (s.place (c.setG m.x m.val)).fillDone m)

/-- A fill that no context takes: its sender traps CONFINE, late (R272). -/
def State.fillLost (s : State) (m : FillMsg) : State :=
  (s.fillDone m).lateTrap m.sender .confine m.pc m.addr (accInfo 15 9 true)

/-- REGISTER_FILL: the oldest fill in flight to a slot that can be made (R272). -/
def execRegisterFill (core slot : Nat) (s : State) : Res :=
  .next (match takeFirst (fun (m : FillMsg) => m.core == core && m.slot == slot && ((s.core core).diverted || s.fillReady m)) s.fills with
    | none => s
    | some (m, rest) =>
      let t := { s with fills := rest }
      if (s.core core).diverted then
        (match t.divert? core slot m.fromCore (.fill m) with | some u => u | none => s.divertFull core (.fill m))
      else
        match t.fillIn m with
        | some u => u
        | none =>
          match s.savedAt core slot m.tenid with
          | some c => (match t.spillFor? c m.fromCore (.fill m) with | some u => u | none => s.spillForFull c (.message (.fill m)))
          | none => t.fillLost m)

/-- BIND_REQUEST: the bind request of a context reaches its partner's inbound half, which grants its allowance or refuses (R271). -/
def execBindRequest (cid : Nat) (s : State) : Res :=
  .next (match List.find? (fun (m : BindMsg) => m.cid == cid && m.reply.isNone) s.binds with
    | none => s
    | some m =>
      let answer (t : State) (r : Nat × Nat × Nat) : State :=
        { t with binds := t.binds.map (fun x => if x == m then { x with reply := some r } else x) }
      let kk : Fin 4 := ⟨m.pstrm % 4, Nat.mod_lt _ (by decide)⟩
      match (s.at? m.core m.slot).filter (fun c => c.tenid == m.tenid && c.streams[kk].inn.bound) with
      | none => answer s (0, 0, 2)
      | some c =>
        let st := c.streams[kk]
        if st.inn.granted + st.inn.allow > 16 then answer s (0, 0, 3)
        else
          answer (s.place { c with streams := c.streams.set kk { st with inn := { st.inn with granted := st.inn.granted + st.inn.allow } } })
            (st.inn.allow, st.inn.wlim, 0))

/-- A grant that its sender no longer waits for goes back to the partner's half (log 47). -/
def State.ungrant (s : State) (m : BindMsg) (allow : Nat) : State :=
  let kk : Fin 4 := ⟨m.pstrm % 4, Nat.mod_lt _ (by decide)⟩
  match (s.at? m.core m.slot).filter (fun c => c.tenid == m.tenid) with
  | none => s
  | some c =>
    let st := c.streams[kk]
    s.place { c with streams := c.streams.set kk { st with inn := { st.inn with granted := st.inn.granted - allow } } }

/-- BIND_REPLY: the reply binds the outbound half and completes QBIND, or traps PORT, precise (R271). A context that was saved before the reply
waits for none: it executes QBIND again (R44). -/
def execBindReply (cid : Nat) (s : State) : Res :=
  .next (match takeFirst (fun (m : BindMsg) => m.cid == cid && m.reply.isSome) s.binds with
    | none => s
    | some (m, rest) =>
      let t0 := { s with binds := rest }
      let waits := (s.byCid cid).any (fun c => c.wait == .bind m.seq)
      let t := if waits then m.pops.foldl (fun u x => u.popQuiet cid x) t0 else t0
      let kk : Fin 4 := ⟨m.k % 4, Nat.mod_lt _ (by decide)⟩
      match m.reply with
      | some (allow, wlim, 0) =>
        if !waits then t.ungrant m allow
        else t.onCtx cid (fun c =>
          let st := c.streams[kk]
          let o : OutHalf := { bound := true, core := m.core, slot := m.slot, pstrm := m.pstrm, allow := allow, wlim := wlim }
          ({ c with streams := c.streams.set kk { st with out := o } } : Ctx).finish m.npc 0)
      | some (_, _, cause) =>
        if !waits then t
        else (t0.onCtx cid (fun c => { c with wait := .none })).postTrap cid (fun c =>
          { cls := .port, slot := c.slot, cid := cid, away := c.isAway, pc := m.pc, addr := 0, info := portInfo false m.k cause,
            late := false, fetch := false, next := m.npc, cyc := s.cyc })
      | none => s)

/-- One unit of allowance for an outbound half, at most 15. -/
def Ctx.addAllow (c : Ctx) (k : Fin 4) : Ctx :=
  let st := c.streams[k]
  if st.out.bound then { c with streams := c.streams.set k { st with out := { st.out with allow := Nat.min 15 (st.out.allow + 1) } } } else c

/-- ALLOWANCE_RETURN: one unit of allowance reaches a stream of its sender, in its slot or in its save area (R270). -/
def execAllowanceReturn (core slot k : Nat) (s : State) : Res :=
  .next (match takeFirst (fun (p : Nat × Nat × Nat) => p == (core, slot, k)) s.allowances with
    | none => s
    | some (_, rest) =>
      let t := { s with allowances := rest }
      let kk : Fin 4 := ⟨k % 4, Nat.mod_lt _ (by decide)⟩
      match s.at? core slot with
      | some c => t.place (c.addAllow kk)
      | none =>
        match List.find? (fun (c : Ctx) => c.core == core && c.slot == slot) (s.saved.map Prod.snd) with
        | some c => t.onCtx c.cid (fun c => c.addAllow kk)
        | none => t)

/-! ## The huddle barrier (R274, R275) -/

/-- A barrier of a squad. -/
def State.barrier (s : State) (q i : Nat) : Barrier := (s.squad q).bars.getD Barrier.reset i
/-- The lead of a core. -/
def Barrier.lead (b : Barrier) (c : Nat) : BitVec 2 := b.leads[c % 8]'(Nat.mod_lt _ (by decide))
/-- Every lead is 0. -/
def Barrier.idle (b : Barrier) : Bool := b.leads.toList.all (fun x => x == 0)

/-- A core of the member mask has arrived; the phase completes when every member has (R274). -/
def Barrier.arrive (b : Barrier) (c : Nat) : Barrier :=
  let l := b.leads.set (c % 8) (b.lead c + 1) (Nat.mod_lt _ (by decide))
  if (List.range 8).all (fun i => !b.mask.getLsbD i || (l.toList.getD i 0) != 0) then
    { b with c := b.c + 1, leads := Vector.ofFn (fun (i : Fin 8) => if b.mask.getLsbD i then l[i] - 1 else l[i]) }
  else { b with leads := l }

/-- HBAR. -/
def execHbar (d sr : Reg) (s0 : State) : Res :=
  issueOp (do
    illegalFirst (needUnit 3) (do
      let x ← readG sr
      illegalIf (fld x 63 16 != 0 || fld x 7 3 != 0))
    let x ← readG sr
    let s ← getS
    let q := s.me.core / 8
    let c := s.me.core % 8
    let i := fld x 2 0
    let m : BitVec 8 := x.extractLsb' 8 8
    let b := s.barrier q i
    illegalIf (fld x 63 16 != 0 || fld x 7 3 != 0 || !m.getLsbD c || (!b.idle && b.mask != m))
    parkUntil (b.lead c != 3)
    let b1 := if b.idle then { b with mask := m } else b
    writeG d (BitVec.setWidth 64 (b1.c + (b1.lead c).setWidth 16))
    modS (fun s => s.modSquad q (fun k => { k with bars := k.bars.put i (b1.arrive c) }))) s0

/-- HWAIT: parks until the phase is complete. -/
def execHwait (sr : Reg) (s0 : State) : Res :=
  issueOp (do
    let ill : Op Word := do
      let x ← readG sr
      illegalIf (fld x 63 32 != 0 || fld x 15 3 != 0)
      pure x
    illegalFirst (needUnit 3) (ill *> pure ())
    let x ← ill
    let s ← getS
    let b := s.barrier (s.me.core / 8) (fld x 2 0)
    parkUntil (decide ((b.c - 1 - x.extractLsb' 16 16).toNat < 2 ^ 15))) s0

/-- HSTAT. -/
def execHstat (d sr : Reg) (s0 : State) : Res :=
  issueOp (do
    let ill : Op Word := do
      let x ← readG sr
      illegalIf (fld x 63 3 != 0)
      pure x
    illegalFirst (needUnit 3) (ill *> pure ())
    let x ← ill
    let s ← getS
    let b := s.barrier (s.me.core / 8) (fld x 2 0)
    writeG d (BitVec.ofNat 64 (packFields ([(16, b.c.toNat), (8, b.mask.toNat)] ++ b.leads.toList.map (fun l => (2, l.toNat)))))) s0

end Sys2Proof.Machine
end

