-- ==== Sys2Proof/Machine/System.lean ====
section
/-!
DEFINITION. The instructions of a context's life (R294-R302): JOIN, DETACH, WAITW, HALT, TRAP, SYSC and RETT, the turn of a parked slot, and
the two turns that find no instruction (R40, R376).
-/

namespace Sys2Proof.Machine

/-! ## JOIN and DETACH (R287, R297) -/

/-- The slot parks in a wait that stands for the instruction, which has changed nothing else (R44). -/
def waitOp {α : Type} (s0 : State) (w : Wait) : Op α := goOp (s0.modMe (fun c => ({ c with wait := w } : Ctx).bubble))

/-- JOIN at `l` by a slot that has a stream (R287). -/
def joinAt (s0 : State) (l : Word) : Op Unit := fun s =>
  let q := squadOf s.me.core
  let k := s.me.slot
  match (s.stream q k).st with
  | .run => waitOp s0 (.joinWait l s.cyc) s
  | .idle => waitOp (s0.modStream q k (fun f => { f with st := .joinWait l, held := true })) (.joinCounted l) s
  | .joinWait m => if m = l then waitOp s0 (.joinCounted l) s else .ok ((), s.modMe (fun c => { c with npc := l, att := false }))

/-- JOIN: on a core that has no stream for the thread it is a plain branch. -/
def execJoin (i : BitVec 10) (p : Pxi) (s0 : State) : Res :=
  let l := branchTo s0.me.pc (immS p 10 i.toNat)
  issueOp (fun s => if s.hasStream s.me then joinAt s0 l s else .ok ((), s.modMe (fun c => { c with npc := l }))) s0

/-- DETACH. -/
def execDetach (s0 : State) : Res := issueOp (modS (fun s => s.modMe (fun c => { c with att := false }))) s0

/-! ## WAITW (R289, R290, R298) -/

/-- WAITW: the slot leaves the rotation and waits for a task of the ring, served as `serveDelivery` says. -/
def execWaitw (sr : Reg) (s0 : State) : Res :=
  issueOp (do
    illegalFirst (needUnit 3) (do
      let x ← readG sr
      illegalIf (fld x 63 4 != 0))
    let x ← readG sr
    let s ← getS
    let q := squadOf s.me.core
    let n := fld x 3 0
    let r := s.ring q n
    illegalIf (fld x 63 4 != 0 || r.tenant == 0 || r.tenant != s.me.tenid || r.sidx != s.me.slot)
    parkUntil s.me.quiet
    goOp ((s0.modRing q n (fun r => { r with waiters := r.waiters ++ [s0.me.cid] })).modMe (fun c =>
      ({ c with wait := .serve q n (popsOf [sr]), att := false } : Ctx).bubble))) s0

/-! ## HALT and TRAP (R291, R292, R299, R300) -/

/-- The core's trap queue holds a record (R352, R299). -/
def CoreSt.hasRecord (k : CoreSt) : Bool := !k.trapQ.isEmpty || k.preempt.isSome || k.spill.isSome

/-- HALT, with the RCB that a retain names. In slot 15 it waits for a record in the trap queue (R299). -/
def haltWith (retain : Option Nat) : Op Unit := fun s =>
  if s.me.slot = 15 then (if (s.core s.me.core).hasRecord then .ok ((), s) else .error .park)
  else if s.me.ld = 0 ∧ s.me.st = 0 then
    let c := s.me
    let s1 := match retain with | some r => s.modCore c.core (fun k => { k with retain := some r }) | none => s
    .error (.go (s1.endContext c))
  else .error .park

/-- HALT. -/
def execHalt (s : State) : Res := issueOp (haltWith none) s

/-- The RCB at g[s] is valid (R299): 256-byte aligned in main memory, and its node carries the tenant of the context. -/
def State.validRcb (s : State) (a : Nat) (tenid : BitVec 16) : Bool :=
  a % 256 == 0 && regionOf s.part a == .main && (s.rcbEff a).tenant == tenid.toNat

/-- HALT.retain: with an RCB that is not valid a plain HALT. -/
def execHaltRetain (sr : Reg) (s0 : State) : Res :=
  issueOp (do
    gate [sr]
    let x ← readG sr
    let s ← getS
    let a := addr56 x
    haltWith (if s.part.isBarrel s.me.core && s.validRcb a s.me.tenid then some a else none)) s0

/-- TRAP. -/
def execTrap (sr : Reg) (s0 : State) : Res :=
  issueOp (do
    gate [sr]
    let x ← readG sr
    trapOp .soft 0 x) s0

/-! ## SYSC (R301, R401) -/

/-- E_BUSY. -/
def eBusy : Word := 0xFFFFFFFFFFFFFFF0#64

/-- The partition's syscall ring has a free entry. A ring whose `lsize` is outside 4-12 has none. -/
def PartSt.sysRoom (p : PartSt) : Bool :=
  decide (4 ≤ p.sysLsize) && decide (p.sysLsize ≤ 12) && decide ((p.sysTail - p.sysHead).toNat < 2 ^ p.sysLsize)

/-- A request appended to the syscall ring of a partition. -/
def State.sysAppend (s : State) (p : Nat) (r : SysReq) : State :=
  let x := s.partn p
  let at_ := x.sysBase + 64 * (x.sysTail.toNat % 2 ^ x.sysLsize)
  let tag := BitVec.ofNat 64 (r.tenid.toNat + 2 ^ 16 * r.ctxtag.toNat)
  (s.unitWords 0 at_ ([BitVec.ofNat 64 r.svc] ++ r.args ++ [tag])).modPartn p (fun x => { x with sysTail := x.sysTail + 1, sys := x.sys ++ [r] })

/-- SYSC. Its wait for room restarts with the instruction. -/
def execSysc (sr : Reg) (s0 : State) : Res :=
  issueOp (do
    gate [sr]
    let x ← readG sr
    illegalIf (fld x 63 16 != 0)
    let args ← readArgs 1 6
    let s ← getS
    parkUntil (s.me.ld == 0 && s.me.st == 0)
    if (s.partn s.me.ptag).sysRoom then
      let c := s.me
      let r : SysReq :=
        { svc := x.toNat, args := args, cid := c.cid, tenid := c.tenid, ctxtag := c.ctxtag, npc := c.npc, xtab := c.eff.xtab,
          xlen := c.eff.xlen }
      goOp ((s.sysAppend c.ptag r).modMe (fun c => ({ c with wait := .syscReply } : Ctx).bubble))
    else
      match s.me.wait with
      | .syscRoom t0 _ =>
        if s.clk < t0 + 1000000 then parkOp
        else do
          writeG 1 eBusy
          writeG 2 0
          modS (fun s => s.modMe (fun c => { c with wait := .none }))
      | _ => waitOp s0 (.syscRoom s.clk (popsOf [sr]))) s0

/-- SYSC_BUSY_TIMEOUT: 1 ms has passed since the slot found the ring full, and it is full still: SYSC ends with E_BUSY, and `g2` is 0 (R301,
R401). -/
def execSyscBusyTimeout (cid : Nat) (s : State) : Res :=
  .next (match s.byCid cid with
    | none => s
    | some c =>
      match c.wait with
      | .syscRoom t0 ps =>
        if s.clk < t0 + 1000000 ∨ (s.partn c.ptag).sysRoom ∨ c.gPend.getLsbD 1 ∨ c.gPend.getLsbD 2 then s
        else
          (ps.foldl (fun t x => t.popQuiet cid x) s).modLive cid (fun c =>
            ((({ c with wait := .none } : Ctx).finish c.npc 0).setG 1 eBusy).setG 2 0)
      | _ => s)

/-! ## RETT (R302, R351, R352) -/

/-- What stands elsewhere for the wait of a slot that goes on at another address, or ends, is withdrawn. -/
def State.dropWait (s : State) (c : Ctx) : State :=
  match c.wait with
  | .listed | .rejected => (s.unlist c.cid).modLive c.cid (fun c => { c with wait := .none })
  | .serve q n _ => (s.modRing q n (fun r => { r with waiters := r.waiters.filter (fun x => x != c.cid) })).modLive c.cid (fun c => { c with wait := .none })
  | .bind _ => { s.modLive c.cid (fun c => { c with wait := .none }) with binds := s.binds.filter (fun m => m.cid != c.cid) }
  | .tile _ _ | .tsync _ _ _ _ | .joinWait _ _ | .joinCounted _ => s.modLive c.cid (fun c => { c with wait := .none })
  | _ => s

/-- Where a trapped context goes on: at its resume point, at the address given, or after the instruction that trapped (R302). -/
def TrapRec.goesTo (r : TrapRec) (act : Nat) (pc tgt : Word) : Word :=
  if act = 1 then tgt else if act = 3 ∧ r.late = false ∧ r.fetch = false then r.next else pc

/-- RETT on the record of a context that is in its slot. -/
def State.rettLive (s : State) (r : TrapRec) (c : Ctx) (act : Nat) (tgt : Word) : State :=
  if act = 2 then
    let s1 := (s.reportIn c.ptag c.rcb 1 r.cls.code 0 c.tenid.toNat r.pc r.addr c.ctxtag.toNat c.core).dropWait c
    if c.ld = 0 ∧ c.st = 0 then s1.endContext c else s1.place { c with wait := .ending, att := false }
  else
    let pc := r.goesTo act c.pc tgt
    (if pc = c.pc then s else s.dropWait c).resumeAt c.core r pc

/-- RETT on the record of a context that is saved: its resume point in the area changes, or it ends there (R306). -/
def State.rettSaved (s : State) (r : TrapRec) (core area : Nat) (act : Nat) (tgt : Word) : State :=
  let b := Tbl.getD s.saved Ctx.fresh area
  let pc := s.rdWord 0 (area + 0xA28) &&& 0x00FFFFFFFFFFFFFF#64
  if act = 2 then
    let s1 := s.reportIn b.ptag b.rcb 1 r.cls.code 0 b.tenid.toNat r.pc r.addr b.ctxtag.toNat core
    { s1 with saved := s1.saved.put area { b with wait := .ending } }.reapSaved
  else s.patchArea area 0xA28 (toBytes 8 (r.goesTo act pc tgt ||| 0x8000000000000000#64).toNat)

/-- RETT on a slot record that has left the queue of its core. The oldest record that the slot holds takes its place; action 2 discards those of
the context (R351). -/
def State.rett (s : State) (core : Nat) (r : TrapRec) (act : Nat) (tgt : Word) : State :=
  let s1 := if act = 2 then s.modCore core (fun k => { k with held := k.held.filter (fun h => h.cid != r.cid) }) else s
  (match (s1.at? core r.slot).filter (fun (c : Ctx) => c.cid == r.cid) with
  | some c => s1.rettLive r c act tgt
  | none =>
    match s1.areaOf r.cid with
    | some a => s1.rettSaved r core a act tgt
    | none => s1).nextHeld core r.slot

/-- RETT: core records are at the head, PREEMPT first, and take action 0 only. -/
def execRett (d sr : Reg) (s0 : State) : Res :=
  issueOp (do
    gate [d, sr]
    let x ← readG sr
    let act := fld x 1 0
    let tgt ← if act = 1 then readG d else pure 0
    let s ← getS
    let core := s.me.core
    let k := s.core core
    illegalIf (fld x 63 2 != 0 || !k.hasRecord || (act != 0 && (k.preempt.isSome || k.spill.isSome)) ||
      (act == 1 && (tgt.getLsbD 0 || fld tgt 63 56 != 0)))
    if k.preempt.isSome then modS (fun s => s.modCore core (fun k => { k with preempt := none }))
    else if k.spill.isSome then modS (fun s => s.modCore core (fun k => { k with spill := none }))
    else
      match k.trapQ with
      | r :: t => modS (fun s => (s.modCore core (fun k => { k with trapQ := t })).rett core r act tgt)
      | [] => pure ()) s0

/-! ## Turns without an instruction -/

/-- The turn of a parked slot: a bubble. A slot that RETT has ended ends once its counters are zero (R302). -/
def State.parkedTurn (s : State) : State :=
  if s.me.wait == Wait.ending && s.me.ld == 0 && s.me.st == 0 then s.endContext s.me else s.modMe Ctx.bubble

/-- ILLEGAL_WORD: the word at the pc does not decode (R40). -/
def execIllegalWord (code : BitVec 8) (idx : BitVec 3) (s : State) : Res :=
  .next (s.takeTrap .illegal 0 (BitVec.ofNat 64 (code.toNat + 256 * idx.toNat)) false)

/-- FETCH_REFUSED: no live text of the tenant holds the word at the pc (R376). -/
def execFetchRefused (s : State) : Res :=
  .next (match s.fetch s.me with
    | .stop c addr info => s.takeTrap c addr info true
    | _ => s)

/-! ## Moves -/

/-- A move of a unit, of the firmware or of a host: a row that is no instruction of Zagyr, nor a turn that finds none. Only a fetch brings a slot
one of those. -/
def isMove (i : Instr) : Bool :=
  (encode i).isNone &&
    (match i with
    | .illegalWord _ _ => false
    | .fetchRefused => false
    | _ => true)

end Sys2Proof.Machine
end

