-- ==== Sys2Proof/Machine/SaveLoad.lean ====
section
/-!
DEFINITION. Contexts saved and loaded by a supervisor (R80, R294, R296, R303-R306, R355, R356, R364): CTXS, CTXL and SLOTX; spill queues
sent again by QDRAIN (R309); audit windows loaded by AUDW (R310). Areas, descriptors and queues are read and written under key slot 0
with firmware rights (R294).
-/

namespace Sys2Proof.Machine

/-! ## Addresses of a supervisor's operands (R294, R377) -/

/-- An address operand in main memory, aligned, of `n` bytes: ALIGN, then CONFINE with `op` 0 for a read and 1 for a write. In any other region
`why` is 6; a reserved selector, or an offset past the end of main memory, is malformed (R9, log 86). -/
def fwAddr (n_align n : Nat) (wr : Bool) (a : Nat) : Op Unit := do
  let op := wr.toNat
  alignTo n_align op a
  let s ← getS
  match regionOf s.part a with
  | .main => if wr && s.sealedAt a n then accTrap .confine op 5 a else pure ()
  | .malformed => accTrap .confine op (if [0x01, 0x02, 0xFF].contains (a / 2 ^ 48 % 256) then 6 else 1) a
  | _ => accTrap .confine op 6 a

/-- A poisoned line among `n` bytes traps MEMERR at its read (R53, R124). -/
def fwClean (a n : Nat) : Op Unit := fun s =>
  if s.anyPoison (linesOf (a / 128 * 128) (a % 128) n) then accTrap .memErr 0 7 a s else .ok ((), s)

/-- The first of `n` lines whose home cannot take a write yet, with the copy of its snapshot page started; or all of them ready (R49, R54). -/
def State.linesGate (s : State) (a : Nat) : Nat → Bool × State
  | 0 => (true, s)
  | n + 1 =>
    let r := s.homeReady a true
    if r.1 then r.2.linesGate (a + 128) n else r

/-- The homes of `n` lines take a write now, or the slot parks. -/
def linesWait (s0 : State) (a n : Nat) : Op Unit := fun s =>
  let r := s.linesGate a n
  if r.1 then .ok ((), r.2) else .error (.go ((s0.linesGate a n).2.modMe Ctx.bubble))

/-! ## Pins of a tenant (R80) -/

/-- The squad of a barrel core that keeps tiles for a tenant. -/
def State.tenantSquad (s : State) (core : Nat) (tenid : BitVec 16) : Option Nat :=
  if s.part.isBarrel core && tenid != 0 then some (squadOf core) else none

/-- A context of a tenant is loaded on a squad, anchors included. -/
def State.tenantOn (s : State) (q : Nat) (tenid : BitVec 16) : Bool :=
  s.ctxs.any (fun c => s.part.isBarrel c.core && squadOf c.core == q && c.tenid == tenid)

/-- The tenant's last context on a squad has been saved: its pins are suspended. -/
def State.suspendPins (s : State) (core : Nat) (tenid : BitVec 16) : State :=
  match s.tenantSquad core tenid with
  | none => s
  | some q =>
    if s.tenantOn q tenid then s
    else
      (s.modSquad q (fun k => { k with tiles := k.tiles.map (fun (p : Nat × TileEnt) =>
        if p.2.owner == tenid.toNat && decide (0 < p.2.pins) then (p.1, { p.2 with sus := true }) else p) })).retryClaims q

/-- The tenant's first context on a squad is about to be loaded: its pins are active again, and each of those tiles that is ABSENT is
fetched; R76's limit of pins is not tested again (DESIGN CHOICE, log 93). -/
def State.resumePins (s : State) (core : Nat) (tenid : BitVec 16) : State :=
  match s.tenantSquad core tenid with
  | none => s
  | some q =>
    if s.tenantOn q tenid then s
    else
      ((s.squad q).tiles.filter (fun (p : Nat × TileEnt) => p.2.owner == tenid.toNat && p.2.sus)).foldl (fun t p =>
        let u := t.modTile q p.1 (fun e => { e with sus := false })
        if p.2.st == .absent then u.startFetch q p.1 else u) s

/-- A hold of HALT.retain ends when a context of the named RCB's subtree is loaded on the core (R292). -/
def State.endRetain (s : State) (core rcb : Nat) : State :=
  match (s.core core).retain with
  | some r => if s.rcbUnder rcb r 8 then s.modCore core (fun k => { k with retain := none }) else s
  | none => s

/-! ## Save (R303) -/

/-- A thread and its anchor as one context at the anchor (R303, R304). -/
def Ctx.atAnchor (t a : Ctx) : Ctx :=
  { t with core := a.core, slot := a.slot, v := a.v, vFull := a.vFull, vPend := a.vPend, vPoison := a.vPoison, k := a.k,
           kPoison := a.kPoison, streams := a.streams, bq := a.bq, audw := a.audw, anchorMode := .here }

/-- What the area of a context records: an anchor word of mode 1 names the place at which it was saved (R296). A reply that is under
way is still waited for there (R301). -/
def Ctx.forArea (c : Ctx) (clk : Nat) : Ctx :=
  let w := match c.wait with | .syscReply | .reply | .ending => c.wait | _ => Wait.none
  let c1 := { c with wait := w, att := false, inHand := none, consumed := 0, loadedAt := clk }
  if c.anchorMode = .saved then c1 else { c1 with anchorCore := c.core, anchorSlot := c.slot }

/-- The context of a slot, as it is saved: a thread that is away together with its anchor, and the vector and mask registers of a thread
with a saved anchor from its own area. None while it is under way. -/
def State.savedForm (s : State) (c : Ctx) : Option (Ctx × Ctx) :=
  let t := match c.wait with | .anchor cid => s.byCid cid | _ => some c
  match t with
  | none => none
  | some t =>
    if t.wait == Wait.moving then none
    else
      match t.anchorMode with
      | .here => some (t, t)
      | .saved => some (t, s.loadVectors t)
      | .away => some (t, match s.at? t.anchorCore t.anchorSlot with | some a => t.atAnchor a | none => t)

/-- The inbound words of a context, each message with its stream. -/
def Ctx.inbound (c : Ctx) : List (Nat × Msg) :=
  (List.range 4).flatMap (fun k => ((c.streams.toList.getD k StreamSt.unbound).inn.msgs).map (fun m => (k, m)))

/-- The inbound words of a context that is saved enter its tenant's spill queue (R296, R356); none while it has no room for them. A context
without a tenant queue keeps them. -/
def State.spillWords (s : State) (c : Ctx) (from_ : Nat) : Option (State × Ctx) :=
  match s.tenantQueue c.ptag c.tenid.toNat with
  | none => some (s, c)
  | some q =>
    let ms := c.inbound
    if ms ≠ [] ∧ !s.spillRoom q.1 ms.length then none
    else
      let t := ms.foldl (fun u p =>
        (u.spillPut { block := q.1, n := 0, core := c.core, slot := c.slot, tag := c.ctxtag, msg := .words p.1 p.2 } (.save c.cid) from_ q.2).getD u) s
      some (t, { c with streams := c.streams.map (fun st => { st with inn := { st.inn with msgs := [] } }) })

/-- A parked request of a context that is saved: its withdrawal sets out to the unit that holds it (R122, R306). -/
def State.withdraw (s : State) (t : Ctx) : State :=
  match t.wait with
  | .listed | .rejected => { s with withdrawn := s.withdrawn ++ [t.cid] }
  | .serve q n _ => s.modRing q n (fun r => { r with waiters := r.waiters.filter (fun x => x != t.cid) })
  | _ => s

/-- The slots of a thread, and of its anchor, are free. -/
def State.leaveSlots (s : State) (t : Ctx) : State :=
  let s1 := s.vacate t.core t.slot
  if t.anchorMode = .away then s1.vacate t.anchorCore t.anchorSlot else s1

/-- The context `c` of thread `t` written to an area; its slots are free. -/
def State.storeCtx (s : State) (t c : Ctx) (area : Nat) : State :=
  let b := c.forArea s.clk
  let s1 := (s.withdraw t).storeArea area b
  let s2 := { s1 with saved := s1.saved.put area b }.leaveSlots t
  (s2.suspendPins t.core t.tenid).suspendPins c.core c.tenid

/-- A save of a slot of the issuing core to an area (R303). -/
def saveOp (s0 : State) (slot area : Nat) : Op Unit := do
  let s ← getS
  match s.at? s.me.core slot with
  | none => illegalIf true
  | some c => do
    fwAddr 128 areaBytes true area
    match s.savedForm c with
    | none => parkOp
    | some (t, b) => do
      linesWait s0 area 24
      let s ← getS
      match s.spillWords b s.me.core with
      | none => goOp ((s0.spillForFull b (.save b.cid)).modMe Ctx.bubble)
      | some r => modS (fun _ => r.1.storeCtx t r.2 area)

/-- CTXS. -/
def execCtxs (d sr : Reg) (s0 : State) : Res :=
  issueOp (do
    gate [d, sr]
    let a ← readG sr
    let k ← readG d
    illegalIf (fld k 63 4 != 0 || fld k 3 0 == 15)
    saveOp s0 (fld k 3 0) (addr56 a)) s0

/-! ## Load (R304) -/

/-- The messages of the tenant's spill queue for a context that has been loaded (R356). -/
def State.redeliver (s : State) (c : Ctx) : State :=
  match s.tenantQueue c.ptag c.tenid.toNat with
  | none => s
  | some q =>
    let mine (e : SpillEnt) : Bool := e.block == q.1 && e.tag == c.ctxtag && (match e.msg with | .thread _ => false | _ => true)
    let es := s.spillQ.filter mine
    if es = [] then s
    else
      es.foldl (fun t e =>
        match e.msg with
        | .stream m => (t.streamIn { m with core := c.core, slot := c.slot }).getD t
        | .words k m =>
          (t.streamIn { core := c.core, slot := c.slot, k := k, msg := m, tenid := c.tenid, sender := 0, pc := 0 }).getD t
        | .fill m =>
          let m1 := { m with core := c.core, slot := c.slot }
          if t.fillReady m1 then (t.fillIn m1).getD t else { t with fills := t.fills ++ [m1] }
        | .thread _ => t) (s.spillTake q.1 mine)

/-- The context of an area placed in a slot; its `valid` is cleared and its anchor word rewritten. -/
def State.loadCtx (s : State) (core slot area : Nat) : State :=
  let old := s.saved.find? area
  let base : Ctx := old.getD { Ctx.fresh with live := true, cid := s.nextCid, save := BitVec.ofNat 64 area }
  let c := s.loadArea area base
  let c1 : Ctx :=
    { c with live := true, core := core, slot := slot, anchorCore := core, anchorSlot := slot, anchorMode := .here, att := false,
             inHand := none, consumed := 0, loadedAt := s.clk, entry := if old.isNone then c.pc else c.entry,
             eff := if c.rcb = 0 then RcbEff.zero else s.rcbEff c.rcb.toNat }
  let s1 := (s.resumePins core c1.tenid).place c1
  let s2 := (s1.patchArea area 0xA28 (toBytes 8 c1.pc.toNat)).patchArea area 0xA50 (toBytes 8 c1.anchorWord)
  let s3 := { s2 with saved := s2.saved.erase area, nextCid := if old.isNone then s2.nextCid + 1 else s2.nextCid }
  let s4 := s3.endRetain core c1.rcb.toNat
  (s4.wakeCore core).redeliver c1

/-- The counters that an area holds. -/
def State.areaCounts (s : State) (area : Nat) : Nat := (s.rdWord 0 (area + 0xA38) &&& 0x3F3F3F3F#64).toNat

/-- The first poisoned line of an area that holds a field other than a register. -/
def State.spoiltLine (s : State) (area : Nat) : Nat := ((linesOf area 0xA00 (areaBytes - 0xA00)).filter s.isPoison).headD area

/-- A load of an area into a slot of the issuing core (R304, R364). It parks while a reply or a withdrawal towards the area is under
way. -/
def loadOp (slot area : Nat) : Op Unit := do
  let s ← getS
  illegalIf (slot == 15 || (s.at? s.me.core slot).isSome)
  fwAddr 128 areaBytes false area
  illegalIf (!(s.rdWord 0 (area + 0xA28)).getLsbD 63)
  if s.areaSpoilt area then accTrap .memErr 0 7 (s.spoiltLine area)
  else do
    let gone := match s.saved.find? area with | some b => !s.withdrawn.contains b.cid | none => true
    parkUntil (s.areaCounts area == 0 && gone)
    modS (fun s => s.loadCtx s.me.core slot area)

/-- CTXL. -/
def execCtxl (d sr : Reg) (s0 : State) : Res :=
  issueOp (do
    gate [d, sr]
    let a ← readG sr
    let k ← readG d
    loadOp (fld k 3 0) (addr56 a)) s0

/-- SLOTX: a save and a load in one step (R305). -/
def execSlotx (d sr : Reg) (s0 : State) : Res :=
  issueOp (do
    gate [d, sr]
    let x ← readG sr
    let k ← readG d
    let a := addr56 x
    let slot := fld k 3 0
    fwAddr 16 16 false a
    fwClean a 16
    let s ← getS
    let out := addr56 (s.rdWord 0 a)
    let inn := addr56 (s.rdWord 0 (a + 8))
    let busy := (s.at? s.me.core slot).isSome
    illegalIf ((busy && out == 0) || (!busy && out != 0) || (out != 0 && (fld k 63 4 != 0 || slot == 15)))
    if out = 0 then pure () else saveOp s0 slot out
    if inn = 0 then pure () else loadOp slot inn) s0

/-! ## QDRAIN (R309) -/

/-- The oldest entry of a queue leaves it. -/
def State.spillPop (s : State) (block : Nat) : Option (SpillEnt × State) :=
  (List.find? (fun (e : SpillEnt) => e.block == block) s.spillQ).map (fun e => (e, s.spillTake block (fun x => x.n == e.n)))

/-- A message of a spill queue sent as if newly: none while it cannot be delivered. Its target may be saved, and then it waits. -/
def State.resend (s : State) (e : SpillEnt) : Option State :=
  match e.msg with
  | .thread m => if !s.ingress m.core m.ctx.ptag then some (s.refuseThread m) else if s.homeRoom m then s.arrive m else none
  | .stream m =>
    match s.streamIn m with
    | some u => some u
    | none => if (s.savedAt m.core m.slot m.tenid).isSome then none else some (s.streamLost m)
  | .fill m =>
    if !s.fillReady m then none
    else
      match s.fillIn m with
      | some u => some u
      | none => if (s.savedAt m.core m.slot m.tenid).isSome then none else some (s.fillLost m)
  | .words k m =>
    match (s.at? e.core e.slot).filter (fun c => c.ctxtag == e.tag) with
    | some c => s.streamIn { core := c.core, slot := c.slot, k := k, msg := m, tenid := c.tenid, sender := 0, pc := 0 }
    | none => if s.saved.any (fun p => p.2.ctxtag == e.tag && p.2.core == e.core) then none else some (s.discard [m])

/-- The messages of a queue delivered, oldest first, up to one that cannot be; with their number. -/
def State.drainQueue (block : Nat) : Nat → State → State × Nat
  | 0, s => (s, 0)
  | n + 1, s =>
    match s.spillPop block with
    | none => (s, 0)
    | some (e, t) =>
      match t.resend e with
      | none => (s, 0)
      | some u => let r := State.drainQueue block n u; (r.1, r.2 + 1)

/-- The issuing core's own diversion queue is empty: its routers deliver directly again (R261). -/
def State.undivert (s : State) (core block : Nat) : State :=
  if (s.core core).spqa.toNat % 2 ^ 56 = block ∧ s.spillLen block = 0 then s.modCore core (fun k => { k with diverted := false }) else s

/-- QDRAIN. -/
def execQdrain (d sr : Reg) (s0 : State) : Res :=
  issueOp (do
    gate [d, sr]
    let x ← readG sr
    let a := addr56 x
    fwAddr 128 128 false a
    fwClean a 128
    readyG d
    let s ← getS
    let r := State.drainQueue a (s.spillLen a) s
    let had := match s.me.wait with | .drain t n => (t, n) | _ => (s.cyc, 0)
    let total := had.2 + r.2
    let since := if r.2 = 0 then had.1 else s.cyc
    if r.1.spillLen a = 0 ∨ since + 8192 ≤ s.cyc then do
      modS (fun _ => (r.1.undivert s.me.core a).modMe (fun c => { c with wait := .none }))
      writeG d (BitVec.ofNat 64 total)
    else
      let t := State.drainQueue a (s0.spillLen a) s0
      goOp (t.1.modMe (fun c => ({ c with wait := .drain since total } : Ctx).bubble))) s0

/-! ## AUDW (R310) -/

/-- An audit window with its reserved bits zero. -/
def auditWindow (w0 w1 : Word) : Word × Word := (w0 &&& 0x00FFFFFFFFFFFFFF#64, w1 &&& 0x8007FFFFFFFFFFFF#64)

/-- The four windows at an address. -/
def State.windowsAt (s : State) (a : Nat) : Vector (Word × Word) 4 :=
  Vector.ofFn (fun (i : Fin 4) => auditWindow (s.rdWord 0 (a + 16 * i)) (s.rdWord 0 (a + 16 * i + 8)))

/-- AUDW. -/
def execAudw (d sr : Reg) (s0 : State) : Res :=
  issueOp (do
    gate [d, sr]
    let x ← readG sr
    let k ← readG d
    let s ← getS
    let a := addr56 x
    let slot := fld k 3 0
    illegalIf ((s.at? s.me.core slot).isNone)
    trapIf (s.part.isPivot s.me.core) .notPresent 0 3
    fwAddr 16 64 false a
    fwClean a 64
    modS (fun s => s.modAt s.me.core slot (fun c => { c with audw := s.windowsAt a }))) s0

end Sys2Proof.Machine
end

