-- ==== Sys2Proof/Machine/Events.lean ====
section
/-!
DEFINITION. Steps of the front end and the serve unit (R280-R292), of pre-emption (R353, R354), of soft errors (R361-R364) and of the
interrupt unit (R359, R360).
-/

namespace Sys2Proof.Machine

/-! ## The front end (R280-R288) -/

/-- STREAM_DECODE: a stream decodes its next instruction into its buffer, unless a branch or JOIN is unresolved or the buffer is full (R282,
R283, R285). -/
def execStreamDecode (squad stream : Nat) (s : State) : Res :=
  let f := s.stream squad stream
  .next (match f.st, s.attached squad stream with
    | .run, c :: _ =>
      if f.held || decide (32 ≤ s.buffered squad stream) then s
      else s.modStream squad stream (fun f => f.decode (s.streamWord f c))
    | _, _ => s)

/-- PRIVATE_FETCH_DELIVERY: the private path delivers one decoded instruction to a detached slot (R280). -/
def execPrivateFetchDelivery (squad : Nat) (s : State) : Res := .next (s.privateStep squad)

/-- DRIFT_STALL_DETACH: after 1,024 cycles of a drift stall every attached slot of lag 32 that is parked for another cause is detached (R284). -/
def execDriftStallDetach (squad stream : Nat) (s : State) : Res :=
  .next (match (s.stream squad stream).stallSince with
    | none => s
    | some t =>
      if s.cyc < t + 1024 then s
      else
        let late := (s.attached squad stream).filter (fun c => s.lag c == 32 && (c.bubbled || c.asleep || s.trapped c))
        (late.foldl (fun u c => u.place { c with att := false }) s).modStream squad stream (fun f => { f with stallSince := none }))

/-- JOIN_WAIT_TIMEOUT: a slot that has waited at L for 65,536 cycles while its stream runs is released there, detached (R287). -/
def execJoinWaitTimeout (core slot : Nat) (s : State) : Res :=
  .next (match s.at? core slot with
    | none => s
    | some c =>
      match c.wait with
      | .joinWait l since =>
        if since + 65536 ≤ s.cyc && (s.stream (squadOf core) slot).st == .run then s.place (c.releaseAt l false 0) else s
      | _ => s)

/-! ## The serve unit (R289, R290, R292) -/

/-- SRTAIL_WRITE: a write of `srtail.tail` by a context of a tenant (R289). -/
def execSrtailWrite (tenid squad ring : Nat) (v : Word) (s : State) : Res :=
  .next (if (s.ring squad ring).tenant.toNat = tenid ∧ tenid ≠ 0 then s.modRing squad ring (fun r => r.setTail (v.extractLsb' 0 16)) else s)

/-- The registers of a slot that a task is delivered to (R290). -/
def Ctx.serve (c : Ctx) (ws : List Word) (i : BitVec 16) : Ctx :=
  let c1 := (List.range 8).foldl (fun (d : Ctx) j => d.setG (BitVec.ofNat 6 (j + 1)) (ws.getD j 0)) c
  { ((c1.setG 9 (i.setWidth 64)).finish c.npc 0) with att := false }

/-- A waiting slot whose task the slice refuses, or finds poisoned, traps at its WAITW; no task is taken. -/
def State.serveFails (s : State) (q n : Nat) (c : Ctx) (cls : TrapClass) (a why : Nat) : State :=
  let s1 := (s.modRing q n (fun r => { r with waiters := r.waiters.filter (fun x => x != c.cid) })).place { c with wait := .none }
  s1.postTrap c.cid (fun c =>
    { cls := cls, slot := c.slot, cid := c.cid, away := c.isAway, pc := c.pc, addr := BitVec.ofNat 64 a, info := accInfo 0 why false,
      late := false, fetch := false, next := c.npc, cyc := s.cyc })

/-- SERVE_DELIVERY: the task at the head of a ring goes to the slot that has waited longest (R290). -/
def execServeDelivery (squad ring : Nat) (s : State) : Res :=
  .next (
    let r := s.ring squad ring
    match r.waiters with
    | [] => s
    | cid :: rest =>
      if r.head = r.tail then s
      else
        match s.byCid cid with
        | none => s.modRing squad ring (fun r => { r with waiters := rest })
        | some c =>
          let a := fld r.srcfg 33 0 * 64 + r.head.toNat % r.size * 64
          if s.refused46 c.ptag a then s.serveFails squad ring c .confine a 3
          else if s.isPoison a then s.serveFails squad ring c .memErr a 7
          else
            let ws := (List.range 8).map (fun i => s.rdWord c.key (a + 8 * i))
            let pops := match c.wait with | .serve _ _ ps => ps | _ => []
            let s1 := pops.foldl (fun t x => t.popQuiet cid x) s
            (s1.modLive cid (fun c => c.serve ws r.head)).modRing squad ring (fun r => { r with head := r.head + 1, waiters := rest }))

/-- RETAIN_HOLD_CANCEL: the kickoff cancels the hold of a HALT.retain (R292). -/
def execRetainHoldCancel (core : Nat) (s : State) : Res :=
  .next (if (s.core core).retain.isNone then s else (s.modCore core (fun k => { k with retain := none })).retire core)

/-! ## Pre-emption (R353, R354) -/

/-- A pre-emption message becomes the core's PREEMPT record, with its done granule empty (R353). -/
def State.preemptMessage (s : State) (core : Nat) (mspill : Bool) (reason slots desc : Nat) : State :=
  let g := (desc + 240) / 16
  (s.setFull g false).modCore core (fun k => { k with
    preemptAt := some (s.clk, g, false),
    preempt := some {
      cls := .preempt, slot := 15, cid := 0, away := false, pc := 0, addr := BitVec.ofNat 64 desc,
      info := BitVec.ofNat 64 (packFields [(15, slots), (1, 0), (4, reason), (1, mspill.toNat)]),
      late := false, fetch := false, next := 0, cyc := s.cyc } })

/-- PREEMPT_MESSAGE: a pre-emption message becomes the core's PREEMPT record; its done granule is empty when it is sent (R353). -/
def execPreemptMessage (core : Nat) (mspill : Bool) (reason : BitVec 4) (slots : BitVec 15) (desc : Nat) (s : State) : Res :=
  .next (
    if !s.part.hasCore core || !s.preemptDone core || desc % 128 != 0 || regionOf s.part desc != .main then s
    else s.preemptMessage core mspill reason.toNat slots.toNat desc)

/-- The context in slot 15 of a core, for a fault record. -/
def State.supTag (s : State) (core : Nat) : Nat := match s.at? core 15 with | some c => c.ctxtag.toNat | none => 0

/-- PREEMPT_DONE_TIMEOUT: a message not answered within 100 µs counts as a supervisor fault of the core (R353, R354). -/
def execPreemptDoneTimeout (core : Nat) (s : State) : Res :=
  .next (match (s.core core).preemptAt with
    | some (t, g, false) =>
      if s.clk < t + 100000 ∨ s.isFull g then s
      else
        let again := match (s.core core).supFault with
          | some u => decide (s.clk < u + 1000000)
          | none => false
        (s.modCore core (fun k =>
          { k with preemptAt := some (t, g, true), supFault := some s.clk, barred := k.barred || again })).fwRecord 4 0 0 0 0 0 0
          (s.supTag core) core
    | _ => s)

/-! ## Soft errors (R361-R364) -/

/-- The residency entry of a tile is lost (R361). -/
def State.tileLost (s : State) (q t : Nat) : State :=
  let e := (s.squad q).tile t
  let s1 := s.modTile q t (fun e =>
    { e with st := .absent, framed := false, pins := 0, log := [], lost := true, tlAbs := [] })
  let s2 := (e.tlAbs.foldl State.tlDown s1).retryClaims q
  let s3 := (if e.tlRes.isEmpty then s2 else s2.startFetch q t).wake q t
  s3.rootReport ((s.squadPart q).getD 32) (BitVec.ofNat 64 (2 * 2 ^ 48 + q * 2 ^ 26 + t * 2 ^ 12))

/-- A line of which a cache holds a granule dirty. -/
def State.cacheDirty (s : State) (line : Nat) : Bool := s.l2Dirty line || s.msc.any (fun p => p.1 / 8 == line)

/-- An uncorrectable error in a structure (R361). -/
def State.softError (s : State) (e : ErrSite) : State :=
  match e with
  | .l1 core line => s.l1Drop core line
  | .icache _ => s
  | .cacheLine line => if s.cacheDirty line then s.setPoison (128 * line) true else s
  | .vault gran => if 2 ^ 48 ≤ 16 * gran then s.setPoison (16 * gran) true else s
  | .logMem q i => s.modSquad q (fun k => { k with tiles := k.tiles.map (fun (p : Nat × TileEnt) =>
      (p.1, { p.2 with log := p.2.log.map (fun (x : LogEnt) => if x.idx == i then { x with poison := true } else x) })) })
  | .residency q t => s.tileLost q t
  | .greg core slot n =>
    if n % 64 = 0 ∨ (56 ≤ n % 64 ∧ n % 64 ≤ 60) then s
    else s.modAt core slot (fun c => { c with gPoison := c.gPoison ||| (1#64 <<< (n % 64)) })
  | .vreg core slot n => s.modAt core slot (fun c => { c with vPoison := c.vPoison ||| (1#32 <<< (n % 32)) })
  | .tileReg core m byte => s.modCore core (fun k =>
      let i := m % 8
      let x := k.mx.m[i]'(Nat.mod_lt _ (by decide))
      { k with mx := { k.mx with m := k.mx.m.set i { x with poison := insNat byte x.poison } (Nat.mod_lt _ (by decide)) } })
  | .accum core a el => s.modCore core (fun k =>
      let i := a % 4
      let x := k.mx.a[i]'(Nat.mod_lt _ (by decide))
      { k with mx := { k.mx with a := k.mx.a.set i { x with poison := insNat el x.poison } (Nat.mod_lt _ (by decide)) } })
  | .dram line => s.setPoison (128 * line) true

/-- UNCORRECTABLE_ERROR. -/
def execUncorrectableError (e : ErrSite) (s : State) : Res := .next (s.softError e)

/-- CORRECTABLE_ERROR: only the count of the firmware complex changes. -/
def execCorrectableError (_ : ErrSite) (s : State) : Res :=
  .next { s with boot := { s.boot with corrected := s.boot.corrected + 1 } }

/-- MEMORY_SCRUB: the home core reads a line; what cannot be corrected is poisoned and reported (R362). -/
def execMemoryScrub (line : Nat) (uncorrectable : Bool) (s : State) : Res :=
  .next (if uncorrectable then (s.setPoison (128 * line) true).poisonReport line else s)

/-! ## The interrupt unit (R360) -/

/-- INTERRUPT_EVENT. -/
def execInterruptEvent (n : Nat) (s : State) : Res := .next (s.raiseIrq n)

/-- IRQ_ACK: the policy core claims an event while the timer runs. -/
def execIrqAck (n : Nat) (s : State) : Res :=
  .next (if (s.irq n).st = .devWait then s.modIrq n (fun e => { e with st := .device }) else s)

/-- IRQ_ESCALATE: the policy core hands an event to the host. -/
def execIrqEscalate (n : Nat) (s : State) : Res :=
  .next (if (s.irq n).st = .devWait then (s.modIrq n (fun e => { e with st := .host })).sendMsix n else s)

/-- IRQ_TIMER_EXPIRY: 20 µs without a claim hand the event to the host. -/
def execIrqTimerExpiry (n : Nat) (s : State) : Res :=
  .next (if (s.irq n).st = .devWait ∧ (s.irq n).t0 + 20000 ≤ s.clk then (s.modIrq n (fun e => { e with st := .host })).sendMsix n else s)

/-- IRQ_STATE_CLEAR: the claimant writes 0b11 to `state`. -/
def execIrqStateClear (n : Nat) (s : State) : Res :=
  .next (if (s.irq n).st = .device ∨ (s.irq n).st = .host then s.modIrq n (fun e => { e with st := .idle }) else s)

end Sys2Proof.Machine
end

