-- ==== Sys2Proof/Machine/HostPorts.lean ====
section
/-!
DEFINITION. The host ports: the management semaphore (R387, R388), key slots (R52, R408), host windows (R389) and trusted interfaces (R399).
-/

namespace Sys2Proof.Machine

/-! ## The management semaphore (R387, R388) -/

/-- The lease starts. -/
def State.startLease (s : State) (h : BitVec 2) : State :=
  { s with sema := { s.sema with busy := true, holder := h, lease := 10000, t0 := s.clk } }

/-- The semaphore is free. -/
def State.freeSema (s : State) : State := { s with sema := { s.sema with busy := false, holder := 0, lease := 0 } }

/-- The agent holds the semaphore. -/
def State.holds (s : State) (h : BitVec 2) : Bool := s.sema.busy && s.sema.holder == h && h != 0

/-- A management change of an agent that does not hold the semaphore is discarded and counted (R388). -/
def State.reject (s : State) : State := { s with sema := { s.sema with rej := satInc s.sema.rej } }

/-- A management change by an agent. -/
def State.manage (s : State) (h : BitVec 2) (t : State) : State := if s.holds h then t else s.reject

/-- A read of `sema` by port h - 1, or by the policy core as 3 (R387): it acquires and returns 0 while `busy` is 0; otherwise it returns the
register. -/
def State.semaRead (s : State) (h : BitVec 2) : Word × State := if s.sema.busy then (s.semaWord, s) else (0, s.startLease h)

/-- A register's value is returned to its reader: a port, or the policy core. -/
def State.regReturn (s : State) (h : BitVec 2) (v : Word) : State :=
  if h = 3 then { s with fwReads := s.fwReads ++ [v] } else { s with hostReads := s.hostReads ++ [toBytes 8 v.toNat] }

/-- SEMA_ACQUIRE: a read of `sema`. -/
def execSemaAcquire (h : BitVec 2) (s : State) : Res :=
  .next (if h = 0 then s else let r := s.semaRead h; r.2.regReturn h r.1)
/-- SEMA_RENEW: the holder writes 1 to `busy`. -/
def execSemaRenew (h : BitVec 2) (s : State) : Res := .next (if s.holds h then s.startLease h else s)
/-- SEMA_RELEASE: the holder writes 0 to `busy`. -/
def execSemaRelease (h : BitVec 2) (s : State) : Res := .next (if s.holds h then s.freeSema else s)
/-- SEMA_LEASE_EXPIRY: the lease reaches 0 (R387). -/
def execSemaLeaseExpiry (s : State) : Res :=
  .next (if s.sema.busy && decide (s.sema.t0 + s.sema.lease * 1000000 ≤ s.clk) then s.freeSema.raiseIrq 1088 else s)

/-! ## Key slots (R52) -/

/-- A key slot takes a new key: what was written under the old one is no longer read under the slot. Such granules keep a number of their own
above the key slots. -/
def State.newKey (s : State) (slot : Nat) : State :=
  let old := 1024 + s.fresh
  let r (k : Option Nat) : Option Nat := if k = some slot then some old else k
  { s with
    fresh := s.fresh + 1,
    keys := s.keys.map (fun p => (p.1, if p.2 = slot then old else p.2)),
    l2 := s.l2.map (fun p => (p.1, { p.2 with key := r p.2.key })),
    msc := s.msc.map (fun p => (p.1, { p.2 with key := r p.2.key })),
    cores := s.cores.map (fun p => (p.1, { p.2 with l1 := p.2.l1.map (fun e => if e.key = slot then { e with key := old } else e) })) }

/-- KEY_SLOT_LOAD: a slot 1-127 takes a key, and the partition that it is loaded for is recorded (R52, R388, R408). -/
def execKeySlotLoad (h : BitVec 2) (slot part : Nat) (s : State) : Res :=
  .next (s.manage h (if 0 < slot ∧ slot < 128 ∧ part < 32 then { s.newKey slot with keySlots := s.keySlots.put slot part } else s))

/-! ## Host windows (R389) -/

/-- The main memory of a partition holds a range. -/
def State.partHolds (s : State) (part a n : Nat) : Bool :=
  let c := s.partChans part
  decide (c.1 * 2 ^ 31 ≤ a) && decide (a + n ≤ (c.1 + c.2) * 2 ^ 31)

/-- A VF's interface is locked (R399). -/
def State.locked (s : State) (part : Nat) : Bool := (s.partn part).tdi != .unlocked

/-- HOST_WINDOW_WRITE: the policy core writes a descriptor while it holds the semaphore; a range outside the partition's main memory, or a locked
interface, refuses it. An empty range lies in every memory. Every window cache is invalidated first. -/
def execHostWindowWrite (part w : Nat) (w0 w1 w2 : Word) (s : State) : Res :=
  .next (
    let d : HostWin := { w0 := w0, w1 := w1 &&& 0x801FFFFFFFFFFFFF#64, w2 := w2 &&& 0x00FFFFFFFFFFFFFF#64 }
    if !s.holds 3 || s.locked part then s.reject
    else if w < 8 ∧ part < 32 ∧ (fld w1 47 0 = 0 ∨ s.partHolds part (fld w2 55 0) (fld w1 47 0)) then
      { (s.modPartn part (fun p => { p with wins := p.wins.put w d })) with wcache := [] }
    else s)

/-! ## Programmed access through a window (R325, R389) -/

/-- Device memory under a partition's tag that an access of `n` bytes is refused (R46, R53, R377). -/
def State.classAFails (s : State) (part a n : Nat) (wr : Bool) : Bool :=
  (linesIn a n).any (fun l =>
    regionOf s.part l != .main || s.refused46 part l || (wr && s.sealedAt l 1) || (!wr && s.isPoison l)) || (wr && s.sealedAt a n)

/-- A class A access to `n` bytes through descriptor `w` of a partition, performed by the service core of the target die under the key slot of
the partition's root RCB: the address, and whether it is performed (R389). -/
def State.apertureHit (s : State) (part off n : Nat) (wr : Bool) : Nat × Bool × State :=
  let w := off / 2 ^ 40
  let o := off % 2 ^ 40
  let at_ (d : HostWin) : Nat := (fld d.w2 55 0 + o) % 2 ^ 56
  let die := s.dieOf (s.chanOf (at_ ((s.partn part).wins.getD HostWin.reset w)))
  let d := s.winAt die part w
  let right := if wr then d.w1.getLsbD 52 else d.w1.getLsbD 51
  (at_ d, decide (w < 8) && d.w1.getLsbD 63 && decide (o < fld d.w1 47 0) && right && !s.classAFails part (at_ d) n wr,
    if w < 8 then s.winLoad die part w else s)

/-- Bytes stored at the slice as a core's store is: lines written whole lose their poison (R53, R325). -/
def State.classAStore (s : State) (key a : Nat) (b : List Byte) : State :=
  (linesIn a b.length).foldl (fun (t : State) l => if l % 128 = 0 ∧ l + 128 ≤ a + b.length then t.setPoison l false else t)
    ((linesIn a b.length).foldl (fun (t : State) l => t.wrDev key l (slice b (l - a) (128 - l % 128))) ((gransOf a b.length).foldl State.l2Note s))

/-- An access through the inbound aperture: one that is refused is discarded and counted, and a failed read returns all ones. -/
def State.apertureAccess (s : State) (part off : Nat) (store : Option (List Byte)) (size : Nat) : State :=
  let n := match store with | some b => b.length | none => size
  let r := s.apertureHit part off n store.isSome
  let key := (s.rcbEff (fld (s.partn part).prcb 55 0)).key
  let t := if r.2.1 then r.2.2 else { r.2.2 with svcDrops := r.2.2.svcDrops + 1 }
  match store with
  | some b => if r.2.1 then t.classAStore key r.1 b else t
  | none => { t with hostReads := t.hostReads ++ [if r.2.1 then t.rdMain key r.1 n else List.replicate n 0xFF] }

/-! ## Trusted interfaces (R399) -/

/-- The partition of VF p + 1. -/
def vfPart (vf : Nat) : Nat := vf - 1

/-- The state of an interface changes from one of some states. -/
def State.tdiStep (s : State) (vf : Nat) (from_ : List TdiSt) (dst : TdiSt) : State :=
  if 1 ≤ vf ∧ vf ≤ 32 ∧ from_.contains (s.partn (vfPart vf)).tdi then s.modPartn (vfPart vf) (fun p => { p with tdi := dst }) else s

/-- LOCK_INTERFACE. -/
def execLockInterface (vf : Nat) (s : State) : Res := .next (s.tdiStep vf [.unlocked] .locked)
/-- START_INTERFACE. -/
def execStartInterface (vf : Nat) (s : State) : Res := .next (s.tdiStep vf [.locked] .run)
/-- STOP_INTERFACE. -/
def execStopInterface (vf : Nat) (s : State) : Res := .next (s.tdiStep vf [.locked, .run, .error] .unlocked)
/-- GET_DEVICE_INTERFACE_REPORT: the partition's channels, key slots, queue table and interrupt entries. -/
def execGetDeviceInterfaceReport (vf : Nat) (s : State) : Res :=
  .next (
    let p := vfPart vf
    let c := s.partChans p
    { s with reports := s.reports ++ [{
        vf := vf, chan0 := c.1, chans := c.2,
        keys := (s.keySlots.filter (fun k => k.2 == p)).map Prod.fst,
        queues := (s.partn p).qtab,
        irtes := (s.irqs.filter (fun i => fld i.2.irte 23 16 == vf)).map (fun i => (i.1, i.2.irte)) }] })

end Sys2Proof.Machine
end

