-- ==== Sys2Proof/Machine/Queues.lean ====
section
/-!
DEFINITION. User queues (R390-R398): control blocks, doorbells, acceptance, the queue commands NOP, HOLD and SIGNAL, retirement, the journal,
and the mapping of queues to hardware slots.
-/

namespace Sys2Proof.Machine

/-! ## Memory that the firmware reaches for a partition -/

/-- `n` bytes at an address for a partition: of its main memory, or of host memory through a window (R46, R389). -/
def State.fwRead (s : State) (part key a n : Nat) : Option (List Byte) :=
  match regionOf s.part a with
  | .main => if s.refused46 part a || s.isPoison a then none else some (s.rdMain key a n)
  | .host w off =>
    let d := s.winAt 0 part w
    if (d.refuses off n false).isSome then none else some (rdBytes s.hostMem (d.addr off) n)
  | _ => none

/-- Words written at an address for a partition. -/
def State.fwWrite (s : State) (part key a : Nat) (ws : List Word) : Option State :=
  match regionOf s.part a with
  | .main =>
    if s.refused46 part a || s.sealedAt a (8 * ws.length) then none else some (s.unitWords key a ws)
  | .host w off =>
    let d := s.winAt 0 part w
    if (d.refuses off (8 * ws.length) true).isSome then none
    else some { (s.winLoad 0 part w) with hostMem := wrBytes s.hostMem (d.addr off) (ws.flatMap (fun x => toBytes 8 x.toNat)) }
  | _ => none

/-- The key slot of a partition's root RCB. -/
def State.rootKey (s : State) (part : Nat) : Nat := (s.rcbEff (fld (s.partn part).prcb 55 0)).key

/-! ## The queue control block (R390) -/

/-- The QCB address of a valid queue-table entry. -/
def State.qcbAt (s : State) (part q : Nat) : Option Nat :=
  let v := (s.partn part).qtab.getD 0 q
  if v.getLsbD 63 then some (fld v 55 0 / 128 * 128) else none

/-- A QCB from its ten words. -/
def qcbOf (w : List Word) : Qcb :=
  let g (i hi lo : Nat) : Nat := fld (w.getD i 0) hi lo
  { rbase := g 0 55 0, cbase := g 1 55 0, lsize := g 2 4 0, prio := g 2 11 8,
    st := (match g 2 13 12 with | 1 => .active | 2 => .error | _ => .idle), npe := g 2 14 14 == 1, pend := g 2 15 15 == 1,
    hslot := g 2 24 16, mapped := g 2 25 25 == 1, tenant := g 2 47 32, irq := g 2 58 48, inot := g 2 59 59 == 1, rcb := g 3 55 0,
    tail := BitVec.ofNat 32 (g 4 31 0), accept := BitVec.ofNat 32 (g 4 63 32), retire := BitVec.ofNat 32 (g 5 31 0),
    chead := BitVec.ofNat 32 (g 5 63 32), nseq := w.getD 6 0, since := g 7 63 0, npeend := g 8 63 0, erec := g 9 55 0, mappedAt := 0,
    cmds := [] }

/-- The code of a queue's state. -/
def QSt.code : QSt → Nat
  | .idle => 0
  | .active => 1
  | .error => 2

/-- Word 2 of a QCB. -/
def Qcb.word2 (x : Qcb) : Nat :=
  packFields [(5, x.lsize), (3, 0), (4, x.prio), (2, x.st.code), (1, x.npe.toNat), (1, x.pend.toNat), (9, x.hslot), (1, x.mapped.toNat), (6, 0),
    (16, x.tenant), (11, x.irq), (1, x.inot.toNat)]

/-- The words that the device writes: 2, then 4 to 8. -/
def Qcb.words (x : Qcb) : List Word :=
  [BitVec.ofNat 64 x.word2] ++
  [x.accept ++ x.tail, x.chead ++ x.retire, x.nseq, BitVec.ofNat 64 x.since, BitVec.ofNat 64 x.npeend]

/-- Eight-byte words from bytes. -/
def wordsOf (b : List Byte) (n : Nat) : List Word := (List.range n).map (fun i => BitVec.ofNat 64 (ofBytes (slice b (8 * i) 8)))

/-- A block that no hardware slot has a copy of: what was mapped or running before a reset is pending again (DEDUCED, log 90; R396). -/
def Qcb.stale (m : Qcb) : Qcb :=
  { m with mapped := false, hslot := 0, pend := m.pend || m.accept != m.retire || (m.mapped && m.accept != m.tail),
           st := if m.st = .error then .error else .idle }

/-- A queue with its control block: the working copy while it is mapped (R398), else the block; `chead` always from the block. None for a
queue without one, or whose block its home refuses. -/
def State.readQ (s : State) (part q : Nat) : Option Qcb :=
  match s.qcbAt part q with
  | none => none
  | some a =>
    match s.fwRead part (s.rootKey part) a 80 with
    | none => none
    | some b =>
      let m := qcbOf (wordsOf b 10)
      some (match (s.partn part).qs.find? q with
        | none => m.stale
        | some x =>
          if x.mapped then { x with chead := m.chead }
          else { m with st := if x.st = .error then .error else m.st, mappedAt := x.mappedAt, cmds := x.cmds, mapped := false })

/-- As `readQ`, of a block whose `lsize` is 4-16. -/
def State.loadQ (s : State) (part q : Nat) : Option Qcb :=
  (s.readQ part q).filter (fun x => decide (4 ≤ x.lsize) && decide (x.lsize ≤ 16))

/-- The device's own part of a queue: what it keeps beside the block. -/
def State.putQ (s : State) (part q : Nat) (x : Qcb) : State :=
  s.modPartn part (fun p => { p with
    qs := if !x.mapped && x.cmds.isEmpty && x.st != .error then p.qs.erase q else p.qs.put q x })

/-- The device's fields of a block written; none where the block is refused. -/
def State.writeBlock (s : State) (part a : Nat) (x : Qcb) : Option State :=
  (s.fwWrite part (s.rootKey part) (a + 16) [BitVec.ofNat 64 x.word2]).bind
    (fun t => t.fwWrite part (s.rootKey part) (a + 32) (x.words.drop 1))

/-! ## Errors (R393) -/

/-- The record and the interrupt of a queue that goes to ERROR. -/
def State.errorRecord (s : State) (part q : Nat) (x : Qcb) (code : Nat) (w1 : Word) (idx : Nat) : State :=
  let rec_ := [BitVec.ofNat 64 (code + q * 2 ^ 16), w1, BitVec.ofNat 64 s.clk, BitVec.ofNat 64 idx]
  ((s.fwWrite part (s.rcbEff x.rcb).key (x.erec / 32 * 32) rec_).getD s).raiseIrq (1056 + part)

/-- A queue written back: the device's fields of the block, and its own part. A block that is refused puts the queue into ERROR (R390). -/
def State.storeQ (s : State) (part q : Nat) (x : Qcb) : State :=
  let s1 := s.putQ part q x
  match s.qcbAt part q with
  | none => s1
  | some a =>
    match s1.writeBlock part a x with
    | some t => t
    | none => if x.st = .error then s1 else (s1.putQ part q { x with st := .error }).errorRecord part q x 4 0 0

/-- A queue goes to ERROR with a record and an interrupt. -/
def State.queueError (s : State) (part q : Nat) (x : Qcb) (code : Nat) (w1 : Word) (idx : Nat) : State :=
  (s.storeQ part q { x with st := .error }).errorRecord part q x code w1 idx

/-- A queue whose block cannot be used goes to ERROR (R390), with a record where the device knows its place. -/
def State.queueLost (s : State) (part q : Nat) : State :=
  match s.qcbAt part q with
  | none => s
  | some _ =>
    match s.readQ part q, (s.partn part).qs.find? q with
    | some x, _ => if x.st = .error then s else s.queueError part q x 4 0 0
    | none, some x => if x.st = .error then s else (s.putQ part q { x with st := .error }).errorRecord part q x 4 0 0
    | none, none => (s.putQ part q { qcbOf [] with st := .error }).raiseIrq (1056 + part)

/-- A queue, or ERROR for one whose block cannot be used. -/
def State.withQ (s : State) (part q : Nat) (f : Qcb → State) : State :=
  match s.loadQ part q with
  | some x => f x
  | none => s.queueLost part q

/-! ## The queue table and doorbells (R390, R392) -/

/-- QUEUE_TABLE_WRITE: ignored while the queue is mapped or has commands in hand; refused while the interface is locked. -/
def execQueueTableWrite (part q : Nat) (v : Word) (s : State) : Res :=
  .next (
    if part ≥ 32 ∨ q ≥ 4096 then s
    else if s.locked part then s.reject
    else
      let busy := match s.readQ part q, (s.partn part).qs.find? q with
        | some x, _ => x.mapped || x.accept != x.retire
        | none, some x => x.mapped || !x.cmds.isEmpty || x.accept != x.retire
        | none, none => false
      if busy then s
      else s.modPartn part (fun p => { p with qtab := p.qtab.put q (v &&& 0x80FFFFFFFFFFFFFF#64), qs := p.qs.erase q }))

/-- DOORBELL_KICK: a doorbell write with `reset` 0. -/
def execDoorbellKick (part q : Nat) (tail : BitVec 32) (s : State) : Res :=
  .next (
    if s.boot.step < 5 || !(s.partn part).vf then s
    else
      s.withQ part q (fun x =>
        if x.st = .error then s
        else if 2 ^ x.lsize < (tail - x.accept).toNat + (x.accept - x.retire).toNat then
          s.queueError part q x 1 (tail.setWidth 64) 0
        else
          let x1 := { x with tail := tail, st := if x.mapped then .active else x.st }
          s.storeQ part q (if !x.mapped && tail != x.accept then { x1 with pend := true, since := s.clk } else x1)))

/-- DOORBELL_RESET: a doorbell write with `reset` 1. -/
def execDoorbellReset (part q : Nat) (s : State) : Res :=
  .next (
    if s.boot.step < 5 || !(s.partn part).vf then s
    else
      match s.loadQ part q with
      | some x => if x.st = .error then s.storeQ part q { x with tail := x.accept, st := .idle } else s
      | none =>
        match (s.partn part).qs.find? q with
        | some x => if x.st = .error then s.putQ part q { x with tail := x.accept, st := .idle } else s
        | none => s)

/-- What a read of a queue's doorbell returns: `accept` and `retire` (R392). -/
def State.doorbellWord (s : State) (part q : Nat) : Word :=
  match s.readQ part q with
  | some x => x.retire ++ x.accept
  | none => match (s.partn part).qs.find? q with | some x => x.retire ++ x.accept | none => 0

/-! ## Acceptance (R391, R394) -/

/-- The ring index of a count. -/
def Qcb.ringIdx (x : Qcb) (n : BitVec 32) : Nat := n.toNat % 2 ^ x.lsize

/-- The eight words of a ring entry. -/
def State.ringEntry (s : State) (part : Nat) (x : Qcb) (n : BitVec 32) : Option (List Word) :=
  (s.fwRead part (s.rcbEff x.rcb).key (x.rbase / 64 * 64 + 64 * x.ringIdx n) 64).map (fun b => wordsOf b 8)

/-- An entry that is no command (R391). -/
def badEntry (w : List Word) : Bool :=
  let op := (w.getD 0 0).toNat
  let arg := (w.getD 2 0).toNat
  decide (3 < op) || (w.drop 3).any (fun x => x != 0) || (op == 0 && arg != 0) || (op == 2 && (arg == 0 || decide (4095 < arg))) ||
  ((op == 1 || op == 3) && decide (2 ^ 56 ≤ arg))

/-- QUEUE_ACCEPT: the next entry of a mapped, ACTIVE queue is accepted (R394). -/
def execQueueAccept (part q : Nat) (s : State) : Res :=
  .next (s.withQ part q (fun x =>
    if !((s.partn part).pstate == .active && x.mapped && x.st == .active && x.accept != x.tail && decide ((x.accept - x.retire).toNat < 2 ^ x.lsize)) then s
    else
      match s.ringEntry part x x.accept with
      | none => s.queueError part q x 4 0 (x.ringIdx x.accept)
      | some w =>
        let seq := w.getD 1 0
        if seq.toNat < x.nseq.toNat then
          s.storeQ part q { x with
            accept := x.accept + 1,
            cmds := x.cmds ++ [{ op := (w.getD 0 0).toNat, seq := seq, arg := w.getD 2 0, done := true, dup := true, status := 0, inst := 0 }] }
        else if x.nseq.toNat < seq.toNat then s.queueError part q x 2 seq (x.ringIdx x.accept)
        else if badEntry w then s.queueError part q x 3 seq (x.ringIdx x.accept)
        else
          s.storeQ part q { x with
            accept := x.accept + 1, nseq := x.nseq + 1,
            cmds := x.cmds ++ [{ op := (w.getD 0 0).toNat, seq := seq, arg := w.getD 2 0, done := false, dup := false, status := 0, inst := 0 }] }))

/-! ## The commands (R391) -/

/-- The first command of a kind that has not started. -/
def Qcb.waiting (x : Qcb) (op : Nat) : Option QCmd := List.find? (fun (c : QCmd) => c.op == op && !c.done && c.inst == 0) x.cmds

/-- A command changed. -/
def Qcb.modCmd (x : Qcb) (seq : Word) (f : QCmd → QCmd) : Qcb := { x with cmds := x.cmds.map (fun c => if c.seq == seq && !c.dup then f c else c) }

/-- A command is finished with a status. -/
def QCmd.finish (c : QCmd) (status : Nat) : QCmd := { c with done := true, status := status }

/-- NOP: it is finished at acceptance. -/
def execNopCommand (part q : Nat) (s : State) : Res :=
  .next (match s.loadQ part q with
    | some x => (match x.waiting 0 with | some c => s.storeQ part q (x.modCmd c.seq (fun c => c.finish 0)) | none => s)
    | none => s)

/-- HOLD: the queue is non-pre-emptible for min(µs, 2,000). -/
def execHold (part q : Nat) (s : State) : Res :=
  .next (match s.loadQ part q with
    | some x =>
      (match x.waiting 2 with
        | some c => s.storeQ part q { x.modCmd c.seq (fun c => c.finish 0) with npe := true, npeend := s.clk + Nat.min c.arg.toNat 2000 * 1000 }
        | none => s)
    | none => s)

/-- HOLD_EXPIRY: the hold lapses. -/
def execHoldExpiry (part q : Nat) (s : State) : Res :=
  .next (match s.loadQ part q with
    | some x => if x.npe && decide (x.npeend ≤ s.clk) then s.storeQ part q { x with npe := false } else s
    | none => s)

/-- A granule set full for a partition's queue, where its home or its tile unit takes the change; false while its tile unit holds the change. -/
def State.signalGranule (s : State) (part tenant a : Nat) : Bool × State :=
  match regionOf s.part a with
  | .main =>
    if s.refused46 part a || s.sealedAt (a / 16 * 16) 16 then (true, s) else (true, (s.unitFull a true).serveHome (a / 16))
  | .vault q b =>
    let v := vaultAddr q b
    if s.squadPart q ≠ some part then (true, s) else (true, s.setFullAt v true)
  | .tile q t b =>
    if (s.tileRefused part (BitVec.ofNat 16 tenant) q t).isSome then (true, s)
    else
      match s.tileUpdate q t [{ gran := b / 16, ty := tyNone, op := opFill, mask := 0, data := 0 }] with
      | .done r => (true, r)
      | .hold r => (false, r)
  | _ => (true, s)

/-- SIGNAL: once every earlier command has retired, the granule is set full. While the tile unit holds the change, the command waits. -/
def execSignal (part q : Nat) (s : State) : Res :=
  .next (match s.loadQ part q with
    | some x =>
      (match x.cmds with
        | c :: _ =>
          if c.op = 3 ∧ c.done = false then
            let r := s.signalGranule part x.tenant c.arg.toNat
            (match r.1, r.2.loadQ part q with
              | true, some y => r.2.storeQ part q (y.modCmd c.seq (fun c => c.finish 0))
              | _, _ => r.2)
          else s
        | [] => s)
    | none => s)

/-! ## Retirement (R395) -/

/-- QUEUE_RETIRE: the oldest command retires once it is finished and the completion ring has room. A duplicate retires without a record. -/
def execQueueRetire (part q : Nat) (s : State) : Res :=
  .next (s.withQ part q (fun x =>
    match x.cmds with
    | [] => s
    | c :: r =>
      if !c.done then s
      else
        let x1 := { x with retire := x.retire + 1, cmds := r }
        if c.dup then s.storeQ part q x1
        else if (x.retire - x.chead).toNat = 2 ^ x.lsize then s
        else
          match s.fwWrite part (s.rcbEff x.rcb).key (x.cbase / 32 * 32 + 32 * x.ringIdx x.retire)
              [c.seq, BitVec.ofNat 64 (c.status + c.op * 2 ^ 16), c.arg, BitVec.ofNat 64 s.clk] with
          | none => s.queueError part q x 4 0 (x.ringIdx x.retire)
          | some t =>
            let t1 := t.storeQ part q x1
            if x.inot && x.irq / 32 == part && decide (x.irq < 1024) then t1.raiseIrq x.irq else t1))

/-! ## Mapping (R396-R398) -/

/-- The commands of [retire, accept) read again from the ring, from the newest to the oldest: an entry whose number is not the one expected was
a duplicate (R396). -/
def State.journal (s : State) (part : Nat) (x : Qcb) : Nat → BitVec 32 → Word → List QCmd → List QCmd
  | 0, _, _, l => l
  | n + 1, i, want, l =>
    match s.ringEntry part x i with
    | none => l
    | some w =>
      let dup := w.getD 1 0 != want
      s.journal part x n (i - 1) (if dup then want else want - 1)
        ({ op := (w.getD 0 0).toNat, seq := w.getD 1 0, arg := w.getD 2 0, done := dup, dup := dup, status := 0, inst := 0 } :: l)

/-- JOURNAL_RESUME: a queue mapped with accepted commands that nobody runs goes on from its journal (R396). -/
def State.resumeQ (s : State) (part : Nat) (x : Qcb) : Qcb :=
  if (x.accept - x.retire).toNat = x.cmds.length then x
  else
    let rec_ := (s.fwRead part (s.rcbEff x.rcb).key (x.cbase / 32 * 32 + 32 * x.ringIdx x.retire) 8).map (fun b => BitVec.ofNat 64 (ofBytes b))
    let hit := match s.ringEntry part x x.retire, rec_ with
      | some w, some r => w.getD 1 0 == r
      | _, _ => false
    let x1 := if hit then { x with retire := x.retire + 1 } else x
    { x1 with cmds := s.journal part x1 (x1.accept - x1.retire).toNat (x1.accept - 1) (x1.nseq - 1) [] }

/-- `kcfg.age` in ns; 0 is stored as 1 (R346). -/
def PartSt.age (p : PartSt) : Nat := Nat.max 1 (fld p.kcfg 15 0) * 1000
/-- `kcfg.slice` in ns. -/
def PartSt.slice (p : PartSt) : Nat := fld p.kcfg 63 48 * 1000

/-- An effective priority (R347). -/
def effPrio (base waited age : Nat) : Nat := Nat.min 15 (base + waited / age)

/-- The queues of a partition, by number. -/
def State.queues (s : State) (part : Nat) : List (Nat × Qcb) :=
  (s.partn part).qtab.filterMap (fun e => (s.loadQ part e.1).map (fun x => (e.1, x)))

/-- The best element of a list by an order. -/
def best {α : Type} (lt : α → α → Bool) : List α → Option α
  | [] => none
  | x :: r =>
    match best lt r with
    | none => some x
    | some y => if lt y x then some y else some x

/-- The pending queue that comes first (R397 step 1). -/
def State.firstPending (s : State) (part : Nat) : Option (Nat × Qcb) :=
  let eff (x : Nat × Qcb) : Nat := effPrio x.2.prio (s.clk - x.2.since) (s.partn part).age
  best (fun x y => decide (eff y < eff x) || (eff x == eff y && (decide (x.2.since < y.2.since) || (x.2.since == y.2.since && decide (x.1 < y.1)))))
    ((s.queues part).filter (fun x => x.2.pend && !x.2.mapped && x.2.st != .error))

/-- The mapped queue that gives way (R397 step 3). -/
def State.firstVictim (s : State) (part : Nat) : Option (Nat × Qcb) :=
  best (fun x y => decide (x.2.prio < y.2.prio) || (x.2.prio == y.2.prio && decide (x.2.mappedAt < y.2.mappedAt)))
    ((s.queues part).filter (fun x => x.2.mapped && decide (x.2.prio < 12) && !(x.2.npe && decide (s.clk < x.2.npeend)) &&
      decide (x.2.mappedAt + (s.partn part).slice ≤ s.clk)))

/-- A hardware slot that no queue of the device holds. -/
def State.freeHslot (s : State) : Nat :=
  let used := s.parts.flatMap (fun p => (p.2.qs.filter (fun x => x.2.mapped)).map (fun x => x.2.hslot))
  (List.find? (fun i => !used.contains i) (List.range 512)).getD 0

/-- A queue mapped to a slot (R398). -/
def State.mapQ (s : State) (part q : Nat) (x : Qcb) : State :=
  s.storeQ part q (s.resumeQ part { x with mapped := true, hslot := s.freeHslot, pend := false, st := if x.st = .error then .error else .active, mappedAt := s.clk })

/-- A queue unmapped (R398). -/
def State.unmapQ (s : State) (part q : Nat) (x : Qcb) : State :=
  let y := { x with mapped := false, hslot := 0, st := if x.st = .error then .error else .idle }
  s.storeQ part q (if x.accept = x.tail then y else { y with pend := true, since := s.clk })

/-- The mapping of R397, round by round until nothing changes. -/
def State.mapQueues (part : Nat) : Nat → State → State
  | 0, s => s
  | n + 1, s =>
    match s.firstPending part with
    | none => s
    | some (p, x) =>
      if ((s.queues part).filter (fun y => y.2.mapped)).length < fld (s.partn part).pqslot 9 0 then State.mapQueues part n (s.mapQ part p x)
      else
        match s.firstVictim part with
        | none => s
        | some (v, y) =>
          if y.prio < effPrio x.prio (s.clk - x.since) (s.partn part).age then State.mapQueues part n ((s.unmapQ part v y).mapQ part p x)
          else s

/-- The mapping done now. -/
def State.remap (s : State) (part : Nat) : State := State.mapQueues part (2 * (s.partn part).qtab.length + 1) s

/-- QUEUE_MAPPING: the policy core is woken (R397). -/
def execQueueMapping (part : Nat) (s : State) : Res := .next (s.remap part)

/-- QUEUE_AGE_BOUNDARY: a boundary of `kcfg.age` from the queue's `since`. -/
def execQueueAgeBoundary (part q : Nat) (s : State) : Res :=
  .next (match s.loadQ part q with
    | some x => if x.pend && !x.mapped && decide (x.since + (s.partn part).age ≤ s.clk) then s.remap part else s
    | none => s)

/-- QUEUE_SLICE_ELAPSED: a mapped queue completes `kcfg.slice` of mapped time. -/
def execQueueSliceElapsed (part q : Nat) (s : State) : Res :=
  .next (match s.loadQ part q with
    | some x => if x.mapped && decide (x.mappedAt + (s.partn part).slice ≤ s.clk) then s.remap part else s
    | none => s)

end Sys2Proof.Machine
end

