-- ==== Sys2Proof/Machine/Kickoff.lean ====
section
/-!
DEFINITION. The kickoff scheduler (R338-R349, R365, R371): acceptance of play descriptors, placement, binding and release of stages, launch
windows, rotation at slice boundaries, gang patience and drain sets.
-/

namespace Sys2Proof.Machine

/-! ## Image records (R369, R371) -/

/-- What the kickoff reads of a sealed image: its base and tenant, the region, the entry address, `.slots`, the address of the audit descriptor,
and of each tile initialiser the tile and the address of its data. -/
structure ImageRec where
  base : Nat
  live : Bool
  tenant : BitVec 16
  rb : Word
  rl : Word
  pc : Word
  slots : Nat
  audit : Nat
  tinit : List (Nat × Nat)

/-- The image record of the sealed range at a base (R371), read under key slot 0 (R369); of a LIVE entry if there is one, else of any entry that
still holds the range. -/
def State.image? (s : State) (base : Nat) : Option ImageRec :=
  let here := s.sealU.tab.filter (fun (p : Nat × SealEnt) => p.2.base == base && p.2.st != .free)
  match (here.filter (fun p => p.2.st == .live)) ++ here with
  | [] => none
  | p :: _ =>
    let e := p.2
    let r := base + fld (s.rdWord 0 (base + e.len - 64 + 48)) 39 0
    let w (i : Nat) : Word := s.rdWord 0 (r + 8 * i)
    let ti := fld (w 5) 31 0
    let n := if ti = 0 then 0 else fld (w 5) 47 32
    some {
      base := base, live := e.st == .live, tenant := e.tenant, rb := w 0 &&& 0x00FFFFFFFFFFFFFF#64, rl := w 1 &&& 0x00FFFFFFFFFFFFFF#64,
      pc := BitVec.ofNat 64 (base + fld (w 2) 31 0), slots := fld (w 3) 3 0, audit := base + fld (w 4) 31 0,
      tinit := (List.range n).map (fun i => let x := s.rdWord 0 (base + ti + 8 * i); (fld x 13 0, base + fld x 63 32)) }

/-- The stage of an index. -/
def PlayInst.stage? (i : PlayInst) (k : Nat) : Option StageEnt := i.stages[k]?
/-- The RCB of a stage. -/
def PlayInst.rcbOf (i : PlayInst) (st : StageEnt) : Nat := if st.srcb = 0 then i.rcb else st.srcb

/-! ## Records (R345, R346) -/

/-- Launch record statuses (R345). -/
def lrStarted : Nat := 0
/-- LATE -/
def lrLate : Nat := 1
/-- SKIPPED -/
def lrSkipped : Nat := 2
/-- DEFERRED -/
def lrDeferred : Nat := 3
/-- REFUSED -/
def lrRefused : Nat := 4
/-- REVOKED -/
def lrRevoked : Nat := 5
/-- NOROOM -/
def lrNoRoom : Nat := 6

/-- A counter of `kstat` (R346) one higher, saturating: its lowest bit is at `lo`. -/
def State.kcount (s : State) (part lo : Nat) : State :=
  s.modPartn part (fun p =>
    let v := fld p.kstat (lo + 15) lo
    { p with kstat := if v = 0xFFFF then p.kstat else p.kstat + (1#64 <<< lo) })

/-- The counter of a record. -/
def State.kcountFor (s : State) (part status : Nat) : State :=
  if status = lrSkipped then s.kcount part 0 else if status = lrLate then s.kcount part 16 else if status = lrDeferred then s.kcount part 32 else s

/-- The queue command that submitted a play is finished with the status of instance 0 (R391). -/
def State.playDone (s : State) (k : Nat) (by_ : Option (Nat × Nat × Word)) (status : Nat) : State :=
  match by_ with
  | some (part, q, seq) =>
    if k ≠ 0 then s
    else (match s.loadQ part q with | some x => s.storeQ part q (x.modCmd seq (fun c => c.finish status)) | none => s)
  | none => s

/-- The launch record of an instance, with its counter and its queue command (R345, R346, R391). -/
def State.launch_ (s : State) (i : PlayInst) (status delay stage : Nat) : State :=
  ((s.launchWrite i.part i.rcb i.lrec status i.k delay stage).kcountFor i.part status).playDone i.k i.byQueue status

/-! ## Acceptance (R338, R339) -/

/-- A play descriptor as read: its header's words and those of its stages. -/
def headerBad (w : List Word) : Bool :=
  let x := w.getD 3 0
  let n := fld x 29 24
  [0, 4, 5, 6].any (fun i => fld (w.getD i 0) 63 56 != 0) || w.getD 7 0 != 0 || fld x 63 52 != 0 || fld x 31 30 != 0 || fld x 23 22 != 0 ||
  fld x 21 20 == 3 || (fld x 21 20 == 2 && w.getD 2 0 == 0) || n == 0 || decide (32 < n) || decide (8 < fld x 35 32) ||
  decide (1000000 < fld x 19 0)

/-- A stage entry with a reserved field that is not zero, or a field outside its limits. -/
def stageBad (w : List Word) (sink : Bool) : Bool :=
  let x := w.getD 1 0
  let c := fld x 15 0
  fld (w.getD 0 0) 63 56 != 0 || fld (w.getD 2 0) 63 56 != 0 || fld x 63 32 != 0 || fld x 23 22 != 0 || fld x 19 17 != 0 ||
  (w.drop 4).any (fun y => y != 0) || c == 0 || decide (61440 < c) || decide (8 < fld x 31 28) ||
  (if sink then fld x 27 24 != 0 || fld x 31 28 != 0 else fld x 27 24 == 0)

/-- A stage entry from its words. -/
def stageOf (w : List Word) : StageEnt :=
  let x := w.getD 1 0
  { image := fld (w.getD 0 0) 55 0, count := fld x 15 0, gang := fld x 16 16 == 1, port := fld x 21 20, allow := fld x 27 24, wlim := fld x 31 28,
    srcb := fld (w.getD 2 0) 55 0, arg := w.getD 3 0 }

/-- The squads of a partition (R419). -/
def State.partSquads (s : State) (part : Nat) : List Nat :=
  let w := (s.partn part).psqd
  (List.range (2 ^ fld w 15 12)).map (fun i => fld w 11 0 + i)

/-- A stage that R339 refuses: its image, its tenant, its count, or its fan-in into the next stage. -/
def State.stageRefused (s : State) (part rcb : Nat) (st : StageEnt) (next : Option StageEnt) : Bool :=
  let r := if st.srcb = 0 then rcb else st.srcb
  (st.srcb != 0 && s.rcbParent st.srcb != rcb) ||
  (match s.image? st.image with
    | none => true
    | some m =>
      !m.live || m.tenant.toNat != (s.rcbEff r).tenant || m.slots == 0 || st.count % (if st.gang then 8 * m.slots else m.slots) != 0) ||
  (match next with
    | none => false
    | some n => decide (16 < (st.count + n.count - 1) / Nat.max n.count 1 * st.allow)) ||
  decide (part ≥ 32)

/-- The first stage that is refused, from index `k` on. -/
def State.firstRefused (s : State) (part rcb : Nat) : List StageEnt → Nat → Option Nat
  | [], _ => none
  | st :: r, k => if s.stageRefused part rcb st r.head? then some k else s.firstRefused part rcb r (k + 1)

/-- The RCB of a play is one of the partition's, of level 2 or deeper (R335, R338). -/
def State.playRcb (s : State) (part rcb : Nat) : Bool :=
  rcb % 256 == 0 && regionOf s.part rcb == .main && decide (2 ≤ s.rcbLevel rcb) && decide (s.rcbLevel rcb ≤ 7) &&
  s.rcbRoot rcb == fld (s.partn part).prcb 55 0

/-- The verdict on a descriptor (R339): a status and a stage index, or the instance that it describes. -/
def State.verdict (s : State) (part : Nat) (key : Nat) (at_ : Nat) (h : List Word) (by_ : Nat × Nat × Word) : Except (Nat × Nat) PlayInst :=
  let x := h.getD 3 0
  let n := fld x 29 24
  let rcb := fld (h.getD 0 0) 55 0
  if headerBad h || !s.playRcb part rcb then .error (lrRefused, 0)
  else
    match s.fwRead part key (at_ + 64) (64 * n), (if fld x 35 32 = 0 then some [] else s.fwRead part key (fld (h.getD 4 0) 55 0) (8 * fld x 35 32)) with
    | some b, some wb =>
      let ws := (List.range n).map (fun i => wordsOf (slice b (64 * i) 64) 8)
      match (List.range n).find? (fun i => stageBad (ws.getD i []) (i + 1 == n)) with
      | some i => .error (lrRefused, i)
      | none =>
        let sts := ws.map stageOf
        match s.firstRefused part rcb sts 0 with
        | some i => .error (lrRefused, i)
        | none =>
          if 120 * (s.partSquads part).length < (sts.map StageEnt.count).sum then .error (lrNoRoom, 0)
          else
            .ok {
              n := s.kick.next, acc := s.kick.next, part := part, rcb := rcb, t := if h.getD 1 0 = 0 then s.clk else (h.getD 1 0).toNat,
              period := (h.getD 2 0).toNat, window := if fld x 19 0 = 0 then 2000 else fld x 19 0, policy := fld x 21 20, patience := fld x 51 36,
              waits := (wordsOf wb (fld x 35 32)).map (fun a => a.toNat % 2 ^ 56), lrec := fld (h.getD 5 0) 55 0, drec := fld (h.getD 6 0) 55 0,
              stages := sts, k := 0, elig := none, late := false, released := false, dropped := false, relT := 0, alive := 0, drain := [], drainAt := none,
              byQueue := some by_, prio := (s.rcbEff rcb).prio, cells := [], left := sts.length, spawned := false }
    | _, _ => .error (lrRefused, 0)

/-- A play descriptor submitted by a queue command (R338, R339). -/
def State.submit (s : State) (part q : Nat) (x : Qcb) (c : QCmd) : State :=
  let key := (s.rcbEff x.rcb).key
  let done (t : State) (st : Nat) : State := t.playDone 0 (some (part, q, c.seq)) st
  if (s.partn part).pstate != .active then done s lrNoRoom
  else
    match s.fwRead part key c.arg.toNat 64 with
    | none => done s lrRefused
    | some b =>
      let h := wordsOf b 8
      match s.verdict part key c.arg.toNat h (part, q, c.seq) with
      | .error (st, i) => done (s.launchWrite part (fld (h.getD 0 0) 55 0) (fld (h.getD 5 0) 55 0) st 0 0 i) st
      | .ok inst =>
        let s1 := s.storeQ part q (x.modCmd c.seq (fun c => { c with inst := inst.n }))
        { s1 with kick := { s1.kick with insts := s1.kick.insts ++ [inst], next := inst.n + 1 } }

/-- PLAY: the next PLAY command of a queue that has not been submitted. -/
def execPlay (part q : Nat) (s : State) : Res :=
  .next (match s.loadQ part q with
    | some x => (match x.waiting 1 with | some c => s.submit part q x c | none => s)
    | none => s)

/-! ## Instances come due (R344) -/

/-- The next instance of a periodic play (R344). -/
def State.succeed (s : State) (i : PlayInst) : State :=
  if i.period = 0 || i.spawned then s
  else
    let j := { i with n := s.kick.next, k := i.k + 1, t := i.t + i.period, elig := none, late := false, released := false, dropped := false,
                      relT := 0, alive := 0, drain := [], drainAt := none, cells := [], left := i.stages.length, spawned := false }
    let s1 := s.modInst i.n (fun i => { i with spawned := true })
    { s1 with kick := { s1.kick with insts := s1.kick.insts ++ [j], next := j.n + 1 } }

/-- A completion object reads full: in main memory, in a resident tile's frame, or in a tile's log and backing store (R50, R67, R81). -/
def State.objectFull (s : State) (a : Nat) : Bool :=
  match regionOf s.part a with
  | .main => s.isFull (a / 16)
  | .vault q b => s.isFull (vaultAddr q b / 16)
  | .tile q t b =>
    let e := (s.squad q).tile t
    if e.st = .resident ∨ e.st = .leaving then s.isFull ((e.base q + b) / 16)
    else
      match (e.log.filter (fun x => x.gran == b / 16 && (x.op == opFill || x.op == opEmpty))).getLast? with
      | some x => x.op == opFill
      | none => s.isFull ((s.backing q t + b) / 16)
  | _ => false

/-- INSTANCE_DUE: from its launch time on, an instance is eligible once every completion object reads full. -/
def execInstanceDue (n : Nat) (s : State) : Res :=
  .next (match s.inst? n with
    | none => s
    | some i =>
      if s.clk < i.t then s
      else
        let s1 := s.succeed i
        if i.elig.isNone && i.waits.all s.objectFull then s1.modInst n (fun i => { i with elig := some s.clk }) else s1)

/-! ## Placement (R340, R341) -/

/-- An element of a list, as the device chooses. -/
def State.among {α : Type} (s : State) (l : List α) (d : α) : α × State := let c := s.choose l.length; (l.getD c.1 d, c.2)

/-- Squads of the drain sets of other instances of the partition: nothing new is placed there (R349). -/
def State.drained (s : State) (part n : Nat) : List Nat :=
  (s.kick.insts.filter (fun i => i.part == part && i.n != n)).flatMap (fun i => i.drain)

/-- The places that an instance may use now: free slots 0-14 of the partition's cores (R340), outside the drain sets of others. -/
def State.freeCells (s : State) (part n : Nat) : List (Nat × Nat) :=
  ((s.partSquads part).filter (fun q => !(s.drained part n).contains q)).flatMap (fun q =>
    ((squadCores q).filter (fun c => !(s.core c).barred)).flatMap (fun c => (s.freeSlots c).map (fun k => (c, k))))

/-- Every place of squads that are emptied. -/
def State.allCells (s : State) (qs : List Nat) : List (Nat × Nat) :=
  qs.flatMap (fun q => ((squadCores q).filter (fun c => !(s.core c).barred)).flatMap (fun c => (List.range 15).map (fun k => (c, k))))

/-- The tiles that an image initialises have no other owner on a squad (R341). -/
def State.tilesOk (s : State) (m : ImageRec) (q : Nat) : Bool :=
  m.tinit.all (fun x => let o := ((s.squad q).tile x.1).owner; o == 0 || o == m.tenant.toNat)

/-- Some `k` of the slots of a list, as the device chooses. -/
def State.pickSlots : Nat → State → List Nat → List Nat × State
  | 0, s, _ => ([], s)
  | k + 1, s, l =>
    let c := s.among l 0
    let r := State.pickSlots k c.2 (l.filter (fun x => x != c.1))
    (c.1 :: r.1, r.2)

/-- The slots of a core in a list of places. -/
def slotsIn (av : List (Nat × Nat)) (core : Nat) : List Nat := (av.filter (fun x => x.1 == core)).map Prod.snd
/-- The slot indices that all eight cores of a squad have in a list of places. -/
def gangRoom (av : List (Nat × Nat)) (q : Nat) : List Nat :=
  (List.range 15).filter (fun k => (squadCores q).all (fun c => av.contains (c, k)))

/-- `n` groups of `per` contexts, each on one core (R340): the places, and those left. -/
def State.placeFree (per : Nat) : Nat → State → List (Nat × Nat) → Option (List (Nat × Nat) × List (Nat × Nat) × State)
  | 0, s, av => some ([], av, s)
  | n + 1, s, av =>
    match (av.map Prod.fst).eraseDups.filter (fun c => decide (per ≤ (slotsIn av c).length)) with
    | [] => none
    | c0 :: r =>
      let c := s.among (c0 :: r) c0
      let k := State.pickSlots per c.2 (slotsIn av c.1)
      let use := k.1.map (fun x => (c.1, x))
      (State.placeFree per n k.2 (av.filter (fun x => !use.contains x))).map (fun z => (use ++ z.1, z.2))

/-- `n` gang groups of 8 `per` contexts, each on one squad in the same slots of all eight cores (R340). -/
def State.placeGang (per : Nat) : Nat → State → List (Nat × Nat) → Option (List (Nat × Nat) × List (Nat × Nat) × State)
  | 0, s, av => some ([], av, s)
  | n + 1, s, av =>
    match (av.map (fun x => x.1 / 8)).eraseDups.filter (fun q => decide (per ≤ (gangRoom av q).length)) with
    | [] => none
    | q0 :: r =>
      let q := s.among (q0 :: r) q0
      let k := State.pickSlots per q.2 (gangRoom av q.1)
      let use := k.1.flatMap (fun x => (squadCores q.1).map (fun c => (c, x)))
      (State.placeGang per n k.2 (av.filter (fun x => !use.contains x))).map (fun z => (use ++ z.1, z.2))

/-- One stage placed. -/
def State.placeStage (s : State) (tiles : Bool) (av : List (Nat × Nat)) (st : StageEnt) :
    Option (List (Nat × Nat) × List (Nat × Nat) × State) :=
  match s.image? st.image with
  | none => none
  | some m =>
    let ok := av.filter (fun x => !tiles || s.tilesOk m (x.1 / 8))
    let r := if st.gang then State.placeGang m.slots (st.count / (8 * Nat.max m.slots 1)) s ok
             else State.placeFree m.slots (st.count / Nat.max m.slots 1) s ok
    r.map (fun z => (z.1, av.filter (fun x => !z.1.contains x), z.2.2))

/-- Stages placed in an order, each under its index. -/
def State.placeIn (tiles : Bool) : List (Nat × StageEnt) → State → List (Nat × Nat) → Option (Tbl (List (Nat × Nat)) × State)
  | [], s, _ => some ([], s)
  | x :: r, s, av =>
    match s.placeStage tiles av x.2 with
    | none => none
    | some z => (State.placeIn tiles r z.2.2 z.2.1).map (fun w => (w.1.put x.1 z.1, w.2))

/-- The order in which the stages of a play are placed: gangs first, larger groups first. -/
def State.placeOrder (s : State) (sts : List StageEnt) : List (Nat × StageEnt) :=
  let l := (List.range sts.length).zip sts
  let per (st : StageEnt) : Nat := match s.image? st.image with | some m => m.slots | none => 0
  [true, false].flatMap (fun g => (List.range 16).flatMap (fun k => l.filter (fun x => x.2.gang == g && per x.2 == 15 - k)))

/-- A group of contexts to place together (R340): its stage, whether it is a gang, its slots on a core, and the squads ruled out for it. -/
structure PGroup where
  stage : Nat
  gang : Bool
  per : Nat
  out : List Nat

/-- The groups of stages, each under its index; none where an image is gone. -/
def State.groupsOf (s : State) (tiles : Bool) (qs : List Nat) : List (Nat × StageEnt) → Option (List PGroup)
  | [] => some []
  | x :: r =>
    match s.image? x.2.image, s.groupsOf tiles qs r with
    | some m, some l =>
      let out := if tiles then qs.filter (fun q => !s.tilesOk m q) else []
      let n := if x.2.gang then x.2.count / (8 * Nat.max m.slots 1) else x.2.count / Nat.max m.slots 1
      some (List.replicate n { stage := x.1, gang := x.2.gang, per := m.slots, out := out } ++ l)
    | _, _ => none

/-- The ways to place a group, one for each core or squad that has room. Which of its free slots are taken makes no difference to what else fits. -/
def PGroup.ways (g : PGroup) (av : List (Nat × Nat)) : List (List (Nat × Nat)) :=
  if g.gang then
    ((av.map (fun x => x.1 / 8)).eraseDups.filter (fun q => !g.out.contains q && decide (g.per ≤ (gangRoom av q).length))).map (fun q =>
      ((gangRoom av q).take g.per).flatMap (fun k => (squadCores q).map (fun c => (c, k))))
  else
    ((av.map Prod.fst).eraseDups.filter (fun c => !g.out.contains (c / 8) && decide (g.per ≤ (slotsIn av c).length))).map (fun c =>
      ((slotsIn av c).take g.per).map (fun k => (c, k)))

/-- Every way to place groups tried, gangs first: the first that holds them all. -/
def searchPlaces : List PGroup → List (Nat × Nat) → Option (List (Nat × List (Nat × Nat)))
  | [], _ => some []
  | g :: r, av => (g.ways av).findSome? (fun cs => (searchPlaces r (av.filter (fun x => !cs.contains x))).map (fun z => (g.stage, cs) :: z))

/-- The places of every stage at once among `av`, in index order, or none if there is no placement (R340); with squads ruled out by their tiles if
`tiles` (R341). The device's choices are tried first. -/
def State.fitIn (s : State) (tiles : Bool) (sts : List StageEnt) (av : List (Nat × Nat)) : Option (List (List (Nat × Nat)) × State) :=
  let l := s.placeOrder sts
  let out (r : Tbl (List (Nat × Nat)) × State) (u : State) : List (List (Nat × Nat)) × State :=
    ((List.range sts.length).map (fun i => r.1.getD [] i), u)
  match State.placeIn tiles l s av with
  | some r => some (out r r.2)
  | none =>
    match s.groupsOf tiles ((av.map (fun x => x.1 / 8)).eraseDups) l with
    | none => none
    | some gs =>
      (searchPlaces gs av).map (fun z => ((List.range sts.length).map (fun i => (z.filter (fun x => x.1 == i)).flatMap Prod.snd), s))

/-- Slots of the partition that contexts of a tenant hold, that are reserved for it, and that an unanswered message loads for it (R348). -/
def State.slotsHeld (s : State) (part tenant : Nat) : Nat :=
  (s.kick.claims.filter (fun x => x.2.2 == tenant && s.corePart x.1 == some part && !s.preemptDone x.1 &&
    !(match s.at? x.1 x.2.1 with | some c => c.tenid.toNat == tenant | none => false))).length +
  (s.ctxs.filter (fun c => s.part.isBarrel c.core && s.corePart c.core == some part && decide (c.slot < 15) && c.tenid.toNat == tenant)).length +
  ((s.kick.insts.filter (fun i => i.part == part && (s.rcbEff i.rcb).tenant == tenant)).map (fun i => i.reserved.length)).sum

/-- A tenant may take `n` slots more under its `scap` (R348). -/
def State.underCap (s : State) (part rcb n : Nat) : Bool :=
  let e := s.rcbEff rcb
  e.scap == 0 || decide (s.slotsHeld part e.tenant + n ≤ e.scap)

/-- The slots that an instance needs. -/
def PlayInst.need (i : PlayInst) : Nat := (i.stages.map StageEnt.count).sum
/-- A stage of the play has gang placement. -/
def PlayInst.hasGang (i : PlayInst) : Bool := i.stages.any StageEnt.gang
/-- The instance waits for places. -/
def PlayInst.waiting (i : PlayInst) : Bool := i.elig.isSome && i.cells.isEmpty && !i.dropped && !i.released

/-! ## The order of waiting work (R347) -/

/-- Work that waits for slots: an instance, or a context sent out by a rotation, in its save area. -/
inductive Waiter where
  | inst (i : PlayInst)
  | ctx (area : Nat) (c : Ctx) (stay : Option Nat)

/-- The order of R347: effective priority, then the earlier of T_k or the save, then acceptance. -/
def State.rank (s : State) (part : Nat) (w : Waiter) : Nat × Nat × Nat :=
  let age := (s.partn part).age
  match w with
  | .inst i => (effPrio (s.rcbEff i.rcb).prio (s.clk - i.elig.getD s.clk) age, i.t, i.acc)
  | .ctx _ c _ => (effPrio (s.rcbEff c.rcb.toNat).prio (s.clk - c.loadedAt) age, c.loadedAt, 0)

/-- One rank comes before another. -/
def rankLt (x y : Nat × Nat × Nat) : Bool :=
  decide (y.1 < x.1) || (x.1 == y.1 && (decide (x.2.1 < y.2.1) || (x.2.1 == y.2.1 && decide (x.2.2 < y.2.2))))

/-- An element put into a list in order. -/
def insBy {α : Type} (lt : α → α → Bool) (a : α) : List α → List α
  | [] => [a]
  | b :: r => if lt a b then a :: b :: r else b :: insBy lt a r

/-- The launch window of an instance whose policy is not LATE has passed without its release (R344). -/
def State.missed (s : State) (i : PlayInst) : Bool := i.policy != 1 && decide (i.t + i.window < s.clk)

/-- Everything that waits in a partition, first in the order of R347 first. -/
def State.waiters (s : State) (part : Nat) : List Waiter :=
  let is := (s.kick.insts.filter (fun i => i.part == part && i.waiting && !s.missed i)).map Waiter.inst
  let cs := s.kick.outs.filterMap (fun o =>
    (List.find? (fun (p : Nat × Ctx) => p.2.cid == o.1 && p.2.ptag == part) s.saved).map (fun p => Waiter.ctx p.1 p.2 o.2))
  (is ++ cs).foldr (insBy (fun x y => rankLt (s.rank part x) (s.rank part y))) []

/-- The places of `av` that a waiting context may take: on the core that keeps its owner state, if one does (R353), within its cap. -/
def State.ctxCells (s : State) (part : Nat) (c : Ctx) (stay : Option Nat) (av : List (Nat × Nat)) : List (Nat × Nat) :=
  if !s.underCap part c.rcb.toNat 1 then []
  else av.filter (fun x => (match stay with | some k => x.1 == k | none => true) && s.preemptDone x.1)

/-- Work that comes before an instance and could take free slots now. -/
def State.blockedBy (s : State) (i : PlayInst) : List Waiter → Bool
  | [] => false
  | .inst j :: r =>
    if j.n = i.n then false
    else if s.underCap j.part j.rcb j.need && (s.fitIn true j.stages (s.freeCells j.part j.n)).isSome then true
    else s.blockedBy i r
  | .ctx _ c st :: r => if (s.ctxCells i.part c st (s.freeCells i.part 0)).isEmpty then s.blockedBy i r else true

/-! ## Release (R341-R343) -/

/-- A tile initialiser applied on a squad: an unowned tile gets the stage's tenant, and its backing store the data (R341). -/
def State.tileInit (s : State) (m : ImageRec) (q : Nat) (x : Nat × Nat) : State :=
  let e := (s.squad q).tile x.1
  if e.owner ≠ 0 then s
  else
    let s1 := s.modTile q x.1 (fun e => { e with owner := m.tenant.toNat, st := .absent, log := [] })
    let dst := s1.backing q x.1
    let key := s1.tileKey q x.1
    let data := s1.rdMain 0 x.2 4096
    (List.range 256).foldl (fun (t : State) j => (t.unitFull (dst + 16 * j) true).serveHome (dst / 16 + j)) (s1.unitWrite key dst data)

/-- The inbound half that the kickoff binds for a context of stage `i`: stream `port` of the stage before it, with what its senders have been
granted (R342 steps 1 and 3). -/
def inboundOf (up : Option StageEnt) (count j : Nat) : Option (Nat × InHalf) :=
  up.map (fun u =>
    let senders := ((List.range u.count).filter (fun x => x % Nat.max count 1 == j)).length
    (u.port, { bound := true, allow := u.allow, wlim := if u.wlim = 0 then 8 else u.wlim, granted := senders * u.allow, msgs := [] }))

/-- The outbound half to a context of the next stage (R342 step 3). -/
def outboundOf (st : StageEnt) (next : Option (List (Nat × Nat))) (j : Nat) : Option (Nat × OutHalf) :=
  next.map (fun cells =>
    let t := cells.getD (j % Nat.max cells.length 1) (0, 0)
    (st.port, { bound := true, core := t.1, slot := t.2, pstrm := st.port, allow := st.allow, wlim := if st.wlim = 0 then 8 else st.wlim }))

/-- The streams of a context of a stage. -/
def stageStreams (i : Option (Nat × InHalf)) (o : Option (Nat × OutHalf)) : Vector StreamSt 4 :=
  Vector.ofFn (fun (k : Fin 4) =>
    { out := (match o with | some x => if x.1 = k.val then x.2 else StreamSt.unbound.out | none => StreamSt.unbound.out),
      inn := (match i with | some x => if x.1 = k.val then x.2 else StreamSt.unbound.inn | none => StreamSt.unbound.inn) })

/-- The next gang number (R281). -/
def nextGang (g : BitVec 16) : BitVec 16 := if g = BitVec.allOnes 16 then 1 else g + 1

/-- Context `j` of stage `k` of an instance, in the state of R29 and R342, for a place; it is put into the slot, or into its save area where
the slot still holds another context (R365). -/
def State.createCtx (s : State) (i : PlayInst) (k : Nat) (st : StageEnt) (m : ImageRec) (j : Nat) (cell : Nat × Nat) : State :=
  let rcb := i.rcbOf st
  let e := s.rcbEff rcb
  let group := 8 * Nat.max m.slots 1
  let s0 := if st.gang && j % group == 0 then { s with kick := { s.kick with gang := nextGang s.kick.gang } } else s
  let tag := s0.newTag 65536
  let g := ((((Ctx.fresh.g.set 1 st.arg).set 2 (BitVec.ofNat 64 j)).set 3 (BitVec.ofNat 64 st.count)).set 61 m.rb).set 62 m.rl
  let up := if k = 0 then none else i.stage? (k - 1)
  let c : Ctx := { Ctx.fresh with
    live := true, core := cell.1, slot := cell.2, cid := s0.nextCid, pc := m.pc, npc := m.pc, g := g, tenid := BitVec.ofNat 16 e.tenant,
    ctxtag := tag.1, ptag := i.part, key := e.key, rcb := BitVec.ofNat 64 rcb, eff := e, gang := if st.gang then s0.kick.gang else 0,
    anchorCore := cell.1, anchorSlot := cell.2, entry := m.pc, loadedAt := s.clk, inst := i.n, att := st.gang, notBefore := s.cyc + 1,
    audw := if (s.partn i.part).audit then s.windowsAt m.audit else Ctx.fresh.audw,
    streams := stageStreams (inboundOf up st.count j) (if k + 1 < i.stages.length then outboundOf st i.cells[k + 1]? j else none) }
  let c1 : Ctx := { c with save := tag.2.newSave c }
  let s1 := { tag.2 with nextCid := tag.2.nextCid + 1 }
  if (s1.at? cell.1 cell.2).isSome then
    let a := c1.save.toNat
    let b := c1.forArea s.clk
    let s2 := s1.storeArea a b
    { s2 with saved := s2.saved.put a b }
  else (((s1.resumePins cell.1 c1.tenid).place c1).wakeCore cell.1).endRetain cell.1 rcb

/-- The streams of a gang stage start at its entry, with every member attached (R281). -/
def State.startStreams (s : State) (m : ImageRec) (cells : List (Nat × Nat)) : State :=
  (cells.map (fun x => (x.1 / 8, x.2))).eraseDups.foldl (fun t x =>
    t.modStream x.1 x.2 (fun _ => { FeStream.reset with st := .run, next := m.pc, who := (t.at? (8 * x.1) x.2).map Ctx.gangId })) s

/-- A stage of an instance released on its places (R341, R342). -/
def State.releaseStage (s : State) (i : PlayInst) (k : Nat) (st : StageEnt) (m : ImageRec) : State :=
  let cells := i.cells.getD k []
  let s1 := ((cells.map (fun x => x.1 / 8)).eraseDups).foldl (fun t q => m.tinit.foldl (fun u x => u.tileInit m q x) t) s
  let s2 := ((List.range cells.length).zip cells).foldl (fun (t : State) x => t.createCtx i k st m x.1 x.2) s1
  let s3 := if st.gang then s2.startStreams m cells else s2
  s3.modInst i.n (fun i => { i with left := k, alive := i.alive + st.count })

/-- The places of unreleased stages are free again, and a drain for the instance ends (R343, R344, R349); the stages already released run on. Where
every context of theirs has halted, the end record is due (R345). -/
def State.giveUp (s : State) (i : PlayInst) : State :=
  let s1 := s.succeed i
  if i.alive = 0 then (if i.left < i.stages.length then (s1.dropInst i.n).endRecord i else s1.dropInst i.n)
  else s1.modInst i.n (fun i => { i with dropped := true, released := true, left := 0, drain := [], drainAt := none })

/-- A stage whose tiles another tenant has taken on its squads since it was placed: other places, or NOROOM where none avoids such squads (R341). -/
def State.replace (s : State) (i : PlayInst) (k : Nat) (st : StageEnt) : State :=
  match s.fitIn true [st] (s.freeCells i.part i.n ++ i.cells.getD k []) with
  | some r => r.2.modInst i.n (fun i => { i with cells := i.cells.set k (r.1.headD []) })
  | none => if (s.fitIn true [st] (s.allCells (s.partSquads i.part))).isNone then (s.giveUp i).launch_ i lrNoRoom 0 0 else s

/-- The next stage of a placed instance is released, from the sink back to the source; with the source the launch record is written (R342-R345).
A stage whose image is no longer live is not released. -/
def State.releaseNext (s : State) (i : PlayInst) : State :=
  match i.left with
  | 0 => s
  | k + 1 =>
    match i.stage? k with
    | none => s
    | some st =>
      match (s.image? st.image).filter (fun m => m.live) with
      | none => (s.giveUp i).launch_ i lrRevoked 0 k
      | some m =>
        if (i.cells.getD k []).any (fun x => !s.tilesOk m (x.1 / 8)) then s.replace i k st
        else
        let s1 := s.releaseStage i k st m
        if k ≠ 0 then s1
        else
          (s1.modInst i.n (fun i => { i with released := true, relT := s.clk - i.t })).launch_ i (if i.t + i.window < s.clk then lrLate else lrStarted) (s.clk - i.t) 0

/-- An instance placed on cells: they are reserved, and a drain for it ends. -/
def State.reserve (s : State) (i : PlayInst) (cells : List (List (Nat × Nat))) : State :=
  s.modInst i.n (fun i => { i with cells := cells, drain := [], drainAt := none })

/-- An eligible instance tries to take its places (R340, R341, R347). One that no placement can hold because of the owners of its tiles ends
with NOROOM; one whose image is gone from the seal table with REVOKED. -/
def State.tryPlace (s : State) (i : PlayInst) : State :=
  match (List.range i.stages.length).reverse.find? (fun k => match i.stage? k with | some st => (s.image? st.image).isNone | none => false) with
  | some k => (s.giveUp i).launch_ i lrRevoked 0 k
  | none =>
    let all := s.allCells (s.partSquads i.part)
    if (s.fitIn true i.stages all).isNone && (s.fitIn false i.stages all).isSome then (s.giveUp i).launch_ i lrNoRoom 0 0
    else if !s.underCap i.part i.rcb i.need || s.blockedBy i (s.waiters i.part) then s
    else
      match s.fitIn true i.stages (s.freeCells i.part i.n) with
      | some r => r.2.reserve i r.1
      | none => s

/-- An instance of policy SKIP or NEXT whose window has passed is dropped (R344). -/
def State.dropLate (s : State) (i : PlayInst) : State := (s.giveUp i).launch_ i (if i.policy = 0 then lrSkipped else lrDeferred) 0 0

/-- STAGE_RELEASE: an eligible instance is placed, or the next stage of a placed one is released once its places are empty. After its window the
missed-slot policy comes first (R344). -/
def execStageRelease (n : Nat) (s : State) : Res :=
  .next (match s.inst? n with
    | none => s
    | some i =>
      if i.dropped || i.released then s
      else if s.missed i then s.dropLate i
      else if i.waiting then s.tryPlace i
      else if i.cells.isEmpty then s
      else if (i.cells.getD (i.left - 1) []).any (fun x => (s.at? x.1 x.2).isSome) then s
      else s.releaseNext i)

/-- LAUNCH_WINDOW_EXPIRY: the missed-slot policy of an instance not yet released (R344). -/
def execLaunchWindowExpiry (n : Nat) (s : State) : Res :=
  .next (match s.inst? n with
    | none => s
    | some i =>
      if s.clk < i.t + i.window || i.released || i.dropped then s
      else if i.policy = 1 then s.modInst n (fun i => { i with late := true })
      else s.dropLate i)

/-! ## Pre-emption messages of the kickoff (R353) -/

/-- One entry of a pre-emption descriptor: core, slot, outgoing area and incoming area. -/
structure Move where
  core : Nat
  slot : Nat
  out : Nat
  inn : Nat
  deriving DecidableEq, Repr

/-- A place for a descriptor: 256 bytes of the partition's main memory, as the policy core chooses (R353). -/
def State.descPlace (s : State) (part : Nat) : Nat × State :=
  let r := s.partChans part
  let c := s.choose (r.2 * 2 ^ 24 - 1)
  (r.1 * 2 ^ 31 + 128 * c.1, c.2)

/-- The message to one core for the moves that name it. -/
def State.sendMoves (s : State) (part reason : Nat) (mspill : Bool) (core : Nat) (ms : List Move) : State :=
  let p := s.descPlace part
  let word (k : Nat) (f : Move → Nat) : Word := BitVec.ofNat 64 ((((ms.filter (fun m => m.slot == k)).map f).head?).getD 0)
  let ws := ((List.range 15).flatMap (fun k => [word k (fun m => m.out), word k (fun m => m.inn)])) ++ [0, 0]
  let s2 := p.2.unitWords 0 p.1 ws
  let slots := (((ms.filter (fun m => m.out != 0 || m.inn != 0)).map (fun m => m.slot)).eraseDups.map (fun k => 2 ^ k)).sum
  let s3 := s2.preemptMessage core mspill reason slots p.1
  { s3 with kick := { s3.kick with
      claims := s3.kick.claims.filter (fun x => x.1 != core) ++ (ms.filter (fun m => m.inn != 0)).map (fun m => (core, m.slot, (Tbl.getD s3.saved Ctx.fresh m.inn).tenid.toNat)) } }

/-- The messages for a list of moves, one to each core. -/
def State.sendAll (s : State) (part reason : Nat) (mspill : Bool) (ms : List Move) : State :=
  ((ms.map Move.core).eraseDups).foldl (fun t c => t.sendMoves part reason mspill c (ms.filter (fun m => m.core == c))) s

/-- The number of the thread whose place a slot is: its own context, or the away thread that it anchors. -/
def Ctx.thread (c : Ctx) : Nat := match c.wait with | .anchor cid => cid | _ => c.cid

/-- A context is sent out: it waits to be loaded again once it is saved (R347). -/
def State.goOut (s : State) (cid : Nat) (stay : Option Nat) : State :=
  { s with kick := { s.kick with outs := s.kick.outs.filter (fun o => o.1 != cid) ++ [(cid, stay)] } }
/-- A context is sent in again. -/
def State.goIn (s : State) (cid : Nat) : State := { s with kick := { s.kick with outs := s.kick.outs.filter (fun o => o.1 != cid) } }

/-! ## Rotation (R348, R365) -/

/-- The context belongs to a queue that is marked non-pre-emptible (R348, R391). -/
def State.notPreemptible (s : State) (c : Ctx) : Bool :=
  match s.inst? c.inst with
  | some i =>
    (match i.byQueue with
      | some (part, q, _) => (match s.loadQ part q with | some x => x.npe && decide (s.clk < x.npeend) | none => false)
      | none => false)
  | none => false

/-- The loaded contexts that have run a slice and may be rotated out, in the order in which they are taken (R348). -/
def State.candidates (s : State) (part : Nat) : List Ctx :=
  let l := s.ctxs.filter (fun c =>
    s.part.isBarrel c.core && s.corePart c.core == some part && c.ptag == part && decide (c.slot < 15) && c.save != 0 &&
    decide (c.loadedAt + (s.partn part).slice ≤ s.clk) && s.preemptDone c.core && !s.notPreemptible c && c.wait != .moving && !(s.drained part 0).contains (squadOf c.core))
  l.foldr (insBy (fun x y => decide (x.eff.prio < y.eff.prio) || (x.eff.prio == y.eff.prio && decide (x.loadedAt < y.loadedAt)))) []

/-- A rotation under way: the state, the candidates left, and the moves so far. -/
structure Rotation where
  s : State
  cand : List Ctx
  moves : List Move

/-- Slots of a tenant, with those that the moves so far will load for it (R348). -/
def Rotation.held (r : Rotation) (part tenant : Nat) : Nat :=
  r.s.slotsHeld part tenant + (r.moves.filter (fun m => m.inn != 0 && (Tbl.getD r.s.saved Ctx.fresh m.inn).tenid.toNat == tenant &&
    !(match r.s.at? m.core m.slot with | some c => c.tenid.toNat == tenant | none => false))).length

/-- A tenant may take `n` slots more, with the moves so far (R348). -/
def Rotation.underCap (r : Rotation) (part rcb n : Nat) : Bool :=
  let e := r.s.rcbEff rcb
  e.scap == 0 || decide (r.held part e.tenant + n ≤ e.scap)

/-- Waiting work whose tenant holds fewer slots than its floor, which comes first and which no priority holds back (DEDUCED, log 92; R348). -/
def Rotation.owed (r : Rotation) (part : Nat) (w : Waiter) : Bool :=
  let rcb := match w with | .inst i => i.rcb | .ctx _ c _ => c.rcb.toNat
  let e := r.s.rcbEff rcb
  decide (r.held part e.tenant < e.sfloor)

/-- The candidates that give way to waiting work of an effective priority, or to work that its tenant's floor owes a slot (R348). -/
def Rotation.victims (r : Rotation) (part prio : Nat) (owed : Bool) : List Ctx :=
  let gone (t : BitVec 16) : Nat := (r.moves.filter (fun m => m.out != 0 && (match r.s.at? m.core m.slot with | some c => c.tenid == t | none => false))).length
  (r.cand.foldl (fun (l : List Ctx) c =>
    let n := gone c.tenid + (l.filter (fun x => x.tenid == c.tenid)).length
    if (owed || decide (c.eff.prio ≤ prio)) && decide (c.eff.sfloor + n < r.s.slotsHeld part c.tenid.toNat) then l ++ [c] else l) [])

/-- The places that free slots and moves leave for waiting work. -/
def Rotation.free (r : Rotation) (part n : Nat) : List (Nat × Nat) :=
  (r.s.freeCells part n).filter (fun x => !r.moves.any (fun m => m.core == x.1 && m.slot == x.2))

/-- A victim leaves its slot for an incoming area, or for none. -/
def Rotation.swap (r : Rotation) (v : Ctx) (inn : Nat) (mspill : Bool) : Rotation :=
  { s := r.s.goOut v.thread (if mspill then none else some v.core), cand := r.cand.filter (fun c => !(c.core == v.core && c.slot == v.slot)),
    moves := r.moves ++ [{ core := v.core, slot := v.slot, out := v.save.toNat, inn := inn }] }

/-- The places with the fewest victims that hold an instance: the free ones, then those of the first victims in order. -/
def Rotation.grow (r : Rotation) (i : PlayInst) (free : List (Nat × Nat)) : List Ctx → List Ctx → Option (List (List (Nat × Nat)) × State)
  | used, [] => r.s.fitIn true i.stages (free ++ used.map (fun c => (c.core, c.slot)))
  | used, v :: vs =>
    match r.s.fitIn true i.stages (free ++ used.map (fun c => (c.core, c.slot))) with
    | some x => some x
    | none => r.grow i free (used ++ [v]) vs

/-- An instance takes places that rotation frees: a play with a gang reserves them (R340); the contexts of another are written to their save
areas, and the incoming halves load them (R365). -/
def Rotation.take (r : Rotation) (i : PlayInst) (cells : List (List (Nat × Nat))) (vs : List Ctx) (mspill : Bool) : Rotation :=
  let flat := cells.flatten
  let used := vs.filter (fun v => flat.contains (v.core, v.slot))
  let s1 := r.s.reserve i cells
  if used.isEmpty then { r with s := s1 }
  else if i.hasGang then used.foldl (fun (t : Rotation) v => t.swap v 0 mspill) { r with s := s1 }
  else
    let rel := (List.range i.stages.length).foldl (fun (t : State) _ => match t.inst? i.n with
      | some j => if j.dropped || j.released then t else t.releaseNext j
      | none => t) s1
    let areaFor (v : Ctx) : Nat := ((List.find? (fun (p : Nat × Ctx) => p.2.inst == i.n && p.2.core == v.core && p.2.slot == v.slot) rel.saved).map Prod.fst).getD 0
    used.foldl (fun (t : Rotation) v => if areaFor v = 0 then t else t.swap v (areaFor v) mspill) { r with s := rel }

/-- One piece of waiting work in a rotation. -/
def Rotation.serve (part : Nat) (mspill : Bool) (r : Rotation) (w : Waiter) : Rotation :=
  let vs := r.victims part (r.s.rank part w).1 (r.owed part w)
  match w with
  | .inst i =>
    if !r.underCap part i.rcb i.need then r
    else
      match r.grow i (r.free part i.n) [] vs with
      | some x => ({ r with s := x.2 } : Rotation).take i x.1 vs mspill
      | none => r
  | .ctx area c stay =>
    match (if r.underCap part c.rcb.toNat 1 then r.s.ctxCells part c stay (r.free part 0) else []) with
    | x :: _ => { r with s := r.s.goIn c.cid, moves := r.moves ++ [{ core := x.1, slot := x.2, out := 0, inn := area }] }
    | [] =>
      match vs.filter (fun v => (match stay with | some k => v.core == k | none => true)) with
      | v :: _ =>
        if v.tenid == c.tenid || r.underCap part c.rcb.toNat 1 then
          let t := r.swap v area mspill
          { t with s := t.s.goIn c.cid }
        else r
      | [] => r

/-- The firmware saves every context of a core that two supervisor faults have barred, and the kickoff places them elsewhere (R354). -/
def State.evacuate (s : State) (part : Nat) : State :=
  (s.ctxs.filter (fun c => (s.core c.core).barred && c.ptag == part && decide (c.slot < 15))).foldl (fun t c =>
    match t.savedForm c with
    | some (x, b) =>
      let a := if b.save = 0 then t.newSave b else b.save
      if a = 0 then t else (t.storeCtx x { b with save := a } a.toNat).goOut x.cid none
    | none => t) s

/-- SLICE_ROTATION: at a slice boundary the work that waits takes free slots, and slots of contexts that are rotated out. -/
def execSliceRotation (part : Nat) (s : State) : Res :=
  .next (
    let now := s.clk / Nat.max (s.partn part).slice 1
    if (s.partn part).pstate != .active || decide (now ≤ (s.partn part).slices) then s
    else
      let s1 := (s.modPartn part (fun p => { p with slices := now })).evacuate part
      let c := s1.choose 2
      let r0 : Rotation := { s := c.2, cand := c.2.candidates part, moves := [] }
      let ws := s1.waiters part
      let r := (ws.filter (r0.owed part) ++ ws.filter (fun w => !r0.owed part w)).foldl (Rotation.serve part (c.1 == 1)) r0
      r.s.sendAll part 1 (c.1 == 1) r.moves)

/-! ## Gang patience and drains (R349) -/

/-- The squads of a partition in the order in which a drain chooses them: most free slots first, then the lowest number. -/
def State.drainOrder (s : State) (part : Nat) : List Nat :=
  let free (q : Nat) : Nat := ((squadCores q).map (fun c => (s.freeSlots c).length)).sum
  (s.partSquads part).foldr (insBy (fun x y => decide (free y < free x) || (free x == free y && decide (x < y)))) []

/-- The sublists of `n` elements, those with the first elements first. -/
def choices {α : Type} : Nat → List α → List (List α)
  | 0, _ => [[]]
  | _ + 1, [] => []
  | n + 1, a :: r => (choices n r).map (fun l => a :: l) ++ choices (n + 1) r

/-- The smallest group of squads, the first such group in order, that would hold the gang stages if emptied. -/
def State.drainSet (s : State) (i : PlayInst) : List Nat :=
  let qs := s.drainOrder i.part
  let ok (l : List Nat) : Bool := (s.fitIn true (i.stages.filter StageEnt.gang) (s.allCells l)).isSome
  ((List.range (qs.length + 1)).findSome? (fun n => List.find? ok (choices n qs))).getD []

/-- A gang instance that has waited longer than its patience after its launch time (R349). -/
def State.impatient (s : State) (i : PlayInst) : Bool :=
  let us := if i.patience = 0 then fld (s.partn i.part).kcfg 31 16 else i.patience
  i.waiting && i.hasGang && i.drain.isEmpty && decide (i.t + 1000 * us ≤ s.clk)

/-- GANG_PATIENCE_EXPIRY: the waiting gang that comes first chooses a drain set, if its partition has none. -/
def execGangPatienceExpiry (n : Nat) (s : State) : Res :=
  .next (match s.inst? n with
    | none => s
    | some i =>
      let first := (s.waiters i.part).findSome? (fun w => match w with | .inst j => if s.impatient j then some j.n else none | .ctx _ _ _ => none)
      if first != some n || s.kick.insts.any (fun j => j.part == i.part && !j.drain.isEmpty) then s
      else
        let ds := s.drainSet i
        if ds.isEmpty then s else (s.modInst n (fun i => { i with drain := ds, drainAt := some s.clk })).kcount i.part 48)

/-- The contexts still on a drain set, that may be moved now. -/
def State.drainMoves (s : State) (ds : List Nat) : List Ctx :=
  s.ctxs.filter (fun c => s.part.isBarrel c.core && ds.contains (squadOf c.core) && decide (c.slot < 15) && c.save != 0 && c.wait != .moving &&
    s.preemptDone c.core && !s.notPreemptible c)

/-- DRAIN_EXPIRY: after the drain limit, the contexts on the set are saved, those saved are loaded on other cores, and the gang is placed once it
fits. -/
def execDrainExpiry (part : Nat) (s : State) : Res :=
  .next (match List.find? (fun (i : PlayInst) => i.part == part && !i.drain.isEmpty) s.kick.insts with
    | none => s
    | some i =>
      if s.clk < i.drainAt.getD s.clk + 1000 * fld (s.partn part).kcfg 47 32 then s
      else
        let outs := s.drainMoves i.drain
        let r0 : Rotation := outs.foldl (fun (t : Rotation) v => t.swap v 0 true) { s := s, cand := [], moves := [] }
        let r := (s.waiters part).foldl (fun (t : Rotation) w => match w with
          | .ctx area c stay =>
            (match (if t.underCap part c.rcb.toNat 1 then t.s.ctxCells part c stay (t.free part 0) else []) with
              | x :: _ => { t with s := t.s.goIn c.cid, moves := t.moves ++ [{ core := x.1, slot := x.2, out := 0, inn := area }] }
              | [] => t)
          | .inst _ => t) r0
        let s1 := r.s.sendAll part 2 true r.moves
        if !i.waiting || s1.missed i || !s1.underCap part i.rcb i.need then s1
        else
          match s1.fitIn true i.stages (s1.freeCells part i.n) with
          | some x => x.2.reserve i x.1
          | none => s1)

end Sys2Proof.Machine
end

