-- ==== Sys2Proof/Machine/Kmac.lean ====
section
/-!
DEFINITION. The seal's hash (R372): Keccak-f[1600], its sponge with the rate of 136 bytes, and KMAC256 as SP 800-185 defines it.
-/

namespace Sys2Proof.Machine

/-- A Keccak state: lane (x, y) at x + 5 y. -/
abbrev Lanes := List (BitVec 64)

/-- Lane (x, y), with both taken modulo 5. -/
def laneXY (a : Lanes) (x y : Nat) : BitVec 64 := a.getD (x % 5 + 5 * (y % 5)) 0

/-- The state whose lane (x, y) is `f x y`. -/
def genLanes5 (f : Nat → Nat → BitVec 64) : Lanes := (List.range 25).map (fun i => f (i % 5) (i / 5))

/-- The rotation offset of lane (x, y) at x + 5 y. -/
def rhoOffsets : List Nat :=
  [0, 1, 62, 28, 27, 36, 44, 6, 55, 20, 3, 10, 43, 25, 39, 41, 45, 15, 21, 8, 18, 2, 61, 56, 14]

/-- The round constants. -/
def keccakRc : List (BitVec 64) :=
  [0x0000000000000001#64, 0x0000000000008082#64, 0x800000000000808A#64, 0x8000000080008000#64, 0x000000000000808B#64, 0x0000000080000001#64,
   0x8000000080008081#64, 0x8000000000008009#64, 0x000000000000008A#64, 0x0000000000000088#64, 0x0000000080008009#64, 0x000000008000000A#64] ++
  [0x000000008000808B#64, 0x800000000000008B#64, 0x8000000000008089#64, 0x8000000000008003#64, 0x8000000000008002#64, 0x8000000000000080#64,
   0x000000000000800A#64, 0x800000008000000A#64, 0x8000000080008081#64, 0x8000000000008080#64, 0x0000000080000001#64, 0x8000000080008008#64]

/-- One round: theta, rho and pi, chi, iota. -/
def keccakRound (a : Lanes) (rc : BitVec 64) : Lanes :=
  let c : Lanes := (List.range 5).map (fun x => laneXY a x 0 ^^^ laneXY a x 1 ^^^ laneXY a x 2 ^^^ laneXY a x 3 ^^^ laneXY a x 4)
  let d : Lanes := (List.range 5).map (fun x => c.getD ((x + 4) % 5) 0 ^^^ (c.getD ((x + 1) % 5) 0).rotateLeft 1)
  let t := genLanes5 (fun x y => laneXY a x y ^^^ d.getD x 0)
  -- lane (x, y) moves to (y, 2 x + 3 y), so the new lane (u, v) comes from x = u + 3 v, y = u
  let b := genLanes5 (fun u v => (laneXY t (u + 3 * v) u).rotateLeft (rhoOffsets.getD ((u + 3 * v) % 5 + 5 * u) 0))
  let e := genLanes5 (fun x y => laneXY b x y ^^^ (~~~(laneXY b (x + 1) y) &&& laneXY b (x + 2) y))
  (e.headD 0 ^^^ rc) :: e.drop 1

/-- Keccak-f[1600]. -/
def keccakF (a : Lanes) : Lanes := keccakRc.foldl keccakRound a

/-- Eight bytes as a lane, least significant first. -/
def laneOf (b : List Byte) : BitVec 64 := (b.take 8).foldr (fun x (r : BitVec 64) => (r <<< 8) ||| x.setWidth 64) 0
/-- A lane as eight bytes. -/
def laneBytes (x : BitVec 64) : List Byte := (List.range 8).map (fun i => x.extractLsb' (8 * i) 8)

/-- A block of 136 bytes absorbed. -/
def absorb1 (a : Lanes) (b : List Byte) : Lanes :=
  keccakF ((List.range 25).map (fun i => if i < 17 then a.getD i 0 ^^^ laneOf (slice b (8 * i) 8) else a.getD i 0))

/-- `n` blocks absorbed. -/
def absorb : Nat → Lanes → List Byte → Lanes
  | 0, a, _ => a
  | n + 1, a, b => absorb n (absorb1 a (b.take 136)) (b.drop 136)

/-- The message with the two suffix bits of cSHAKE and the padding, in whole blocks. -/
def padShake (m : List Byte) : List Byte :=
  let z := 135 - m.length % 136
  if z = 0 then m ++ [0x84] else m ++ [0x04] ++ List.replicate (z - 1) 0 ++ [0x80]

/-- The first 64 bytes of the sponge's output. -/
def sponge64 (m : List Byte) : List Byte :=
  let p := padShake m
  ((absorb (p.length / 136) (List.replicate 25 0) p).take 8).flatMap laneBytes

/-- The bytes of a number below 2^64, most significant first, at least one. -/
def beBytes (x : Nat) : List Byte :=
  match ((List.range 8).map (fun i => BitVec.ofNat 8 (x / 256 ^ (7 - i)))).dropWhile (fun b => b == 0) with
  | [] => [0]
  | l => l
/-- left_encode. -/
def leftEncode (x : Nat) : List Byte := BitVec.ofNat 8 (beBytes x).length :: beBytes x
/-- right_encode. -/
def rightEncode (x : Nat) : List Byte := beBytes x ++ [BitVec.ofNat 8 (beBytes x).length]
/-- encode_string of whole bytes. -/
def encodeString (s : List Byte) : List Byte := leftEncode (8 * s.length) ++ s
/-- bytepad to the rate. -/
def bytePad (x : List Byte) : List Byte :=
  let l := leftEncode 136 ++ x
  l ++ List.replicate ((136 - l.length % 136) % 136) 0

/-- KMAC256(K, X, 512, S) of SP 800-185, 64 bytes. -/
def kmac256 (k x s : List Byte) : List Byte :=
  sponge64 (bytePad (encodeString [0x4B, 0x4D, 0x41, 0x43] ++ encodeString s) ++ bytePad (encodeString k) ++ x ++ rightEncode 512)

/-- The customisation string of the seal. -/
def sealString : List Byte := [0x4C, 0x47, 0x39, 0x2D, 0x53, 0x45, 0x41, 0x4C]

end Sys2Proof.Machine
end

