-- ==== Sys2Proof/Machine/Seal.lean ====
section
/-!
DEFINITION. The seal unit (R369-R377, R381): the seal, its commands, and what revocation does to the threads of the range.
-/

namespace Sys2Proof.Machine

/-- A seal-table entry. -/
def State.sealEnt (s : State) (i : Nat) : SealEnt := s.sealU.tab.getD SealEnt.reset i
/-- Changes the seal unit. -/
def State.modSeal (s : State) (f : SealUnit → SealUnit) : State := { s with sealU := f s.sealU }
/-- Changes a seal-table entry. -/
def State.modSealEnt (s : State) (i : Nat) (f : SealEnt → SealEnt) : State :=
  s.modSeal (fun u => { u with tab := u.tab.put i (f (s.sealEnt i)) })

/-! ## The seal (R372) -/

/-- The header that precedes the range in the seal's message. -/
def SealEnt.header (e : SealEnt) : List Byte :=
  toBytes 8 e.flen ++ toBytes 8 e.len ++ toBytes 8 e.base ++ toBytes 4 e.tgen.toNat ++ toBytes 2 e.tenant.toNat ++ [BitVec.ofNat 8 e.sup.toNat, 0] ++
  toBytes 4 e.sgen.toNat ++ List.replicate 28 0

/-- The seal of an entry's range as it stands in memory, read under key slot 0 (R369, R372). -/
def State.sealOf (s : State) (e : SealEnt) : BitVec 256 :=
  BitVec.ofNat 256 (ofBytes
    ((kmac256 (toBytes 32 (Config.sealKey s.sealU.keyNo).toNat) (e.header ++ s.rdMain 0 e.base e.len) sealString).take 32))

/-! ## SEAL (R374, R375) -/

/-- Every line of a range leaves the L2 and the memory-side caches, with write-back (R375); poisoned lines among them are reported (R363). -/
def State.recall (s : State) (base len : Nat) : State :=
  let lines := (List.range ((len + 127) / 128)).map (fun i => base / 128 + i)
  let held (l : Nat) : Bool := s.l2Dirty l || s.msc.any (fun p => p.1 / 8 == l)
  let t := lines.foldl (fun (u : State) l => if held l then (u.unitReady (128 * l)).leftCache l else u) s
  { t with msc := t.msc.filter (fun p => !(decide (base ≤ 16 * p.1) && decide (16 * p.1 < base + len))) }

/-- The generation is barred (R374). -/
def SealUnit.isBarred (u : SealUnit) (g : BitVec 32) : Bool :=
  u.barred.contains g || (match u.floor with | some f => decide (g.toNat ≤ f.toNat) | none => false)

/-- The entry that a seal descriptor describes, or none for a malformed one (R369, R373, R374). -/
def State.sealDesc (s : State) (desc : Nat) : Option SealEnt :=
  if desc % 16 ≠ 0 ∨ regionOf s.part desc ≠ .main ∨ s.anyPoison (linesOf (desc / 128 * 128) (desc % 128) 32) then none
  else
    let w (i : Nat) : Word := s.rdWord 0 (desc + 8 * i)
    let base := (w 0).toNat
    let len := (w 1).toNat
    let flen := (w 2).toNat
    let x := w 3
    if base % 128 ≠ 0 ∨ len % 128 ≠ 0 ∨ len = 0 ∨ flen % 2 ≠ 0 ∨ len < flen + 64 ∨ 2 ^ 24 ≤ flen ∨ 2 ^ 40 ≤ len ∨ 2 ^ 56 ≤ base ∨ fld x 31 17 ≠ 0 then none
    else
      some { base := base, len := len, flen := flen, sgen := 0, st := .sealing, sup := x.getLsbD 16,
             tenant := if x.getLsbD 16 then 0 else x.extractLsb' 0 16, tgen := x.extractLsb' 32 32, digest := 0 }

/-- The range overlaps an entry that is not FREE. -/
def State.sealOverlap (s : State) (e : SealEnt) : Bool :=
  s.sealU.tab.any (fun (p : Nat × SealEnt) => p.2.st != .free && decide (e.base < p.2.base + p.2.len) && decide (p.2.base < e.base + e.len))

/-- The range lies in main memory, where alone home cores perform its writes (R45, R374). -/
def State.sealHomes (s : State) (e : SealEnt) : Bool := regionOf s.part e.base == .main && regionOf s.part (e.base + e.len - 1) == .main

/-- The command's end with a result (R374). -/
def State.sealResult (s : State) (r : Nat) : State := s.modSeal (fun u => { u with result := r, busy := false })

/-- A SEAL command for entry `i` with the descriptor at `desc` (R375). -/
def State.sealCmd (s : State) (i desc : Nat) : State :=
  if 4096 ≤ i ∨ (s.sealEnt i).st ≠ .free then s.sealResult 1
  else
    match s.sealDesc desc with
    | none => s.sealResult 4
    | some e =>
      if s.sealU.isBarred e.tgen then s.sealResult 2
      else if s.sealOverlap e then s.sealResult 3
      else if !s.sealHomes e then s.sealResult 5
      else
        let g := s.sealU.nextGen
        let s1 := s.modSealEnt i (fun _ => { e with sgen := g })
        (s1.modSeal (fun u => { u with nextGen := g + 1, lastGen := g, busy := true })).recall e.base e.len

/-- SEAL: the firmware writes `scdesc` and then the command. -/
def execSeal (i desc : Nat) (s : State) : Res :=
  .next (
    let s1 := s.modSeal (fun u => { u with scdesc := BitVec.ofNat 64 (desc % 2 ^ 56) })
    if s.sealU.busy then s1
    else (s1.modSeal (fun u => { u with sccmd := BitVec.ofNat 64 (1 + i % 2 ^ 16 * 2 ^ 48) })).sealCmd i (desc % 2 ^ 56))

/-- Word `i` of the directory of a sealed range (R369), read under key slot 0. -/
def State.sealDir (s : State) (e : SealEnt) (i : Nat) : Nat := (s.rdWord 0 (e.base + e.len - 64 + 8 * i)).toNat

/-- The entries of `k` bytes of a table of a sealed range whose offset is directory word `i`: their offsets in the range. -/
def State.sealTable (s : State) (e : SealEnt) (i k : Nat) : List Nat :=
  (List.range (s.sealDir e (i + 1) % 2 ^ 24 / k)).map (fun n => s.sealDir e i + k * n)

/-- The partition of a sealed range's tenant: of those that have such a tenant, the one whose channel holds the range, if it is among them. -/
def State.sealPart (s : State) (e : SealEnt) : Nat :=
  let here := (s.chan (s.chanOf e.base)).part
  if (s.tenantRcb here e.tenant.toNat).isSome then here
  else ((s.parts.filter (fun p => (s.tenantRcb p.1 e.tenant.toNat).isSome)).map Prod.fst).headD here

/-- The extent table of a tenant of a partition: its base and number of entries, by the tenant's level-1 RCB (R98). -/
def State.tenantTable (s : State) (part tenant : Nat) : Nat × Nat :=
  match s.tenantRcb part tenant with
  | some a => ((s.rcbEff a).xtab, (s.rcbEff a).xlen)
  | none => (0, 0)

/-- Every entry of the reach set names a valid extent of the tenant's table with the generation that its entry holds (R378). -/
def State.reachOk (s : State) (e : SealEnt) : Bool :=
  let t := s.tenantTable (s.sealPart e) e.tenant.toNat
  (s.sealTable e 2 8).all (fun o =>
    let w := (s.rdWord 0 (e.base + o)).toNat
    match extentOf (s.extentWords (t.1 + 32 * (w % 2 ^ 16))) with
    | some x => decide (w % 2 ^ 16 < t.2) && x.gen == w / 2 ^ 16 % 2 ^ 16
    | none => false)

/-- The seal of an entry is written, and it is LIVE, once the loader finds the reach set of a tenant's image bound (R375, R378). -/
def State.sealDone (s : State) (i : Nat) : State :=
  let e := s.sealEnt i
  if e.st = .sealing ∧ (e.sup ∨ s.reachOk e) then (s.modSealEnt i (fun e => { e with digest := s.sealOf e, st := .live })).sealResult 0 else s

/-! ## Revocation (R375, R381) -/

/-- A slot parked at an instruction of the text: its request is withdrawn, or its instruction is tried again and traps (R122, R381). -/
def State.revokeCtx (s : State) (e : SealEnt) (c : Ctx) : State :=
  if !(e.holds c.pc.toNat && c.tenid == e.tenant) then s
  else
    match c.wait with
    | .listed | .rejected => { s with withdrawn := s.withdrawn ++ [c.cid] }
    | .tile _ _ | .tsync _ _ _ _ => s.place { c with wait := .none }
    | .joinWait _ _ | .joinCounted _ => s.place { c with wait := .none, att := false }
    | _ => s

/-- An entry leaves LIVE: fetches are refused, the range is flushed from the front ends and recalled, and slots parked in it are withdrawn (R375,
R377, R381). -/
def State.revokeEnt (s : State) (i : Nat) : State :=
  let e := s.sealEnt i
  let s1 := (s.modSealEnt i (fun e => { e with st := .revoking })).recall e.base e.len
  (s1.ctxs.foldl (fun t c => t.revokeCtx e c) s1).flushText e

/-- A REVOKE command. -/
def State.revokeCmd (s : State) (i : Nat) : State := if (s.sealEnt i).st = .live then (s.revokeEnt i).sealResult 0 else s.sealResult 1

/-- REVOKE. -/
def execRevoke (i : Nat) (s : State) : Res :=
  .next (if s.sealU.busy then s else (s.modSeal (fun u => { u with sccmd := BitVec.ofNat 64 (2 + i % 2 ^ 16 * 2 ^ 48) })).revokeCmd i)

/-- A generation is barred (R374): when the list then holds 65, the lowest leaves it and becomes the floor. -/
def SealUnit.bar (u : SealUnit) (g : BitVec 32) : SealUnit :=
  let l := u.barred ++ [g]
  if l.length ≤ 64 then { u with barred := l }
  else
    let low := l.foldl (fun (m : BitVec 32) x => if x.toNat < m.toNat then x else m) g
    { u with barred := l.filter (fun x => x != low), floor := some low }

/-- A REVOKE_TGEN command: a generation not barred before is barred, and every LIVE entry of it revoked. -/
def State.revokeTgenCmd (s : State) (g : BitVec 32) : State :=
  if s.sealU.isBarred g then s.sealResult 0
  else
    let s1 := s.modSeal (fun u => u.bar g)
    ((s1.sealU.tab.filter (fun p => p.2.st == .live && p.2.tgen == g)).foldl (fun t p => t.revokeEnt p.1) s1).sealResult 0

/-- REVOKE_TGEN. -/
def execRevokeTgen (tgen : BitVec 32) (s : State) : Res :=
  .next (if s.sealU.busy then s else (s.modSeal (fun u => { u with sccmd := BitVec.ofNat 64 (3 + tgen.toNat * 2 ^ 16) })).revokeTgenCmd tgen)

/-- A FREE command: a REVOKED entry is cleared. -/
def State.freeCmd (s : State) (i : Nat) : State :=
  if (s.sealEnt i).st = .revoked then (s.modSealEnt i (fun _ => SealEnt.reset)).sealResult 0 else s.sealResult 1

/-- FREE. -/
def execFree (i : Nat) (s : State) : Res :=
  .next (if s.sealU.busy then s else (s.modSeal (fun u => { u with sccmd := BitVec.ofNat 64 (4 + i % 2 ^ 16 * 2 ^ 48) })).freeCmd i)

/-- Every front end, every pivot core and the kickoff have acknowledged: the entry is REVOKED. -/
def State.revokeDone (s : State) (i : Nat) : State :=
  if (s.sealEnt i).st = .revoking then s.modSealEnt i (fun e => { e with st := .revoked }) else s

/-- Nanoseconds of 24 hours. -/
def dayNs : Nat := 86400000000000

/-- A LIVE entry whose seal no longer matches is revoked, and the root of its tenant's partition hears of it (R375). -/
def State.recheckEnt (s : State) (i : Nat) : State :=
  let e := s.sealEnt i
  if e.st = .live ∧ s.sealOf e ≠ e.digest then
    (s.revokeEnt i).rootReport (s.sealPart e) (BitVec.ofNat 64 e.base)
  else s

/-- SEAL_RECHECK: once in each 24 hours of device time. -/
def execSealRecheck (s : State) : Res :=
  .next (
    if s.clk / dayNs ≤ s.sealU.days then s
    else (s.sealU.tab.map Prod.fst).foldl State.recheckEnt (s.modSeal (fun u => { u with days := s.clk / dayNs })))

end Sys2Proof.Machine
end

