-- ==== Sys2Proof/Machine/Compaction.lean ====
section
/-!
DEFINITION. The compaction agent (R382-R384): the steps by which it moves a tenant's region and image, the relocation that Islys applies (R370), and
the moves of the extent caches and of the seal unit at whose ends the agent goes on (log 91).
-/

namespace Sys2Proof.Machine

/-! ## Relocation (R370) -/

/-- A number moved by a delta, within `n` bits. -/
def shiftBy (d : Int) (n x : Nat) : Nat := ((Int.ofNat x + d) % (2 ^ n : Nat)).toNat

/-- The words of a site: its prefixes and their base word, at most `n`. -/
def siteWords (b : List Byte) (o : Nat) : Nat → List Nat
  | 0 => []
  | n + 1 => let w := fieldAt b o 2; if w / 1024 < 60 then [w] else w :: siteWords b (o + 2) n

/-- Bits of an immediate chain that a word holds: 10 of a PXI, 6 of a base word of the RI format with a register value, else none (R33, R36). -/
def immBits (w : Nat) : Nat := if w / 1024 = 60 then 10 else if w / 1024 = 0x0C ∨ w / 1024 = 0x0D then 6 else 0

/-- The immediate of a chain, and its width (R33). -/
def chainImm (ws : List Nat) : Nat × Nat := ws.foldl (fun a w => (a.1 * 2 ^ immBits w + w % 2 ^ immBits w, a.2 + immBits w)) (0, 0)

/-- A chain with another immediate of the same width `n`. -/
def chainWith (x : Nat) : Nat → List Nat → List Nat
  | _, [] => []
  | n, w :: r => (w - w % 2 ^ immBits w + x / 2 ^ (n - immBits w) % 2 ^ immBits w) :: chainWith x (n - immBits w) r

/-- The immediate at a site changed; the chain keeps its length. -/
def mapImm (b : List Byte) (o : Nat) (f : Nat → Nat → Nat) : List Byte :=
  let ws := siteWords b o 5
  let c := chainImm ws
  patch b o ((chainWith (f c.2 c.1) c.2 ws).flatMap (toBytes 2))

/-- One entry of the relocation table applied to the bytes of a range; `gen` gives the generation of an extent. -/
def relocate1 (dr di : Int) (gen : Nat → Nat) (b : List Byte) (x : Nat) : List Byte :=
  let o := x % 2 ^ 32
  match x / 2 ^ 32 % 16 with
  | 1 | 2 => mapImm b o (shiftBy dr)
  | 3 => mapImm b o (shiftBy di)
  | 4 => patch b o (toBytes 8 (shiftBy dr 64 (fieldAt b o 8)))
  | 5 => mapImm b o (fun _ h => h % 2 ^ 16 + gen (h % 2 ^ 16) * 2 ^ 16)
  | _ => b

/-- The generation that an entry of a tenant's table holds. -/
def State.genAt (s : State) (xtab i : Nat) : Nat := match extentOf (s.extentWords (xtab + 32 * i)) with | some x => x.gen | none => 0

/-- The bytes of a sealed range relocated, with the generations of its reach set brought up to date (R370, R378, R382 step 7). -/
def State.relocated (s : State) (j : Compact) (e : SealEnt) : List Byte :=
  let gen := s.genAt (s.tenantTable j.part j.tenant).1
  let b := ((s.sealTable e 0 8).map (fun o => (s.rdWord 0 (e.base + o)).toNat)).foldl (relocate1 j.dr j.di gen) (s.rdMain 0 e.base e.len)
  (s.sealTable e 2 8).foldl (fun b o => patch b (o + 2) (toBytes 2 (gen (fieldAt b o 2)))) b

/-! ## The steps of R382 -/

/-- The loaded contexts of the tenant that the pause includes. -/
def State.compactLoaded (s : State) (j : Compact) : List Ctx :=
  s.ctxs.filter (fun c => c.ptag == j.part && c.tenid.toNat == j.tenant && decide (c.slot < 15) && c.anchorMode != .away && c.save != 0 &&
    !j.keep.contains c.cid)

/-- The save areas that hold contexts of the tenant. -/
def State.compactAreas (s : State) (j : Compact) : List (Nat × Ctx) := s.saved.filter (fun p => p.2.ptag == j.part && p.2.tenid.toNat == j.tenant)

/-- The region of an image: `rb` and `rl` of its image record (R371). -/
def State.regionOfImage (s : State) (e : SealEnt) : Nat × Nat := match s.image? e.base with | some m => (m.rb.toNat, m.rl.toNat) | none => (0, 0)

/-- Step 1: pre-emption messages of reason 3. -/
def State.compactPause (s : State) (j : Compact) : State :=
  let l := (s.compactLoaded j).filter (fun c => s.preemptDone c.core)
  s.sendAll j.part 3 false (l.map (fun c => { core := c.core, slot := c.slot, out := c.save.toNat, inn := 0 }))

/-- The tenant's tiles that are not yet ABSENT with `count` 0: squad, tile, entry. -/
def State.compactTiles (s : State) (j : Compact) : List (Nat × Nat × TileEnt) :=
  (s.partSquads j.part).flatMap (fun q =>
    ((s.squad q).tiles.filter (fun (p : Nat × TileEnt) => p.2.owner == j.tenant && !(p.2.st == .absent && p.2.log.isEmpty))).map (fun p => (q, p.1, p.2)))

/-- Step 3: a tile is fetched, for its log, or leaves (R92). -/
def State.compactTile (s : State) (x : Nat × Nat × TileEnt) : State :=
  if x.2.2.st = .absent then s.startFetch x.1 x.2.1
  else if x.2.2.st = .resident ∧ s.held x.1 x.2.1 = false then s.depart x.1 x.2.1
  else s

/-- Steps 1 to 3 are done: no context that the pause includes is loaded, every save area is quiet, and every tile ABSENT. -/
def State.compactQuiet (s : State) (j : Compact) : Bool :=
  (s.compactLoaded j).isEmpty && (s.compactAreas j).all (fun p => (s.rdWord 0 (p.1 + 0xA38) &&& 0x3F3F3F3F#64) == 0) && (s.compactTiles j).isEmpty

/-- Step 4: the windows that cover the region move with it. -/
def State.moveWindows (s : State) (j : Compact) (r : Nat × Nat) : State :=
  let put (d : HostWin) : HostWin :=
    let b := fld d.w2 55 0
    if b ≤ r.1 ∧ r.2 ≤ b + fld d.w1 47 0 then { d with w2 := BitVec.ofNat 64 (shiftBy j.dr 56 b) } else d
  { (s.modPartn j.part (fun p => { p with wins := p.wins.map (fun x => (x.1, put x.2)) })) with wcache := [] }

/-- The entries of the tenant's table whose range lies in a region: their addresses and what they hold. -/
def State.extentsIn (s : State) (j : Compact) (r : Nat × Nat) : List (Nat × Extent) :=
  let t := s.tenantTable j.part j.tenant
  (List.range t.2).filterMap (fun i =>
    let a := t.1 + 32 * i
    match extentOf (s.extentWords a) with
    | some x => if x.node = 0 ∧ r.1 ≤ x.base ∧ x.base + x.len ≤ r.2 then some (a, x) else none
    | none => none)

/-- Step 5: an extent moves, its generation rises, and its invalidation begins. -/
def State.moveExtent (j : Compact) (s : State) (x : Nat × Extent) : State :=
  let w2 := s.rdWord 0 (x.1 + 16)
  let g := BitVec.ofNat 64 ((x.2.gen + 1) % 2 ^ 16)
  ((s.unitWords 0 x.1 [BitVec.ofNat 64 (shiftBy j.dr 56 x.2.base)]).unitWords 0 (x.1 + 16) [(w2 &&& ~~~0xFFFF#64) ||| g]).extentGone x.1

/-- A range copied as through a separate buffer, under a key slot, each granule with its full/empty and poison bits (R382 step 6, R384). -/
def State.copyRange (s : State) (key a n : Nat) (d : Int) : State :=
  let old := (List.range (n / 16)).map (fun i => (16 * i, s.rdMain key (a + 16 * i) 16, s.isFull (a / 16 + i), s.isPoison (a + 16 * i)))
  let new := shiftBy d 48 a
  old.foldl (fun (t : State) x =>
    let u := (t.unitWrite key (new + x.1) x.2.1).unitFull (new + x.1) x.2.2.1
    if u.sealedAt (new + x.1) 16 then u else u.setPoison (new + x.1) x.2.2.2) s

/-- Zero plaintext under a key slot, full and without poison (R384). -/
def State.scrubGran (key : Nat) (s : State) (a : Nat) : State :=
  let u := (s.unitWrite key a (List.replicate 16 0)).unitFull a true
  if u.sealedAt a 16 then u else u.setPoison a false

/-- After the FREE: the old sealed range, and what the new region does not cover of the old one (R384). -/
def State.compactScrub (s : State) (j : Compact) (e : SealEnt) (r : Nat × Nat) : State :=
  let new := (shiftBy j.dr 48 r.1, shiftBy j.dr 48 r.1 + (r.2 - r.1))
  let s1 := ((List.range (e.len / 16)).map (fun i => e.base + 16 * i)).foldl (State.scrubGran 0) s
  (((List.range ((r.2 - r.1) / 16)).map (fun i => r.1 + 16 * i)).filter (fun a => !(decide (new.1 ≤ a) && decide (a < new.2)))).foldl
    (State.scrubGran (s.tenantKey j.part j.tenant)) s1

/-- The pointer map's words for an instruction of a range: registers that hold region addresses, and text addresses (R370). -/
def State.pointersAt (s : State) (e : SealEnt) (o : Nat) : Word × Word :=
  match (s.sealTable e 4 24).find? (fun i => (s.rdWord 0 (e.base + i)).toNat == o) with
  | some i => (s.rdWord 0 (e.base + i + 8), s.rdWord 0 (e.base + i + 16))
  | none => (0, 0)

/-- Step 9: a save area after the move, with the pointer map of the old image as `map` gives it. -/
def State.moveArea (j : Compact) (e : SealEnt) (map : Nat → Word × Word) (s : State) (p : Nat × Ctx) : State :=
  let w (o : Nat) : Nat := (s.rdWord 0 (p.1 + o)).toNat
  let put (t : State) (o x : Nat) : State := t.patchArea p.1 o (toBytes 8 x)
  let text (x : Nat) : Bool := decide (e.base ≤ x) && decide (x < e.base + e.flen)
  let pc := w 0xA28 % 2 ^ 56
  let m := if text pc then map (pc - e.base) else (0, 0)
  let s1 := if text pc then put s 0xA28 (w 0xA28 - pc + shiftBy j.di 56 pc) else s
  let s2 := if text (w (8 * 63)) then put s1 (8 * 63) (shiftBy j.di 64 (w (8 * 63))) else s1
  let s3 := put (put s2 (8 * 61) (shiftBy j.dr 64 (w (8 * 61)))) (8 * 62) (shiftBy j.dr 64 (w (8 * 62)))
  let s4 := (List.range 61).foldl (fun (t : State) i =>
    if m.1.getLsbD i then put t (8 * i) (shiftBy j.dr 64 (w (8 * i)))
    else if m.2.getLsbD i then put t (8 * i) (shiftBy j.di 64 (w (8 * i))) else t) s3
  { s4 with saved := s4.saved.put p.1 { p.2 with entry := if text p.2.entry.toNat then BitVec.ofNat 64 (shiftBy j.di 64 p.2.entry.toNat) else p.2.entry } }

/-- The agent's job has changed its step. -/
def State.compactAt (s : State) (st : CompactSt) : State :=
  { s with compacts := match s.compacts with | j :: r => { j with st := st } :: r | [] => [] }
/-- The job is done, or a check has stopped it with the tenant still paused (R383). -/
def State.compactEnd (s : State) : State := { s with compacts := s.compacts.drop 1 }

/-- Steps 6 and 7: the region copied, and the image written at its new base and given to the seal unit with a descriptor. -/
def State.compactCopy (s : State) (j : Compact) (e : SealEnt) (r : Nat × Nat) : State :=
  let s1 := s.copyRange (s.tenantKey j.part j.tenant) r.1 (r.2 - r.1) j.dr
  let new := shiftBy j.di 56 e.base
  let s2 := s1.unitWrite 0 new (s1.relocated j e)
  let x := packFields [(16, e.tenant.toNat), (1, e.sup.toNat), (15, 0), (32, e.tgen.toNat)]
  let s3 := s2.unitWords 0 j.desc [BitVec.ofNat 64 new, BitVec.ofNat 64 e.len, BitVec.ofNat 64 e.flen, BitVec.ofNat 64 x]
  let s4 := s3.modSeal (fun u => { u with
    scdesc := BitVec.ofNat 64 (j.desc % 2 ^ 56), sccmd := BitVec.ofNat 64 (1 + j.new % 2 ^ 16 * 2 ^ 48) })
  let s5 := s4.sealCmd j.new (j.desc % 2 ^ 56)
  if (s5.sealEnt j.new).st = .sealing then s5.compactAt .revoke else s5.compactEnd

/-- Steps 8 to 10 once the old entry is REVOKED: FREE, scrub, the save areas, and the contexts are to be loaded again. -/
def State.compactFinish (s : State) (j : Compact) (e : SealEnt) (r : Nat × Nat) : State :=
  let map := s.pointersAt e
  let s1 := ((s.modSeal (fun u => { u with sccmd := BitVec.ofNat 64 (4 + j.old % 2 ^ 16 * 2 ^ 48) })).freeCmd j.old).compactScrub j e r
  let s2 := (s.compactAreas j).foldl (State.moveArea j e map) s1
  ((s.compactAreas j).foldl (fun (t : State) p => t.goOut p.2.cid none) s2).compactEnd

/-- The next step of the compaction in hand, if what it waits for has happened. -/
def State.compactStep (s : State) : State :=
  match s.compacts with
  | [] => s
  | j :: _ =>
    let e := s.sealEnt j.old
    let r := s.regionOfImage e
    match j.st with
    | .pause => (s.compactPause j).compactAt .quiet
    | .quiet => if s.compactQuiet j then s.compactAt .rebase else (s.compactTiles j).foldl State.compactTile (s.compactPause j)
    | .rebase => ((s.extentsIn j r).foldl (State.moveExtent j) (s.moveWindows j r)).compactAt .copy
    | .copy =>
      let t := s.tenantTable j.part j.tenant
      if s.sealU.busy || s.invalidating.any (fun a => decide (t.1 ≤ a) && decide (a < t.1 + 32 * t.2)) then s else s.compactCopy j e r
    | .revoke =>
      if s.sealU.busy || (s.sealEnt j.new).st != .live then s
      else ((s.modSeal (fun u => { u with sccmd := BitVec.ofNat 64 (2 + j.old % 2 ^ 16 * 2 ^ 48) })).revokeCmd j.old).compactAt .finish
    | .finish => if e.st = .revoked ∧ !s.sealU.busy then s.compactFinish j e r else s

/-! ## Moves at whose ends the agent goes on (log 91) -/

/-- EXTENT_INVALIDATE: the entry leaves every extent cache, and its invalidation has begun (R100). -/
def execExtentInvalidate (entry : Nat) (s : State) : Res := .next (s.extentGone entry).compactStep

/-- EXTENT_INVALIDATE_DONE: the invalidation completes once no command holds the old entry (R100). -/
def execExtentInvalidateDone (entry : Nat) (s : State) : Res := .next (s.extentDone entry).compactStep

/-- SEAL_DONE: the seal is written and the entry is LIVE (R375). -/
def execSealDone (i : Nat) (s : State) : Res := .next (s.sealDone i).compactStep

/-- REVOKE_DONE: every front end, every pivot core and the kickoff have acknowledged, and the entry is REVOKED (R375). -/
def execRevokeDone (i : Nat) (s : State) : Res := .next (s.revokeDone i).compactStep

end Sys2Proof.Machine
end

