-- ==== Sys2Proof/Machine/ControlFlow.lean ====
section
/-!
DEFINITION. The branches of page 0 (R176-R182).
-/

namespace Sys2Proof.Machine

/-- The next instruction of the slot in its turn is the one at an address (R177). -/
def branchOp (a : Word) : Op Unit := modS (fun s => s.modMe (fun c => { c with npc := a }))

/-- A branch by an offset in words from the first word of the instruction, when `b` holds (R176). -/
def branchIf (b : Bool) (off : Word) : Op Unit := fun s =>
  if b then branchOp (branchTo s.me.pc off) s else .ok ((), s)

/-- An indirect target that is odd, or does not fit 56 bits, traps ALIGN (R181). -/
def checkTarget (a : Word) : Op Unit := trapIf (a.getLsbD 0 || a.extractLsb' 56 8 != 0) .align a (accInfo 17 8 false)

/-- BR. -/
def execBr (i : BitVec 10) (p : Pxi) (s : State) : Res := issueOp (branchIf true (immS p 10 i.toNat)) s

/-- CALL. -/
def execCall (i : BitVec 10) (p : Pxi) (s0 : State) : Res :=
  issueOp (do
    writeG 63 s0.me.npc
    branchIf true (immS p 10 i.toNat)) s0

/-- The condition of BC on a value (R179). -/
def BcCond.holds (c : BcCond) (a : Word) : Bool :=
  match c with
  | .z => a == 0
  | .nz => a != 0
  | .lz => a.msb
  | .gez => !a.msb

/-- BC. -/
def execBc (c : BcCond) (sr : Reg) (i : BitVec 4) (p : Pxi) (s : State) : Res :=
  issueOp (do
    gate [sr]
    let a ← readG sr
    branchIf (BcCond.holds c a) (immS p 4 i.toNat)) s

/-- The condition of BCMP on g[d] and g[s] (R180). -/
def BcmpCond.holds (c : BcmpCond) (x y : Word) : Bool :=
  match c with
  | .eq => x == y
  | .ne => x != y
  | .lt => BitVec.slt x y
  | .ltn => BitVec.ult x y

/-- BCMP. -/
def execBcmp (c : BcmpCond) (d sr : Reg) (p : Pxi) (s : State) : Res :=
  issueOp (do
    gate [d, sr]
    let y ← readG sr
    let x ← readG d
    branchIf (BcmpCond.holds c x y) (immS p 0 0)) s

/-- JMP. -/
def execJmp (sr : Reg) (s : State) : Res :=
  issueOp (do
    gate [sr]
    let a ← readG sr
    checkTarget a
    branchOp a) s

/-- CALLR: the target is read before `lk` is written. -/
def execCallr (sr : Reg) (s0 : State) : Res :=
  issueOp (do
    gate [sr]
    let a ← readG sr
    checkTarget a
    writeG 63 s0.me.npc
    branchOp a) s0

/-- RET. -/
def execRet (s : State) : Res :=
  issueOp (do
    let a ← readG 63
    checkTarget a
    branchOp a) s

/-- BQB. -/
def execBqb (sense : Bool) (i : BitVec 9) (p : Pxi) (s : State) : Res :=
  issueOp (do
    gate [60]
    let b ← readG 60
    branchIf (b.getLsbD 0 == sense) (immS p 9 i.toNat)) s

end Sys2Proof.Machine
end

