-- ==== Sys2Proof/Machine/Links.lean ====
section
/-!
DEFINITION. Link ports, flits, the requests that arrive from other devices and their answers (R403-R410), and the budget period (R56, R407).
-/

namespace Sys2Proof.Machine

/-! ## Ports (R404) -/

/-- LINK_TRAIN: the firmware trains or retrains a port. -/
def execLinkTrain (port : Nat) (s : State) : Res :=
  .next (if port < s.part.links then s.modLink port (fun k => { k with st := .training }) else s)

/-- LINK_TRAINED: training ends; the port is UP and knows its peer. What no answer has come for leaves again (R409). -/
def execLinkTrained (port pnode pport : Nat) (s : State) : Res :=
  .next (if (s.link port).st = .training then
    (s.modLink port (fun k => { k with
      st := .up, pnode := pnode, pport := pport, rx := 0, tx := 0, out := [], streak := 0, heard := s.clk, inb := [], credit := 0,
      acks := [] })).resendAll
  else s)

/-- LANE_LOCK_LOSS: the port goes FAILED. -/
def execLaneLockLoss (port : Nat) (s : State) : Res :=
  .next (if (s.link port).st = .up ∨ (s.link port).st = .training then s.portFails port else s)

/-- LINK_IDLE_TIMEOUT: no flit for 10 µs while UP. -/
def execLinkIdleTimeout (port : Nat) (s : State) : Res :=
  .next (if (s.link port).st = .up ∧ (s.link port).heard + 10000 ≤ s.clk then s.portFails port else s)

/-- REPLAY_LIMIT: 16 consecutive replays of one flit without acknowledgement. -/
def execReplayLimit (port : Nat) (s : State) : Res :=
  .next (if (s.link port).st = .up ∧ 16 ≤ (s.link port).streak then s.portFails port else s)

/-- A count that saturates, increased. -/
def satAdd (x : BitVec 32) (n : Nat) : BitVec 32 := BitVec.ofNat 32 (Nat.min (2 ^ 32 - 1) (x.toNat + n))

/-- The peer's last good `lseq` (R405): the flits up to it are acknowledged; one that brings nothing new makes the sender replay every flit after
it. -/
def Link.acked (k : Link) (l : BitVec 12) : Link :=
  let n := (l - k.tx + 1).toNat
  if 0 < n ∧ n ≤ k.out.length then { k with tx := l + 1, out := k.out.drop n, streak := 0 }
  else if k.out = [] then k
  else { k with wire := k.wire ++ flitRun k.tx k.out, replays := satAdd k.replays k.out.length, streak := k.streak + 1 }

/-- A flit of a packet arrives in order: it is acknowledged, and the last of its packet brings the packet (R405, R406). -/
def State.flitIn (s : State) (port : Nat) (f : Flit) : State :=
  let k := s.link port
  let l := if f.lkind = 1 then [f.pay] else if k.inb = [] then [] else k.inb ++ [f.pay]
  let t := s.modLink port (fun k => { k with
    rx := k.rx + 1, credit := k.credit + f.credit.toNat, acks := k.acks ++ [(f.lseq, true)], heard := s.clk, inb := l })
  if l = [] then t
  else
    match packetOf port l with
    | none => t
    | some p => { (t.modLink port (fun k => { k with inb := [] })) with fab := { (t.modLink port (fun k => { k with inb := [] })).fab with
        arrived := t.fab.arrived ++ [p] } }

/-- FLIT_RECEIVE: a flit of a packet in order is acknowledged; a bad one, one out of order or one of a reserved kind makes the receiver return its
last good `lseq` (R405). An idle flit and an acknowledgement have no place in the order of `lseq`. -/
def execFlitReceive (port : Nat) (f : Flit) (s : State) : Res :=
  .next (
    let again (t : State) : State := t.modLink port (fun k => { k with acks := k.acks ++ [(k.rx - 1, false)], heard := s.clk })
    if (s.link port).st ≠ .up then s
    else if !flitOk f then again s
    else if f.lkind = 3 then s.modLink port (fun k => { (k.acked f.lseq) with credit := k.credit + f.credit.toNat, heard := s.clk })
    else if f.lkind = 0 then s.modLink port (fun k => { k with credit := k.credit + f.credit.toNat, heard := s.clk })
    else if f.lkind.toNat < 3 ∧ f.lseq = (s.link port).rx then s.flitIn port f
    else again s)

/-! ## Requests from other devices (R407-R409) -/

/-- The accesses of a request are made for the paired partition (R407). -/
def remoteCmd (lp : Nat) : Cmd := { Cmd.blank with ptag := lp }

/-- The place of a request, as an extent of its own. -/
def packetExtent (p : Packet) : Extent := { base := p.addr, len := 2 ^ 48, gen := 0, rights := 7, key := p.key, node := 0 }

/-- Why a request is refused, if it is: the pairing, the key slot, or its home (R407, R408). -/
def State.requestFails (s : State) (lp : Option Nat) (p : Packet) (n : Nat) (wr : Bool) : Option Nat :=
  match lp with
  | none => some stRange
  | some l =>
    if s.keySlots.find? p.key ≠ some l ∨ p.key = 0 then some stRights
    else
      (((rowPieces p.addr true 0 0 0 n).filterMap (fun x => s.farFails (remoteCmd l) (packetExtent p) x.off x.n wr)).head?).map
        (fun st => if st = stOwner then stRange else st)

/-- An answer to a request: `addr` carries its number, `operand` the cause of a refusal (log 20). -/
def State.answer (s : State) (p : Packet) (kind part cause rank : Nat) (data : List Byte) : State :=
  s.sendOne { Packet.blank with dst := p.src, kind := kind, part := part, addr := p.pseq.toNat, operand := BitVec.ofNat 32 cause, rank := rank, data := data }

/-- The request has been performed already (R409). -/
def State.seen (s : State) (p : Packet) : Bool :=
  match s.fab.pseqRx.find? p.src with
  | some r => seqLe p.pseq r
  | none => false

/-- The highest number performed from a source. -/
def State.markSeen (s : State) (p : Packet) : State := { s with fab := { s.fab with pseqRx := s.fab.pseqRx.put p.src p.pseq } }

/-- An earlier WRITE or READ of the source waits here: packets of one source are performed in their order, which is what its record tells
(R406, R409). -/
def State.behind (s : State) (p : Packet) : Bool :=
  s.fab.arrived.any (fun (q : Packet) =>
    q.src == p.src && q.dst == s.fab.node && (q.kind == pkWrite || q.kind == pkRead) && !seqLe p.pseq q.pseq)

/-- WRITE: performed once, and answered (R407-R409). It waits for a tile that is not resident, for a snapshot copy, and for what came before it. -/
def execWrite (p : Packet) (s : State) : Res :=
  .next (s.arriving p (fun s =>
    let lp := s.paired p.src p.part
    let l := lp.getD 0
    if s.seen p then s.answer p pkWriteAck l stOk 0 []
    else
      match s.requestFails lp p p.data.length true with
      | some st => s.answer p pkWriteAck l st 0 []
      | none =>
        let r := s.farReady (remoteCmd l) true (linesIn p.addr p.data.length)
        if !r.1 || s.behind p then r.2.waitHere p
        else
          let t := (rowPieces p.addr true 0 0 0 p.data.length).foldl (fun t x =>
            t.farWrite (remoteCmd l) (packetExtent p) x.off (slice p.data x.pos x.n)
              (if p.operand = 1 then some (Nat.testBit p.rank (x.pos / 16)) else none)) r.2
          ((t.wholeLines p.addr p.data.length).markSeen p).answer p pkWriteAck l stOk 0 []))

/-- READ: answered with the data, and with full/empty bits where they are asked for. -/
def execRead (p : Packet) (s : State) : Res :=
  .next (s.arriving p (fun s =>
    let lp := s.paired p.src p.part
    let l := lp.getD 0
    match s.requestFails lp p p.rank false with
    | some st => s.answer p pkReadReply l st 0 []
    | none =>
      let r := s.farReady (remoteCmd l) false (linesIn p.addr p.rank)
      if !r.1 || s.behind p then r.2.waitHere p
      else
        let ps := rowPieces p.addr true 0 0 0 p.rank
        let b := ps.flatMap (fun x => (r.2.farRead (remoteCmd l) (packetExtent p) x.off x.n).1)
        let fe := if p.operand = 1 then ofBools (ps.map (fun x => ((r.2.farRead (remoteCmd l) (packetExtent p) x.off x.n).2).getD true)) else 0
        (if r.2.seen p then r.2 else r.2.markSeen p).answer p pkReadReply l stOk fe b))

/-! ## Answers to this device -/

/-- The command that waits for the answer to a packet. -/
def State.waiter (s : State) (p : Packet) : Option (Cmd × Nat × Nat) :=
  let n := BitVec.ofNat 32 p.addr
  ((s.squads.flatMap (fun q => q.2.cmds)).filterMap (fun (c : Cmd) =>
    if c.ext.any (fun e => e.node == p.src) then
      (List.find? (fun (x : BitVec 32 × Nat × Nat) => x.1 == n) c.pend).map (fun x => (c, x.2.1, x.2.2))
    else none)).head?

/-- An answer reaches its command: a part of the transfer is done, or the command issues no further access (R104). -/
def State.take (s : State) (p : Packet) : State :=
  let n := BitVec.ofNat 32 p.addr
  let base := match List.find? (fun (x : Packet) => x.dst == p.src && x.pseq == n) s.fab.unanswered with | some x => x.addr | none => 0
  let s1 := s.answered p.src n
  match s.waiter p with
  | none => s1
  | some (c, pos, len) =>
    s1.modCmd c.id (fun k =>
      let k1 : Cmd := { k with pend := k.pend.filter (fun x => x.1 != n) }
      if p.operand = 0 then { k1 with got := k1.got ++ [(pos, len, p.data, BitVec.ofNat 32 p.rank)] }
      else
        let row := k.op == .gath || k.op == .scat
        let off := base - (k.ext.map Extent.base).getD 0
        let first := match k.bad with | some b => decide (pos < b.2) | none => true
        let d := BitVec.ofNat 32 (if row then pos / Nat.max len 1 else off)
        if first then { k1 with todo := [], bad := some (p.operand.toNat, pos), detail := d } else { k1 with todo := [] })

/-- READ_REPLY. -/
def execReadReply (p : Packet) (s : State) : Res := .next (s.arriving p (fun s => s.take p))
/-- WRITE_ACK. -/
def execWriteAck (p : Packet) (s : State) : Res := .next (s.arriving p (fun s => s.take p))

/-- REMOTE_DEADLINE: the answers of a remote command have not all come within `ldead` of its start (R409). -/
def execRemoteDeadline (id : Nat) (s : State) : Res :=
  .next (match s.cmd? id with
    | none => s
    | some c =>
      match c.ext with
      | none => s
      | some e =>
        if c.st = .running ∧ e.node ≠ 0 ∧ !(c.made && c.todo.isEmpty && c.pend.isEmpty) ∧ c.t0 + s.fab.ldead * 1000 ≤ s.clk then
          let down : Bool := match s.routeOf e.node with | some q => (s.link q).st == .failed | none => false
          let n := gotUpTo c.got c.got.length 0
          let s1 := c.pend.foldl (fun t x => t.answered e.node x.1) s
          let s2 := if c.op.writesFar || !s.allResident c.squad c.holds then s1 else s1.landRemote c
          s2.endCmd id (if down = true then stLinkDown else stTimeout) n (decide (n < c.requested)) 0
        else s)

/-! ## Atomics (R410) -/

/-- The reply cache of a source. -/
def State.replies (s : State) (src : Nat) : List (BitVec 32 × BitVec 32) := s.fab.cache.getD [] src

/-- A sum of 32 bits at a device address, with the old value (R410, log 20); none where it has to wait. -/
def State.remoteAdd (s : State) (p : Packet) : State × Option (BitVec 32) :=
  let go (t : State) (a : Nat) (serve : State → List Nat → State) : State × Option (BitVec 32) :=
    let z := t.perform (.amo .add .n32 false 0 (p.operand.setWidth 64)) p.key a 4
    (serve z.s z.grans, some (z.y.setWidth 32))
  match regionOf s.part p.addr with
  | .main =>
    let r := s.homeReady p.addr true
    if r.1 then go r.2 p.addr State.serveHomes else (r.2, none)
  | .tile q t b =>
    let e := (s.squad q).tile t
    if e.st = .resident then go (s.touch q t) (e.base q + b) (fun u g => u.serveTiles q g) else (s.forceFetch q t, none)
  | _ => (s, some 0)

/-- ATOMIC: performed once for each number of its source, while the source's reply cache has room (R410). -/
def execAtomic (p : Packet) (s : State) : Res :=
  .next (s.arriving p (fun s =>
    let lp := s.paired p.src p.part
    let l := lp.getD 0
    match List.find? (fun (x : BitVec 32 × BitVec 32) => x.1 == p.pseq) (s.replies p.src) with
    | some x => s.answer p pkAtomicReply l x.2.toNat 0 []
    | none =>
      if 256 ≤ (s.replies p.src).length then s.waitHere p
      else
        match (if p.addr % 4 ≠ 0 then some stRange else
            match s.requestFails lp p 4 true with
            | some st => some st
            | none => s.requestFails lp p 4 false) with
        | some st => s.answer p pkAtomicReply l 0 st []
        | none =>
          let r := s.remoteAdd p
          match r.2 with
          | none => r.1.waitHere p
          | some old =>
            let t := { r.1 with fab := { r.1.fab with cache := r.1.fab.cache.put p.src ((p.pseq, old) :: r.1.replies p.src) } }
            t.answer p pkAtomicReply l old.toNat 0 []))

/-- ATOMIC_REPLY: the old value is recorded, and then the source releases the entry (R410). -/
def execAtomicReply (p : Packet) (s : State) : Res :=
  .next (s.arriving p (fun s =>
    let n := BitVec.ofNat 32 p.addr
    if s.fab.unanswered.any (fun x => x.dst == p.src && x.pseq == n) then
      let s1 := s.answered p.src n
      let s2 := { s1 with fab := { s1.fab with recorded := s1.fab.recorded ++ [(p.src, n, p.operand)] } }
      s2.sendOne { Packet.blank with dst := p.src, kind := pkRelease, addr := p.addr }
    else s))

/-- RELEASE: the entry of the reply cache is free (R410). -/
def execRelease (p : Packet) (s : State) : Res :=
  .next (s.arriving p (fun s => { s with fab := { s.fab with
    cache := s.fab.cache.put p.src ((s.replies p.src).filter (fun (x : BitVec 32 × BitVec 32) => x.1 != BitVec.ofNat 32 p.addr)) } }))

/-! ## The budget period -/

/-- BUDGET_PERIOD: the counts of the period start again, every loaded context takes the new values of field groups 2-8 (R56, R337), and
what waited for the fabric budget leaves (R407). -/
def execBudgetPeriod (s : State) : Res :=
  .next (
    if s.clk / 10000 ≤ s.period then s
    else
    let s1 := s.ctxs.foldl (fun t c => if c.rcb = 0 then t else t.place { c with eff := c.eff.renew (t.rcbEff c.rcb.toNat) }) s
    let s2 : State := { s1 with period := s.clk / 10000, fab := { s1.fab with used := [] } }
    let s3 := s2.senders.foldl State.sendWaiting s2
    let s4 := s3.fab.groups.foldl (fun t x => t.cgrpDone (x.1 / 256) (x.1 % 256)) s3
    (s4.fab.groups.flatMap (fun x => x.2.colls)).foldl (fun t r =>
      match t.cmd? r.id with
      | some c => t.collSend c r
      | none => t) s4)

end Sys2Proof.Machine
end

