-- ==== Sys2Proof/Machine/TileOps.lean ====
section
/-!
DEFINITION. The tile instructions of page 0 (R133-R137). They need the tile unit of the thread's anchor (R119, R259).
-/

namespace Sys2Proof.Machine

/-- The tile that an address names; every other region traps CONFINE with `why` 6 (R119, R134-R136). -/
def tileAt (code a : Nat) : Op (Nat × Nat × Nat) := fun s =>
  match regionOf s.part a with
  | .tile q t b => .ok ((q, t, b), s)
  | _ => accTrap .confine code 6 a s

/-- The owner test, after the core's own earlier updates to the unit (R68, R72). -/
def owned (code a q t : Nat) : Op Unit := fun s =>
  match s.tileRefused s.me.ptag s.me.tenid q t with
  | some why => accTrap .confine code why a s
  | none => if s.tileClear s.me.core q then .ok ((), s) else .error .park

/-! ## Updates (R133, R134) -/

/-- One update of a tile: `n` bytes of g[d] at g[s]. -/
def tileUpd (op ty n : Nat) (d sr : Reg) (s0 : State) : Res :=
  issueOp (do
    needUnit 3
    let x ← readG sr
    let a := addr56 x
    alignTo n 7 a
    let z ← tileAt 7 a
    let y ← readG d
    tileWrite s0 (.tile z.1 z.2.1 z.2.2) 7 a (fun b =>
      [{ gran := b / 16, ty := ty, op := op, mask := maskOf (b % 16) n,
         data := BitVec.ofNat 128 (y.toNat % 256 ^ n * 256 ^ (b % 16)) }])) s0

/-- The type code and the size of a TADD. -/
def addTyCode (t : AddTy) : Nat × Nat :=
  match t with
  | .s32 => (tyS32, 4)
  | .s64 => (tyS64, 8)
  | .f32 => (tyF32, 4)
/-- The type code and the size of a TMAX or TMIN. -/
def maxTyCode (t : MaxTy) : Nat × Nat :=
  match t with
  | .s32 => (tyS32, 4)
  | .n32 => (tyN32, 4)
  | .f32 => (tyF32, 4)
  | .s64 => (tyS64, 8)

/-- TADD. -/
def execTadd (ty : AddTy) (d sr : Reg) (s : State) : Res := tileUpd opAdd (addTyCode ty).1 (addTyCode ty).2 d sr s
/-- TMAX. -/
def execTmax (ty : MaxTy) (d sr : Reg) (s : State) : Res := tileUpd opMax (maxTyCode ty).1 (maxTyCode ty).2 d sr s
/-- TMIN. -/
def execTmin (ty : MaxTy) (d sr : Reg) (s : State) : Res := tileUpd opMin (maxTyCode ty).1 (maxTyCode ty).2 d sr s
/-- TOR. -/
def execTor (d sr : Reg) (s : State) : Res := tileUpd opOr tyNone 8 d sr s
/-- TXOR. -/
def execTxor (d sr : Reg) (s : State) : Res := tileUpd opXor tyNone 8 d sr s
/-- TAND. -/
def execTand (d sr : Reg) (s : State) : Res := tileUpd opAnd tyNone 8 d sr s

/-! ## Residency control (R76, R135) -/

/-- `tl` rises for a later event of a tile; it parks at 63. -/
def roomTl : Op Unit := fun s => if s.me.tl < 63 then .ok ((), s) else .error .park

/-- The frames of a squad whose tile has an active pin. -/
def SquadSt.pinnedTiles (k : SquadSt) : Nat := (k.tiles.filter (fun p => p.2.pinned)).length

/-- `tl` counts the tile's arrival for the slot in its turn. -/
def State.countArrival (s : State) (q t : Nat) : State :=
  (s.modTile q t (fun e => { e with tlRes := e.tlRes ++ [s.me.cid] })).modMe (fun c => { c with tl := c.tl + 1 })

/-- TPIN. -/
def execTpin (sr : Reg) (s0 : State) : Res :=
  issueOp (do
    needUnit 3
    let x ← readG sr
    let a := addr56 x
    let z ← tileAt 8 a
    let s ← getS
    let e := (s.squad z.1).tile z.2.1
    illegalIf (decide (e.pins ≥ 255) || (!e.sus && e.pins == 0 && decide ((s.squad z.1).pinnedTiles ≥ 1016)))
    owned 8 a z.1 z.2.1
    if e.st = .leaving then holdOn s0 z.1 z.2.1 false
    else do
      if e.st = .arriving ∨ (e.st = .absent ∧ e.sus = false) then roomTl else pure ()
      modS (fun s =>
        let s1 := s.modTile z.1 z.2.1 (fun e => { e with pins := e.pins + 1 })
        let s2 := if e.st = .absent ∧ e.sus = false then s1.startFetch z.1 z.2.1 else s1
        if ((s2.squad z.1).tile z.2.1).st = .arriving then s2.countArrival z.1 z.2.1 else s2)) s0

/-- TUNPIN. A fetch that waits for a frame may then go on (R78). -/
def execTunpin (sr : Reg) (s0 : State) : Res :=
  issueOp (do
    needUnit 3
    let x ← readG sr
    let a := addr56 x
    let z ← tileAt 8 a
    let s ← getS
    illegalIf (((s.squad z.1).tile z.2.1).pins == 0)
    owned 8 a z.1 z.2.1
    modS (fun s => (s.modTile z.1 z.2.1 (fun e => { e with pins := e.pins - 1 })).retryClaims z.1)) s0

/-- TFETCH. -/
def execTfetch (sr : Reg) (s0 : State) : Res :=
  issueOp (do
    needUnit 3
    let x ← readG sr
    let a := addr56 x
    let z ← tileAt 8 a
    owned 8 a z.1 z.2.1
    let s ← getS
    let e := (s.squad z.1).tile z.2.1
    if e.st = .resident then pure ()
    else do
      roomTl
      modS (fun s => (if e.st = .absent then s.startFetch z.1 z.2.1 else s).countArrival z.1 z.2.1)) s0

/-- TEVICT. -/
def execTevict (d sr : Reg) (s0 : State) : Res :=
  issueOp (do
    needUnit 3
    let x ← readG sr
    let a := addr56 x
    let z ← tileAt 8 a
    owned 8 a z.1 z.2.1
    let s ← getS
    if ((s.squad z.1).tile z.2.1).st = .resident ∧ s.held z.1 z.2.1 = false then do
      roomTl
      modS (fun s =>
        ((s.depart z.1 z.2.1).modTile z.1 z.2.1 (fun e => { e with tlAbs := e.tlAbs ++ [s.me.cid] })).modMe
          (fun c => { c with tl := c.tl + 1 }))
      writeG d 1
    else writeG d 0) s0

/-! ## TSTAT and TSYNC (R75, R136, R137) -/

/-- The code of a tile's state (R75). -/
def TileSt.code : TileSt → Nat
  | .absent => 0
  | .arriving => 1
  | .resident => 2
  | .leaving => 3

/-- The residency entry in the layout of R75. -/
def TileEnt.word (e : TileEnt) : Word :=
  BitVec.ofNat 64 (packFields [(2, e.st.code), (10, e.frame), (8, e.pins), (7, e.log.length),
    (13, (e.log.head?.map LogEnt.idx).getD e.head), (16, e.owner), (1, e.sus.toNat)])

/-- TSTAT. -/
def execTstat (d sr : Reg) (s0 : State) : Res :=
  issueOp (do
    needUnit 3
    let x ← readG sr
    let a := addr56 x
    let z ← tileAt 9 a
    owned 9 a z.1 z.2.1
    let s ← getS
    writeG d ((s.squad z.1).tile z.2.1).word) s0

/-- TSYNC: it waits for the tile's arrival, whose count of entries it returns. -/
def execTsync (d sr : Reg) (s0 : State) : Res :=
  issueOp (do
    needUnit 3
    let x ← readG sr
    let a := addr56 x
    let z ← tileAt 9 a
    owned 9 a z.1 z.2.1
    roomG d
    let s ← getS
    match ((s.squad z.1).tile z.2.1).st with
    | .resident => writeG d 0
    | .leaving => holdOn s0 z.1 z.2.1 false
    | _ =>
      goOp ((s0.forceFetch z.1 z.2.1).modMe (fun c => ({ c with wait := .tsync z.1 z.2.1 d (popsOf [sr]) } : Ctx).bubble))) s0

end Sys2Proof.Machine
end

