-- ==== Sys2Proof/Machine/MemUnits.lean ====
section
/-!
DEFINITION. The steps of memory and of the tile units (R45-R92, R121-R123): replies and acknowledgements, slices and home cores,
snapshots, budgets, the L1, and a tile's owner, arrival and departure.
-/

namespace Sys2Proof.Machine

/-! ## Replies (R121, R123) -/

/-- Another lane of the access with this number is still under way. -/
def State.lanesLeft (s : State) (cid tag : Nat) (loads : List LoadRep) (acks : List StoreRep) : Bool :=
  loads.any (fun r => r.cid == cid && r.tag == tag) || acks.any (fun r => r.cid == cid && r.tag == tag) ||
  s.sliceQ.any (fun r => r.cid == cid && r.tag == tag && r.op != .fetchOnly)

/-- A vector register written in some lanes, which stays pending. -/
def Ctx.partV (c : Ctx) (x : Reg) (mask : BitVec 16) (v : VWord) : Ctx :=
  let i := x.toNat % 32
  { c with v := c.v.set i (blend mask v (c.v[i]'(Nat.mod_lt _ (by decide)))) (Nat.mod_lt _ (by decide)) }

/-- A load has failed: its destination is no longer pending (R123). -/
def Ctx.unpend (c : Ctx) (g v : Option Reg) : Ctx :=
  { c with
    gPend := match g with | some d => c.gPend &&& ~~~(1#64 <<< d.toNat) | none => c.gPend,
    vPend := match v with | some d => c.vPend &&& ~~~(1#32 <<< d.toNat) | none => c.vPend,
    ld := c.ld - 1 }

/-- The trap of a failed `.acq` load: precise, since its slot has waited (R123, R125). The instruction has changed nothing. -/
def State.acqFails (s : State) (r : LoadRep) (cls : TrapClass) (why : Nat) (d : Reg) (full : Bool) : State :=
  let next := (s.ctxOf r.cid).elim r.pc Ctx.pc
  let s1 := s.onCtx r.cid (fun c =>
    { c with pc := r.pc, npc := r.pc, wait := .none, ctrs := c.ctrs - 0x100000000#64, issues := c.issues - 1, consumed := c.consumed - 1,
             gFull := if full then c.gFull ||| (1#64 <<< d.toNat) else c.gFull })
  s1.postTrap r.cid (fun c =>
    { cls := cls, slot := c.slot, cid := r.cid, away := c.isAway, pc := r.pc, addr := BitVec.ofNat 64 r.addr,
      info := accInfo r.code why false, late := false, fetch := false, next := next, cyc := s.cyc })

/-- A load reply reaches its context; a port without room holds it back (R43), and an unbound port traps PORT (R26). -/
def State.takeLoad (s : State) (r : LoadRep) (rest : List LoadRep) : State :=
  let t := { s with loads := rest }
  match r.val with
  | .g d x =>
    let unbound := s.unboundPort r.cid d
    match t.deliverG r.cid d x with
    | none => s
    | some u =>
      let u1 := u.onCtx r.cid (fun c => { c with ld := c.ld - 1, wait := if r.acq.isSome then .none else c.wait })
      if unbound then u1.lateTrap r.cid .port r.pc 0 (portInfo false (portOf d) 1) else u1
  | .done d x npc fl acq => (t.complete r.cid d x npc fl acq).getD s
  | .v d mask x all =>
    if r.tag = 0 then t.onCtx r.cid (fun c => { c.setV d mask x with ld := c.ld - 1 })
    else
      let u := t.onCtx r.cid (fun c => c.partV d mask x)
      if t.lanesLeft r.cid r.tag rest [] then u
      else
        u.onCtx r.cid (fun c =>
          { c.setV d 0 0 with ld := c.ld - 1, vPoison := if all then c.vPoison &&& ~~~(1#32 <<< d.toNat) else c.vPoison })
  | .fail cls why g v =>
    let t1 := if r.tag = 0 then t else
      { t with loads := rest.filter (fun q => !(q.cid == r.cid && q.tag == r.tag)),
               sliceQ := t.sliceQ.map (fun q => if q.cid == r.cid && q.tag == r.tag then { q with op := .fetchOnly } else q) }
    let t2 := t1.onCtx r.cid (fun c => c.unpend g v)
    match r.acq with
    | some full => t2.acqFails r cls why (g.getD 0) full
    | none => t2.lateTrap r.cid cls r.pc (BitVec.ofNat 64 r.addr) (accInfo r.code why true)

/-- LOAD_REPLY: the oldest load reply under way to a context arrives. -/
def execLoadReply (cid : Nat) (s : State) : Res :=
  .next (match takeFirst (fun (r : LoadRep) => r.cid == cid) s.loads with
    | none => s
    | some (r, rest) => s.takeLoad r rest).reapSaved

/-- The other requests and replies of an instruction that has trapped raise no further trap (R351). -/
def State.hush (s : State) (cid tag : Nat) : State :=
  if tag = 0 then s
  else
    { s with
      acks := s.acks.map (fun q => if q.cid == cid && q.tag == tag then { q with fail := none } else q),
      sliceQ := s.sliceQ.map (fun q => if q.cid == cid && q.tag == tag then { q with quiet := true } else q),
      chans := s.chans.map (fun p =>
        (p.1, { p.2 with hq := p.2.hq.map (fun q => if q.cid == cid && q.tag == tag then { q with quiet := true } else q) })) }

/-- An acknowledgement, or a refusal, reaches its context. The lanes of one VSTX, and the lines of one FEMARK, raise one trap at most (R351). -/
def State.takeAck (s : State) (r : StoreRep) (rest : List StoreRep) : State :=
  let t0 : State := { s with acks := rest }
  let t := if r.fail.isSome then t0.hush r.cid r.tag else t0
  let t1 := if r.tag != 0 && !r.each && t.lanesLeft r.cid r.tag [] rest then t else t.onCtx r.cid (fun c => { c with st := c.st - 1 })
  match r.fail with
  | none => t1
  | some (cls, why) => t1.lateTrap r.cid cls r.pc (BitVec.ofNat 64 r.addr) (accInfo r.code why true)

/-- STORE_ACK: the oldest acknowledgement under way to a context arrives. -/
def execStoreAck (cid : Nat) (s : State) : Res :=
  .next (match takeFirst (fun (r : StoreRep) => r.cid == cid) s.acks with
    | none => s
    | some (r, rest) => s.takeAck r rest).reapSaved

/-! ## Slices and home cores -/

/-- SLICE_REQUEST: a slice evicts lines and performs the head of its queue (R58, R61). -/
def execSliceRequest (slice : Nat) (evict : List Nat) (s : State) : Res :=
  .next ((evict.foldl (fun t l => t.sliceEvict slice l) s).sliceStep slice).reportEvicted

/-- HOME_REQUEST: a home core takes its next request (R51). -/
def execHomeRequest (channel : Nat) (s : State) : Res := .next (s.homeStep channel).reportEvicted

/-- REMOTE_UPDATE: the oldest RUPD in flight to a unit (R267). -/
def execRemoteUpdate (unit : Nat) (s : State) : Res := .next (s.rupdStep unit)

/-- REQUEST_REISSUE: a slot whose request was rejected issues it again in its next turn (R44, R51, R88); a rejected thread
message is sent again (R261). -/
def execRequestReissue (cid : Nat) (s : State) : Res :=
  .next (
    if s.rejected.any (fun r => r.cid == cid) then
      ({ s with rejected := s.rejected.filter (fun r => r.cid != cid) }).modLive cid
        (fun c => if c.wait == Wait.rejected then { c with wait := .none } else c)
    else { s with threads := s.threads.map (fun m => if m.ctx.cid == cid then { m with rejected := false } else m) })

/-- WITHDRAWAL: the withdrawal of a context's request reaches its unit. If the request has been served before, nothing is left to
remove (R122). A slot that is loaded tries its instruction again (R44, R381). -/
def execWithdrawal (cid : Nat) (s : State) : Res :=
  .next (
    if s.withdrawn.contains cid then
      ({ s.unlist cid with withdrawn := s.withdrawn.filter (fun x => x != cid) }).modLive cid
        (fun c => if c.wait == Wait.listed || c.wait == Wait.rejected then { c with wait := .none } else c)
    else s)

/-! ## Snapshots (R54, R55, R60) -/

/-- SNAPSHOT_ARM: firmware writes `state` = 1 in OFF. -/
def execSnapshotArm (channel : Nat) (s : State) : Res :=
  .next (if (s.chan channel).snap = .off then s.modChan channel (fun c => { c with snap := .armed }) else s)

/-- SNAPSHOT_STOP: firmware writes `state` = 0. The bitmap stays. -/
def execSnapshotStop (channel : Nat) (s : State) : Res :=
  .next (s.modChan channel (fun c => { c with snap := .off, copying := none }))

/-- SNAPSHOT_START: an armed snapshot whose time has come. The bitmap is cleared, in the area too. -/
def execSnapshotStart (channel : Nat) (s : State) : Res :=
  .next (if (s.chan channel).snap = .armed ∧ (s.chan channel).snapt.toNat ≤ s.clk then
    (List.range 4096).foldl (fun t o => t.areaByte channel o 0)
      (s.modChan channel (fun c => { c with snap := .active, bitmap := [], copies := [], ncopies := 0 })) else s)

/-- SNAPSHOT_COPY_DONE: the page being copied is in the area, and the write that caused the copy goes on. -/
def execSnapshotCopyDone (channel : Nat) (s : State) : Res := .next (s.copyDone channel)

/-- A stored form read under a key slot at its own place (R52, R55). -/
def formUnder (key g : Nat) (c : CGran) : Granule :=
  match c.key with
  | none => Config.zeroForm key g
  | some k => if k = key then c.data else Config.crossKey k key g c.data

/-- SNAPSHOT_READ: a firmware read of granule `gran` of a page returns the copy when there is one, and the live page otherwise. -/
def execSnapshotRead (channel page key gran : Nat) (s : State) : Res :=
  .next (
    let g := (s.pageGrans channel page).getD (gran % 4096) 0
    let c := s.chan channel
    let copy := if c.bitmap.contains page then
        (List.find? (fun (p : Nat × List (Nat × CGran × Bool × Bool)) => p.1 == page) c.copies).bind (fun p =>
          (List.find? (fun (x : Nat × CGran × Bool × Bool) => x.1 == g) p.2).map (fun x => x.2.1))
      else none
    { s with snapReads := s.snapReads ++ [formUnder key g (copy.getD (s.homeGran g))] })

/-! ## Budgets and the L1 -/

/-- L1_LINE_EXPIRY: a line 65,536 cycles old is invalidated (R64). -/
def execL1LineExpiry (core line : Nat) (s : State) : Res :=
  .next (s.l1Keep core (fun e => e.line != line || decide (s.cyc < e.filled + 65536)))

/-- L1MODE_WRITE: every line is invalidated, then the mode changes; on a home core or a pivot core it is ignored (R63). -/
def State.writeL1mode (s : State) (core : Nat) (v : Word) : State :=
  if s.part.isBarrel core then (s.l1Clear core).modCore core (fun k => { k with l1mode := v &&& 3 }) else s

/-- L1MODE_WRITE. -/
def execL1modeWrite (core : Nat) (v : Word) (s : State) : Res := .next (s.writeL1mode core v)

/-- A write of `tlcap` (R74): bits 6:0, held within 4 and 64. -/
def State.writeTlcap (s : State) (q : Nat) (v : Word) : State :=
  let n := v.toNat % 128
  s.modSquad q (fun k => { k with tlcap := BitVec.ofNat 64 (if n < 4 then 4 else if 64 < n then 64 else n) })

/-- TLCAP_WRITE. -/
def execTlcapWrite (squad : Nat) (v : Word) (s : State) : Res := .next (if squad < s.part.squads then s.writeTlcap squad v else s)

/-! ## The tile unit -/

/-- TILE_OWNER_ASSIGN: a write of `townc` assigns an owner, or is refused (R73). -/
def State.assignOwner (s : State) (q : Nat) (v : Word) : State :=
  let t := fld v 13 0
  let o := fld v 47 32
  let e := (s.squad q).tile t
  let ok := e.st == .absent && e.log.isEmpty && e.pins == 0
  let s1 := if ok then s.modTile q t (fun e => { e with owner := o }) else s
  s1.modSquad q (fun k => { k with townc := BitVec.ofNat 64 (packFields [(14, t), (18, 0), (16, o), (15, 0), (1, (!ok).toNat)]) })

/-- TILE_OWNER_ASSIGN. -/
def execTileOwnerAssign (squad : Nat) (v : Word) (s : State) : Res := .next (s.assignOwner squad v)

/-- TILE_ACCESS: the tile unit takes up again the access that a slot has parked on, once its tile is neither arriving nor leaving; the
slot re-executes the instruction in its next turn (R44, R77). -/
def execTileAccess (core slot : Nat) (s : State) : Res :=
  .next (match s.at? core slot with
    | none => s
    | some c =>
      match c.wait with
      | .tile q t =>
        let st := ((s.squad q).tile t).st
        if st = .resident ∨ st = .absent then s.place { c with wait := .none } else s
      | _ => s)

/-- TILE_ARRIVAL: the last line of a tile is in its frame (R77, R89). A fetch that has no frame yet tries again to claim one (R78). -/
def execTileArrival (squad tile : Nat) (s : State) : Res :=
  .next (
    let e := (s.squad squad).tile tile
    if e.st = .arriving ∧ e.framed = false then s.claim squad tile else s.tileArrive squad tile)

/-- TILE_DEPARTURE_DONE: the last write-back of a tile is performed at its home (R77). -/
def execTileDepartureDone (squad tile : Nat) (s : State) : Res := .next (s.tileDeparted squad tile)

end Sys2Proof.Machine
end

