-- ==== Sys2Proof/Machine/Partitions.lean ====
section
/-!
DEFINITION. Hardware partitions (R419-R421): the checked writes of their control block, activation, and destruction.
-/

namespace Sys2Proof.Machine

/-- Partition `p`'s first and last + 1 channel, from `pchan`. -/
def PartSt.chanRange (p : PartSt) : Nat × Nat := (fld p.pchan 11 0, fld p.pchan 11 0 + 2 ^ fld p.pchan 15 12)
/-- Partition `p`'s first and last + 1 squad, from `psqd`. -/
def PartSt.squadRange (p : PartSt) : Nat × Nat := (fld p.psqd 11 0, fld p.psqd 11 0 + 2 ^ fld p.psqd 15 12)

/-- A range of `2^j` from `c` is aligned and within the part's `n` (R7, R45). -/
def rangeOk (c j n : Nat) : Bool := c % 2 ^ j == 0 && decide (c + 2 ^ j ≤ n)

/-- Another partition that is not FREE holds part of a range. -/
def State.claimedBy (s : State) (part : Nat) (f : PartSt → Nat × Nat) (lo hi : Nat) : Bool :=
  s.parts.any (fun p => p.1 != part && p.2.pstate != .free && decide (lo < (f p.2).2) && decide ((f p.2).1 < hi))

/-- The sum of the other partitions' queue-slot shares. -/
def State.otherSlots (s : State) (part : Nat) : Nat := ((s.parts.filter (fun p => p.1 != part)).map (fun p => fld p.2.pqslot 9 0)).sum

/-- A write of one of the four registers, or none where the policy core refuses it (R420). -/
def State.configWrite (s : State) (part : Nat) (r : PartReg) (v : Word) : Option State :=
  if (s.partn part).pstate ≠ .free then none
  else
    let j := fld v 15 12
    let c := fld v 11 0
    match r with
    | .pchan =>
      if !rangeOk c j s.part.squads || s.claimedBy part PartSt.chanRange c (c + 2 ^ j) then none
      else some (s.modPartn part (fun p => { p with pchan := v &&& 0xFFFF#64 }))
    | .psqd =>
      if !rangeOk c j s.part.squads || s.claimedBy part PartSt.squadRange c (c + 2 ^ j) then none
      else some (s.modPartn part (fun p => { p with psqd := v &&& 0xFFFF#64 }))
    | .pqslot =>
      if 512 < s.otherSlots part + fld v 9 0 then none else some (s.modPartn part (fun p => { p with pqslot := v &&& 0x3FF#64 }))
    | .prcb =>
      let a := fld v 55 0
      if a % 256 ≠ 0 ∨ regionOf s.part a ≠ .main ∨ s.rcbLevel a ≠ 0 ∨ fld (s.rcbWord a 4) 43 39 ≠ part then none
      else some (s.modPartn part (fun p => { p with prcb := v &&& 0x00FFFFFFFFFFFFFF#64 }))

/-- PARTITION_CONFIG_WRITE: the policy core writes while it holds the semaphore. -/
def execPartitionConfigWrite (part : Nat) (r : PartReg) (v : Word) (s : State) : Res :=
  .next (s.manage 3 (if part < 32 then (s.configWrite part r v).getD s else s))

/-- The supervisors of a partition's cores carry its tag (R46). -/
def State.tagSupervisors (s : State) (part : Nat) : State :=
  (s.ctxs.filter (fun c => c.slot == 15 && s.corePart c.core == some part)).foldl (fun t c => t.place { c with ptag := part }) s

/-- A FREE partition becomes ACTIVE, and VF p + 1 is enabled. The policy core refuses one whose RCB tree breaks R336. -/
def State.activatePart (s : State) (part : Nat) : State :=
  if part < 32 ∧ (s.partn part).pstate = .free ∧ s.rcbTreeOk part then
    (s.modPartn part (fun p => { p with pstate := .active, vf := true })).tagSupervisors part
  else s

/-- PARTITION_ACTIVATE: ACTIVE is written by the holder of the semaphore. -/
def execPartitionActivate (part : Nat) (s : State) : Res := .next (s.manage 3 (s.activatePart part))

/-! ## Destruction (R421) -/

/-- The loaded contexts of a partition that a pause saves: by their own slots, or by their anchors' (R303). -/
def State.partLoaded (s : State) (part : Nat) : List Ctx :=
  s.ctxs.filter (fun c => c.ptag == part && decide (c.slot < 15) && c.anchorMode != .away && c.save != 0)

/-- A pause with reason 3 of every core that has one of them and is not still answering a message (R353, R421 step 1). -/
def State.pausePart (s : State) (part : Nat) : State :=
  let l := (s.partLoaded part).filter (fun c => s.preemptDone c.core)
  s.sendAll part 3 false (l.map (fun c => { core := c.core, slot := c.slot, out := c.save.toNat, inn := 0 }))

/-- Every accepted command of the partition's queues is to retire with NOROOM (R421). -/
def State.dropCommands (s : State) (part : Nat) : State :=
  ((s.partn part).qtab.map Prod.fst).foldl (fun (t : State) q =>
    match t.loadQ part q with
    | none => t
    | some x =>
      if x.accept = x.retire then t
      else
        let y := t.resumeQ part x
        t.storeQ part q { y with cmds := y.cmds.map (fun c => if c.dup then c else c.finish lrNoRoom) }) s

/-- DRAINING written to an ACTIVE partition: its contexts are paused and its queue commands cut short. -/
def State.drainPart (s : State) (part : Nat) : State :=
  if (s.partn part).pstate = .active then
    let s1 := s.modPartn part (fun p => { p with pstate := .draining })
    let s2 := { s1 with kick := { s1.kick with insts := s1.kick.insts.filter (fun i => i.part != part) } }
    (s2.dropCommands part).pausePart part
  else s

/-- PARTITION_DRAIN: DRAINING is written by the holder of the semaphore. While the partition drains, cores that were still answering a message are
paused in their turn. -/
def execPartitionDrain (part : Nat) (s : State) : Res :=
  .next (if (s.partn part).pstate = .draining then s.pausePart part else s.manage 3 (s.drainPart part))

/-- Every queue of the partition has retired what it accepted. -/
def State.queuesIdle (s : State) (part : Nat) : Bool := (s.queues part).all (fun x => x.2.accept == x.2.retire || x.2.st == .error)

/-- The partition's squads run no engine or matrix command. -/
def State.squadsIdle (s : State) (part : Nat) : Bool :=
  (s.partSquads part).all (fun q => (s.squad q).cmds.isEmpty && (squadCores q).all (fun c => (s.core c).mq.isEmpty))

/-- A context that a drain has paused ends. -/
def State.endSaved (s : State) (p : Nat × Ctx) : State :=
  ({ s.unlist p.2.cid with saved := s.saved.erase p.1, withdrawn := s.withdrawn.filter (fun x => x != p.2.cid) }).forget p.2.cid p.2.inst

/-- An address of main memory lies in a partition's channels. -/
def State.inPart (s : State) (part a : Nat) : Bool := decide (a < 2 ^ 48) && s.partHolds part a 1

/-- The channels' bytes have the stored form zero; every granule is full and unpoisoned, and no cache holds any of it (R421 steps 3 and 4). -/
def State.scrubPart (s : State) (part : Nat) : State :=
  let keepG (g : Nat) : Bool := !s.inPart part (16 * g)
  { s with
    mem := s.mem.filter (fun c => !s.inPart part c.1),
    keys := s.keys.filter (fun p => keepG p.1), empties := s.empties.filter keepG, poison := s.poison.filter keepG,
    l2 := s.l2.filter (fun p => keepG p.1), msc := s.msc.filter (fun p => keepG p.1) }

/-- PARTITION_DRAIN_DONE: once its contexts are paused, its queues idle and its units quiet, the contexts end, tiles, memory and key slots are
cleared, and the partition is FREE. -/
def execPartitionDrainDone (part : Nat) (s : State) : Res :=
  .next (
    if (s.partn part).pstate ≠ .draining ∨ !(s.partLoaded part).isEmpty ∨ !s.queuesIdle part ∨ !s.squadsIdle part then s
    else
      let s1 := (s.ctxs.filter (fun c => c.ptag == part && decide (c.slot < 15))).foldl State.endContext s
      let s2 := (s1.saved.filter (fun p => p.2.ptag == part)).foldl State.endSaved s1
      let s3 := (s.partSquads part).foldl (fun (t : State) q => t.modSquad q (fun k =>
        { k with tiles := k.tiles.map (fun p => (p.1, { TileEnt.reset with owner := p.2.owner })), twait := [] })) s2
      let s4 := s3.scrubPart part
      let ks := (s4.keySlots.filter (fun k => k.2 == part)).map Prod.fst
      let s5 := ks.foldl (fun (t : State) k => { t.newKey k with keySlots := t.keySlots.erase k }) s4
      s5.modPartn part (fun p => { p with pstate := .free, vf := false, qs := [] }))

end Sys2Proof.Machine
end

