-- ==== Sys2Proof/Machine/ControlRegs.lean ====
section
/-!
DEFINITION. Control registers as CRD and CWR reach them (R13-R15, R183-R186, R295, R352), the fault-injection register, and writes to device control
space by agents other than a context's store (R3, R47, R73, R234, R289, R346, R355, R359, R374, R387-R390, R401, R404, R419).
-/

namespace Sys2Proof.Machine

/-! ## Reading (R183-R185) -/

/-- `cap0` on a core (R14). -/
def Part.cap0 (p : Part) (core : Nat) : Word :=
  let k := (p.isBarrel core).toNat
  let x4 := decide (p = .x4)
  BitVec.ofNat 64 (packFields [(1, k), (1, k), (1, k), (1, 0), (1, x4.toNat), (1, (!x4).toNat), (1, x4.toNat), (9, 0), (4, p.dies), (12, p.squads),
    (8, p.pivots), (8, p.links)])
/-- `cap1` (R15). -/
def Part.cap1 : Part → Word
  | .x4 => 0
  | .c2 => 96
/-- `cap2` (R15). -/
def Part.cap2 : Part → Word
  | .x4 => BitVec.ofNat 64 (packFields [(2, 0), (6, 0), (8, 140)])
  | .c2 => BitVec.ofNat 64 (packFields [(2, 1), (6, 0), (8, 70)])

/-- `drift` of a context (R185). -/
def State.drift (s : State) (c : Ctx) : Word :=
  BitVec.ofNat 64 (packFields [(6, s.lag c), (2, 0), (4, if c.att then c.slot else 15), (4, 0), (1, c.att.toNat)])

/-- The record at the head of a core's trap queue: the core records first, PREEMPT before SPILLQ (R352). -/
def CoreSt.headRecord (k : CoreSt) : Option TrapRec :=
  match k.preempt with
  | some r => some r
  | none => match k.spill with | some r => some r | none => k.trapQ.head?

/-- Trap register `i` of 0-4: `tcause`, `tslot`, `tpc`, `taddr`, `tinfo` (R295). -/
def CoreSt.trapReg (k : CoreSt) (i : Nat) : Word :=
  match k.headRecord with
  | none => 0
  | some r =>
    match i with
    | 0 => BitVec.ofNat 64 (packFields [(8, r.cls.code), (8, k.trapQ.length), (1, 1)])
    | 1 => BitVec.ofNat 64 (packFields [(4, r.slot), (4, 0), (1, r.away.toNat)])
    | 2 => r.pc &&& 0x00FFFFFFFFFFFFFF#64
    | 3 => r.addr
    | _ => r.info

/-- What a context reads of a control register (R184). A number that the map does not list reads as zero. -/
def State.creg (s : State) (c : Ctx) (n : Nat) : Word :=
  let barrel := s.part.isBarrel c.core
  match n with
  | 0x000 => BitVec.ofNat 64 c.slot
  | 0x001 => BitVec.ofNat 64 c.core
  | 0x002 => if barrel then BitVec.ofNat 64 (squadOf c.core) else 0xFFFF
  | 0x003 => c.ctxtag.setWidth 64
  | 0x004 => c.tenid.setWidth 64
  | 0x005 => c.fcs
  | 0x006 => BitVec.ofNat 64 s.clk
  | 0x007 => BitVec.ofNat 64 s.cyc
  | 0x008 => c.ctrs
  | 0x009 => s.drift c
  | 0x00A => (s.core c.core).aown
  | 0x00B => if barrel then (s.squad (squadOf c.core)).tlcap else 0
  | 0x00C => if barrel then (s.core c.core).l1mode else Config.absentReg c.core 0x00C &&& 0x3#64
  | 0x00D => if barrel then (s.squad (squadOf c.core)).mgate else Config.absentReg c.core 0x00D &&& 0xFFFF#64
  | 0x010 | 0x011 | 0x012 | 0x013 | 0x014 => if c.slot = 15 then (s.core c.core).trapReg (n - 0x010) else 0
  | 0x020 => s.part.cap0 c.core
  | 0x021 => s.part.cap1
  | 0x022 => s.part.cap2
  | 0x030 => s.fij
  | _ => 0

/-- CRD. An AMO holds its slot until it has completed, so a CRD of `fcs` has none of the slot's before it. -/
def execCrd (d : Reg) (n : BitVec 12) (s0 : State) : Res :=
  issueOp (do
    gate [d]
    let s ← getS
    writeG d (s.creg s.me n.toNat)) s0

/-! ## Writing (R183, R186) -/

/-- A write of `fij` by a context (R186): ignored with a reserved kind or a port that the part lacks; kind 1 with step 0 fires now. Kind 2 alone is
disarmed with the context that wrote it. -/
def State.writeFij (s : State) (cid : Nat) (v : Word) : State :=
  let kind := fld v 3 0
  if 3 ≤ kind ∨ s.part.links ≤ fld v 23 16 then s
  else
    let x := v &&& 0x0000FFFF00FF000F#64
    let s1 := { s with fij := x, fijBy := if kind = 2 then cid else 0 }
    if kind = 1 ∧ fld v 47 32 = 0 then ({ s1 with fij := x &&& ~~~0xF#64 } : State).portFails (fld v 23 16) else s1

/-- FIJ_WRITE. -/
def execFijWrite (cid : Nat) (v : Word) (s : State) : Res := .next (s.writeFij cid v)

/-- A write of a control register by the context in its turn (R183, R184). -/
def State.cregWrite (s : State) (n : Nat) (v : Word) : State :=
  let barrel := s.part.isBarrel s.me.core
  let q := squadOf s.me.core
  match n with
  | 0x005 => s.modMe (fun c => { c with fcs := v &&& 0x1F3#64 })
  | 0x008 => s.modMe (fun c => { c with ctrs := v })
  | 0x00B => if barrel then s.writeTlcap q v else s
  | 0x00C => s.writeL1mode s.me.core v
  | 0x00D => if barrel then s.modSquad q (fun k => { k with mgate := v &&& 0xFFFF#64 }) else s
  | 0x030 => s.writeFij s.me.cid v
  | _ => s

/-- CWR. -/
def execCwr (d : Reg) (n : BitVec 12) (s0 : State) : Res :=
  issueOp (do
    gate [d]
    let x ← readG d
    modS (fun s => s.cregWrite n.toNat x)) s0

/-! ## Writes to device control space (R3) -/

/-- The agent belongs to the firmware complex. -/
def Sys2Agent.isFw (a : Agent) : Bool :=
  match a with
  | .firmware | .policy | .rcb _ => true
  | .port _ | .context _ _ => false

/-- The number under which the agent holds the semaphore (R387). Of the firmware complex only the policy core takes it. -/
def Sys2Agent.holder (a : Agent) : BitVec 2 :=
  match a with
  | .policy | .rcb _ => 3
  | .port n => if n = 0 then 1 else 2
  | .firmware | .context _ _ => 0

/-- A management change by the policy core or a port (R45, R388): with the semaphore held; otherwise it is discarded and counted. The write of any
other agent is discarded. -/
def State.manageAs (s : State) (a : Agent) (t : State) : State :=
  match a with
  | .firmware | .context _ _ => s
  | .policy | .port _ | .rcb _ => s.manage (Sys2Agent.holder a) t

/-- A change that a port makes only with the semaphore (R388), and the firmware complex on its own account. -/
def State.portManages (s : State) (a : Agent) (t : State) : State :=
  match a with
  | .firmware | .policy | .rcb _ => t
  | .port _ => s.manage (Sys2Agent.holder a) t
  | .context _ _ => s

/-- A channel is used by a partition that is not FREE (R45). -/
def State.chanUsed (s : State) (ch : Nat) : Bool :=
  s.parts.any (fun p => p.2.pstate != .free && decide (p.2.chanRange.1 ≤ ch) && decide (ch < p.2.chanRange.2))

/-- The memory-side cache of a channel written back and invalidated (R48); its poisoned lines are reported (R363). -/
def State.flushMsc (s : State) (ch : Nat) : State :=
  let d := s.msc.filter (fun p => s.chanOf (16 * p.1) == ch)
  (linesIn8 d).foldl State.leftCache { s with msc := s.msc.filter (fun p => s.chanOf (16 * p.1) != ch) }

/-- A write of `chown` (R45, R47, R48). -/
def State.writeChown (s : State) (ch : Nat) (v : Word) : State :=
  if s.chanUsed ch then s else (s.flushMsc ch).modChan ch (fun c => { c with own := v.getLsbD 8, part := fld v 4 0 })

/-- A write of `snapc` (R47, R54): the area, if it is within its limits, and a change of state to OFF, or from OFF to ARMED.
A write of 2 or 3 changes no state (DESIGN CHOICE, log 69). -/
def State.writeSnapc (s : State) (ch : Nat) (v : Word) : State :=
  let b := fld v 38 24
  let n := fld v 23 8
  let s1 := if 2 ≤ n ∧ n ≤ 30721 ∧ b + n ≤ 32768 then s.modChan ch (fun c => { c with abase := b, alen := n }) else s
  match fld v 2 0 with
  | 0 => s1.modChan ch (fun c => { c with snap := .off, copying := none })
  | 1 => if (s1.chan ch).snap = .off then s1.modChan ch (fun c => { c with snap := .armed }) else s1
  | _ => s1

/-- A channel's control block (R47). -/
def State.writeChanBlock (s : State) (a : Agent) (ch r : Nat) (v : Word) : State :=
  if r = 0x00 then s.manageAs a (s.writeChown ch v)
  else if !Sys2Agent.isFw a then s
  else if r = 0x08 then s.modChan ch (fun c => { c with snapt := v })
  else if r = 0x10 then s.writeSnapc ch v
  else if r = 0x20 then s.modChan ch (fun c => { c with rejects := c.rejects &&& ~~~(v.extractLsb' 32 32) })
  else s

/-- A squad's tile control block (R73). -/
def State.writeTileBlock (s : State) (a : Agent) (q r : Nat) (v : Word) : State :=
  if r = 0x00 then s.portManages a (s.modSquad q (fun k => { k with tbase := v &&& 0x000000FFFC000000#64 }))
  else if !Sys2Agent.isFw a then s
  else if r = 0x08 then s.assignOwner q v
  else if r = 0x18 then
    s.modSquad q (fun k => { k with forced := k.forced &&& ~~~(v.extractLsb' 32 32), rejects := k.rejects &&& ~~~(v.extractLsb' 0 32) })
  else s

/-- A squad's matrix control block, on an LG9-X4 (R234). -/
def State.writeMatrixBlock (s : State) (q r : Nat) (v : Word) : State :=
  if s.part = .c2 then s
  else if r = 0x00 then s.modSquad q (fun k => { k with mbudget := v.extractLsb' 0 32 })
  else if r = 0x08 then s.modSquad q (fun k => { k with deferred := k.deferred &&& ~~~(v.extractLsb' 32 32) })
  else s

/-- A partition's kickoff control block (R346): an `age` of 0 is stored as 1. -/
def State.writeKickBlock (s : State) (p r : Nat) (v : Word) : State :=
  if r = 0x00 then s.modPartn p (fun x => { x with kcfg := if fld v 15 0 = 0 then v ||| 1#64 else v })
  else if r = 0x08 then s.modPartn p (fun x => { x with kstat := x.kstat &&& ~~~v })
  else s

/-- A write of `irte` (R359): refused and counted while the function is locked (R399), and without effect outside IDLE; owner 3 is ignored. -/
def State.writeIrte (s : State) (n : Nat) (v : Word) : State :=
  let e := s.irq n
  let f := fld e.irte 23 16
  if 1 ≤ f ∧ s.locked (f - 1) then s.reject
  else if e.st ≠ .idle then s
  else
    let w := v &&& 0x0000000000FFFFF7#64
    s.modIrq n (fun e => { e with irte := if fld v 1 0 = 3 then (w &&& ~~~3#64) ||| (e.irte &&& 3#64) else w })

/-- A write of `istat` through control space (R359, R360): `ack` and `esc` by the policy core, and `state` by the claimant: the policy core, or the
physical function, whose window this is, for its own entries. -/
def State.writeIstat (s : State) (a : Agent) (n : Nat) (v : Word) : State :=
  let s1 :=
    if a = .policy ∧ v.getLsbD 2 ∧ (s.irq n).st = .devWait then s.modIrq n (fun e => { e with st := .device })
    else if a = .policy ∧ v.getLsbD 3 ∧ (s.irq n).st = .devWait then (s.modIrq n (fun e => { e with st := .host })).sendMsix n
    else s
  if fld v 1 0 ≠ 3 then s1
  else
    match (s1.irq n).st, a with
    | .device, .policy => s1.modIrq n (fun e => { e with st := .idle })
    | .host, .port _ => if fld (s1.irq n).irte 23 16 = 0 then s1.modIrq n (fun e => { e with st := .idle }) else s1
    | _, _ => s1

/-- The seal unit's registers (R374). -/
def State.writeSealReg (s : State) (r : Nat) (v : Word) : State :=
  let i := fld v 63 48
  if r = 0x00 then s.modSeal (fun u => { u with scdesc := v &&& 0x00FFFFFFFFFFFFFF#64 })
  else if r = 0x08 then
    if s.sealU.busy then s
    else
      let s1 := s.modSeal (fun u => { u with sccmd := v &&& 0xFFFFFFFFFFFF000F#64 })
      match fld v 3 0 with
      | 1 => s1.sealCmd i (fld s.sealU.scdesc 55 0)
      | 2 => s1.revokeCmd i
      | 3 => s1.revokeTgenCmd (v.extractLsb' 16 32)
      | 4 => s1.freeCmd i
      | _ => s1
  else if 0x100 ≤ r ∧ r < 0x200 then s.modPartn ((r - 0x100) / 8) (fun p => { p with audit := v.getLsbD 0 })
  else s

/-- `sema` and `semrej` (R387): only the holder writes. -/
def State.writeSema (s : State) (a : Agent) (r : Nat) (v : Word) : State :=
  if !s.holds (Sys2Agent.holder a) then s
  else if r = 0x00 then (if v.getLsbD 0 then s.startLease (Sys2Agent.holder a) else s.freeSema)
  else if r = 0x08 then { s with sema := { s.sema with rej := s.sema.rej &&& ~~~(v.extractLsb' 0 32) } }
  else s

/-- A partition's syscall-ring block (R401). -/
def State.writeSysBlock (s : State) (p r : Nat) (v : Word) : State :=
  if r = 0x00 then s.modPartn p (fun x => { x with sysBase := fld v 55 0 })
  else if r = 0x08 then s.modPartn p (fun x => { x with sysLsize := fld v 4 0 })
  else if r = 0x10 then s.modPartn p (fun x => { x with sysHead := v.extractLsb' 0 32, sysTail := v.extractLsb' 32 32 })
  else s

/-- The next state of a move of the environment. -/
def Res.state (r : Res) (s : State) : State :=
  match r with
  | .next t => t
  | .fault _ => s
  | .refused _ => s

/-- One word of a host-window descriptor (R389). -/
def State.writeWindow (s : State) (p w i : Nat) (v : Word) : State :=
  let d := (s.partn p).wins.getD HostWin.reset w
  (execHostWindowWrite p w (if i = 0 then v else d.w0) (if i = 1 then v else d.w1) (if i = 2 then v else d.w2) s).state s

/-- A link port's block, and `lnode` (R404). -/
def State.writeLinkReg (s : State) (r : Nat) (v : Word) : State :=
  if r = 0x18000 then
    let d := fld v 47 16
    { s with fab := { s.fab with node := fld v 15 0, ldead := if 1 ≤ d ∧ d ≤ 1000000 then d else s.fab.ldead } }
  else
    let port := r / 0x100
    if s.part.links ≤ port then s
    else if r % 0x100 = 0x00 then (if fld v 1 0 = 1 then s.modLink port (fun k => { k with st := .training }) else s)
    else if r % 0x100 = 0x08 then
      s.modLink port (fun k => { k with replays := k.replays &&& ~~~(v.extractLsb' 32 32), discards := k.discards &&& ~~~(v.extractLsb' 0 32) })
    else s

/-- `lroute` of a node (R404): what is not yet answered leaves again by the new routes (R409). -/
def State.writeRoute (s : State) (n : Nat) (v : Word) : State :=
  let x := fld v 8 0
  let t := { s with fab := { s.fab with lroute := if x = 0 then s.fab.lroute.erase n else s.fab.lroute.put n x } }
  t.resendAll

/-- `lpmap` of a partition of a node (R404). -/
def State.writePair (s : State) (i : Nat) (v : Word) : State :=
  let x := (v &&& 0x9F#64).toNat
  { s with fab := { s.fab with lpmap := if x = 0 then s.fab.lpmap.erase i else s.fab.lpmap.put i x } }

/-- A partition's control block (R419-R421). -/
def State.writePartBlock (s : State) (a : Agent) (p r : Nat) (v : Word) : State :=
  let conf (k : PartReg) : State := s.manageAs a ((s.configWrite p k v).getD s)
  if r = 0x00 then conf .pchan
  else if r = 0x08 then conf .psqd
  else if r = 0x10 then conf .pqslot
  else if r = 0x18 then conf .prcb
  else if r = 0x20 then
    match fld v 1 0 with
    | 1 => s.manageAs a (s.activatePart p)
    | 2 => s.manageAs a (s.drainPart p)
    | _ => s
  else s

/-- A word of an RCB written by the policy core (R335): refused where it changes groups 0, 1, 10 or 11 of a subtree with a loaded or saved context
(R337), or makes a tree break R336. -/
def State.writeRcb (s : State) (node off : Nat) (v : Word) : State :=
  let a := node % 2 ^ 56
  let i := off / 8
  let x := v &&& rcbMask i
  if off % 8 ≠ 0 ∨ 13 ≤ i ∨ a % 256 ≠ 0 ∨ regionOf s.part a ≠ .main ∨ (rcbFrozen i (s.rcbWord a i) x && s.liveUnder a) then s
  else
    let t := s.unitWords 0 (a + off) [x]
    if s.parts.any (fun p => s.rcbTreeOk p.1 && !t.rcbTreeOk p.1) then s else t

/-- A write of a whole register of device control space by an agent (R3). An offset that no block defines ignores it (R119). -/
def State.ctlWrite (s : State) (a : Agent) (off : Nat) (v : Word) : State :=
  let fw := Sys2Agent.isFw a
  match a with
  | .context tenid _ => s.ctlStore false (BitVec.ofNat 16 tenid) off v
  | .rcb node => s.writeRcb node off v
  | _ =>
    match inBlock off 0x100000 s.part.squads 0x100 with
    | some (ch, r) => s.writeChanBlock a ch r v
    | none =>
    match inBlock off 0x200000 s.part.squads 0x100 with
    | some (q, r) => s.writeTileBlock a q r v
    | none =>
    match inBlock off 0x300000 s.part.squads 0x100 with
    | some (q, r) => if fw then s.writeMatrixBlock q r v else s
    | none =>
    match s.ringAt off with
    | some (q, n, r) => if fw && r == 0 then s.modRing q n (fun k => { k with srcfg := v &&& 0xFFFFFF03FFFFFFFF#64 }) else s
    | none =>
    match inBlock off 0x500000 32 0x100 with
    | some (p, r) => if fw then s.writeKickBlock p r v else s
    | none =>
    match inBlock off 0x700000 4640 0x10 with
    | some (c, r) => if fw && r == 0 && s.part.hasCore c then s.modCore c (fun k => { k with spqa := v &&& 0x00FFFFFFFFFFFFFF#64 }) else s
    | none =>
    match inBlock off 0x800000 2048 0x10 with
    | some (n, r) => if r = 0 then s.portManages a (s.writeIrte n v) else if r = 8 then s.writeIstat a n v else s
    | none =>
    match inBlock off 0xA00000 1 0x200 with
    | some (_, r) => if fw then s.writeSealReg r v else s
    | none =>
    match inBlock off 0xB00000 1 0x10 with
    | some (_, r) => s.writeSema a r v
    | none =>
    match inBlock off 0xC00000 32 0x100 with
    | some (p, r) => if fw then s.writeSysBlock p r v else s
    | none =>
    match inBlock off 0xD00000 32 0x100 with
    | some (p, r) => if a = .policy then s.writeWindow p (r / 0x20) (r % 0x20 / 8) v else s
    | none =>
    match inBlock off 0xE00000 32 0x8000 with
    | some (p, r) => (execQueueTableWrite p (r / 8) v s).state s
    | none =>
    match inBlock off 0xF00000 1 0x18008 with
    | some (_, r) => if fw then s.writeLinkReg r v else s
    | none =>
    match inBlock off 0x1100000 32 0x100 with
    | some (p, r) => s.writePartBlock a p r v
    | none =>
    match inBlock off 0x2000000 65536 8 with
    | some (n, _) => if fw && n != 0 then s.writeRoute n v else s
    | none =>
    match inBlock off 0x4000000 65536 0x80 with
    | some (n, r) => if fw && n != 0 then s.writePair (32 * n + r / 4) v else s
    | none => s

/-- CONTROL_REGISTER_WRITE. -/
def execControlRegisterWrite (a : Agent) (off : Nat) (v : Word) (s : State) : Res := .next (s.ctlWrite a off v)

end Sys2Proof.Machine
end

