-- ==== Sys2Proof/Machine/HostAccess.lean ====
section
/-!
DEFINITION. Programmed access of the host through the BARs of its functions (R325, R386, R387, R389, R390, R392).
-/

namespace Sys2Proof.Machine

/-! ## BAR2: device control space (R386) -/

/-- The registers of 8 bytes that a store of `n` bytes at an offset covers whole (R119). -/
def wholeRegs (off n : Nat) : List Nat := ((List.range (n / 8)).map (fun i => (off + 7) / 8 * 8 + 8 * i)).filter (fun r => decide (r + 8 ≤ off + n))

/-- A store through BAR2 writes each register that it covers. -/
def State.bar2Store (s : State) (port off : Nat) (b : List Byte) : State :=
  (wholeRegs off b.length).foldl (fun (t : State) r => t.ctlWrite (.port port) r (BitVec.ofNat 64 (ofBytes (slice b (r - off) 8)))) s

/-- A load through BAR2: the bytes of the registers. A read of `sema` acquires it while it is idle (R387). -/
def State.bar2Load (s : State) (port off n : Nat) : State :=
  let h := Sys2Agent.holder (.port port)
  let hit := decide (off < 0xB00008) && decide (0xB00000 < off + n)
  let r := s.semaRead h
  let b := (List.range n).map (fun i =>
    let a := off + i
    let v := if a / 8 * 8 = 0xB00000 then r.1 else s.ctlWord false 0 32 (a / 8 * 8)
    v.extractLsb' (8 * (a % 8)) 8)
  let t := if hit then r.2 else s
  { t with hostReads := t.hostReads ++ [b] }

/-! ## BAR0: doorbells and the queue table (R390, R392) -/

/-- A store through BAR0 of function `fn`: a doorbell, or an entry of the queue table. The physical function has neither. -/
def State.bar0Store (s : State) (fn off : Nat) (b : List Byte) : State :=
  let v : Word := BitVec.ofNat 64 (ofBytes b)
  if fn = 0 ∨ 32 < fn ∨ b.length ≠ 8 ∨ off % 8 ≠ 0 then s
  else if off < 0x8000 then
    if v.getLsbD 63 then (execDoorbellReset (fn - 1) (off / 8) s).state s
    else (execDoorbellKick (fn - 1) (off / 8) (v.extractLsb' 0 32) s).state s
  else if off < 0x10000 then (execQueueTableWrite (fn - 1) ((off - 0x8000) / 8) v s).state s
  else s

/-- A register of BAR0. -/
def State.bar0Word (s : State) (fn off : Nat) : Word :=
  if fn = 0 ∨ 32 < fn then 0
  else if off < 0x8000 then s.doorbellWord (fn - 1) (off / 8)
  else if off < 0x10000 then (s.partn (fn - 1)).qtab.getD 0 ((off - 0x8000) / 8)
  else 0

/-- A load through BAR0 of a function. -/
def State.bar0Load (s : State) (fn off n : Nat) : State :=
  let b := (List.range n).map (fun i => (s.bar0Word fn ((off + i) / 8 * 8)).extractLsb' (8 * ((off + i) % 8)) 8)
  { s with hostReads := s.hostReads ++ [b] }

/-! ## HOST_PROGRAMMED_ACCESS -/

/-- The function of a BAR answers: from boot's step 5 on (R423), a virtual function while it is enabled (R420). -/
def State.barOpen (s : State) (bar : HostBar) : Bool :=
  decide (5 ≤ s.boot.step) && (match bar with
    | .aperture p => (s.partn p).vf
    | .bar0 fn => fn == 0 || (s.partn (fn - 1)).vf
    | .bar2 _ => true)

/-- HOST_PROGRAMMED_ACCESS: a host load or store that reaches the device through a BAR. -/
def execHostProgrammedAccess (bar : HostBar) (off : Nat) (store : Option (List Byte)) (size : Nat) (s : State) : Res :=
  .next (
    if !s.barOpen bar then s
    else
      match bar, store with
      | .aperture p, _ => s.apertureAccess p off store size
      | .bar0 fn, some b => s.bar0Store fn off b
      | .bar0 fn, none => s.bar0Load fn off size
      | .bar2 p, some b => s.bar2Store p off b
      | .bar2 p, none => s.bar2Load p off size)

end Sys2Proof.Machine
end

