-- ==== Sys2Proof/Machine/Blocks.lean ====
section
/-!
DEFINITION. The block-scaled formats (R151, R152) and ECF8 (R153-R156): tokens, blocks and runs, read and written, and
the quantisation of 32 values into one block (R214).
-/

namespace Sys2Proof.Machine

/-- `n` bits of a number, most significant first. -/
def bitsOf (n x : Nat) : List Bool := (List.range n).map (fun j => Nat.testBit x (n - 1 - j))
/-- The number that bits spell, most significant first. -/
def ofBits (l : List Bool) : Nat := l.foldl (fun a b => 2 * a + b.toNat) 0

/-- The shortest code of the exponent `e` in table `t` with base `e0` (R154). -/
def ecfCode (t e0 e : Nat) : List Bool :=
  let d := (e + 16 - e0) % 16
  match t with
  | 0 => bitsOf 4 e
  | 1 =>
    if d = 0 then [false] else if d = 1 then [true, false] else if d = 15 then [true, true, false]
    else [true, true, true] ++ bitsOf 4 e
  | 2 =>
    if d = 0 then [false, false] else if d = 1 then [false, true] else if d = 15 then [true, false, false]
    else if d = 2 then [true, false, true] else if d = 14 then [true, true, false, false]
    else if d = 3 then [true, true, false, true] else [true, true, true] ++ bitsOf 4 e
  | _ => if e = 0 then [false] else [true] ++ bitsOf 4 e

/-- The four bits that give an exponent. -/
def rawExp : List Bool → Option (Nat × List Bool)
  | a :: b :: c :: d :: r => some (ofBits [a, b, c, d], r)
  | _ => none

/-- One token read from a bit stream (R154). -/
def ecfToken (t e0 : Nat) (l : List Bool) : Option (Nat × List Bool) :=
  match t with
  | 0 => rawExp l
  | 1 =>
    match l with
    | false :: r => some (e0 % 16, r)
    | true :: false :: r => some ((e0 + 1) % 16, r)
    | true :: true :: false :: r => some ((e0 + 15) % 16, r)
    | true :: true :: true :: r => rawExp r
    | _ => none
  | 2 =>
    match l with
    | false :: false :: r => some (e0 % 16, r)
    | false :: true :: r => some ((e0 + 1) % 16, r)
    | true :: false :: false :: r => some ((e0 + 15) % 16, r)
    | true :: false :: true :: r => some ((e0 + 2) % 16, r)
    | true :: true :: false :: false :: r => some ((e0 + 14) % 16, r)
    | true :: true :: false :: true :: r => some ((e0 + 3) % 16, r)
    | true :: true :: true :: r => rawExp r
    | _ => none
  | _ =>
    match l with
    | false :: r => some (0, r)
    | true :: r => rawExp r
    | [] => none

/-- `n` tokens read from a bit stream. -/
def ecfTokens (t e0 : Nat) : Nat → List Bool → Option (List Nat × List Bool)
  | 0, l => some ([], l)
  | n + 1, l =>
    match ecfToken t e0 l with
    | none => none
    | some (e, r) =>
      match ecfTokens t e0 n r with
      | none => none
      | some (es, z) => some (e :: es, z)

/-- Byte `i` of a list. -/
def byteAt (l : List Byte) (i : Nat) : Nat := (l.getD i 0).toNat
/-- Nibble `i` of the bytes from `o` on, the even one low. -/
def nibAt (l : List Byte) (o i : Nat) : Nat := byteAt l (o + i / 2) / 16 ^ (i % 2) % 16

/-- A well-formed ECF8 block of exactly these bytes: its scale and its 32 E4M3 codes (R153, R155). -/
def ecfBlock (b : List Byte) : Option (Nat × List Nat) :=
  let hdr := byteAt b 4 + 256 * byteAt b 5
  let len := hdr % 256
  if hdr / 256 % 4 ≠ 0 ∨ len > 28 ∨ b.length ≠ 22 + len then none
  else
    match ecfTokens (hdr / 1024 % 4) (hdr / 4096) 32 ((b.drop 22).flatMap (fun x => bitsOf 8 x.toNat)) with
    | none => none
    | some (es, rest) =>
      if rest.length ≥ 8 ∨ rest.any id then none
      else
        some (ofBytes (b.take 4), (List.range 32).map (fun i =>
          let n := nibAt b 6 i
          n / 8 * 128 + es.getD i 0 * 8 + n % 8))

/-- The blocks of a run, by their lengths: an absent block gives scale 1.0 and +0 elements (R156). -/
def ecfBlocks : List Nat → List Byte → Bool → Option (List (Nat × List Nat))
  | [], _, _ => some []
  | n :: ns, b, absent =>
    if n = 0 then (ecfBlocks ns b true).map (fun r => (0x3F800000, List.replicate 32 0) :: r)
    else if absent ∨ n < 22 ∨ n > 50 ∨ b.length < n then none
    else
      match ecfBlock (b.take n) with
      | none => none
      | some x => (ecfBlocks ns (b.drop n) false).map (fun r => x :: r)

/-- Bytes of a run that begins at the head of the list, padding included (R156). -/
def ecfRunLen (b : List Byte) : Nat := ((16 + ((b.take 8).map (fun x => x.toNat)).sum + 15) / 16) * 16

/-- A run at the head of a list of bytes: its eight blocks and the bytes after it (R156). The byte-lengths are in bytes
0-7 of a 16-byte field. -/
def ecfRun (b : List Byte) : Option (List (Nat × List Nat)) :=
  ecfBlocks ((b.take 8).map (fun x => x.toNat)) (b.drop 16) false

/-! ## Quantisation (R214) -/

/-- The bits of 32 tokens in table `t` with base `e0`. -/
def ecfBits (t e0 : Nat) (es : List Nat) : List Bool := es.flatMap (ecfCode t e0)

/-- The choices of table and base in order of preference: the lowest table, then the lowest base. -/
def ecfChoices : List (Nat × Nat) := (List.range 4).flatMap (fun t => (List.range 16).map (fun e0 => (t, e0)))

/-- The choice with the fewest token bits; the first of equals. -/
def ecfBest (es : List Nat) : List (Nat × Nat) → (Nat × Nat) × Nat → (Nat × Nat) × Nat
  | [], b => b
  | c :: r, b =>
    let n := (ecfBits c.1 c.2 es).length
    ecfBest es r (if n < b.2 then (c, n) else b)

/-- Bits packed into bytes, most significant first, padded with zeros. -/
def packBits : Nat → List Bool → List Byte
  | 0, _ => []
  | n + 1, l => BitVec.ofNat 8 (ofBits ((l ++ List.replicate 8 false).take 8)) :: packBits n (l.drop 8)

/-- The nibbles of a list, two to a byte, the even one low. -/
def packNibs : List Nat → List Byte
  | [] => []
  | [a] => [BitVec.ofNat 8 a]
  | a :: b :: r => BitVec.ofNat 8 (a + 16 * b) :: packNibs r

/-- The ECF8 block of a scale and 32 E4M3 codes (R153, R214). -/
def ecfEncode (scale : Nat) (codes : List Nat) : List Byte :=
  let es := codes.map (fun c => c / 8 % 16)
  let b := ecfBest es ecfChoices ((0, 0), 128)
  let bits := ecfBits b.1.1 b.1.2 es
  let len := (bits.length + 7) / 8
  toBytes 4 scale ++ toBytes 2 (b.1.2 * 4096 + b.1.1 * 1024 + len) ++
    packNibs (codes.map (fun c => c / 128 % 2 * 8 + c % 8)) ++ packBits len bits

/-- A number is at most a limit: m × 2^e ≤ l. -/
def leLimit (m : Nat) (e : Int) (l : Nat) : Bool :=
  if e ≥ 0 then decide (m * 2 ^ e.toNat ≤ l) else decide (m ≤ l * 2 ^ (-e).toNat)

/-- The least e in -149..128 with A / 2^e ≤ l, for A = m × 2^k, searched upwards from the bound -149. -/
def leastScale (m : Nat) (k : Int) (l : Nat) : Nat → Int → Int
  | 0, e => e
  | n + 1, e => if leLimit m (k - e) l then e else leastScale m k l n (e + 1)

/-- The greatest magnitude of a list of numbers, as a multiple of 2^-149. -/
def maxMag : List Fp → Nat
  | [] => 0
  | .num _ m e :: r => Nat.max (m * 2 ^ (e + 149).toNat) (maxMag r)
  | _ :: r => maxMag r

/-- The element format of VQNT. -/
def qntFmt : QntFmt → FFmt
  | .zx8 => .e4m3
  | .zx8e => .e5m2
  | .zx4 => .e2m1
  | .ecf8 => .e4m3

/-- The greatest finite value of an element format of VQNT. -/
def qntMax : QntFmt → Nat
  | .zx8 => 448
  | .zx8e => 57344
  | .zx4 => 6
  | .ecf8 => 448

/-- VQNT (R214): the bytes of the block and the flags. -/
def quantise (f : QntFmt) (xs : List Nat) : List Byte × Word :=
  let vs := xs.map (fmtOf .f32).dec
  let bad := vs.any (fun v => match v with | .num _ _ _ => false | _ => true)
  let a := maxMag vs
  let e : Int := if a = 0 then 0 else leastScale a (-149) (qntMax f) 300 (-149)
  let scale := if bad then 0x7FC00000 else ((fmtOf .f32).round .rne .ieee false 1 e).1
  let rs : List (Nat × Word) := vs.map (fun v =>
    if bad then (0, 0)
    else match v with
      | .num n m k => (fmtOf (qntFmt f)).conv .rne false (.num n m (k - e))
      | _ => (0, 0))
  let codes := rs.map Prod.fst
  let fl := if bad then flagIf (vs.any (fun v => v.isSig || (match v with | .inf _ => true | _ => false))) flagNv
    else (rs.map Prod.snd).foldl (· ||| ·) 0
  (match f with
    | .zx4 => toBytes 4 scale ++ packNibs codes
    | .ecf8 => ecfEncode scale codes
    | _ => toBytes 4 scale ++ codes.map (BitVec.ofNat 8), fl)

end Sys2Proof.Machine
end

