-- ==== Sys2Proof/Machine/MatrixRegs.lean ====
section
/-!
DEFINITION. The owner state of a core in the matrix unit and what a command does with it (R222-R231, R244-R256): tile registers and their
configurations, the operands of a product, the product itself (R157), and the images of ASPILL and AFILL (R308).
-/

namespace Sys2Proof.Machine

/-! ## Configurations and the format context (R222, R224) -/

/-- The element width of a configuration in bits. -/
def ewBits (ew : Nat) : Nat := 4 * 2 ^ ew

/-- A configuration's rows, columns and width are legal (R224). -/
def cfgLegal (rows cols ew : Nat) : Bool :=
  (rows == 0 && cols == 0) || (decide (1 ≤ rows) && decide (rows ≤ 32) && decide (1 ≤ cols) && decide (cols * ewBits ew ≤ 512))

/-- The value of MCFG is legal (R244). -/
def mcfgLegal (v : Word) : Bool := fldW v 63 18 == 0 && fldW v 7 6 == 0 && cfgLegal (fldW v 5 0) (fldW v 15 8) (fldW v 17 16)
where
  /-- Bits hi:lo of a word as a number. -/
  fldW (x : Word) (hi lo : Nat) : Nat := (x.extractLsb' lo (hi - lo + 1)).toNat

/-- Bits of a 32-bit value as a number. -/
def bits32 (x : BitVec 32) (hi lo : Nat) : Nat := (x.extractLsb' lo (hi - lo + 1)).toNat

/-- A value of the format context without reserved codes or bits (R222, R245). -/
def fcLegal (v : BitVec 32) : Bool :=
  bits32 v 31 25 == 0 && bits32 v 10 9 == 0 && bits32 v 3 0 < 8 && bits32 v 7 4 < 8 && bits32 v 19 18 != 3 && bits32 v 24 22 != 7

/-- The configuration word (R224). -/
def MCfg.word (c : MCfg) : Nat :=
  c.rows.toNat + 2 ^ 8 * c.cols.toNat + 2 ^ 16 * c.ew.toNat + 2 ^ 21 * c.scl.toNat + 2 ^ 22 * c.enc.toNat + 2 ^ 23 * c.pair.toNat

/-- The configuration of a word. -/
def MCfg.ofNat (n : Nat) : MCfg :=
  { rows := BitVec.ofNat 6 n, cols := BitVec.ofNat 8 (n / 2 ^ 8), ew := BitVec.ofNat 2 (n / 2 ^ 16), scl := Nat.testBit n 21,
    enc := Nat.testBit n 22, pair := Nat.testBit n 23 }

/-- Width of an element type code (R222). -/
def typeWidth (t : Nat) : Nat := match t with | 0 | 1 => 16 | 2 | 3 => 8 | 4 => 4 | 5 | 6 => 8 | _ => 4
/-- A floating element type. -/
def typeFloat (t : Nat) : Bool := decide (t < 5)
/-- The float format of a type code. -/
def typeFmt (t : Nat) : Fmt := fmtOf (match t with | 0 => .bf16 | 1 => .f16 | 2 => .e4m3 | 3 => .e5m2 | _ => .e2m1)
/-- The dense K of a width (R223). -/
def denseK (w : Nat) : Nat := 512 / w

/-- `atype`, `btype`, `acc`, `smode` and `sparse` of a format context. -/
def fcA (f : BitVec 32) : Nat := bits32 f 3 0
/-- `btype` -/
def fcB (f : BitVec 32) : Nat := bits32 f 7 4
/-- `acc` is s32. -/
def fcInt (f : BitVec 32) : Bool := f.getLsbD 8
/-- A is scaled. -/
def fcScA (f : BitVec 32) : Bool := bits32 f 12 11 == 1 || bits32 f 12 11 == 2
/-- B is scaled. -/
def fcScB (f : BitVec 32) : Bool := bits32 f 12 11 == 1 || bits32 f 12 11 == 3

/-- A command of the MMA family is consistent with the format context (R223). -/
def fcConsistent (f : BitVec 32) (sparse : Bool) : Bool :=
  typeWidth (fcA f) == typeWidth (fcB f) &&
  ((typeFloat (fcA f) && typeFloat (fcB f) && !fcInt f) || (!typeFloat (fcA f) && !typeFloat (fcB f) && fcInt f)) &&
  (!fcScA f || (typeFloat (fcA f) && decide (typeWidth (fcA f) ≤ 8))) && (!fcScB f || (typeFloat (fcB f) && decide (typeWidth (fcB f) ≤ 8))) &&
  (if sparse then bits32 f 19 18 != 0 && typeFloat (fcA f) && decide (typeWidth (fcA f) ≤ 8) else bits32 f 19 18 == 0)

/-! ## Tile registers (R224) -/

/-- A table of bytes with one byte written; a zero is not listed. -/
def putByte (t : Tbl Byte) (i : Nat) (b : Byte) : Tbl Byte := if b = 0 then t.erase i else t.put i b
/-- Bytes written from position `o`. -/
def putBytes (t : Tbl Byte) (o : Nat) (b : List Byte) : Tbl Byte :=
  (List.range b.length).foldl (fun u i => putByte u (o + i) (b.getD i 0)) t
/-- `n` bytes from position `o`. -/
def getBytes (t : Tbl Byte) (o n : Nat) : List Byte := (List.range n).map (fun i => t.getD 0 (o + i))

/-- The code in a column of a row. -/
def MTile.code (t : MTile) (w r c : Nat) : Nat :=
  ofBytes (getBytes t.data (64 * r + c * w / 8) ((w + 7) / 8)) / 2 ^ (c * w % 8) % 2 ^ w

/-- A code written in a column of a row. -/
def MTile.setCode (t : MTile) (w r c x : Nat) : MTile :=
  let i := 64 * r + c * w / 8
  if w = 4 then
    let b := (t.data.getD 0 i).toNat
    { t with data := putByte t.data i (BitVec.ofNat 8 (if c % 2 = 0 then b / 16 * 16 + x % 16 else b % 16 + x % 16 * 16)) }
  else { t with data := putBytes t.data i (toBytes (w / 8) x) }

/-- Scale q of a row. -/
def MTile.scaleOf (t : MTile) (r q : Nat) : Nat := ofBytes (getBytes t.scale (16 * r + 4 * q) 4)
/-- The column record (R248). -/
def MTile.block (t : MTile) (r k : Nat) : Nat :=
  match t.rcd.find? (128 * r + k) with | some b => b.toNat | none => k / 32
/-- A record entry; the natural order is not listed. -/
def MTile.setBlock (t : MTile) (r k b : Nat) : MTile :=
  { t with rcd := if b = k / 32 then t.rcd.erase (128 * r + k) else t.rcd.put (128 * r + k) (BitVec.ofNat 2 b) }

/-- A tile register of an owner state. -/
def MxState.reg (x : MxState) (n : Nat) : MTile := x.m[n % 8]'(Nat.mod_lt _ (by decide))
/-- Changes a tile register. -/
def MxState.modReg (x : MxState) (n : Nat) (f : MTile → MTile) : MxState :=
  { x with m := x.m.set (n % 8) (f (x.reg n)) (Nat.mod_lt _ (by decide)) }
/-- An accumulator. -/
def MxState.accum (x : MxState) (n : Nat) : Acc := x.a[n % 4]'(Nat.mod_lt _ (by decide))
/-- An accumulator replaced. -/
def MxState.setAcc (x : MxState) (n : Nat) (a : Acc) : MxState := { x with a := x.a.set (n % 4) a (Nat.mod_lt _ (by decide)) }

/-- The register is the second of a pair. -/
def MxState.second (x : MxState) (n : Nat) : Bool := n % 2 == 1 && (x.reg (n - 1)).cfg.pair

/-- A register of a pair is loaded or configured: `pair` and `enc` of the other one are cleared (R244, R248). -/
def MxState.unpair (x : MxState) (n : Nat) : MxState :=
  let off (t : MTile) : MTile := { t with cfg := { t.cfg with pair := false, enc := false } }
  if (x.reg n).cfg.pair then x.modReg (n + 1) off else if x.second n then x.modReg (n - 1) off else x

/-- The bytes of an ECF8 operand (R226): data plane, scale plane, and those of the next register of a pair. -/
def MxState.ecfBytes (x : MxState) (n : Nat) : List Byte :=
  let one (t : MTile) : List Byte := getBytes t.data 0 2048 ++ getBytes t.scale 0 512
  one (x.reg n) ++ (if (x.reg n).cfg.pair then one (x.reg (n + 1)) else [])

/-- Runs read one after the other, with their bytes in all (R156, R226). -/
def ecfRuns : Nat → List Byte → Nat → Option (List (Nat × List Nat) × Nat)
  | 0, _, used => some ([], used)
  | k + 1, b, used =>
    match ecfRun b with
    | none => none
    | some bs => (ecfRuns k (b.drop (ecfRunLen b)) (used + ecfRunLen b)).map (fun r => (bs ++ r.1, r.2))

/-- The blocks of an ECF8 operand; none where a run is malformed, or the runs do not add up to the byte count (R249). -/
def MxState.ecfBlocksOf (x : MxState) (n : Nat) : Option (List (Nat × List Nat)) :=
  match ecfRuns 8 (x.ecfBytes n) 0 with
  | none => none
  | some r => if r.2 > (x.ecfBytes n).length ∨ ((x.reg n).cnt ≠ 0 ∧ r.2 ≠ (x.reg n).cnt) then none else some r.1

/-! ## Operands of a product (R225, R252) -/

/-- An operand as it is read: the code of a column of a row, and its scale. -/
structure MOpnd where
  code : Nat → Nat → Nat
  scale : Nat → Nat → Option Nat

/-- The configuration of a register is that of an operand of `k` columns of a type (R225, R252). -/
def MxState.fits (x : MxState) (n ty k : Nat) (scaled : Bool) : Bool :=
  let c := (x.reg n).cfg
  !x.second n && c.rows.toNat == 32 && c.cols.toNat == k && ewBits c.ew.toNat == typeWidth ty &&
  (if c.enc then ty == 2 else !scaled || c.scl)

/-- An operand whose configuration fits; none where its ECF8 runs are malformed (R226). -/
def MxState.opnd (x : MxState) (n ty : Nat) (scaled : Bool) : Option MOpnd :=
  let t := x.reg n
  if t.cfg.enc then
    (x.ecfBlocksOf n).map (fun bs =>
      let blk (r c : Nat) : Nat × List Nat := bs.getD (2 * r + c / 32) (0, [])
      { code := fun r c => (blk r c).2.getD (c % 32) 0, scale := fun r c => some (blk r c).1 })
  else some { code := t.code (typeWidth ty), scale := fun r c => if scaled then some (t.scaleOf r (t.block r c)) else none }

/-- The value of an element (R252). -/
def MOpnd.val (o : MOpnd) (ty r k : Nat) : Fp :=
  let v := (typeFmt ty).dec (o.code r k)
  match o.scale r k with
  | none => v
  | some s => (v.mul ((fmtOf .f32).dec s)).1

/-- The value of an integer element. -/
def MOpnd.intVal (o : MOpnd) (ty r k : Nat) : Int :=
  let c := o.code r k
  match ty with
  | 5 => if c ≥ 128 then (c : Int) - 256 else c
  | 6 => c
  | _ => if c ≥ 8 then (c : Int) - 16 else c

/-- Codes of an operand that are not a zero (R233). -/
def MOpnd.nonzero (o : MOpnd) (ty k : Nat) : Nat :=
  let z (c : Nat) : Bool := c == 0 || (typeFloat ty && c == 2 ^ (typeWidth ty - 1))
  ((List.range 32).map (fun r => ((List.range k).filter (fun c => !z (o.code r c))).length)).sum

/-! ## Products (R157, R252, R253) -/

/-- An element of an accumulator. -/
def Acc.get (a : Acc) (i j : Nat) : BitVec 32 := a.el.getD 0 (32 * i + j)

/-- An accumulator with every element given, none poisoned; zeros are not listed. -/
def Acc.gen (f : Nat → Nat → BitVec 32) : Acc :=
  { el := (List.range 1024).filterMap (fun i => let v := f (i / 32) (i % 32); if v = 0 then none else some (i, v)), poison := [] }

/-- c + S rounded once to binary32 (R157). -/
def accRound (c : Fp) (terms : List Fp) : BitVec 32 := BitVec.ofNat 32 ((fmtOf .f32).sum .rne (c :: terms) false).1

/-- MMA, and MMAN without the old value. -/
def Acc.mma (old : Acc) (keep : Bool) (fc : BitVec 32) (a b : MOpnd) : Acc :=
  let k := denseK (typeWidth (fcA fc))
  let ks := List.range k
  if fcInt fc then
    let rows (o : MOpnd) (ty : Nat) : List (List Int) := (List.range 32).map (fun r => ks.map (o.intVal ty r))
    let ra := rows a (fcA fc)
    let rb := rows b (fcB fc)
    Acc.gen (fun i j =>
      let s := (List.zipWith (· * ·) (ra.getD i []) (rb.getD j [])).foldl (· + ·) 0
      (if keep then old.get i j else 0) + BitVec.ofInt 32 s)
  else
    let rows (o : MOpnd) (ty : Nat) : List (List Fp) := (List.range 32).map (fun r => ks.map (o.val ty r))
    let ra := rows a (fcA fc)
    let rb := rows b (fcB fc)
    Acc.gen (fun i j =>
      accRound (if keep then (fmtOf .f32).dec (old.get i j).toNat else .num false 0 0)
        (List.zipWith (fun x y => (x.mul y).1) (ra.getD i []) (rb.getD j [])))

/-- Stored positions per group and groups of MMAS (R228, R253). -/
def sparseN (fc : BitVec 32) : Nat := if bits32 fc 19 18 = 1 then 64 else 32
/-- The stored count of a row. -/
def storedCount (fc : BitVec 32) : Nat := sparseN fc * (2 * denseK (typeWidth (fcA fc)) / 128)

/-- The metadata of a register or pair, as one number (R228). -/
def MxState.metaBits (x : MxState) (n : Nat) : Nat :=
  ofBytes (getBytes (x.reg n).data 0 2048 ++ (if (x.reg n).cfg.pair then getBytes (x.reg (n + 1)).data 0 2048 else []))

/-- The positions of the stored elements of a row. -/
def metaRow (bits stored i : Nat) : List Nat := (List.range stored).map (fun c => bits / 2 ^ (7 * (i * stored + c)) % 128)

/-- Positions ascend strictly within each group. -/
def metaAscends (n : Nat) (pos : List Nat) : Bool :=
  (List.range pos.length).all (fun c => c % n == 0 || decide (pos.getD (c - 1) 0 < pos.getD c 0))

/-- A register, or a pair for 128, holds the metadata of a stored count (R228, R247, R253). Of one that AFILL has filled the count is not known,
and its configuration must be the one that MMETA of that count leaves (DESIGN CHOICE, log 88). -/
def MxState.metaFor (x : MxState) (m stored : Nat) : Bool :=
  let t := x.reg m
  let c := t.cfg
  !x.second m &&
  ((t.meta_ == stored && (stored != 128 || c.pair)) ||
    (t.meta_ == 255 && c.rows.toNat == 32 && c.cols.toNat == 64 && c.ew.toNat == 1 && !c.enc && !c.scl && c.pair == (stored == 128)))

/-- MMAS: the new accumulator, or the reason of the FORMAT trap (R253). -/
def MxState.mmas (x : MxState) (d s b m : Nat) : Except Nat Acc :=
  let fc := x.fc
  if !fcConsistent fc true then .error 1
  else
    let kd := denseK (typeWidth (fcA fc))
    let n := sparseN fc
    let stored := storedCount fc
    if !(x.fits s (fcA fc) stored (fcScA fc) && x.fits b (fcB fc) kd (fcScB fc) && x.fits (b + 1) (fcB fc) kd (fcScB fc)) then .error 1
    else if !x.metaFor m stored then .error 4
    else
      let pos := (List.range 32).map (metaRow (x.metaBits m) stored)
      if pos.any (fun p => !metaAscends n p) then .error 4
      else
        match x.opnd s (fcA fc) (fcScA fc), x.opnd b (fcB fc) (fcScB fc), x.opnd (b + 1) (fcB fc) (fcScB fc) with
        | some a, some b0, some b1 =>
          let av := (List.range 32).map (fun r => (List.range stored).map (a.val (fcA fc) r))
          let bv (j p : Nat) : Fp := if p < kd then b0.val (fcB fc) j p else b1.val (fcB fc) j (p - kd)
          let old := x.accum d
          .ok (Acc.gen (fun i j =>
            let ps := pos.getD i []
            accRound ((fmtOf .f32).dec (old.get i j).toNat)
              ((List.range stored).map (fun c => (((av.getD i []).getD c (.num false 0 0)).mul (bv j (128 * (c / n) + ps.getD c 0))).1))))
        | _, _, _ => .error 3

/-- MMA and MMAN: the new accumulator, or the reason of the FORMAT trap. -/
def MxState.mma (x : MxState) (keep : Bool) (d s b : Nat) : Except Nat Acc :=
  let fc := x.fc
  if !fcConsistent fc false then .error 1
  else
    let k := denseK (typeWidth (fcA fc))
    if !(x.fits s (fcA fc) k (fcScA fc) && x.fits b (fcB fc) k (fcScB fc)) then .error 1
    else
      match x.opnd s (fcA fc) (fcScA fc), x.opnd b (fcB fc) (fcScB fc) with
      | some a, some b => .ok ((x.accum d).mma keep fc a b)
      | _, _ => .error 3

/-- Budget units of a command of the MMA family (R233); 1 for one whose operands do not decode. -/
def MxState.units (x : MxState) (op : MOp) : Nat :=
  let fc := x.fc
  let k := denseK (typeWidth (fcA fc))
  let cnt (n ty k : Nat) (sc : Bool) : Nat := match (if x.fits n ty k sc then x.opnd n ty sc else none) with | some o => o.nonzero ty k | none => 0
  let u (z : Nat) : Nat := Nat.max 1 ((z + 63) / 64)
  match op with
  | .mma _ s b | .mman _ s b => u (cnt s.toNat (fcA fc) k (fcScA fc) + cnt b.toNat (fcB fc) k (fcScB fc))
  | .mmas _ s b _ =>
    u (cnt s.toNat (fcA fc) (storedCount fc) (fcScA fc) + cnt b.toNat (fcB fc) k (fcScB fc) + cnt (b.toNat + 1) (fcB fc) k (fcScB fc))
  | _ => 0

/-! ## Loads (R247-R249, R255) -/

/-- Row bytes of MLD in memory (R248). -/
def MCfg.rowBytes (c : MCfg) (sc : Bool) : Nat :=
  let w := ewBits c.ew.toNat
  if sc then c.cols.toNat / 32 * (if w = 8 then 36 else 20) else (c.cols.toNat * w + 7) / 8

/-- The first K entries of a permutation table are a permutation of 0 to K − 1. -/
def permOk (tab : Tbl (BitVec 7)) (k : Nat) : Bool :=
  (List.range k).all (fun v => (List.range k).any (fun i => (tab.getD (BitVec.ofNat 7 i) i).toNat == v))

/-- The codes of a row read from memory, and under `.sc` its scales. -/
def mldRow (sc : Bool) (w cols : Nat) (b : List Byte) : List Nat × List Nat :=
  let bb := if w = 8 then 36 else 20
  let codes (b : List Byte) (n : Nat) : List Nat :=
    (List.range n).map (fun c => ofBytes (slice b (c * w / 8) ((w + 7) / 8)) / 2 ^ (c * w % 8) % 2 ^ w)
  if sc then
    ((List.range (cols / 32)).flatMap (fun q => codes (slice b (bb * q + 4) (bb - 4)) 32),
     (List.range (cols / 32)).map (fun q => ofBytes (slice b (bb * q) 4)))
  else (codes b cols, [])

/-- The bytes of a row no longer poisoned. -/
def MTile.heal (t : MTile) (o n : Nat) : MTile := { t with poison := t.poison.filter (fun i => !(decide (o ≤ i) && decide (i < o + n))) }

/-- A row of a register loaded by MLD; `p` is the permutation, if the load gathers. -/
def MTile.mldRow (t : MTile) (sc : Bool) (r : Nat) (p : Option (Tbl (BitVec 7))) (b : List Byte) : MTile :=
  let w := ewBits t.cfg.ew.toNat
  let cols := t.cfg.cols.toNat
  let row := Machine.mldRow sc w cols b
  let t1 := (List.range row.2.length).foldl (fun u q =>
    { u with scale := putBytes u.scale (16 * r + 4 * q) (toBytes 4 (row.2.getD q 0)) }) (t.heal (64 * r) ((cols * w + 7) / 8))
  let t2 := if row.2.isEmpty then t1 else t1.heal (2048 + 16 * r) (4 * row.2.length)
  (List.range cols).foldl (fun u k =>
    let i := match p with | some tab => (tab.getD (BitVec.ofNat 7 k) k).toNat | none => k
    (u.setCode w r k (row.1.getD i 0)).setBlock r k (i / 32)) t2

/-- A register configured as 32 rows of 64 columns of 8 bits, with its record in the natural order (R247, R249). -/
def MTile.as64 (t : MTile) (enc pair : Bool) (meta_ cnt : Nat) : MTile :=
  { t with cfg := { pair := pair, enc := enc, scl := false, ew := 1, cols := 64, rows := 32 }, rcd := [], meta_ := meta_, cnt := cnt }

/-- Bytes placed in the data plane. -/
def MTile.fillData (t : MTile) (b : List Byte) : MTile := { (t.heal 0 b.length) with data := putBytes t.data 0 b }
/-- Bytes placed in the data plane and on into the scale plane. -/
def MTile.fillBoth (t : MTile) (b : List Byte) : MTile :=
  { (t.heal 0 b.length) with data := putBytes t.data 0 (b.take 2048), scale := putBytes t.scale 0 (b.drop 2048) }

/-- MMETA (R247). -/
def MxState.loadMeta (x : MxState) (d n : Nat) (b : List Byte) : MxState :=
  if n = 128 then
    (((x.unpair d).unpair (d + 1)).modReg d (fun t => (t.fillData (b.take 2048)).as64 false true n 0)).modReg (d + 1)
      (fun t => (t.fillData (b.drop 2048)).as64 false false 0 0)
  else (x.unpair d).modReg d (fun t => (t.fillData b).as64 false false n 0)

/-- MLDC (R249). -/
def MxState.loadEcf (x : MxState) (d : Nat) (b : List Byte) : MxState :=
  if b.length > 2560 then
    (((x.unpair d).unpair (d + 1)).modReg d (fun t => (t.fillBoth (b.take 2560)).as64 true true 0 b.length)).modReg (d + 1)
      (fun t => (t.fillBoth (b.drop 2560)).as64 true false 0 0)
  else (x.unpair d).modReg d (fun t => (t.fillBoth b).as64 true false 0 b.length)

/-- MLD: the rows read, in order (R248). -/
def MxState.loadRows (x : MxState) (d : Nat) (sc : Bool) (p : Option (Tbl (BitVec 7))) (rows : List (List Byte)) : MxState :=
  (x.unpair d).modReg d (fun t =>
    let u := (List.range rows.length).foldl (fun u r => u.mldRow sc r p (rows.getD r [])) t
    { u with cfg := { u.cfg with scl := sc, enc := false, pair := false }, meta_ := 0, cnt := 0 })

/-- MCFG (R244). -/
def MxState.configure (x : MxState) (d : Nat) (v : Word) : MxState :=
  (x.unpair d).modReg d (fun t =>
    { t with cfg := { MCfg.ofNat v.toNat with scl := false, enc := false, pair := false }, rcd := [], meta_ := 0, cnt := 0 })

/-! ## Stores and moves (R223, R254, R256) -/

/-- Bytes of an element of `astfmt`. -/
def astBytes (f : Nat) : Nat := match f with | 0 | 5 => 4 | 1 | 2 => 2 | _ => 1

/-- An accumulator element converted to `astfmt`. -/
def astConv (fc : BitVec 32) (x : BitVec 32) : Nat :=
  let v := (fmtOf .f32).dec x.toNat
  let rm := rmOf (fc.extractLsb' 20 2)
  match bits32 fc 24 22 with
  | 1 => ((fmtOf .bf16).conv rm false v).1
  | 2 => ((fmtOf .f16).conv rm false v).1
  | 3 => ((fmtOf .e4m3).conv .rne false v).1
  | 4 => ((fmtOf .e5m2).conv .rne false v).1
  | 6 => ((clampInt (-128) 127 x.toInt) % 256).toNat
  | _ => x.toNat

/-- The accumulator type matches `astfmt` (R254). -/
def astOk (fc : BitVec 32) : Bool := decide (bits32 fc 24 22 < 5) == !fcInt fc

/-- A row of AST. -/
def Acc.row (a : Acc) (fc : BitVec 32) (r : Nat) : List Byte :=
  (List.range 32).flatMap (fun j => toBytes (astBytes (bits32 fc 24 22)) (astConv fc (a.get r j)))

/-- Elements of an accumulator written from position `o`. -/
def Acc.put (a : Acc) (o : Nat) (xs : List (BitVec 32)) : Acc :=
  (List.range xs.length).foldl (fun (u : Acc) i =>
    let v := xs.getD i 0
    { el := if v = 0 then u.el.erase (o + i) else u.el.put (o + i) v, poison := delNat (o + i) u.poison }) a

/-! ## Images of ASPILL and AFILL (R308) -/

/-- The image of an accumulator. -/
def Acc.image (a : Acc) : List Byte := (List.range 1024).flatMap (fun i => toBytes 4 (a.el.getD 0 i).toNat)

/-- The image of a tile register. -/
def MTile.image (t : MTile) : List Byte :=
  let rec4 (i : Nat) : Byte :=
    BitVec.ofNat 8 ((List.range 4).map (fun j => t.block ((4 * i + j) / 128) ((4 * i + j) % 128) * 4 ^ j)).sum
  getBytes t.data 0 2048 ++ getBytes t.scale 0 512 ++ (List.range 1024).map rec4 ++ toBytes 4 t.cfg.word ++ List.replicate 508 0

/-- The accumulator of an image. -/
def Acc.ofImage (b : List Byte) : Acc := Acc.gen (fun i j => BitVec.ofNat 32 (ofBytes (slice b (4 * (32 * i + j)) 4)))

/-- The tile register of an image; none where its configuration is illegal (R224). -/
def MTile.ofImage (b : List Byte) : Option MTile :=
  let n := ofBytes (slice b 3584 4) % 2 ^ 24
  let c := MCfg.ofNat n
  if c.word ≠ n ∨ !cfgLegal c.rows.toNat c.cols.toNat c.ew.toNat then none
  else
    let t : MTile := { MTile.zero with data := putBytes [] 0 (b.take 2048), scale := putBytes [] 0 (slice b 2048 512), cfg := c, meta_ := 255 }
    some ((List.range 4096).foldl (fun u i => u.setBlock (i / 128) (i % 128) (byteAt b (2560 + i / 4) / 4 ^ (i % 4) % 4)) t)

/-- Poisoned bytes of an image of a unit, by offset. -/
def MxState.poisonOf (x : MxState) (u : Nat) : List Nat :=
  if u < 4 then (x.accum u).poison.map (4 * ·) else if u < 12 then (x.reg (u - 4)).poison else []

/-- The image of a unit. -/
def MxState.image (x : MxState) (u : Nat) : List Byte :=
  if u < 4 then (x.accum u).image else if u < 12 then (x.reg (u - 4)).image else toBytes 16 (x.fc.toNat % 2 ^ 25)

/-- A unit filled from an image; none where the image is refused. -/
def MxState.fill (x : MxState) (u : Nat) (b : List Byte) : Option MxState :=
  if u < 4 then some (x.setAcc u (Acc.ofImage b))
  else if u < 12 then (MTile.ofImage b).map (fun t => x.modReg (u - 4) (fun _ => t))
  else
    let v := BitVec.ofNat 32 (ofBytes (b.take 4))
    if fcLegal v then some { x with fc := v } else none

/-! ## Poison (R361) -/

/-- A command of the MMA family reads byte `i` of a register, data plane then scale plane: a byte of the configured rows and columns, or of the
scale of one of them (R224, R252). -/
def MTile.readsByte (t : MTile) (scaled : Bool) (i : Nat) : Bool :=
  if i < 2048 then decide (i / 64 < t.cfg.rows.toNat) && decide (i % 64 * 8 < t.cfg.cols.toNat * ewBits t.cfg.ew.toNat)
  else scaled && (List.range t.cfg.cols.toNat).any (fun c => t.block ((i - 2048) / 16) c == (i - 2048) % 16 / 4)

/-- A byte that an operand of the MMA family is read from is poisoned: of the ECF8 runs, those that they take up (R226, R361). -/
def MxState.spoilt (x : MxState) (n : Nat) (scaled : Bool) : Bool :=
  let t := x.reg n
  if t.cfg.enc then
    let used := match ecfRuns 8 (x.ecfBytes n) 0 with | some r => r.2 | none => 5120
    t.poison.any (fun i => decide (i < used)) || (t.cfg.pair && (x.reg (n + 1)).poison.any (fun i => decide (2560 + i < used)))
  else t.poison.any (t.readsByte scaled)

/-- A byte of the metadata of a stored count is poisoned (R228). -/
def MxState.metaSpoilt (x : MxState) (m stored : Nat) : Bool :=
  (x.reg m).poison.any (fun i => decide (i < Nat.min 2048 (28 * stored))) ||
  ((x.reg m).cfg.pair && (x.reg (m + 1)).poison.any (fun i => decide (i < 2048) && decide (2048 + i < 28 * stored)))

end Sys2Proof.Machine
end

