-- ==== Sys2Proof/Machine/Matrix.lean ====
section
/-!
DEFINITION. The matrix instructions of page 2 (R219, R230, R239-R256) as they issue, the steps of the matrix unit (R220-R238, R242), and
AOWN, ASPILL and AFILL (R231, R307, R308).
-/

namespace Sys2Proof.Machine

/-! ## Ownership (R185, R230) -/

/-- `aown.valid` -/
def CoreSt.ownValid (k : CoreSt) : Bool := k.aown.getLsbD 20
/-- `aown.tag` -/
def CoreSt.ownTag (k : CoreSt) : BitVec 16 := k.aown.extractLsb' 0 16
/-- `aown.dirty` bit i set. -/
def CoreSt.dirty (k : CoreSt) (i : Nat) : CoreSt := { k with aown := k.aown ||| (1#64 <<< (16 + i)) }
/-- `aown` of a claim. -/
def claimOf (tag : BitVec 16) : Word := tag.setWidth 64 ||| 0x100000#64

/-! ## Issue (R241) -/

/-- A local address of a matrix instruction: ALIGN, then CONFINE. -/
def matrixAddr (n a : Nat) (stride : Option Nat) : Op Unit := do
  if a % n ≠ 0 ∨ stride.getD 0 % n ≠ 0 then accTrap .align 14 8 a
  else do
    let s ← getS
    if s.isLocal (squadOf s.me.core) a then pure () else accTrap .confine 14 6 a

/-- A stride register, which PXR names with a number other than 0. -/
def matrixStride (t : Reg) : Op (Option Nat) :=
  if t = 0 then pure none
  else do
    let x ← readG t
    illegalIf (fld x 63 20 != 0)
    pure (some x.toNat)

/-- The operands of a matrix instruction, which needs the unit; one that is ILLEGAL comes first (R351). -/
def matrixReads {α : Type} (m : Op α) : Op α := do
  illegalFirst (needUnit 2) (m *> pure ())
  m

/-- An address register and a stride register. -/
def matrixStrided (sr t : Reg) : Op (Word × Option Nat) := matrixReads (do
  let x ← readG sr
  let st ← matrixStride t
  pure (x, st))

/-- The command enters the queue of its core, with its scoreboard entry (R219, R241). `mem` is the recorded range. -/
def State.matrixEnter (s : State) (op : MOp) (mem : Option (Nat × Nat × Bool)) : State :=
  let c := s.me
  let q := squadOf c.core
  let cmd : MCmd :=
    { op := op, cid := c.cid, tenid := c.tenid, ptag := c.ptag, pc := c.pc, issued := c.issues + 1,
      sb := mem.map (fun _ => s.nextCmd), counted := false, tab := ([], 0), holds := [] }
  let s1 := match mem with
    | none => s
    | some r =>
      let e : Cmd := { Cmd.blank with
        id := s.nextCmd, squad := q, op := .matrix r.2.2, cid := c.cid, core := c.core, ranges := [r], entry := true }
      { (s.modSquad q (fun k => { k with cmds := k.cmds ++ [e] })) with nextCmd := s.nextCmd + 1 }
  (s1.modCore c.core (fun k => { k with
    mq := k.mq ++ [cmd], aown := if k.ownValid then k.aown else claimOf c.ctxtag })).modMe (fun c => { c with tl := c.tl + 1 })

/-- The shared end of a matrix instruction's issue (R230, R241): ownership, room, and what `mark` does to the destination. -/
def matrixIssue (op : MOp) (mem : Option (Nat × Nat × Bool)) (free : Op Unit) (mark : Ctx → Ctx) : Op Unit := do
  let s ← getS
  let k := s.core s.me.core
  trapIf (k.ownValid && k.ownTag != s.me.ctxtag) .accOwner 0 k.aown
  parkUntil (decide (k.mq.length < 16) && decide (s.me.tl < 63) && (mem.isNone || decide (s.sbUsed (squadOf s.me.core) < 64)))
  free
  modS (fun s => (s.matrixEnter op mem).modMe mark)

/-- A matrix instruction that names no memory and marks nothing. -/
def matrixPlain (op : MOp) : Op Unit := matrixIssue op none (pure ()) id
/-- A matrix instruction with a recorded range. -/
def matrixMem (op : MOp) (a n : Nat) (wr : Bool) : Op Unit := matrixIssue op (some (a, n, wr)) (pure ()) id

/-- MCFG. -/
def execMcfg (d : BitVec 3) (sr : Reg) (s0 : State) : Res :=
  issueOp (do
    let v ← matrixReads (do
      let v ← readG sr
      illegalIf (!mcfgLegal v)
      pure v)
    matrixPlain (.mcfg d v)) s0

/-- MFMT. -/
def execMfmt (sr : Reg) (s0 : State) : Res :=
  issueOp (do
    let v ← matrixReads (do
      let v ← readG sr
      illegalIf (fld v 63 32 != 0 || !fcLegal (v.extractLsb' 0 32))
      pure v)
    matrixPlain (.mfmt (v.extractLsb' 0 32))) s0

/-- MPERM. -/
def execMperm (d : BitVec 4) (sr : Reg) (s0 : State) : Res :=
  issueOp (do
    needUnit 2
    let x ← readG sr
    matrixAddr 16 (addr56 x) none
    matrixMem (.mperm d (addr56 x)) (addr56 x) 128 false) s0

/-- The stored count of MMETA. -/
def metaCount : MetaCnt → Nat
  | .c32 => 32
  | .c64 => 64
  | .c128 => 128

/-- MMETA. -/
def execMmeta (c : MetaCnt) (d : BitVec 3) (sr : Reg) (s0 : State) : Res :=
  issueOp (do
    needUnit 2
    let x ← readG sr
    matrixAddr 16 (addr56 x) none
    matrixMem (.mmeta c d (addr56 x)) (addr56 x) (28 * metaCount c) false) s0

/-- MLD. -/
def execMld (sc : Bool) (d : BitVec 3) (sr t : Reg) (s0 : State) : Res :=
  issueOp (do
    let (x, st) ← matrixStrided sr t
    matrixAddr 4 (addr56 x) st
    matrixMem (.mld sc d (addr56 x) st) (addr56 x) (31 * st.getD 80 + 80) false) s0

/-- MLDC. -/
def execMldc (d : BitVec 3) (sr t : Reg) (s0 : State) : Res :=
  issueOp (do
    let (x, k) ← matrixReads (do
      let x ← readG sr
      let n ← readG t
      let k := n.toNat
      illegalIf (decide (k % 16 ≠ 0) || decide (k < 128) || decide (5120 < k) || (decide (2560 < k) && d.getLsbD 0))
      pure (x, k))
    matrixAddr 16 (addr56 x) none
    matrixMem (.mldc d (addr56 x) k) (addr56 x) k false) s0

/-- MZERO. -/
def execMzero (d : BitVec 2) (s0 : State) : Res :=
  issueOp (do
    needUnit 2
    matrixPlain (.mzero d)) s0

/-- MQST: the slot waits for its value (R251). -/
def execMqst (d : Reg) (sel : BitVec 4) (s0 : State) : Res :=
  issueOp (do
    needUnit 2
    matrixIssue (.mqst d sel) none (freeG d) (fun c => { c with wait := .reply })) s0

/-- MMA. -/
def execMma (d : BitVec 2) (sr b : BitVec 3) (s0 : State) : Res :=
  issueOp (do
    needUnit 2
    matrixPlain (.mma d sr b)) s0

/-- MMAS. -/
def execMmas (d : BitVec 2) (sr b x : BitVec 3) (s0 : State) : Res :=
  issueOp (do
    needUnit 2
    matrixPlain (.mmas d sr b x)) s0

/-- MMAN. -/
def execMman (d : BitVec 2) (sr b : BitVec 3) (s0 : State) : Res :=
  issueOp (do
    needUnit 2
    matrixPlain (.mman d sr b)) s0

/-- AST. -/
def execAst (d : BitVec 2) (sr t : Reg) (s0 : State) : Res :=
  issueOp (do
    let (x, st) ← matrixStrided sr t
    matrixAddr 16 (addr56 x) st
    matrixMem (.ast d (addr56 x) st) (addr56 x) (31 * st.getD 128 + 128) true) s0

/-- ALD. -/
def execAld (d : BitVec 2) (sr t : Reg) (s0 : State) : Res :=
  issueOp (do
    let (x, st) ← matrixStrided sr t
    matrixAddr 16 (addr56 x) st
    matrixMem (.ald d (addr56 x) st) (addr56 x) (31 * st.getD 128 + 128) false) s0

/-- AMOV: its destination is pending until the command fills it. -/
def execAmov (d : Reg) (sr : BitVec 2) (row : BitVec 5) (half : Bool) (s0 : State) : Res :=
  issueOp (do
    needUnit 2
    matrixIssue (.amov d sr row half) none (freeV d) (fun c => c.pendV d)) s0

/-- AMOVV: its source is read at issue. -/
def execAmovv (d : BitVec 2) (sr : Reg) (row : BitVec 5) (half : Bool) (s0 : State) : Res :=
  issueOp (do
    needUnit 2
    let x ← readV sr
    matrixPlain (.amovv d x row half)) s0

/-! ## A command's bytes and checks (R236, R242) -/

/-- Addresses and lengths of the rows that a command moves (R246-R249, R254, R255). -/
def MOp.rows (op : MOp) (x : MxState) : List (Nat × Nat) :=
  let strip (a n rb : Nat) (st : Option Nat) : List (Nat × Nat) := (List.range n).map (fun r => (a + r * st.getD rb, rb))
  match op with
  | .mperm _ a => [(a, 128)]
  | .mmeta c _ a => [(a, 28 * metaCount c)]
  | .mldc _ a n => [(a, n)]
  | .mld sc d a st => let c := (x.reg d.toNat).cfg; strip a c.rows.toNat (c.rowBytes sc) st
  | .ast _ a st => strip a 32 (32 * astBytes (bits32 x.fc 24 22)) st
  | .ald _ a st => strip a 32 128 st
  | _ => []

/-- The local address of a memory command, 0 for the others. -/
def MOp.at_ : MOp → Nat
  | .mperm _ a | .mmeta _ _ a | .mldc _ a _ | .mld _ _ a _ | .ast _ a _ | .ald _ a _ => a
  | _ => 0

/-- `taddr` of a FORMAT trap: the local address of MLD, MLDC and AST, and 0 otherwise (R236). -/
def MOp.formatAddr : MOp → Nat
  | .mldc _ a _ | .mld _ _ a _ | .ast _ a _ => a
  | _ => 0

/-- The permutation table of an MLD that gathers. -/
def MOp.gathers (op : MOp) (x : MxState) : Option Nat :=
  match op with
  | .mld _ _ _ _ => if x.fc.getLsbD 17 then some (bits32 x.fc 16 13) else none
  | _ => none

/-- A permutation table of a squad. -/
def SquadSt.perm (k : SquadSt) (n : Nat) : PermTab := k.perms.getD PermTab.reset n

/-- The content check of a command: the reason of its FORMAT trap, if it fails. -/
def State.matrixFormat (s : State) (core : Nat) (c : MCmd) : Option Nat :=
  let x := (s.core core).mx
  match c.op with
  | .mperm n _ =>
    let t := ((s.squad (squadOf core)).perm n.toNat).tag
    if t ≠ 0 ∧ t ≠ c.tenid ∧ c.tenid ≠ 0 then some 2 else none
  | .mld sc d _ _ =>
    let g := (x.reg d.toNat).cfg
    let w := ewBits g.ew.toNat
    if g.rows.toNat = 0 ∨ (sc = true ∧ ((w ≠ 4 ∧ w ≠ 8) ∨ g.cols.toNat % 32 ≠ 0)) then some 1
    else if (c.op.gathers x).isSome ∧ (!permOk c.tab.1 g.cols.toNat ∨ (c.tab.2 ≠ 0 ∧ c.tab.2 ≠ c.tenid)) then some 2
    else none
  | .ast _ _ _ => if astOk x.fc then none else some 1
  | .mma d a b => match x.mma true d.toNat a.toNat b.toNat with | .ok _ => none | .error e => some e
  | .mman d a b => match x.mma false d.toNat a.toNat b.toNat with | .ok _ => none | .error e => some e
  | .mmas d a b m => match x.mmas d.toNat a.toNat b.toNat m.toNat with | .ok _ => none | .error e => some e
  | _ => none

/-- The refusal of a command's bytes, if any (R242 step 2). -/
def State.matrixRefused (s : State) (core : Nat) (c : MCmd) : Option Nat :=
  let l := (c.op.rows (s.core core).mx).filterMap (fun r => s.localRefused (squadOf core) c.ptag c.tenid r.1 r.2)
  if l.contains 6 then some 6 else if l.contains 3 then some 3 else l.head?

/-- The tiles that a command moves bytes of. -/
def State.matrixTiles (s : State) (core : Nat) (c : MCmd) : List Nat :=
  ((c.op.rows (s.core core).mx).flatMap (fun r => tilesOf r.1 r.2)).dedup

/-- A register or accumulator that a command reads has a poisoned element, or a granule that it reads is poisoned (R242, R361). -/
def State.matrixSpoilt (s : State) (core : Nat) (c : MCmd) : Bool :=
  let x := (s.core core).mx
  let acc (n : Nat) : Bool := !(x.accum n).poison.isEmpty
  match c.op with
  | .mma d a b => acc d.toNat || x.spoilt a.toNat (fcScA x.fc) || x.spoilt b.toNat (fcScB x.fc)
  | .mman _ a b => x.spoilt a.toNat (fcScA x.fc) || x.spoilt b.toNat (fcScB x.fc)
  | .mmas d a b m =>
    acc d.toNat || x.spoilt a.toNat (fcScA x.fc) || x.spoilt b.toNat (fcScB x.fc) || x.spoilt (b.toNat + 1) (fcScB x.fc) ||
    x.metaSpoilt m.toNat (storedCount x.fc)
  | .amov _ a row half =>
    let o := 32 * row.toNat + 16 * half.toNat
    (x.accum a.toNat).poison.any (fun i => decide (o ≤ i) && decide (i < o + 16))
  | .ast _ _ _ => false
  | op => (op.rows x).any (fun r => s.locPoison r.1 r.2)

/-! ## Start (R221, R233-R235) -/

/-- Cores of a squad by their number within it. -/
def coreIn (q i : Nat) : Nat := 8 * q + i

/-- The matrix weight of the owner of a core's queue (R221). -/
def State.mweight (s : State) (core : Nat) : Nat :=
  let tag := (s.core core).ownTag
  match List.find? (fun (c : Ctx) => c.ctxtag == tag) (s.ctxs.filter (fun c => c.core == core) ++ s.ctxs ++ s.saved.map Prod.snd) with
  | some c => Nat.max 1 (Nat.min 15 c.eff.mweight)
  | none => 1

/-- The head of a core's queue waits for its turn and has no older conflict (R221). -/
def State.matrixHead (s : State) (core : Nat) : Option MCmd :=
  let k := s.core core
  match k.mq with
  | [] => none
  | c :: _ => if k.mrun then none else match c.sb with
    | some id => if s.blocked (squadOf core) id then none else some c
    | none => some c

/-- Budget units of a squad's period: no limit for 0, and on the C2 (R233, R234). -/
def State.budget (s : State) (q : Nat) : Option Nat :=
  if s.part = .x4 ∧ (s.squad q).mbudget ≠ 0 then some (s.squad q).mbudget.toNat else none

/-- The budget admits a command of `u` units. -/
def State.admits (s : State) (q u : Nat) : Bool :=
  match s.budget q with
  | none => true
  | some n =>
    let used := (s.squad q).mused.toNat
    if u > n then used == 0 else decide (u ≤ n - used)

/-- Units that a squad is charged for a command. -/
def State.chargeFor (s : State) (q u : Nat) : Nat := match s.budget q with | some n => Nat.min u n | none => u

/-- The cores of a squad in cyclic order after the one last served. -/
def SquadSt.cyclic (k : SquadSt) : List Nat := (List.range 8).map (fun i => (k.served + 1 + i) % 8)

/-- The heads that may start, each with its units, in cyclic order. -/
def State.eligible (s : State) (q : Nat) : List (Nat × Nat) :=
  ((s.squad q).cyclic.filterMap (fun i => (s.matrixHead (coreIn q i)).map (fun c => (i, (s.core (coreIn q i)).mx.units c.op)))).filter
    (fun p => s.admits q p.2)

/-- Below one eighth of the budget the head with the fewest units goes first (R233). -/
def State.lowBudget (s : State) (q : Nat) : Bool :=
  match s.budget q with
  | some n => decide (8 * (n - (s.squad q).mused.toNat) < n)
  | none => false

/-- The least of a list by its second component, the first of equals. -/
def leastOf : List (Nat × Nat) → Option (Nat × Nat)
  | [] => none
  | p :: r => match leastOf r with | some b => if p.2 ≤ b.2 then some p else some b | none => some p

/-- The credits of a new round (R221). -/
def State.newRound (s : State) (q : Nat) : State :=
  s.modSquad q (fun k => { k with credit := (List.range 8).map (fun i => (i, s.mweight (coreIn q i))) })

/-- The head that gets the turn, in the state whose round it belongs to. -/
def State.pickHead (s : State) (q : Nat) : Option (Nat × Nat) × State :=
  let el := s.eligible q
  if el = [] then (none, s)
  else if s.lowBudget q then (leastOf el, s)
  else
    match List.find? (fun (p : Nat × Nat) => decide (0 < (s.squad q).credit.getD 0 p.1)) el with
    | some p => (some p, s)
    | none => (el.head?, s.newRound q)

/-- Heads that the budget makes ineligible are counted once each (R234). -/
def State.countDeferred (s : State) (q : Nat) : State :=
  (List.range 8).foldl (fun t i =>
    let core := coreIn q i
    match t.matrixHead core with
    | none => t
    | some c =>
      if c.counted || t.admits q ((t.core core).mx.units c.op) then t
      else
        (t.modCore core (fun k => { k with mq := match k.mq with | c :: r => { c with counted := true } :: r | [] => [] })).modSquad q
          (fun k => { k with deferred := satInc k.deferred })) s

/-- A head has its turn: its table is noted, and a memory command that passes its checks fetches and holds its tiles (R90, R242, R246). -/
def State.startHead (s : State) (q i u : Nat) : State :=
  let core := coreIn q i
  match (s.core core).mq with
  | [] => s
  | c :: r =>
    let tab := match c.op.gathers (s.core core).mx with
      | some n => let t := (s.squad q).perm n; (t.ent, t.tag)
      | none => ([], 0)
    let c1 := { c with tab := tab }
    let s1 := (s.modCore core (fun k => { k with mq := c1 :: r, mrun := true })).modSquad q (fun k =>
      { k with served := i, credit := k.credit.put i (k.credit.getD 0 i - 1), mused := k.mused + BitVec.ofNat 32 (s.chargeFor q u) })
    if (s1.matrixFormat core c1).isSome || (s1.matrixRefused core c1).isSome then s1
    else
      let ts := s1.matrixTiles core c1
      (s1.modCore core (fun k => { k with mq := { c1 with holds := ts } :: r })).holdTiles q ts

/-- MATRIX_COMMAND_START: the unit gives one turn to one head. A gated unit begins to wake instead (R235). -/
def execMatrixCommandStart (squad : Nat) (s : State) : Res :=
  .next (
    let s1 := s.countDeferred squad
    match s1.pickHead squad with
    | (none, _) => s1
    | (some p, t) =>
      if (t.squad squad).gated then
        (if (t.squad squad).waking then s1 else s1.modSquad squad (fun k => { k with waking := true, mIdle := s.cyc }))
      else t.startHead squad p.1 p.2)

/-! ## Completion (R236, R242) -/

/-- A command completes: its entry and tiles are free, `tl` falls, and a failure traps in its slot (R236, R242 step 6). -/
def State.matrixDone (s : State) (core : Nat) (c : MCmd) (fail : Option (TrapClass × Nat × Nat)) : State :=
  let q := squadOf core
  let s1 := s.modCore core (fun k => { k with mq := k.mq.drop 1, mrun := false })
  let s2 := match c.sb with | some id => s1.dropCmd q id | none => s1
  let s3 := (s2.releaseTiles q c.holds).modSquad q (fun k =>
    if (List.range 8).all (fun i => (s2.core (coreIn q i)).mq.isEmpty) then { k with mIdle := s.cyc } else k)
  let s4 := s3.onCtx c.cid (fun x => { x with tl := x.tl - 1 })
  match fail with
  | none => s4
  | some (cls, a, why) =>
    s4.postTrap c.cid (fun x =>
      let late := decide (c.issued < x.issues)
      { cls := cls, slot := x.slot, cid := c.cid, away := x.isAway, pc := c.pc, addr := BitVec.ofNat 64 a, info := accInfo 14 why late,
        late := late, fetch := false, next := x.pc, cyc := s.cyc })

/-- Changes the owner state of a core. -/
def State.modMx (s : State) (core : Nat) (f : MxState → MxState) : State := s.modCore core (fun k => { k with mx := f k.mx })
/-- An accumulator of a core replaced, and marked dirty (R229). -/
def State.putAcc (s : State) (core n : Nat) (a : Acc) : State :=
  s.modCore core (fun k => ({ k with mx := k.mx.setAcc n a } : CoreSt).dirty n)

/-- The lanes of a half row. -/
def halfRow (a : Acc) (row : BitVec 5) (half : Bool) : VWord := genLanes (fun i => a.el.getD 0 (32 * row.toNat + 16 * half.toNat + i))

/-- AST: the rows written in ascending order; the granules of a poisoned element are poisoned (R254, R361). -/
def State.astRows (s : State) (core d : Nat) (rows : List (Nat × Nat)) : State :=
  let x := (s.core core).mx
  let a := x.accum d
  let e := astBytes (bits32 x.fc 24 22)
  (List.range rows.length).foldl (fun t r =>
    let p := rows.getD r (0, 0)
    let t1 := t.wrLoc p.1 (a.row x.fc r)
    (a.poison.filter (fun i => i / 32 == r)).foldl (fun u i => u.setPoison (u.locAddr (p.1 + i % 32 * e)) true) t1) s

/-- The effect of a command that has passed every check (R244-R256). None while a reply cannot be delivered yet (R43). -/
def State.matrixEffect (s : State) (core : Nat) (c : MCmd) : Option State :=
  let q := squadOf core
  let x := (s.core core).mx
  let rows := c.op.rows x
  let data := rows.map (fun r => s.rdLoc r.1 r.2)
  let s1 := s.touchAll q c.holds
  match c.op with
  | .mcfg d v => some (s1.modMx core (fun m => m.configure d.toNat v))
  | .mfmt v => some (s1.modMx core (fun m => { m with fc := v }))
  | .mperm n _ =>
    let b := data.headD []
    some (s1.modSquad q (fun k => { k with perms := k.perms.put n.toNat {
      ent := (List.range 128).filterMap (fun i => let v := (b.getD i 0).extractLsb' 0 7; if v.toNat = i then none else some (i, v)),
      tag := c.tenid } }))
  | .mmeta n d _ => some (s1.modMx core (fun m => m.loadMeta d.toNat (metaCount n) (data.headD [])))
  | .mld sc d _ _ =>
    some (s1.modMx core (fun m => m.loadRows d.toNat sc (if (c.op.gathers x).isSome then some c.tab.1 else none) data))
  | .mldc d _ _ => some (s1.modMx core (fun m => m.loadEcf d.toNat (data.headD [])))
  | .mzero d => some (s1.putAcc core d.toNat { el := [], poison := [] })
  | .mqst d sel =>
    let v := if sel.toNat < 8 then (x.reg sel.toNat).cfg.word else x.fc.toNat % 2 ^ 25
    match s.ctxOf c.cid with
    | none => some s1
    | some k =>
      if d ≠ 0 && !isPort d && k.gPend.getLsbD d.toNat then none
      else (s1.deliverG c.cid d (BitVec.ofNat 64 v)).map (fun t => t.onCtx c.cid (fun k => { k with wait := .none }))
  | .mma d a b =>
    match x.mma true d.toNat a.toNat b.toNat with | .ok r => some (s1.putAcc core d.toNat r) | .error _ => some s1
  | .mman d a b =>
    match x.mma false d.toNat a.toNat b.toNat with | .ok r => some (s1.putAcc core d.toNat r) | .error _ => some s1
  | .mmas d a b m =>
    match x.mmas d.toNat a.toNat b.toNat m.toNat with | .ok r => some (s1.putAcc core d.toNat r) | .error _ => some s1
  | .ast d _ _ => some (s1.astRows core d.toNat rows)
  | .ald d _ _ =>
    some (s1.putAcc core d.toNat (Acc.gen (fun i j => BitVec.ofNat 32 (ofBytes (slice (data.getD i []) (4 * j) 4)))))
  | .amov d a row half => some (s1.onCtx c.cid (fun k => k.setV d (BitVec.allOnes 16) (halfRow (x.accum a.toNat) row half)))
  | .amovv d v row half =>
    some (s1.putAcc core d.toNat ((x.accum d.toNat).put (32 * row.toNat + 16 * half.toNat) (lanes16.map (lane v))))

/-- The destination of an MQST is a port whose stream is not bound: its slot has waited, and the write traps PORT there (R26, R251). -/
def State.matrixPort (s : State) (c : MCmd) : Option Reg :=
  match c.op with
  | .mqst d _ => if s.unboundPort c.cid d then some d else none
  | _ => none

/-- That trap: precise, the instruction having changed nothing in its slot. -/
def State.mqstFails (s : State) (c : MCmd) (d : Reg) : State :=
  let next := (s.ctxOf c.cid).elim c.pc Ctx.pc
  (s.onCtx c.cid (fun k => { k with
    pc := c.pc, npc := c.pc, wait := .none, ctrs := k.ctrs - 0x100000000#64, issues := k.issues - 1,
    consumed := k.consumed - 1 })).postTrap c.cid (fun k =>
    { cls := .port, slot := k.slot, cid := c.cid, away := k.isAway, pc := c.pc, addr := 0, info := portInfo false (portOf d) 1, late := false,
      fetch := false, next := next, cyc := s.cyc })

/-- A failed AMOV leaves its destination empty and no longer pending. -/
def State.matrixUnpend (s : State) (c : MCmd) : State :=
  match c.op with
  | .amov d _ _ _ => s.onCtx c.cid (fun k => { k with vPend := k.vPend &&& ~~~(1#32 <<< d.toNat) })
  | _ => s

/-- MATRIX_COMMAND_COMPLETE: the command in its turn executes and completes (R242). It waits for tiles that are not resident yet. -/
def execMatrixCommandComplete (core : Nat) (s : State) : Res :=
  .next (match (s.core core).mq with
    | [] => s
    | c :: _ =>
      if (s.core core).mrun = false then s
      else
        match s.matrixFormat core c with
        | some why => (s.matrixUnpend c).matrixDone core c (some (.format, c.op.formatAddr, why))
        | none =>
          match s.matrixRefused core c with
          | some why => (s.matrixUnpend c).matrixDone core c (some (.confine, c.op.at_, why))
          | none =>
            if !s.allResident (squadOf core) (s.matrixTiles core c) then s.refetch (squadOf core) (s.matrixTiles core c)
            else if s.matrixSpoilt core c then (s.matrixUnpend c).matrixDone core c (some (.memErr, c.op.at_, 7))
            else
              match s.matrixPort c with
              | some d => (s.matrixDone core c none).mqstFails c d
              | none =>
                match s.matrixEffect core c with
                | none => s
                | some t => t.matrixDone core c none)

/-- MATRIX_BUDGET_PERIOD: a boundary of 10 µs of device time has been passed, and the full budget returns (R233). -/
def execMatrixBudgetPeriod (squad : Nat) (s : State) : Res :=
  .next (
    if s.clk / 10000 ≤ (s.squad squad).mperiod then s
    else (List.range 8).foldl (fun t i =>
      t.modCore (coreIn squad i) (fun k => { k with mq := k.mq.map (fun (c : MCmd) => { c with counted := false }) }))
      (s.modSquad squad (fun k => { k with mused := 0, mperiod := s.clk / 10000 })))

/-- Every queue of a squad is empty. -/
def State.queuesEmpty (s : State) (q : Nat) : Bool := (List.range 8).all (fun i => (s.core (coreIn q i)).mq.isEmpty)

/-- MATRIX_GATE: on the C2 the sub-arrays gate after `mgate.idle` cycles with every queue empty (R235). -/
def execMatrixGate (squad : Nat) (s : State) : Res :=
  .next (
    let k := s.squad squad
    let idle := fld k.mgate 15 0
    if s.part = .c2 ∧ idle ≠ 0 ∧ s.queuesEmpty squad ∧ k.mIdle + idle ≤ s.cyc then s.modSquad squad (fun k => { k with gated := true }) else s)

/-- MATRIX_WAKE: 96 cycles after the first command the sub-arrays are awake (R15, R235). -/
def execMatrixWake (squad : Nat) (s : State) : Res :=
  .next (
    let k := s.squad squad
    if k.gated && k.waking && decide (k.mIdle + 96 ≤ s.cyc) then s.modSquad squad (fun k => { k with gated := false, waking := false }) else s)

/-! ## AOWN, ASPILL and AFILL (R231, R307, R308) -/

/-- The core's queue is empty and every command of it has completed (R231). -/
def State.matrixQuiet (s : State) (core : Nat) : Bool := (s.core core).mq.isEmpty

/-- AOWN: a change of tag, or `valid` 0, sets the owner state to zero. -/
def execAown (sr : Reg) (s0 : State) : Res :=
  issueOp (do
    let ill : Op Word := do
      gate [sr]
      let v ← readG sr
      illegalIf (v &&& ~~~0x10FFFF#64 != 0)
      pure v
    illegalFirst (needBarrel 2) (ill *> pure ())
    let v ← ill
    let s ← getS
    parkUntil (s.matrixQuiet s.me.core)
    modS (fun s => s.modCore s.me.core (fun k =>
      { k with aown := v, mx := if v.getLsbD 20 && v.extractLsb' 0 16 == k.ownTag then k.mx else MxState.zero }))) s0

/-- Bytes and alignment of the image of a unit. -/
def imageSize (u : Nat) : Nat := if u = 12 then 16 else 4096

/-- The dirty bit of an accumulator cleared. -/
def CoreSt.clean (k : CoreSt) (u : Nat) : CoreSt := if u < 4 then { k with aown := k.aown &&& ~~~(1#64 <<< (16 + u)) } else k

/-- ASPILL: the image of a unit, and the poison of what it is written from (R361). -/
def execAspill (u : BitVec 4) (sr : Reg) (s0 : State) : Res :=
  issueOp (do
    needBarrel 2
    gate [sr]
    let x ← readG sr
    let a := addr56 x
    let n := imageSize u.toNat
    fwAddr (if n = 16 then 16 else 128) n true a
    let s ← getS
    parkUntil (s.matrixQuiet s.me.core)
    linesWait s0 (a / 128 * 128) ((n + 127) / 128)
    modS (fun s =>
      let m := (s.core s.me.core).mx
      ((m.poisonOf u.toNat).foldl (fun t i => t.setPoison (a + i) true) (s.unitWrite 0 a (m.image u.toNat))).modCore s.me.core (fun k => k.clean u.toNat))) s0

/-- AFILL: a unit filled from its image. An image that the unit refuses is ILLEGAL. -/
def execAfill (u : BitVec 4) (sr : Reg) (s0 : State) : Res :=
  issueOp (do
    needBarrel 2
    gate [sr]
    let x ← readG sr
    let a := addr56 x
    let n := imageSize u.toNat
    fwAddr (if n = 16 then 16 else 128) n false a
    let s ← getS
    parkUntil (s.matrixQuiet s.me.core)
    let r := (s.core s.me.core).mx.fill u.toNat (s.rdMain 0 a n)
    illegalIf r.isNone
    fwClean a n
    match r with
    | some m => modS (fun s => s.modCore s.me.core (fun k => ({ k with mx := m } : CoreSt).clean u.toNat))
    | none => pure ()) s0

end Sys2Proof.Machine
end

