-- ==== Sys2Proof/Machine/Power.lean ====
section
/-!
DEFINITION. Resets, boot, firmware updates, power and heat, and device time (R422-R427).
-/

namespace Sys2Proof.Machine

/-! ## Resets (R422) -/

/-- The state after a power-on reset: what stands outside the part, and its non-volatile memory, stay. -/
def State.powerReset (s : State) : State :=
  let n := s.boot.resets + 1
  { State.reset with
    part := s.part, hostMem := s.hostMem, msix := s.msix, hostReads := s.hostReads, reports := s.reports, agenda := s.agenda, oracle := s.oracle,
    fresh := s.fresh, nextCid := s.nextCid, nextCmd := s.nextCmd, nextReq := s.nextReq,
    sealU := SealUnit.reset n,
    boot := { State.reset.boot with version := s.boot.version, rollback := s.boot.rollback, image := s.boot.image, resets := n } }

/-- POWER_ON_RESET. -/
def execPowerOnReset (s : State) : Res := .next s.powerReset

/-- What a level below held of granules whose dirty copies are lost. -/
def State.putBack (s : State) (l : Tbl CGran) : State :=
  l.foldl (fun (t : State) p =>
    let c := p.2
    { t with
      mem := wrBytes t.mem (16 * p.1) (toBytes 16 c.data.toNat),
      keys := (match c.key with | some k => t.keys.put p.1 k | none => t.keys.erase p.1),
      empties := if c.full then delNat p.1 t.empties else insNat p.1 t.empties,
      poison := if c.poison then insNat (p.1 / 8 * 8) t.poison else delNat (p.1 / 8 * 8) t.poison }) s

/-- The granules that the memory-side caches hold dirty at a reset: those of each line have been written back before, or not, as the caches
happened to do. -/
def lostLines : List Nat → State → List Nat × State
  | [], s => ([], s)
  | l :: r, s =>
    let c := s.choose 2
    let x := lostLines r c.2
    (if c.1 = 0 then l :: x.1 else x.1, x.2)

/-- Main memory after dirty lines of the L2 and of the memory-side caches are discarded (R422). -/
def State.dropDirty (s : State) : State :=
  let s1 := { s.putBack s.l2 with l2 := [] }
  let r := lostLines ((s1.msc.map (fun p => p.1 / 8)).eraseDups) s1
  { r.2.putBack (r.2.msc.filter (fun p => r.1.contains (p.1 / 8))) with msc := [] }

/-- A group entry after a part reset: its words stand in firmware memory (R411), and what the Rally engine had in hand is gone. -/
def Group.afterReset (g : Group) : Group := { g with cmd := none, begun := false, heldPk := [], abortKept := none, colls := [], inbox := [] }

/-- The state after a part reset. -/
def State.partReset (s : State) : State :=
  let d := s.dropDirty
  let p := d.powerReset
  { p with
    mem := d.mem, keys := d.keys, empties := d.empties, poison := d.poison, keySlots := d.keySlots, clk := d.clk, fwFaults := d.fwFaults,
    fab := { p.fab with pseqTx := d.fab.pseqTx, pseqRx := d.fab.pseqRx, cache := d.fab.cache, unanswered := d.fab.unanswered,
                        recorded := d.fab.recorded, groups := d.fab.groups.map (fun x => (x.1, x.2.afterReset)) } }

/-- PART_RESET. -/
def execPartReset (s : State) : Res := .next s.partReset

/-! ## Firmware images (R424, R425) -/

/-- A firmware image is accepted: its layout, its version, and its signature. -/
def State.imageOk (s : State) (b : List Byte) : Bool :=
  fieldAt b 0 8 == 0x4C47394657494D47 && decide (1304 ≤ b.length) && fieldAt b 16 8 == b.length - 1304 &&
  decide (s.boot.rollback ≤ fieldAt b 8 8) && Config.signatureOk b

/-- FIRMWARE_UPDATE: the holder of the semaphore has written an image; it is committed if it is accepted, and the result is raised. -/
def execFirmwareUpdate (holder : BitVec 2) (image : List Byte) (s : State) : Res :=
  .next (s.manage holder (
    let v := fieldAt image 8 8
    let s1 := if s.imageOk image then { s with boot := { s.boot with image := image, version := v, rollback := v } } else s
    s1.raiseIrq 1093))

/-! ## Boot (R423) -/

/-- The sealed supervisor image of a kind of core in place, or none where it cannot be sealed. -/
def State.bootSeal (s : State) (kind : Nat) : Option State :=
  let b := Config.supervisorBytes s.boot.image kind
  let at_ := Config.supervisorPlace s.boot.image kind
  let e : SealEnt := { SealEnt.reset with base := at_.1, len := b.length, flen := at_.2, sgen := s.sealU.nextGen, st := .live, sup := true }
  if e.base % 128 ≠ 0 ∨ e.len % 128 ≠ 0 ∨ e.len < e.flen + 64 ∨ e.flen % 2 ≠ 0 ∨ 2 ^ 24 ≤ e.flen ∨ !s.sealHomes e ∨ s.sealOverlap e then none
  else
    let s1 := s.wrMain 0 e.base b
    some ((s1.modSealEnt kind (fun _ => { e with digest := s1.sealOf e })).modSeal (fun u => { u with nextGen := u.nextGen + 1, lastGen := u.nextGen }))

/-- A supervisor loaded into slot 15 of a core. -/
def State.loadSupervisor (s : State) (m : ImageRec) (core : Nat) : State :=
  let t := s.newTag 65536
  let g := (Ctx.fresh.g.set 61 m.rb).set 62 m.rl
  { t.2.place { Ctx.fresh with
      live := true, core := core, slot := 15, cid := t.2.nextCid, pc := m.pc, npc := m.pc, g := g, ctxtag := t.1, ptag := 32,
      anchorCore := core, anchorSlot := 15, entry := m.pc, loadedAt := s.clk } with nextCid := t.2.nextCid + 1 }

/-- The cores of the part of a kind: barrel, home, pivot. -/
def Part.coresOf (p : Part) (kind : Nat) : List Nat :=
  match kind with
  | 0 => List.range (8 * p.squads)
  | 1 => (List.range p.squads).map (fun i => 4096 + i)
  | _ => (List.range p.pivots).map (fun i => 4608 + i)

/-- The supervisors of a kind of core sealed and loaded. -/
def State.bootKind (s : State) (kind : Nat) : Option State :=
  match s.bootSeal kind with
  | none => none
  | some t => (t.image? (t.sealEnt kind).base).map (fun m => (s.part.coresOf kind).foldl (fun (u : State) c => u.loadSupervisor m c) t)

/-- Boot's third step: none while it cannot complete. -/
def State.bootSupervisors (s : State) : Option State :=
  match s.bootKind 0 with
  | none => none
  | some a => match a.bootKind 1 with | none => none | some b => b.bootKind 2

/-- The firmware image verifies at boot. -/
def State.bootVerified (s : State) : Bool := if s.boot.image.isEmpty then Config.bootImageOk s.boot.resets else s.imageOk s.boot.image

/-- A step of boot has completed. -/
def State.stepDone (s : State) : State := { s with boot := { s.boot with step := s.boot.step + 1 } }

/-- BOOT_STEP_COMPLETE: the next step of boot completes. After a failed verification the recovery loader accepts images and does nothing else. -/
def execBootStepComplete (s : State) : Res :=
  .next (
    if s.boot.recovery then s
    else
      match s.boot.step with
      | 0 => if s.bootVerified then s.stepDone else { s with boot := { s.boot with recovery := true } }
      | 2 => (match s.bootSupervisors with | some t => t.stepDone | none => s)
      | 3 => ({ s with servo := { s.servo with run := true } } : State).stepDone
      | n => if n < 6 then s.stepDone else s)

/-! ## Power and heat (R426) -/

/-- `cap2.modpw` × 20 W (R15). -/
def Part.watts : Part → Nat
  | .x4 => 2800
  | .c2 => 1400

/-- A lower `mbudget.units` of a squad, as the policy core chooses; 0, no budget, counts as above every budget. -/
def State.lowerBudget (s : State) (q : Nat) : State :=
  let u := (s.squad q).mbudget.toNat
  let n := if u = 0 then 2 ^ 32 else u
  if n ≤ 1 then s
  else
    let c := s.choose (n - 1)
    c.2.modSquad q (fun k => { k with mbudget := BitVec.ofNat 32 (c.1 + 1) })

/-- The policy core lowers the matrix budget on an LG9-X4, and then the core clock by 100 MHz. -/
def State.throttle (s : State) : State :=
  let s1 := if s.part = .x4 then (List.range s.part.squads).foldl State.lowerBudget s else s
  let mhz := if 100 < s1.boot.mhz then s1.boot.mhz - 100 else s1.boot.mhz
  { s1 with
    boot := { s1.boot with mhz := mhz }, sub := s1.sub * mhz / s1.boot.mhz,
    servo := { s1.servo with slew := s1.servo.slew * mhz / s1.boot.mhz } }

/-- POWER_WINDOW. -/
def execPowerWindow (watts : Nat) (s : State) : Res := .next (if s.part.watts < watts then s.throttle else s)

/-- THERMAL_THROTTLE. -/
def execThermalThrottle (temp : Nat) (s : State) : Res := .next (if 100 < temp then s.throttle else s)

/-- THERMAL_TRIP: at 110 °C every core stops, and entries 1,089-1,092 are raised. -/
def execThermalTrip (temp : Nat) (s : State) : Res :=
  .next (
    if temp < 110 then s
    else ([1089, 1090, 1091, 1092].foldl State.raiseIrq { s with boot := { s.boot with tripped := true } }))

/-! ## Device time (R427) -/

/-- PTP_MESSAGE: an offset of more than 1 ms is stepped forward, every other one slewed. -/
def execPtpMessage (offset : Int) (bound : Nat) (s : State) : Res :=
  .next (
    if !s.servo.run then s
    else if 1000000 < offset then { s with clk := s.clk + offset.toNat, servo := { s.servo with slew := 0, bound := bound } }
    else { s with servo := { s.servo with slew := offset * s.boot.mhz, bound := bound } })

end Sys2Proof.Machine
end

