-- ==== Sys2Proof/Machine/Services.lean ====
section
/-!
DEFINITION. The syscall service (R301, R401): its four services and the answer to a caller.
-/

namespace Sys2Proof.Machine

/-- E_NOSVC. -/
def eNoSvc : Word := 0xFFFFFFFFFFFFFFF1#64
/-- E_INVAL. -/
def eInval : Word := 0xFFFFFFFFFFFFFFF2#64
/-- E_DENIED. -/
def eDenied : Word := 0xFFFFFFFFFFFFFFF3#64

/-- The caller of a request, while it still waits, goes on with `g1` and `g2` written (R301). -/
def State.sysReply (s : State) (r : SysReq) (status val : Word) : State :=
  s.onCtx r.cid (fun c => if c.wait = .syscReply then ((c.setG 1 status).setG 2 val).finish r.npc 0 else c)

/-- A pivot core has a context 0-14 free for a request (R293). -/
def State.pivotFree (s : State) : Bool := s.pivotCores.any (fun c => !(s.freeSlots c).isEmpty)

/-- The oldest request of a partition's ring, when it is for this service or for none (R401), served in a free context of a pivot core, which is
free again with the answer (R293). An unknown service is answered E_NOSVC. -/
def State.serve (s : State) (part svc : Nat) (f : State → SysReq → State × Word × Word) : State :=
  match (if s.pivotFree then (s.partn part).sys else []) with
  | [] => s
  | r :: rest =>
    let s1 := s.modPartn part (fun p => { p with sys := rest, sysHead := p.sysHead + 1 })
    if r.svc = svc then
      let x := f s1 r
      x.1.sysReply r x.2.1 (if x.2.1 = 0 then x.2.2 else 0)
    else if r.svc = 0 ∨ 4 < r.svc then s1.sysReply r eNoSvc 0
    else s

/-- Argument `g1` of a request. -/
def SysReq.g1 (r : SysReq) : Word := r.args.getD 0 0

/-- ECHO. -/
def execEcho (part : Nat) (s : State) : Res := .next (s.serve part 1 (fun t r => (t, 0, r.g1)))

/-- NOTIFY: raises an entry that belongs to the partition (R402). -/
def execNotify (part : Nat) (s : State) : Res :=
  .next (s.serve part 2 (fun t r =>
    let n := r.g1.toNat
    if 2048 ≤ n then (t, eInval, 0)
    else if n < 1024 ∧ n / 32 = part then (t.raiseIrq n, 0, 0)
    else (t, eDenied, 0)))

/-- TIME: the lock state and the offset bound of the servo (R427). -/
def execTime (part : Nat) (s : State) : Res :=
  .next (s.serve part 3 (fun t _ => (t, 0, BitVec.ofNat 64 (2 * t.servo.bound + (decide (t.servo.bound < 1000)).toNat))))

/-- EXTQ: word 2 of an extent entry of the caller's table. -/
def execExtq (part : Nat) (s : State) : Res :=
  .next (s.serve part 4 (fun t r =>
    let i := r.g1.toNat
    if r.xlen ≤ i then (t, eInval, 0)
    else
      let w := t.extentWords ((r.xtab + 32 * i) % 2 ^ 56)
      match extentOf w with
      | some e =>
        if e.node = 0 ∧ regionOf t.part e.base = .main ∧ t.refused46 part e.base then (t, eDenied, 0) else (t, 0, w.getD 2 0)
      | none => (t, 0, w.getD 2 0)))

end Sys2Proof.Machine
end

