-- ==== Sys2Proof/Machine/Vector.lean ====
section
/-!
DEFINITION. The vector instructions of page 1 that stay in registers (R194-R214, R217, R218). Every one needs the vector unit of
the thread's anchor (R198, R259).
-/

namespace Sys2Proof.Machine

/-! ## Shared forms -/

/-- The lanes 0-15 of `f`, with the flags of the enabled ones (R147, R196). -/
def onLanes (mask : BitVec 16) (f : Nat → BitVec 32 × Word) : VWord × Word :=
  (genLanes (fun i => (f i).1), (lanes16.filter (fun i => mask.getLsbD i)).foldl (fun a i => a ||| (f i).2) 0)

/-- The elements of a lane of `f`, with their flags. -/
def onElems (t : VTy) (f : Nat → BitVec 32 × Word) : BitVec 32 × Word :=
  (genElems t (fun j => (f j).1), (List.range t.count).foldl (fun a j => a ||| (f j).2) 0)

/-- Lanes and their flags written to a vector register (R43, R196). -/
def putV (d : Reg) (mask : BitVec 16) (r : VWord × Word) : Op Unit := do
  writeV d mask r.1
  raiseFlags r.2

/-- A two-source lane instruction, element by element (R195-R197). -/
def vecBin (f : Rm → BitVec 32 → BitVec 32 → BitVec 32 × Word) (o : VBin) : Op Unit := do
  needUnit 1
  let r ← vecOperands o
  let k ← readK o.q.mask
  let m ← modeOp
  putV o.d k (onLanes k (fun i => onElems o.ty (fun j => f m (elemOf o.ty (lane r.1 i) j) (elemOf o.ty (lane r.2 i) j))))

/-- A unary lane instruction, element by element. -/
def vecUn (f : Rm → BitVec 32 → BitVec 32 × Word) (o : VUn) : Op Unit := do
  needUnit 1
  let a ← readVS o.ty o.s o.q
  let k ← readK o.q.mask
  let m ← modeOp
  putV o.d k (onLanes k (fun i => onElems o.ty (fun j => f m (elemOf o.ty (lane a i) j))))

/-- A code as an element, with its flags. -/
def elemRes (r : Nat × Word) : BitVec 32 × Word := (BitVec.ofNat 32 r.1, r.2)

/-- The least value of an integer type. -/
def tyMin (t : VTy) : Int := if t.isSigned then -(2 ^ (t.width - 1)) else 0
/-- The greatest value of an integer type. -/
def tyMax (t : VTy) : Int := if t.isSigned then 2 ^ (t.width - 1) - 1 else 2 ^ t.width - 1

/-- An exact integer result wrapped, or clamped under `.sat` (R197). -/
def intRes (t : VTy) (sat : Bool) (x : Int) : BitVec 32 := BitVec.ofInt 32 (if sat then clampInt (tyMin t) (tyMax t) x else x)

/-- An element operation by type: on codes of a floating format, or on integers. -/
def byType (t : VTy) (sat : Bool) (f : Fmt → Nat → Nat → Nat × Word) (g : Int → Int → Int) (x y : BitVec 32) :
    BitVec 32 × Word :=
  if t.isFloat then elemRes (f (fmtOfTy t) x.toNat y.toNat)
  else (intRes t sat (g (elemInt t x) (elemInt t y)), 0)

/-! ## Move, broadcast, extract, index (R199) -/

/-- VMOV. -/
def execVmov (o : VUn) (s : State) : Res := issueOp (vecUn (fun _ x => (x, 0)) o) s

/-- VBCAST: the low bits of a `g` register or an immediate in every element; PXS acts on the element (R35). -/
def execVbcast (o : VBcastOp) (s : State) : Res :=
  issueOp (do
    needUnit 1
    let x ← match o.src with
      | .imm p => pure (immS p 0 0)
      | .reg r q => do
        let y ← if q.smod = .sync then readSync r else readG r
        pure ((modElem o.ty q.smod ((selectG q.sel o.ty.isSigned y).setWidth 32 &&& BitVec.ofNat 32 (2 ^ o.ty.width - 1))).setWidth 64)
    let k ← readK o.mask
    writeV o.d k (broadcast o.ty x)) s

/-- VEXT: one lane to a `g` register. -/
def execVext (o : VExtOp) (s : State) : Res :=
  issueOp (do
    needUnit 1
    let a ← readVS o.ty o.s o.q
    let x := lane a o.lane.toNat
    writeG o.d (if o.ty.isSigned then x.signExtend 64 else x.setWidth 64)) s

/-- VIOTA: element e of the register is e, exactly. -/
def execViota (ty : VTy) (d : Reg) (mask : BitVec 3) (s : State) : Res :=
  issueOp (do
    needUnit 1
    let k ← readK mask
    let num (e : Nat) : BitVec 32 :=
      if ty.isFloat then BitVec.ofNat 32 ((fmtOfTy ty).ofInt .rne e).1 else BitVec.ofNat 32 e
    writeV d k (genLanes (fun i => genElems ty (fun j => num (i * ty.count + j))))) s

/-! ## Element arithmetic (R200-R204) -/

/-- VADD. -/
def execVadd (sat : Bool) (o : VBin) (s : State) : Res :=
  issueOp (vecBin (fun m => byType o.ty sat (fun f => f.add m) (· + ·)) o) s
/-- VSUB. -/
def execVsub (sat : Bool) (o : VBin) (s : State) : Res :=
  issueOp (vecBin (fun m => byType o.ty sat (fun f => f.sub m) (· - ·)) o) s
/-- VMUL. -/
def execVmul (sat : Bool) (o : VBin) (s : State) : Res :=
  issueOp (vecBin (fun m => byType o.ty sat (fun f => f.mul m) (· * ·)) o) s
/-- VDIV: integers by R168 at the element's width. -/
def execVdiv (o : VBin) (s : State) : Res :=
  issueOp (vecBin (fun m => byType o.ty false (fun f => f.div m) (fun x y => if y = 0 then -1 else x.tdiv y)) o) s

/-- A fused multiply-add, by element (R201). -/
def vecFma (np nc : Bool) (o : VTri) : Op Unit := do
  needUnit 1
  let p ← readVS o.ty o.s o.q
  let q ← readV o.t
  let c ← readV o.d
  let k ← readK o.q.mask
  let m ← modeOp
  putV o.d k (onLanes k (fun i => onElems o.ty (fun j =>
    let x := elemOf o.ty (lane p i) j
    let y := elemOf o.ty (lane q i) j
    let z := elemOf o.ty (lane c i) j
    if o.ty.isFloat then elemRes ((fmtOfTy o.ty).fma m np nc x.toNat y.toNat z.toNat)
    else (intRes o.ty false ((if np then -1 else 1) * (elemInt o.ty x * elemInt o.ty y) +
      (if nc then -1 else 1) * elemInt o.ty z), 0))))

/-- VFMA: p × q + c. -/
def execVfma (o : VTri) (s : State) : Res := issueOp (vecFma false false o) s
/-- VFMS: p × q − c. -/
def execVfms (o : VTri) (s : State) : Res := issueOp (vecFma false true o) s
/-- VFNMA: c − p × q. -/
def execVfnma (o : VTri) (s : State) : Res := issueOp (vecFma true false o) s

/-- VMIN (R202). -/
def execVmin (o : VBin) (s : State) : Res :=
  issueOp (vecBin (fun _ => byType o.ty false (fun f => f.minmax false) (fun x y => if y < x then y else x)) o) s
/-- VMAX (R202). -/
def execVmax (o : VBin) (s : State) : Res :=
  issueOp (vecBin (fun _ => byType o.ty false (fun f => f.minmax true) (fun x y => if x < y then y else x)) o) s
/-- VABS: the sign cleared, or the absolute value; unsigned elements stay (R202). -/
def execVabs (sat : Bool) (o : VUn) (s : State) : Res :=
  issueOp (vecUn (fun _ x =>
    if o.ty.isFloat then (modElem o.ty .abs x, 0)
    else if o.ty.isSigned then (intRes o.ty sat (elemInt o.ty x).natAbs, 0) else (x, 0)) o) s
/-- VNEG: the sign flipped, or the negative; unsigned elements stay (R202). -/
def execVneg (sat : Bool) (o : VUn) (s : State) : Res :=
  issueOp (vecUn (fun _ x =>
    if o.ty.isFloat then (modElem o.ty .neg x, 0)
    else if o.ty.isSigned then (intRes o.ty sat (-(elemInt o.ty x)), 0) else (x, 0)) o) s

/-- VAND. -/
def execVand (o : VBin) (s : State) : Res := issueOp (vecBin (fun _ x y => (x &&& y, 0)) o) s
/-- VOR. -/
def execVor (o : VBin) (s : State) : Res := issueOp (vecBin (fun _ x y => (x ||| y, 0)) o) s
/-- VXOR. -/
def execVxor (o : VBin) (s : State) : Res := issueOp (vecBin (fun _ x y => (x ^^^ y, 0)) o) s
/-- VANDN: x and not y. -/
def execVandn (o : VBin) (s : State) : Res := issueOp (vecBin (fun _ x y => (x &&& ~~~y, 0)) o) s

/-- The count of a shift of an element: the low log2(width) bits (R204). -/
def elemCount (t : VTy) (y : BitVec 32) : Nat := y.toNat % t.width
/-- The element of type `t` sign-extended to 32 bits. -/
def elemSext (t : VTy) (x : BitVec 32) : BitVec 32 := (x.setWidth t.width).signExtend 32

/-- VSHL. -/
def execVshl (o : VBin) (s : State) : Res := issueOp (vecBin (fun _ x y => (x <<< elemCount o.ty y, 0)) o) s
/-- VSHRA. -/
def execVshra (o : VBin) (s : State) : Res :=
  issueOp (vecBin (fun _ x y => ((elemSext o.ty x).sshiftRight (elemCount o.ty y), 0)) o) s
/-- VSHRL. -/
def execVshrl (o : VBin) (s : State) : Res := issueOp (vecBin (fun _ x y => (x >>> elemCount o.ty y, 0)) o) s
/-- VROTL. -/
def execVrotl (o : VBin) (s : State) : Res :=
  issueOp (vecBin (fun _ x y => (((x.setWidth o.ty.width).rotateLeft (elemCount o.ty y)).setWidth 32, 0)) o) s

/-! ## Compare, select, permute, reduce (R205-R207) -/

/-- The condition of VCMP on two elements, and its flags (R205). -/
def vcmpElem (t : VTy) (c : VcmpCond) (x y : BitVec 32) : Bool × Word :=
  if t.isFloat then
    let f := fmtOfTy t
    match c with
    | .eq => f.compare .eq x.toNat y.toNat
    | .lt => f.compare .lt x.toNat y.toNat
    | .le => f.compare .le x.toNat y.toNat
    | .ne => let r := f.compare .eq x.toNat y.toNat; (!r.1, r.2)
  else
    let a := elemInt t x
    let b := elemInt t y
    match c with
    | .eq => (decide (a = b), 0)
    | .lt => (decide (a < b), 0)
    | .le => (decide (a ≤ b), 0)
    | .ne => (decide (a ≠ b), 0)

/-- VCMP: bit i of the mask is set when lane i is enabled and every element of it meets the condition. -/
def execVcmp (c : VcmpCond) (o : VBin) (s : State) : Res :=
  issueOp (do
    needUnit 1
    let r ← vecOperands o
    let k ← readK o.q.mask
    let one (i j : Nat) : Bool × Word := vcmpElem o.ty c (elemOf o.ty (lane r.1 i) j) (elemOf o.ty (lane r.2 i) j)
    let js := List.range o.ty.count
    writeK (o.d.extractLsb' 0 3)
      (BitVec.ofNat 16 (((lanes16.filter (fun i => k.getLsbD i && js.all (fun j => (one i j).1))).map (2 ^ ·)).sum))
    raiseFlags ((lanes16.filter (fun i => k.getLsbD i)).foldl (fun a i => js.foldl (fun b j => b ||| (one i j).2) a) 0)) s

/-- VSEL: the mask selects between s and t, or d; every lane is written (R206). -/
def execVsel (o : VBin) (s : State) : Res :=
  issueOp (do
    needUnit 1
    let x ← readVS o.ty o.s o.q
    let y ← match o.src with
      | .reg t => readV t
      | .two => readV o.d
      | .imm p => pure (broadcast o.ty (immS p 0 0))
    let k ← readK o.q.mask
    writeV o.d (BitVec.allOnes 16) (blend k x y)) s

/-- VPERM: lane i takes the lane of x that the index names (R206). -/
def execVperm (o : VBin) (s : State) : Res :=
  issueOp (do
    needUnit 1
    let r ← match o.src with
      | .imm p => do
        let x ← readVS o.ty o.s o.q
        pure (x, genLanes (fun _ => (immS p 0 0).setWidth 32))
      | _ => vecOperands o
    let k ← readK o.q.mask
    writeV o.d k (genLanes (fun i => lane r.1 ((lane r.2 i).toNat % 16)))) s

/-- VSLIDE: the lanes of s and t read as one row, from lane n on (R206). -/
def execVslide (o : VSlideOp) (s : State) : Res :=
  issueOp (do
    needUnit 1
    let x ← readVS o.ty o.s o.q
    let y ← readV o.t
    let k ← readK o.q.mask
    let n := o.n.toNat
    writeV o.d k (genLanes (fun i => if i + n ≤ 15 then lane x (i + n) else lane y (i + n - 16)))) s

/-- One level of the tree of R158: adjacent pairs combined. -/
def pairUp (f : Nat → Nat → Nat × Word) : List Nat → List Nat × Word
  | a :: b :: r =>
    let z := f a b
    let w := pairUp f r
    (z.1 :: w.1, z.2 ||| w.2)
  | l => (l, 0)

/-- The fixed tree over 2^n values (R158). -/
def treeOf (f : Nat → Nat → Nat × Word) : Nat → List Nat → Nat × Word
  | 0, l => (l.headD 0, 0)
  | n + 1, l =>
    let z := pairUp f l
    let w := treeOf f n z.1
    (w.1, z.2 ||| w.2)

/-- VRED on binary32 lanes (R158, R207): the code and the flags. -/
def vredF (op : VredOp) (m : Rm) (k : BitVec 16) (a : VWord) : Nat × Word :=
  let f := fmtOf .f32
  let val (d i : Nat) : Nat := if k.getLsbD i then (lane a i).toNat else d
  match op with
  | .add => treeOf (f.add m) 4 (lanes16.map (val 0x80000000))
  | .max => treeOf (f.minmax true) 4 (lanes16.map (val 0x7FC00000))
  | .min => treeOf (f.minmax false) 4 (lanes16.map (val 0x7FC00000))
  | .xadd => f.sum m ((lanes16.filter (fun i => k.getLsbD i)).map (fun i => f.dec (lane a i).toNat)) false

/-- VRED on integer lanes (R207). -/
def vredI (op : VredOp) (t : VTy) (k : BitVec 16) (a : VWord) : Int :=
  let l := (lanes16.filter (fun i => k.getLsbD i)).map (fun i => elemInt t (lane a i))
  match op with
  | .add | .xadd => l.foldl (· + ·) 0
  | .max => l.foldl (fun x y => if x < y then y else x) (tyMin t)
  | .min => l.foldl (fun x y => if y < x then y else x) (tyMax t)

/-- VRED: one scalar to a `g` register. -/
def execVred (op : VredOp) (o : VUn) (s : State) : Res :=
  issueOp (do
    needUnit 1
    let a ← readVS o.ty o.s o.q
    let k ← readK o.q.mask
    let m ← modeOp
    if o.ty.isFloat then do
      let r := vredF op m k a
      writeG o.d (BitVec.ofNat 64 r.1)
      raiseFlags r.2
    else
      let x : BitVec 32 := BitVec.ofInt 32 (vredI op o.ty k a)
      writeG o.d (if o.ty.isSigned then x.signExtend 64 else x.setWidth 64)) s

/-! ## Approximations (R208) -/

/-- VRCP. -/
def execVrcp (o : VUn) (s : State) : Res := issueOp (vecUn (fun _ x => elemRes (approxRcp x.toNat)) o) s
/-- VRSQ. -/
def execVrsq (o : VUn) (s : State) : Res := issueOp (vecUn (fun _ x => elemRes (approxRsq x.toNat)) o) s
/-- VEXP2. -/
def execVexp2 (o : VUn) (s : State) : Res := issueOp (vecUn (fun _ x => elemRes (approxExp2 x.toNat)) o) s
/-- VLOG2. -/
def execVlog2 (o : VUn) (s : State) : Res := issueOp (vecUn (fun _ x => elemRes (approxLog2 x.toNat)) o) s

/-! ## Conversion and packing (R209-R212) -/

/-- One element converted between two types of one group (R209). -/
def vcvtElem (src dst : VTy) (m : Rm) (x : BitVec 32) : BitVec 32 × Word :=
  if src.isFloat then
    let v := (fmtOfTy src).dec x.toNat
    if dst.isFloat then elemRes ((fmtOfTy dst).conv m false v)
    else let r := toIntIn m (tyMin dst) (tyMax dst) v; (BitVec.ofInt 32 r.1, r.2)
  else if dst.isFloat then elemRes ((fmtOfTy dst).ofInt m (elemInt src x))
  else (intRes dst true (elemInt src x), 0)

/-- VCVT. -/
def execVcvt (dst : VTy) (o : VUn) (s : State) : Res := issueOp (vecUn (fun m x => vcvtElem o.ty dst m x) o) s

/-- Source type, and bits of a destination element, of VPACK (R210). -/
def packInfo : PackFmt → VTy × Nat
  | .bf16 | .f16 => (.f32, 16)
  | .e4m3 | .e5m2 | .e4m3ns | .e5m2ns => (.f32, 8)
  | .e2m1 => (.f32, 4)
  | .s16 => (.s32, 16)
  | .s8 => (.s32, 8)
  | .s4 => (.s32, 4)
  | .n16 => (.n32, 16)
  | .n8 => (.n32, 8)

/-- One element narrowed (R210): its code and flags. -/
def packElem (f : PackFmt) (m : Rm) (x : BitVec 32) : Nat × Word :=
  let v := (fmtOf .f32).dec x.toNat
  let clampS (w : Nat) : Nat × Word := ((clampInt (-(2 ^ (w - 1))) (2 ^ (w - 1) - 1) x.toInt % 2 ^ w).toNat, 0)
  let clampN (w : Nat) : Nat × Word := (Nat.min x.toNat (2 ^ w - 1), 0)
  match f with
  | .bf16 => (fmtOf .bf16).conv m false v
  | .f16 => (fmtOf .f16).conv m false v
  | .e4m3 => (fmtOf .e4m3).conv m false v
  | .e5m2 => (fmtOf .e5m2).conv m false v
  | .e2m1 => (fmtOf .e2m1).conv m false v
  | .e4m3ns => (fmtOf .e4m3).conv m true v
  | .e5m2ns => (fmtOf .e5m2).conv m true v
  | .s16 => clampS 16
  | .s8 => clampS 8
  | .s4 => clampS 4
  | .n16 => clampN 16
  | .n8 => clampN 8

/-- VPACK: 32 inputs, those of s and then those of t, narrowed into the register elements 0-31; lanes that none fills are zero. -/
def execVpack (f : PackFmt) (o : Tri) (s : State) : Res :=
  issueOp (do
    needUnit 1
    let a ← readVS (packInfo f).1 o.s o.q
    let b ← readV o.t
    let k ← readK o.q.mask
    let m ← modeOp
    let w := (packInfo f).2
    let c := 32 / w
    let input (j : Nat) : BitVec 32 := if j < 16 then lane a j else lane b (j - 16)
    let one (i j : Nat) : Nat × Word := if i * c + j < 32 then packElem f m (input (i * c + j)) else (0, 0)
    putV o.d k (onLanes k (fun i =>
      (BitVec.ofNat 32 (((List.range c).map (fun j => (one i j).1 * 2 ^ (w * j))).sum),
       (List.range c).foldl (fun x j => x ||| (one i j).2) 0)))) s

/-- Bits of a source element of VUNPK, and its destination type (R211). -/
def unpkInfo : UnpkFmt → Nat × VTy
  | .bf16 | .f16 => (16, .f32)
  | .e4m3 | .e5m2 => (8, .f32)
  | .e2m1 => (4, .f32)
  | .s16 => (16, .s32)
  | .s8 => (8, .s32)
  | .s4 => (4, .s32)
  | .n16 => (16, .n32)
  | .n8 => (8, .n32)
  | .n4 => (4, .n32)

/-- One element widened exactly (R211). -/
def unpkElem (f : UnpkFmt) (x : Nat) : BitVec 32 × Word :=
  let flt (g : FFmt) : BitVec 32 × Word := elemRes ((fmtOf .f32).conv .rne false ((fmtOf g).dec x))
  match f with
  | .bf16 => flt .bf16
  | .f16 => flt .f16
  | .e4m3 => flt .e4m3
  | .e5m2 => flt .e5m2
  | .e2m1 => flt .e2m1
  | .s16 => ((BitVec.ofNat 16 x).signExtend 32, 0)
  | .s8 => ((BitVec.ofNat 8 x).signExtend 32, 0)
  | .s4 => ((BitVec.ofNat 4 x).signExtend 32, 0)
  | .n16 | .n8 | .n4 => (BitVec.ofNat 32 x, 0)

/-- VUNPK: lane i takes source element 16 p + i. -/
def execVunpk (f : UnpkFmt) (part : BitVec 3) (d src : Reg) (q : Pxs) (s : State) : Res :=
  issueOp (do
    needUnit 1
    let a ← readVS (unpkInfo f).2 src q
    let k ← readK q.mask
    let w := (unpkInfo f).1
    putV d k (onLanes k (fun i => unpkElem f (a.toNat / 2 ^ (w * (16 * part.toNat + i)) % 2 ^ w)))) s

/-- x × 2^y rounded once (R212). -/
def scalB (m : Rm) (x : BitVec 32) (y : Int) : Nat × Word :=
  let f := fmtOf .f32
  f.enc m (match f.dec x.toNat with
    | .num n k e => .num n k (e + y)
    | v => v)

/-- VSCAL: the second operand is an s32 exponent. -/
def execVscal (o : VBin) (s : State) : Res :=
  issueOp (vecBin (fun m x y => elemRes (scalB m x y.toInt)) o) s

/-! ## Dot products and quantisation (R213, R214) -/

/-- A lane dot product of `n` elements per lane, `w` bits wide: exact integers with a wrapping sum. -/
def vecDotI (t : VTy) (sx : Bool) (n w : Nat) (o : Tri) : Op Unit := do
  needUnit 1
  let p ← readVS t o.s o.q
  let q ← readV o.t
  let c ← readV o.d
  let k ← readK o.q.mask
  let el (x : BitVec 32) (j : Nat) : Int :=
    let v := BitVec.ofNat w (x.toNat / 2 ^ (w * j))
    if sx then v.toInt else (v.toNat : Int)
  writeV o.d k (genLanes (fun i =>
    lane c i + BitVec.ofInt 32 (((List.range n).map (fun j => el (lane p i) j * el (lane q i) j)).foldl (· + ·) 0)))

/-- A lane dot product of floating elements: the products and the addend summed exactly and rounded once. -/
def vecDotF (t : VTy) (f : FFmt) (n : Nat) (o : Tri) : Op Unit := do
  needUnit 1
  let p ← readVS t o.s o.q
  let q ← readV o.t
  let c ← readV o.d
  let k ← readK o.q.mask
  let m ← modeOp
  let w := 32 / n
  let el (x : BitVec 32) (j : Nat) : Fp := (fmtOf f).dec (x.toNat / 2 ^ (w * j) % 2 ^ w)
  putV o.d k (onLanes k (fun i =>
    let ps := (List.range n).map (fun j => (el (lane p i) j).mul (el (lane q i) j))
    elemRes ((fmtOf .f32).sum m (ps.map Prod.fst ++ [(fmtOf .f32).dec (lane c i).toNat]) (ps.any Prod.snd))))

/-- VDOT4. -/
def execVdot4 (ty : Dot4Ty) (o : Tri) (s : State) : Res :=
  issueOp (match ty with
    | .s8 => vecDotI .s8x4 true 4 8 o
    | .n8 => vecDotI .n8x4 false 4 8 o
    | .e4m3 => vecDotF .f32 .e4m3 4 o
    | .e5m2 => vecDotF .f32 .e5m2 4 o) s
/-- VDOT8. -/
def execVdot8 (ty : Dot8Ty) (o : Tri) (s : State) : Res :=
  issueOp (match ty with
    | .s4 => vecDotI .s8x4 true 8 4 o
    | .e2m1 => vecDotF .f32 .e2m1 8 o) s
/-- VDOT2. -/
def execVdot2 (ty : Dot2Ty) (o : Tri) (s : State) : Res :=
  issueOp (match ty with
    | .bf16 => vecDotF .bf16x2 .bf16 2 o
    | .f16 => vecDotF .f16x2 .f16 2 o
    | .s16 => vecDotI .s16x2 true 2 16 o) s

/-- VQNT: 32 inputs to one block image; every lane is written (R214). -/
def execVqnt (f : QntFmt) (o : Tri) (s : State) : Res :=
  issueOp (do
    needUnit 1
    let a ← readVS .f32 o.s o.q
    let b ← readV o.t
    let r := quantise f (lanes16.map (fun i => (lane a i).toNat) ++ lanes16.map (fun i => (lane b i).toNat))
    writeV o.d (BitVec.allOnes 16) (BitVec.ofNat 512 (ofBytes r.1))
    raiseFlags r.2) s

/-! ## Masks (R217, R218) -/

/-- KOP. -/
def execKop (op : KopOp) (d src : BitVec 3) (t : Option (BitVec 3)) (s : State) : Res :=
  issueOp (do
    needUnit 1
    let a ← readK (if t.isSome then src else d)
    let b ← readK (t.getD src)
    writeK d (match op with
      | .and => a &&& b
      | .or => a ||| b
      | .xor => a ^^^ b
      | .andn => a &&& ~~~b)) s
/-- KMOV to a mask. -/
def execKmovToMask (d : BitVec 3) (src : Reg) (s : State) : Res :=
  issueOp (do
    needUnit 1
    let x ← readG src
    writeK d (x.setWidth 16)) s
/-- KMOV from a mask. -/
def execKmovFromMask (d : Reg) (src : BitVec 3) (s : State) : Res :=
  issueOp (do
    needUnit 1
    let x ← readK src
    writeG d (x.setWidth 64)) s
/-- KLOW: the low min(n, 16) bits set. -/
def execKlow (d : BitVec 3) (src : Reg) (s : State) : Res :=
  issueOp (do
    needUnit 1
    let n ← readG src
    writeK d (BitVec.ofNat 16 (2 ^ Nat.min n.toNat 16 - 1))) s
/-- KPOP. -/
def execKpop (d : Reg) (src : BitVec 3) (s : State) : Res :=
  issueOp (do
    needUnit 1
    let x ← readK src
    writeG d (BitVec.ofNat 64 (popCount 16 x.toNat))) s

end Sys2Proof.Machine
end

