-- ==== Sys2Proof/Machine/VectorMem.lean ====
section
/-!
DEFINITION. The vector loads and stores VLD, VST, VLDX and VSTX (R215, R216).
-/

namespace Sys2Proof

/-- Bytes of a VLD or VST (R215). -/
def VldW.size : VldW → Nat
  | .w64 => 64
  | .w32 => 32
  | .b => 4

/-- Bytes of an element of VLDX and VSTX (R216). -/
def VxSize.size : VxSize → Nat
  | .b4 => 4
  | .b2 => 2
  | .b1 => 1

end Sys2Proof

namespace Sys2Proof.Machine

/-! ## VLD and VST (R215) -/

/-- The effective address of VLD and VST. -/
def vecEa (w : VldW) (b t : Reg) (p : Pxi) : Op Nat := do
  let x ← readG b
  let y ← readG t
  pure (addr56 (x + BitVec.ofNat 64 (y.toNat * w.size) + immS p 0 0))

/-- The lanes that a VLD writes from lane `l` of the access: in the 32-byte form lane l + 8 too, which becomes 0. -/
def vldMask (w : VldW) (k : BitVec 16) (l : Nat) : BitVec 16 :=
  k &&& ((1#16 <<< l) ||| (if w = .w32 then 1#16 <<< (l + 8) else 0))

/-- A VLD of main memory on its way: each 4-byte lane of the access is a read of its own (R312). -/
def State.vldMain (s : State) (w : VldW) (d : Reg) (k : BitVec 16) (a : Nat) (cached : Bool) : State :=
  match w with
  | .b => s.loadMain (.vbcast d k) a 4 10 cached 0 none
  | _ =>
    let tag := s.nextReq
    (List.range (w.size / 4)).foldl (fun (u : State) l =>
      { (u.loadMain (.vloadx d false l (vldMask w k l) (k == BitVec.allOnes 16)) (a + 4 * l) 4 10 cached tag none) with nextReq := u.nextReq + 1 }) s

/-- VLD. -/
def execVld (w : VldW) (fresh : Bool) (mask : BitVec 3) (d : Reg) (b t : Reg) (p : Pxi) (s0 : State) : Res :=
  issueOp (do
    needUnit 1
    let a ← vecEa w b t p
    alignTo w.size 10 a
    let g ← accRegion 10 true a
    let k ← readK mask
    match g with
    | .main => do
      watch 10 a w.size rightsLd
      roomLd
      freeV d
      modS (fun s =>
        let s1 := if fresh then s.l1Drop s.me.core (a / 128) else s
        (s1.vldMain w d k a (!fresh)).modMe (fun c => { c.pendV d with ld := c.ld + 1 }))
    | .control off => do
      let s ← getS
      writeV d k (vldValue w (s.ctlBytes (s.privileged s.me) s.me.tenid s.me.ptag off w.size))
    | _ => do
      freeV d
      let x ← tileBytes s0 g 10 a w.size
      writeV d k (vldValue w x)) s0

/-- The enabled lanes of a VST. -/
def vstLanes (w : VldW) (k : BitVec 16) : List Nat := (List.range (w.size / 4)).filter (fun l => k.getLsbD l)

/-- The bytes of the enabled lanes of a VST, by their offset in the access. -/
def vstBytes (w : VldW) (k : BitVec 16) (x : VWord) : List (Nat × Byte) :=
  (vstLanes w k).flatMap (fun l => (List.range 4).map (fun i => (4 * l + i, (lane x l).extractLsb' (8 * i) 8)))

/-- A VST to main memory leaves its core (R65, R66, R215): each enabled lane is a write of its own (R312), and one with none makes no access. -/
def State.vstMain (s : State) (w : VldW) (k : BitVec 16) (a : Nat) (x : VWord) : State :=
  let c := s.me
  let ls := vstLanes w k
  let s1 :=
    if s.wt c.core then (vstBytes w k x).foldl (fun t p => t.l1Store c.core c.ptag c.key (a + p.1) [p.2]) s else s.l1Kill c.core a
  if ls.isEmpty then s
  else
    let tag := s.nextReq
    (ls.foldl (fun (u : State) l => u.sendSlice (.vstorex (lane x l)) (a + 4 * l) 4 11 false tag none) s1).modMe (fun c => { c with st := c.st + 1 })

/-- The whole registers of control space that a VST covers, written (R119). -/
def State.vstCtl (s : State) (off : Nat) (b : List (Nat × Byte)) : State :=
  (List.range 8).foldl (fun t i =>
    let x := (b.filter (fun p => p.1 / 8 == i)).map Prod.snd
    if x.length = 8 then t.ctlStore (t.privileged t.me) t.me.tenid (off + 8 * i) (BitVec.ofNat 64 (ofBytes x)) else t) s

/-- VST. -/
def execVst (w : VldW) (mask : BitVec 3) (d : Reg) (b t : Reg) (p : Pxi) (s0 : State) : Res :=
  issueOp (do
    needUnit 1
    let a ← vecEa w b t p
    alignTo w.size 11 a
    let g ← accRegion 11 true a
    match g with
    | .main => watch 11 a w.size rightsSt
    | _ => pure ()
    let x ← readV d
    let k ← readK mask
    let y := vstBytes w k x
    match g with
    | .main => do
      roomSt 1
      modS (fun s => s.vstMain w k a x)
    | .control off => modS (fun s => s.vstCtl off y)
    | _ => tileWrite s0 g 11 a (fun o => storeUpds (y.map (fun p => (o + p.1, p.2))))) s0

/-! ## VLDX and VSTX (R216) -/

/-- The enabled lanes of an access with their addresses, in ascending order. -/
def laneAddrs (base : Word) (idx : VWord) (k : BitVec 16) : List (Nat × Nat) :=
  (lanes16.filter (fun i => k.getLsbD i)).map (fun i => (i, addr56 (base + (lane idx i).setWidth 64)))

/-- The checks of the lanes in ascending order. -/
def laneChecks (n op : Nat) (r : Rights) : List (Nat × Nat) → Op Unit
  | [] => pure ()
  | (_, a) :: rest => do
    alignTo n op a
    let g ← accRegion op true a
    match g with
    | .main => watch op a n r
    | _ => pure ()
    laneChecks n op r rest

/-- Every lane lies in main memory, none does, or the lanes mix the two, which traps CONFINE (R216). -/
def lanesMain (op : Nat) (l : List (Nat × Nat)) : Op Bool := fun s =>
  let m := l.filter (fun p => regionOf s.part p.2 == .main)
  if m.isEmpty then .ok (false, s)
  else if m.length = l.length then .ok (true, s)
  else accTrap .confine op 6 ((l.map Prod.snd).headD 0) s

/-- One lane read outside main memory; a tile must be resident (R83). -/
def laneRead (s0 : State) (n a : Nat) : Op (List Byte) := do
  let s ← getS
  match regionOf s.part a with
  | .control off => pure (s.ctlBytes (s.privileged s.me) s.me.tenid s.me.ptag off n)
  | .tile q t b => do
    resident s0 12 a q t
    tileBytes s0 (.tile q t b) 12 a n
  | g => tileBytes s0 g 12 a n

/-- The lanes read outside main memory, each into its lane of a value. -/
def lanesRead (s0 : State) (n : Nat) (sx : Bool) : List (Nat × Nat) → Op VWord
  | [] => pure 0
  | (i, a) :: rest => do
    let x ← laneRead s0 n a
    let r ← lanesRead s0 n sx rest
    pure (r ||| oneLane i ((extend sx n (ofBytes x)).setWidth 32))

/-- VLDX. -/
def execVldx (sz : VxSize) (sx fresh : Bool) (mask : BitVec 3) (d sr t : Reg) (s0 : State) : Res :=
  issueOp (do
    needUnit 1
    let b ← readG sr
    let i ← readV t
    let k ← readK mask
    let l := laneAddrs b i k
    laneChecks sz.size 12 rightsLd l
    let m ← lanesMain 12 l
    if m then do
      roomLd
      freeV d
      modS (fun s =>
        let tag := s.nextReq
        let s1 := if fresh then l.foldl (fun u p => u.l1Drop u.me.core (p.2 / 128)) s else s
        let s2 := l.foldl (fun u p => { (u.loadMain (.vloadx d sx p.1 (1#16 <<< p.1) (k == BitVec.allOnes 16)) p.2 sz.size 12 (!fresh) tag none) with nextReq := u.nextReq + 1 }) s1
        s2.modMe (fun c => { c.pendV d with ld := c.ld + 1 }))
    else do
      freeV d
      let x ← lanesRead s0 sz.size sx l
      writeV d k x) s0

/-- One lane written outside main memory. -/
def laneWrite (s0 : State) (n a : Nat) (x : BitVec 32) : Op Unit := do
  let s ← getS
  let us (o : Nat) : List Upd := storeUpds ((List.range n).map (o + ·) |>.zip (toBytes n x.toNat))
  match regionOf s.part a with
  | .tile q t b => do
    resident s0 13 a q t
    tileWrite s0 (.tile q t b) 13 a us
  | g => tileWrite s0 g 13 a us

/-- The lanes written outside main memory, in ascending order. -/
def lanesWrite (s0 : State) (n : Nat) (x : VWord) : List (Nat × Nat) → Op Unit
  | [] => pure ()
  | (i, a) :: rest => do
    laneWrite s0 n a (lane x i)
    lanesWrite s0 n x rest

/-- VSTX. A lane that names a register of control space is narrower than it and is ignored (R119). -/
def execVstx (sz : VxSize) (mask : BitVec 3) (d sr t : Reg) (s0 : State) : Res :=
  issueOp (do
    needUnit 1
    let b ← readG sr
    let i ← readV t
    let k ← readK mask
    let l := laneAddrs b i k
    laneChecks sz.size 13 rightsSt l
    let m ← lanesMain 13 l
    let x ← readV d
    if m then do
      roomSt 1
      modS (fun s =>
        let tag := s.nextReq
        let s1 := l.foldl (fun u p =>
          let y := lane x p.1
          let c := u.me
          (u.l1Store c.core c.ptag c.key p.2 (toBytes sz.size y.toNat)).sendSlice (.vstorex y) p.2 sz.size 13 false tag none) s
        s1.modMe (fun c => { c with st := c.st + 1 }))
    else lanesWrite s0 sz.size x l) s0

end Sys2Proof.Machine
end

