-- ==== Sys2Proof/Machine/Dispatch.lean ====
section
/-!
DEFINITION. One arm per instruction, each a call of its meaning.
-/

namespace Sys2Proof.Machine

def exec (i : Instr) (s : State) : Host.Outcome State Fault Refusal :=
  match i with
  | .nop => Sys2Proof.Machine.execNop s
  | .mov o => Sys2Proof.Machine.execMov o s
  | .clz o => Sys2Proof.Machine.execClz o s
  | .ctz o => Sys2Proof.Machine.execCtz o s
  | .popc o => Sys2Proof.Machine.execPopc o s
  | .add o => Sys2Proof.Machine.execAdd o s
  | .sub o => Sys2Proof.Machine.execSub o s
  | .and o => Sys2Proof.Machine.execAnd o s
  | .or o => Sys2Proof.Machine.execOr o s
  | .xor o => Sys2Proof.Machine.execXor o s
  | .andn o => Sys2Proof.Machine.execAndn o s
  | .min o => Sys2Proof.Machine.execMin o s
  | .max o => Sys2Proof.Machine.execMax o s
  | .minn o => Sys2Proof.Machine.execMinn o s
  | .maxn o => Sys2Proof.Machine.execMaxn o s
  | .sel o => Sys2Proof.Machine.execSel o s
  | .shl o => Sys2Proof.Machine.execShl o s
  | .shra o => Sys2Proof.Machine.execShra o s
  | .shrl o => Sys2Proof.Machine.execShrl o s
  | .rotl o => Sys2Proof.Machine.execRotl o s
  | .mul o => Sys2Proof.Machine.execMul o s
  | .mulh o => Sys2Proof.Machine.execMulh o s
  | .mulhn o => Sys2Proof.Machine.execMulhn o s
  | .div o => Sys2Proof.Machine.execDiv o s
  | .divn o => Sys2Proof.Machine.execDivn o s
  | .rem o => Sys2Proof.Machine.execRem o s
  | .remn o => Sys2Proof.Machine.execRemn o s
  | .sext o => Sys2Proof.Machine.execSext o s
  | .zext o => Sys2Proof.Machine.execZext o s
  | .cmp c inv o => Sys2Proof.Machine.execCmp c inv o s
  | .addImm o => Sys2Proof.Machine.execAddImm o s
  | .movImm o => Sys2Proof.Machine.execMovImm o s
  | .extb o => Sys2Proof.Machine.execExtb o s
  | .insb o => Sys2Proof.Machine.execInsb o s
  | .lea o => Sys2Proof.Machine.execLea o s
  | .bnd d src len => Sys2Proof.Machine.execBnd d src len s
  | .ld m q => Sys2Proof.Machine.execLd m q s
  | .st m rel => Sys2Proof.Machine.execSt m rel s
  | .ldw m q => Sys2Proof.Machine.execLdw m q s
  | .ldt m q => Sys2Proof.Machine.execLdt m q s
  | .stf m rel => Sys2Proof.Machine.execStf m rel s
  | .femarkEmpty d src => Sys2Proof.Machine.execFemarkEmpty d src s
  | .femarkFull d src => Sys2Proof.Machine.execFemarkFull d src s
  | .feq d src => Sys2Proof.Machine.execFeq d src s
  | .pftL1 src => Sys2Proof.Machine.execPftL1 src s
  | .pftL2 src => Sys2Proof.Machine.execPftL2 src s
  | .fence k c => Sys2Proof.Machine.execFence k c s
  | .waitc ld st cp tl => Sys2Proof.Machine.execWaitc ld st cp tl s
  | .tadd ty d src => Sys2Proof.Machine.execTadd ty d src s
  | .tmax ty d src => Sys2Proof.Machine.execTmax ty d src s
  | .tmin ty d src => Sys2Proof.Machine.execTmin ty d src s
  | .tor d src => Sys2Proof.Machine.execTor d src s
  | .txor d src => Sys2Proof.Machine.execTxor d src s
  | .tand d src => Sys2Proof.Machine.execTand d src s
  | .tpin src => Sys2Proof.Machine.execTpin src s
  | .tunpin src => Sys2Proof.Machine.execTunpin src s
  | .tfetch src => Sys2Proof.Machine.execTfetch src s
  | .tevict d src => Sys2Proof.Machine.execTevict d src s
  | .tstat d src => Sys2Proof.Machine.execTstat d src s
  | .tsync d src => Sys2Proof.Machine.execTsync d src s
  | .cinv d src => Sys2Proof.Machine.execCinv d src s
  | .br imm p => Sys2Proof.Machine.execBr imm p s
  | .call imm p => Sys2Proof.Machine.execCall imm p s
  | .bc c src imm p => Sys2Proof.Machine.execBc c src imm p s
  | .bcmp c d src p => Sys2Proof.Machine.execBcmp c d src p s
  | .jmp src => Sys2Proof.Machine.execJmp src s
  | .callr src => Sys2Proof.Machine.execCallr src s
  | .ret => Sys2Proof.Machine.execRet s
  | .bqb sense imm p => Sys2Proof.Machine.execBqb sense imm p s
  | .crd d n => Sys2Proof.Machine.execCrd d n s
  | .cwr d n => Sys2Proof.Machine.execCwr d n s
  | .amo op w ord d src t => Sys2Proof.Machine.execAmo op w ord d src t s
  | .cas w64 ord d src t => Sys2Proof.Machine.execCas w64 ord d src t s
  | .rupd op w ord src t => Sys2Proof.Machine.execRupd op w ord src t s
  | .spawn n d src => Sys2Proof.Machine.execSpawn n d src s
  | .migr src t => Sys2Proof.Machine.execMigr src t s
  | .migrHome src => Sys2Proof.Machine.execMigrHome src s
  | .migrPivot => Sys2Proof.Machine.execMigrPivot s
  | .migrBack => Sys2Proof.Machine.execMigrBack s
  | .send d src t => Sys2Proof.Machine.execSend d src t s
  | .qbind d src => Sys2Proof.Machine.execQbind d src s
  | .qstat d src => Sys2Proof.Machine.execQstat d src s
  | .hbar d src => Sys2Proof.Machine.execHbar d src s
  | .hwait src => Sys2Proof.Machine.execHwait src s
  | .hstat d src => Sys2Proof.Machine.execHstat d src s
  | .join imm p => Sys2Proof.Machine.execJoin imm p s
  | .detach => Sys2Proof.Machine.execDetach s
  | .waitw src => Sys2Proof.Machine.execWaitw src s
  | .halt => Sys2Proof.Machine.execHalt s
  | .haltRetain src => Sys2Proof.Machine.execHaltRetain src s
  | .trap src => Sys2Proof.Machine.execTrap src s
  | .rett d src => Sys2Proof.Machine.execRett d src s
  | .sysc src => Sys2Proof.Machine.execSysc src s
  | .ctxs d src => Sys2Proof.Machine.execCtxs d src s
  | .ctxl d src => Sys2Proof.Machine.execCtxl d src s
  | .aown src => Sys2Proof.Machine.execAown src s
  | .aspill u src => Sys2Proof.Machine.execAspill u src s
  | .afill u src => Sys2Proof.Machine.execAfill u src s
  | .slotx d src => Sys2Proof.Machine.execSlotx d src s
  | .qdrain d src => Sys2Proof.Machine.execQdrain d src s
  | .audw d src => Sys2Proof.Machine.execAudw d src s
  | .vmov o => Sys2Proof.Machine.execVmov o s
  | .vbcast o => Sys2Proof.Machine.execVbcast o s
  | .vext o => Sys2Proof.Machine.execVext o s
  | .viota ty d mask => Sys2Proof.Machine.execViota ty d mask s
  | .vadd sat o => Sys2Proof.Machine.execVadd sat o s
  | .vsub sat o => Sys2Proof.Machine.execVsub sat o s
  | .vmul sat o => Sys2Proof.Machine.execVmul sat o s
  | .vdiv o => Sys2Proof.Machine.execVdiv o s
  | .vfma o => Sys2Proof.Machine.execVfma o s
  | .vfms o => Sys2Proof.Machine.execVfms o s
  | .vfnma o => Sys2Proof.Machine.execVfnma o s
  | .vmin o => Sys2Proof.Machine.execVmin o s
  | .vmax o => Sys2Proof.Machine.execVmax o s
  | .vabs sat o => Sys2Proof.Machine.execVabs sat o s
  | .vneg sat o => Sys2Proof.Machine.execVneg sat o s
  | .vand o => Sys2Proof.Machine.execVand o s
  | .vor o => Sys2Proof.Machine.execVor o s
  | .vxor o => Sys2Proof.Machine.execVxor o s
  | .vandn o => Sys2Proof.Machine.execVandn o s
  | .vshl o => Sys2Proof.Machine.execVshl o s
  | .vshra o => Sys2Proof.Machine.execVshra o s
  | .vshrl o => Sys2Proof.Machine.execVshrl o s
  | .vrotl o => Sys2Proof.Machine.execVrotl o s
  | .vcmp c o => Sys2Proof.Machine.execVcmp c o s
  | .vsel o => Sys2Proof.Machine.execVsel o s
  | .vperm o => Sys2Proof.Machine.execVperm o s
  | .vslide o => Sys2Proof.Machine.execVslide o s
  | .vred op o => Sys2Proof.Machine.execVred op o s
  | .vrcp o => Sys2Proof.Machine.execVrcp o s
  | .vrsq o => Sys2Proof.Machine.execVrsq o s
  | .vexp2 o => Sys2Proof.Machine.execVexp2 o s
  | .vlog2 o => Sys2Proof.Machine.execVlog2 o s
  | .vcvt dst o => Sys2Proof.Machine.execVcvt dst o s
  | .vpack f o => Sys2Proof.Machine.execVpack f o s
  | .vunpk f part d src q => Sys2Proof.Machine.execVunpk f part d src q s
  | .vscal o => Sys2Proof.Machine.execVscal o s
  | .vdot4 ty o => Sys2Proof.Machine.execVdot4 ty o s
  | .vdot8 ty o => Sys2Proof.Machine.execVdot8 ty o s
  | .vdot2 ty o => Sys2Proof.Machine.execVdot2 ty o s
  | .vqnt f o => Sys2Proof.Machine.execVqnt f o s
  | .vld w fresh mask d b t p => Sys2Proof.Machine.execVld w fresh mask d b t p s
  | .vst w mask d b t p => Sys2Proof.Machine.execVst w mask d b t p s
  | .vldx sz sx fresh mask d src t => Sys2Proof.Machine.execVldx sz sx fresh mask d src t s
  | .vstx sz mask d src t => Sys2Proof.Machine.execVstx sz mask d src t s
  | .kop op d src t => Sys2Proof.Machine.execKop op d src t s
  | .kmovToMask d src => Sys2Proof.Machine.execKmovToMask d src s
  | .kmovFromMask d src => Sys2Proof.Machine.execKmovFromMask d src s
  | .klow d src => Sys2Proof.Machine.execKlow d src s
  | .kpop d src => Sys2Proof.Machine.execKpop d src s
  | .mcfg d src => Sys2Proof.Machine.execMcfg d src s
  | .mfmt src => Sys2Proof.Machine.execMfmt src s
  | .mperm d src => Sys2Proof.Machine.execMperm d src s
  | .mmeta c d src => Sys2Proof.Machine.execMmeta c d src s
  | .mld sc d src t => Sys2Proof.Machine.execMld sc d src t s
  | .mldc d src t => Sys2Proof.Machine.execMldc d src t s
  | .mzero d => Sys2Proof.Machine.execMzero d s
  | .mqst d sel => Sys2Proof.Machine.execMqst d sel s
  | .mma d src b => Sys2Proof.Machine.execMma d src b s
  | .mmas d src b x => Sys2Proof.Machine.execMmas d src b x s
  | .mman d src b => Sys2Proof.Machine.execMman d src b s
  | .ast d src t => Sys2Proof.Machine.execAst d src t s
  | .ald d src t => Sys2Proof.Machine.execAld d src t s
  | .amov d src row half => Sys2Proof.Machine.execAmov d src row half s
  | .amovv d src row half => Sys2Proof.Machine.execAmovv d src row half s
  | .cpy put fe d src => Sys2Proof.Machine.execCpy put fe d src s
  | .cpyx put fe d src => Sys2Proof.Machine.execCpyx put fe d src s
  | .cpyc d src => Sys2Proof.Machine.execCpyc d src s
  | .cfill x m d src => Sys2Proof.Machine.execCfill x m d src s
  | .gath d src => Sys2Proof.Machine.execGath d src s
  | .scat d src => Sys2Proof.Machine.execScat d src s
  | .echk rights d src => Sys2Proof.Machine.execEchk rights d src s
  | .coll d src => Sys2Proof.Machine.execColl d src s
  | .cgrp d src => Sys2Proof.Machine.execCgrp d src s
  | .cabt d src => Sys2Proof.Machine.execCabt d src s
  | .fadd o => Sys2Proof.Machine.execFadd o s
  | .fsub o => Sys2Proof.Machine.execFsub o s
  | .fmul o => Sys2Proof.Machine.execFmul o s
  | .fdiv o => Sys2Proof.Machine.execFdiv o s
  | .fma dbl d src t m => Sys2Proof.Machine.execFma dbl d src t m s
  | .fsqrt o => Sys2Proof.Machine.execFsqrt o s
  | .fmin o => Sys2Proof.Machine.execFmin o s
  | .fmax o => Sys2Proof.Machine.execFmax o s
  | .fcmp c o => Sys2Proof.Machine.execFcmp c o s
  | .fclass o => Sys2Proof.Machine.execFclass o s
  | .fcvt k d src m => Sys2Proof.Machine.execFcvt k d src m s
  | .illegalWord code idx => Sys2Proof.Machine.execIllegalWord code idx s
  | .fetchRefused => Sys2Proof.Machine.execFetchRefused s
  | .l1modeWrite core v => Sys2Proof.Machine.execL1modeWrite core v s
  | .tlcapWrite squad v => Sys2Proof.Machine.execTlcapWrite squad v s
  | .fijWrite cid v => Sys2Proof.Machine.execFijWrite cid v s
  | .controlRegisterWrite a off v => Sys2Proof.Machine.execControlRegisterWrite a off v s
  | .loadReply cid => Sys2Proof.Machine.execLoadReply cid s
  | .storeAck cid => Sys2Proof.Machine.execStoreAck cid s
  | .sliceRequest slice evict => Sys2Proof.Machine.execSliceRequest slice evict s
  | .homeRequest channel => Sys2Proof.Machine.execHomeRequest channel s
  | .requestReissue cid => Sys2Proof.Machine.execRequestReissue cid s
  | .remoteUpdate unit => Sys2Proof.Machine.execRemoteUpdate unit s
  | .snapshotArm channel => Sys2Proof.Machine.execSnapshotArm channel s
  | .snapshotStop channel => Sys2Proof.Machine.execSnapshotStop channel s
  | .snapshotStart channel => Sys2Proof.Machine.execSnapshotStart channel s
  | .snapshotCopyDone channel => Sys2Proof.Machine.execSnapshotCopyDone channel s
  | .snapshotRead channel page key gran => Sys2Proof.Machine.execSnapshotRead channel page key gran s
  | .budgetPeriod => Sys2Proof.Machine.execBudgetPeriod s
  | .l1LineExpiry core line => Sys2Proof.Machine.execL1LineExpiry core line s
  | .tileOwnerAssign squad v => Sys2Proof.Machine.execTileOwnerAssign squad v s
  | .tileAccess core slot => Sys2Proof.Machine.execTileAccess core slot s
  | .tileArrival squad tile => Sys2Proof.Machine.execTileArrival squad tile s
  | .tileDepartureDone squad tile => Sys2Proof.Machine.execTileDepartureDone squad tile s
  | .engineStart id => Sys2Proof.Machine.execEngineStart id s
  | .engineAccessFailure id => Sys2Proof.Machine.execEngineAccessFailure id s
  | .engineComplete id => Sys2Proof.Machine.execEngineComplete id s
  | .extentInvalidate entry => Sys2Proof.Machine.execExtentInvalidate entry s
  | .extentInvalidateDone entry => Sys2Proof.Machine.execExtentInvalidateDone entry s
  | .matrixCommandStart squad => Sys2Proof.Machine.execMatrixCommandStart squad s
  | .matrixCommandComplete core => Sys2Proof.Machine.execMatrixCommandComplete core s
  | .matrixBudgetPeriod squad => Sys2Proof.Machine.execMatrixBudgetPeriod squad s
  | .matrixGate squad => Sys2Proof.Machine.execMatrixGate squad s
  | .matrixWake squad => Sys2Proof.Machine.execMatrixWake squad s
  | .streamDecode squad stream => Sys2Proof.Machine.execStreamDecode squad stream s
  | .privateFetchDelivery squad => Sys2Proof.Machine.execPrivateFetchDelivery squad s
  | .driftStallDetach squad stream => Sys2Proof.Machine.execDriftStallDetach squad stream s
  | .joinWaitTimeout core slot => Sys2Proof.Machine.execJoinWaitTimeout core slot s
  | .srtailWrite tenid squad ring v => Sys2Proof.Machine.execSrtailWrite tenid squad ring v s
  | .serveDelivery squad ring => Sys2Proof.Machine.execServeDelivery squad ring s
  | .threadArrival core => Sys2Proof.Machine.execThreadArrival core s
  | .spillDiversion core => Sys2Proof.Machine.execSpillDiversion core s
  | .streamMessageArrival core slot k => Sys2Proof.Machine.execStreamMessageArrival core slot k s
  | .registerFill core slot => Sys2Proof.Machine.execRegisterFill core slot s
  | .bindRequest cid => Sys2Proof.Machine.execBindRequest cid s
  | .bindReply cid => Sys2Proof.Machine.execBindReply cid s
  | .withdrawal cid => Sys2Proof.Machine.execWithdrawal cid s
  | .preemptMessage core mspill reason slots desc => Sys2Proof.Machine.execPreemptMessage core mspill reason slots desc s
  | .preemptDoneTimeout core => Sys2Proof.Machine.execPreemptDoneTimeout core s
  | .uncorrectableError e => Sys2Proof.Machine.execUncorrectableError e s
  | .memoryScrub line uncorrectable => Sys2Proof.Machine.execMemoryScrub line uncorrectable s
  | .interruptEvent n => Sys2Proof.Machine.execInterruptEvent n s
  | .irqAck n => Sys2Proof.Machine.execIrqAck n s
  | .irqEscalate n => Sys2Proof.Machine.execIrqEscalate n s
  | .irqStateClear n => Sys2Proof.Machine.execIrqStateClear n s
  | .irqTimerExpiry n => Sys2Proof.Machine.execIrqTimerExpiry n s
  | .semaAcquire holder => Sys2Proof.Machine.execSemaAcquire holder s
  | .semaRenew holder => Sys2Proof.Machine.execSemaRenew holder s
  | .semaRelease holder => Sys2Proof.Machine.execSemaRelease holder s
  | .semaLeaseExpiry => Sys2Proof.Machine.execSemaLeaseExpiry s
  | .hostWindowWrite part w w0 w1 w2 => Sys2Proof.Machine.execHostWindowWrite part w w0 w1 w2 s
  | .hostProgrammedAccess bar off store size => Sys2Proof.Machine.execHostProgrammedAccess bar off store size s
  | .queueTableWrite part q v => Sys2Proof.Machine.execQueueTableWrite part q v s
  | .doorbellKick part q tail => Sys2Proof.Machine.execDoorbellKick part q tail s
  | .doorbellReset part q => Sys2Proof.Machine.execDoorbellReset part q s
  | .queueAccept part q => Sys2Proof.Machine.execQueueAccept part q s
  | .nopCommand part q => Sys2Proof.Machine.execNopCommand part q s
  | .play part q => Sys2Proof.Machine.execPlay part q s
  | .hold part q => Sys2Proof.Machine.execHold part q s
  | .signal part q => Sys2Proof.Machine.execSignal part q s
  | .holdExpiry part q => Sys2Proof.Machine.execHoldExpiry part q s
  | .queueRetire part q => Sys2Proof.Machine.execQueueRetire part q s
  | .queueMapping part => Sys2Proof.Machine.execQueueMapping part s
  | .queueAgeBoundary part q => Sys2Proof.Machine.execQueueAgeBoundary part q s
  | .queueSliceElapsed part q => Sys2Proof.Machine.execQueueSliceElapsed part q s
  | .lockInterface vf => Sys2Proof.Machine.execLockInterface vf s
  | .startInterface vf => Sys2Proof.Machine.execStartInterface vf s
  | .stopInterface vf => Sys2Proof.Machine.execStopInterface vf s
  | .getDeviceInterfaceReport vf => Sys2Proof.Machine.execGetDeviceInterfaceReport vf s
  | .echo part => Sys2Proof.Machine.execEcho part s
  | .notify part => Sys2Proof.Machine.execNotify part s
  | .time part => Sys2Proof.Machine.execTime part s
  | .extq part => Sys2Proof.Machine.execExtq part s
  | .syscBusyTimeout cid => Sys2Proof.Machine.execSyscBusyTimeout cid s
  | .instanceDue n => Sys2Proof.Machine.execInstanceDue n s
  | .stageRelease n => Sys2Proof.Machine.execStageRelease n s
  | .launchWindowExpiry n => Sys2Proof.Machine.execLaunchWindowExpiry n s
  | .sliceRotation part => Sys2Proof.Machine.execSliceRotation part s
  | .gangPatienceExpiry n => Sys2Proof.Machine.execGangPatienceExpiry n s
  | .drainExpiry part => Sys2Proof.Machine.execDrainExpiry part s
  | .seal imm desc => Sys2Proof.Machine.execSeal imm desc s
  | .sealDone imm => Sys2Proof.Machine.execSealDone imm s
  | .revoke imm => Sys2Proof.Machine.execRevoke imm s
  | .revokeTgen tgen => Sys2Proof.Machine.execRevokeTgen tgen s
  | .free imm => Sys2Proof.Machine.execFree imm s
  | .revokeDone imm => Sys2Proof.Machine.execRevokeDone imm s
  | .sealRecheck => Sys2Proof.Machine.execSealRecheck s
  | .partitionConfigWrite part r v => Sys2Proof.Machine.execPartitionConfigWrite part r v s
  | .partitionActivate part => Sys2Proof.Machine.execPartitionActivate part s
  | .partitionDrain part => Sys2Proof.Machine.execPartitionDrain part s
  | .partitionDrainDone part => Sys2Proof.Machine.execPartitionDrainDone part s
  | .powerOnReset => Sys2Proof.Machine.execPowerOnReset s
  | .partReset => Sys2Proof.Machine.execPartReset s
  | .bootStepComplete => Sys2Proof.Machine.execBootStepComplete s
  | .firmwareUpdate holder image => Sys2Proof.Machine.execFirmwareUpdate holder image s
  | .powerWindow watts => Sys2Proof.Machine.execPowerWindow watts s
  | .thermalThrottle temp => Sys2Proof.Machine.execThermalThrottle temp s
  | .thermalTrip temp => Sys2Proof.Machine.execThermalTrip temp s
  | .ptpMessage offset bound => Sys2Proof.Machine.execPtpMessage offset bound s
  | .linkTrain port => Sys2Proof.Machine.execLinkTrain port s
  | .linkTrained port pnode pport => Sys2Proof.Machine.execLinkTrained port pnode pport s
  | .laneLockLoss port => Sys2Proof.Machine.execLaneLockLoss port s
  | .linkIdleTimeout port => Sys2Proof.Machine.execLinkIdleTimeout port s
  | .replayLimit port => Sys2Proof.Machine.execReplayLimit port s
  | .flitReceive port f => Sys2Proof.Machine.execFlitReceive port f s
  | .write p => Sys2Proof.Machine.execWrite p s
  | .read p => Sys2Proof.Machine.execRead p s
  | .readReply p => Sys2Proof.Machine.execReadReply p s
  | .writeAck p => Sys2Proof.Machine.execWriteAck p s
  | .atomic p => Sys2Proof.Machine.execAtomic p s
  | .atomicReply p => Sys2Proof.Machine.execAtomicReply p s
  | .release p => Sys2Proof.Machine.execRelease p s
  | .remoteDeadline id => Sys2Proof.Machine.execRemoteDeadline id s
  | .joinPacket p => Sys2Proof.Machine.execJoinPacket p s
  | .joinHoldExpiry part group => Sys2Proof.Machine.execJoinHoldExpiry part group s
  | .cgrpDeadline part group => Sys2Proof.Machine.execCgrpDeadline part group s
  | .collData p => Sys2Proof.Machine.execCollData p s
  | .collStepAck id => Sys2Proof.Machine.execCollStepAck id s
  | .collStepTimeout id => Sys2Proof.Machine.execCollStepTimeout id s
  | .abort p => Sys2Proof.Machine.execAbort p s
  | .allowanceReturn core slot k => Sys2Proof.Machine.execAllowanceReturn core slot k s
  | .keySlotLoad holder slot part => Sys2Proof.Machine.execKeySlotLoad holder slot part s
  | .retainHoldCancel core => Sys2Proof.Machine.execRetainHoldCancel core s
  | .correctableError e => Sys2Proof.Machine.execCorrectableError e s

end Sys2Proof.Machine
end

