-- ==== Sys2Proof/Machine/Step.lean ====
section
/-!
DEFINITION. One step of the machine: the next move of its agenda, or the turn of the slot whose turn it is; and the placing of an
instruction where the next turn fetches.
-/

namespace Sys2Proof.Machine

/-- An outcome with its next state changed. -/
def mapNext (f : State → State) : Host.Outcome State Fault Refusal → Host.Outcome State Fault Refusal
  | .next s => .next (f s)
  | .fault r => .fault r
  | .refused r => .refused r

/-- What follows the instruction of slot `c`: its stream, the rendezvous, and the next turn (R276, R285, R287). -/
def State.afterTurn (c : Ctx) (s : State) : State := ((s.feIssue c).feCheckAll).rotate

/-- The turn of the slot whose turn it is (R276, R277): a bubble, or the instruction that it fetches. -/
def turn (s : State) : Host.Outcome State Fault Refusal :=
  if s.me.live = false then .next s.rotate
  else if s.parked then .next (s.parkedTurn).rotate
  else
    match s.feGate s.me with
    | none => .next ((s.feStall s.me).modMe Ctx.bubble).rotate
    | some t =>
      match t.fetch t.me with
      | .stop _ _ _ => mapNext (State.afterTurn t.me) (exec .fetchRefused t)
      | .illegal code idx n =>
        mapNext (State.afterTurn t.me)
          (exec (.illegalWord (BitVec.ofNat 8 code) (BitVec.ofNat 3 idx))
            (t.modMe (fun c => { c with npc := c.pc + BitVec.ofNat 64 (2 * n) })))
      | .instr i n =>
        mapNext (State.afterTurn t.me) (exec i (t.modMe (fun c => { c with npc := c.pc + BitVec.ofNat 64 (2 * n) })))

/-- One step. A part that THERMAL_TRIP has stopped does nothing until a power-on reset (R426). An instruction of Zagyr on the agenda is no move
and is dropped. -/
def step (s : State) : Host.Outcome State Fault Refusal :=
  match s.agenda with
  | i :: r =>
    if (s.boot.tripped && i != .powerOnReset) || !isMove i then .next { s with agenda := r }
    else mapNext State.feCheckAll (exec i { s with agenda := r })
  | [] => if s.boot.tripped then .fault .thermalHold else turn s

/-- The state with the instruction of a table row stored where the next turn fetches: a seal-table entry of supervisor class holds it, and
slot 0 of core 0 has its turn at it. -/
def State.withFetchWord (s : State) (nbits w : Nat) : State :=
  let ws := tableWords nbits w
  let t := s.layText 0 2 (wordBytes ws)
  { t with
    agenda := [],
    me := { t.me with live := true, cid := Nat.max t.me.cid 1, tenid := 0, pc := 0, att := false, inHand := some 0, wait := .none, notBefore := 0, bubbled := false },
    cores := [],
    boot := { t.boot with tripped := false },
    sealU := { t.sealU with
      tab := t.sealU.tab.put 0 { SealEnt.reset with base := 0, len := 256, flen := 32, st := .live, sup := true } } }

end Sys2Proof.Machine
end

