-- ==== Sys2Proof/Safety.lean ====
section
/-!
DEFINITION. The terms in which the statements speak of states and runs: when an instruction may name its registers, when it
completes with a result, what it leaves alone, and the invariant that every step keeps.
-/

namespace Sys2Proof.Machine

/-- The stored memories are in their canonical form. -/
def State.memOk (s : State) : Bool := memWf s.mem && memWf s.hostMem

/-- The table of slots has one entry for each place, under the key of its context's core and slot. -/
def State.slotsOk (s : State) : Bool := Tbl.sorted s.slots && s.slots.all (fun p => p.1 == slotKey p.2.core p.2.slot)

/-- The invariant of every run: both memories are in their canonical form, and each slot has one entry. -/
def State.inv (s : State) : Bool := s.memOk && s.slotsOk

/-- No snapshot is being taken (R54), so that no write has a page copied or marked in a snapshot area first. -/
def State.noSnap (s : State) : Bool := s.chans.all (fun p => p.2.snap != .active && p.2.snap != .overflow && p.2.copying.isNone)

/-- No saved context waits to end (R302), so that a reply ends none. -/
def State.noEnding (s : State) : Bool := !s.saved.any (fun p => p.2.wait == .ending)

/-- The machine does not stop at this step. -/
def State.goesOn (s : State) : Prop := ∃ t, step s = .next t

/-- No run of `n` steps from the state stops. -/
def State.safeFor : Nat → State → Prop
  | 0, _ => True
  | n + 1, s => ∃ t, step s = .next t ∧ State.safeFor n t

/-- The slot in its turn stands on a barrel core, where it is anchored (R259): every unit of the core is its own. -/
def State.atAnchor (s : State) : Prop := s.me.isAway = false ∧ s.part.isBarrel s.me.core = true

/-- The slot in its turn may name these registers (R259): no port register or `bq` among them, or it stands at its anchor. -/
def State.namesOk (s : State) (rs : List Reg) : Prop := rs.any isPort = false ∨ s.atAnchor

/-- The turn of `i` in state `s` completes with the state `t`, and the slot goes on at `npc` (R31, R185). -/
def completes (i : Instr) (s t : State) : Prop := exec i s = .next (t.modMe Ctx.issue)

/-- Once its operands are read, in the state `u`, the turn of `i` in state `s` completes by writing `r` to `g[d]`, whenever that register
takes a value (R43). -/
def writesG (i : Instr) (s u : State) (d : Reg) (r : Word) : Prop :=
  ∀ t, writeG d r u = .ok ((), t) → completes i s t

/-- The same for a result with the flags that it raises in `fcs` (R144). -/
def writesF (i : Instr) (s u : State) (d : Reg) (r : Nat × Word) : Prop :=
  ∀ t, writeG d (BitVec.ofNat 64 r.1) u = .ok ((), t) →
    completes i s (t.modMe (fun c => { c with fcs := c.fcs ||| r.2 }))

/-- The same for the enabled lanes of a vector register (R196). -/
def writesV (i : Instr) (s u : State) (d : Reg) (mask : BitVec 16) (r : VWord) : Prop :=
  u.me.vPend.getLsbD d.toNat = false → completes i s (u.modMe (fun c => c.setV d mask r))

/-- The same for lanes with the flags that they raise. -/
def writesVF (i : Instr) (s u : State) (d : Reg) (mask : BitVec 16) (r : VWord × Word) : Prop :=
  u.me.vPend.getLsbD d.toNat = false →
    completes i s ((u.modMe (fun c => c.setV d mask r.1)).modMe (fun c => { c with fcs := c.fcs ||| r.2 }))

/-- A function of two elements of type `ty` applied across the lanes of two vectors; the flags are those of enabled lanes (R147, R196). -/
def lanewise2 (ty : VTy) (k : BitVec 16) (x y : VWord) (f : BitVec 32 → BitVec 32 → BitVec 32 × Word) : VWord × Word :=
  onLanes k (fun i => onElems ty (fun j => f (elemOf ty (lane x i) j) (elemOf ty (lane y i) j)))

/-- A function of one element applied across the lanes of a vector. -/
def lanewise1 (ty : VTy) (k : BitVec 16) (x : VWord) (f : BitVec 32 → BitVec 32 × Word) : VWord × Word :=
  onLanes k (fun i => onElems ty (fun j => f (elemOf ty (lane x i) j)))

/-- A function of three elements applied across the lanes of three vectors. -/
def lanewise3 (ty : VTy) (k : BitVec 16) (x y z : VWord) (f : BitVec 32 → BitVec 32 → BitVec 32 → BitVec 32 × Word) : VWord × Word :=
  onLanes k (fun i => onElems ty (fun j => f (elemOf ty (lane x i) j) (elemOf ty (lane y i) j) (elemOf ty (lane z i) j)))

/-- The queue of the slot's core takes a matrix command of the slot (R230, R241). -/
def State.matrixRoom (u : State) (mem : Bool) : Prop :=
  ((u.core u.me.core).ownValid = false ∨ (u.core u.me.core).ownTag = u.me.ctxtag) ∧ (u.core u.me.core).mq.length < 16 ∧ u.me.tl < 63 ∧
  (mem = true → u.sbUsed (u.me.core / 8) < 64)

/-- The turn of `i` in state `s` issues the matrix command `op` from the state `u`: it is the last of the core's queue, `tl` is one higher,
the slot's tag owns the matrix unit's state, `mark` is what becomes of the destination, and no byte changes (R230, R241). -/
def enters (i : Instr) (s u : State) (op : MOp) (mark : Ctx → Ctx) : Prop :=
  ∃ (w : State) (c : MCmd), completes i s w ∧ (w.core u.me.core).mq = (u.core u.me.core).mq ++ [c] ∧ c.op = op ∧ c.cid = u.me.cid ∧
    c.pc = u.me.pc ∧ w.me = mark { u.me with tl := u.me.tl + 1 } ∧ (w.core u.me.core).ownValid = true ∧
    (w.core u.me.core).ownTag = u.me.ctxtag ∧ w.mem = u.mem

/-- The turn of `i` in state `s` passes the engine command `op` from the state `u`: its squad holds it with the next number, `cseq` and `cp`
are one higher, the destination is pending and empty, and no byte changes (R96). -/
def passes (i : Instr) (s u : State) (op : EngOp) (d : Reg) : Prop :=
  ∃ (w : State) (c : Cmd), completes i s w ∧ c ∈ (w.squad (u.me.core / 8)).cmds ∧ c.id = u.nextCmd ∧ c.op = op ∧ c.cid = u.me.cid ∧
    c.cseq = u.me.cseq + 1 ∧ w.nextCmd = u.nextCmd + 1 ∧ w.me.cseq = u.me.cseq + 1 ∧ w.me.cp = u.me.cp + 1 ∧ w.me.st = u.me.st ∧
    w.me.g = u.me.g ∧ (d ≠ 0 → w.me.gPend.getLsbD d.toNat = true ∧ w.me.gFull.getLsbD d.toNat = false) ∧ w.mem = u.mem

/-- A packet that has arrived where it goes (R406). -/
def packetHere (p : Packet) (s : State) : Prop := p.dst = s.fab.node ∧ s.fab.node ≠ 0 ∧ p.kind ≤ 9

/-- Every instruction that only reads and writes registers of its own slot, with the registers that it may write, those that a synchronised
read may empty (R27), and whether it may raise flags in `fcs` (R144). -/
structure Names where
  g : List Reg
  v : List Reg
  k : List Reg
  emptyG : List Reg
  emptyV : List Reg
  fcs : Bool
  deriving DecidableEq, Repr

/-- The source register of a synchronised read. -/
def syncOf (m : SMod) (r : Reg) : List Reg := if m = .sync then [r] else []

/-- Names of an integer instruction. -/
def intNames (d : List Reg) (e : List Reg) : Names := { g := d, v := [], k := [], emptyG := e, emptyV := [], fcs := false }
/-- Names of a scalar floating-point instruction. -/
def fltNames (d : List Reg) (e : List Reg) : Names := { g := d, v := [], k := [], emptyG := e, emptyV := [], fcs := true }
/-- Names of a vector instruction. -/
def vecNames (d : List Reg) (e : List Reg) : Names := { g := [], v := d, k := [], emptyG := [], emptyV := e, fcs := true }

/-- The names of a register-only instruction (R165-R218); none for any other. -/
def namesOf (i : Instr) : Option Names :=
  match i with
  | .nop | .waitc _ _ _ _ | .br _ _ | .bc _ _ _ _ | .bcmp _ _ _ _ | .jmp _ | .ret | .bqb _ _ _ | .hwait _ | .detach | .trap _ =>
    some (intNames [] [])
  | .mov o | .clz o | .ctz o | .popc o =>
    some (intNames [o.d] (match o.src with | .reg s q => syncOf q.smod s | .imm _ => []))
  | .add o | .sub o | .and o | .or o | .xor o | .andn o | .min o | .max o | .minn o | .maxn o | .sel o | .shl o | .shra o | .shrl o
  | .rotl o | .mul o | .mulh o | .mulhn o | .div o | .divn o | .rem o | .remn o | .cmp _ _ o => some (intNames [o.d] (syncOf o.q.smod o.s))
  | .sext o | .zext o => some (intNames [o.d] (syncOf o.q.smod o.s))
  | .addImm o | .movImm o => some (intNames [o.d] [])
  | .extb o | .insb o => some (intNames [o.d] (syncOf o.q.smod o.s))
  | .lea o => some (intNames [o.d] [])
  | .bnd d _ _ | .crd d _ | .qstat d _ | .hstat d _ => some (intNames [d] [])
  | .call _ _ | .callr _ => some (intNames [63] [])
  | .fadd o | .fsub o | .fmul o | .fdiv o | .fmin o | .fmax o | .fcmp _ o => some (fltNames [o.d] (syncOf o.m o.s))
  | .fsqrt o | .fclass o => some (fltNames [o.d] (syncOf o.m o.s))
  | .fma _ d s _ m | .fcvt _ d s m => some (fltNames [d] (syncOf m s))
  | .vbcast o =>
    some { vecNames [o.d] [] with emptyG := (match o.src with | .reg s q => syncOf q.smod s | .imm _ => []) }
  | .vext o => some { vecNames [] (syncOf o.q.smod o.s) with g := [o.d] }
  | .viota _ d _ => some (vecNames [d] [])
  | .vadd _ o | .vsub _ o | .vmul _ o | .vdiv o | .vmin o | .vmax o | .vand o | .vor o | .vxor o | .vandn o | .vshl o | .vshra o
  | .vshrl o | .vrotl o | .vsel o | .vperm o | .vscal o => some (vecNames [o.d] (syncOf o.q.smod o.s))
  | .vmov o | .vabs _ o | .vneg _ o | .vrcp o | .vrsq o | .vexp2 o | .vlog2 o | .vcvt _ o => some (vecNames [o.d] (syncOf o.q.smod o.s))
  | .vfma o | .vfms o | .vfnma o => some (vecNames [o.d] (syncOf o.q.smod o.s))
  | .vcmp _ o => some { vecNames [] (syncOf o.q.smod o.s) with k := [o.d] }
  | .vslide o => some (vecNames [o.d] (syncOf o.q.smod o.s))
  | .vred _ o => some { vecNames [] (syncOf o.q.smod o.s) with g := [o.d] }
  | .vpack _ o | .vdot4 _ o | .vdot8 _ o | .vdot2 _ o | .vqnt _ o => some (vecNames [o.d] (syncOf o.q.smod o.s))
  | .vunpk _ _ d s q => some (vecNames [d] (syncOf q.smod s))
  | .kop _ d _ _ => some { intNames [] [] with k := [0#3 ++ d] }
  | .kmovToMask d _ | .klow d _ => some { intNames [] [] with k := [0#3 ++ d] }
  | .kmovFromMask d _ | .kpop d _ => some (intNames [d] [])
  | _ => none

/-- From `c` to `c'` no register changes but those of `w`: every other register keeps its value and its bits, `fcs` gains at most flags,
and no other part of the context changes but the pc, the counts of turns, the streams and what the slot waits for. -/
def Names.frame (w : Names) (c c' : Ctx) : Prop :=
  (∀ r : Reg, r ∉ w.g → c'.g[r.toNat] = c.g[r.toNat] ∧ c'.gPend.getLsbD r.toNat = c.gPend.getLsbD r.toNat ∧
    c'.gPoison.getLsbD r.toNat = c.gPoison.getLsbD r.toNat ∧
    (r ∉ w.emptyG → c'.gFull.getLsbD r.toNat = c.gFull.getLsbD r.toNat)) ∧
  (∀ n : Fin 32, BitVec.ofNat 6 n ∉ w.v → c'.v[n] = c.v[n] ∧ c'.vPend.getLsbD n = c.vPend.getLsbD n ∧
    c'.vPoison.getLsbD n = c.vPoison.getLsbD n ∧
    (BitVec.ofNat 6 n ∉ w.emptyV → c'.vFull.getLsbD n = c.vFull.getLsbD n)) ∧
  (∀ n : Fin 8, BitVec.ofNat 6 n ∉ w.k → c'.k[n] = c.k[n] ∧ c'.kPoison.getLsbD n = c.kPoison.getLsbD n) ∧
  (w.fcs = false → c'.fcs = c.fcs) ∧ c'.fcs &&& ~~~0x1F0#64 = c.fcs &&& ~~~0x1F0#64 ∧ c.fcs &&& c'.fcs = c.fcs ∧
  c' = { c with pc := c'.pc, npc := c'.npc, g := c'.g, gFull := c'.gFull, gPend := c'.gPend, gPoison := c'.gPoison, v := c'.v,
                vFull := c'.vFull, vPend := c'.vPend, vPoison := c'.vPoison, k := c'.k, kPoison := c'.kPoison, fcs := c'.fcs,
                ctrs := c'.ctrs, consumed := c'.consumed, att := c'.att, inHand := c'.inHand, wait := c'.wait, bubbled := c'.bubbled, issues := c'.issues,
                streams := c'.streams, bq := c'.bq }

end Sys2Proof.Machine
end

