-- ==== Sys2Proof/Certificates/Slice0/Obligations.lean ====
section
/-!
DEFINITION. The statements for the provers: what the rules of the manual say of the machine.
-/

open Sys2Proof Sys2Proof.Machine

/-! ## Integer, branch and floating-point instructions of the scalar pages -/

/-- R165, R167: each two-operand instruction, in each of its three forms, completes by writing r(x, y) to `g[d]`, where x and y are the
operands that the form reads; the signed instructions read a selected field with its sign (R166). -/
def Obligations.TwoOperandIntegerResults : Prop :=
  ∀ (s u : State) (o : IntBin) (x y : Word), s.namesOk o.regs →
    (intOperands o false s = .ok ((x, y), u) →
      writesG (.add o) s u o.d (x + y) ∧
      writesG (.sub o) s u o.d (x - y) ∧
      writesG (.and o) s u o.d (x &&& y) ∧
      writesG (.or o) s u o.d (x ||| y) ∧
      writesG (.xor o) s u o.d (x ^^^ y) ∧
      writesG (.andn o) s u o.d (x &&& ~~~y) ∧
      writesG (.minn o) s u o.d (if x.toNat ≤ y.toNat then x else y) ∧
      writesG (.maxn o) s u o.d (if y.toNat ≤ x.toNat then x else y) ∧
      writesG (.shl o) s u o.d (x <<< (y.toNat % 64)) ∧
      writesG (.shrl o) s u o.d (x >>> (y.toNat % 64)) ∧
      writesG (.rotl o) s u o.d ((x <<< (y.toNat % 64)) ||| (x >>> (64 - y.toNat % 64))) ∧
      writesG (.mul o) s u o.d (BitVec.ofNat 64 (x.toNat * y.toNat)) ∧
      writesG (.mulhn o) s u o.d (BitVec.ofNat 64 (x.toNat * y.toNat / 2 ^ 64))) ∧
    (intOperands o true s = .ok ((x, y), u) →
      writesG (.min o) s u o.d (if x.toInt ≤ y.toInt then x else y) ∧
      writesG (.max o) s u o.d (if y.toInt ≤ x.toInt then x else y) ∧
      writesG (.shra o) s u o.d (BitVec.ofInt 64 (x.toInt / 2 ^ (y.toNat % 64))) ∧
      writesG (.mulh o) s u o.d (BitVec.ofInt 64 (x.toInt * y.toInt / 2 ^ 64)))

/-- R168: division by zero gives all ones and leaves the dividend as the remainder; −2^63 ÷ −1 gives −2^63 and 0; otherwise the quotient is
truncated towards zero and the remainder completes the division. None of the four traps. -/
def Obligations.IntegerDivision : Prop :=
  ∀ (s u : State) (o : IntBin) (x y : Word), s.namesOk o.regs →
    (intOperands o true s = .ok ((x, y), u) →
      (y = 0 → writesG (.div o) s u o.d (BitVec.allOnes 64) ∧ writesG (.rem o) s u o.d x) ∧
      (x = 0x8000000000000000#64 → y = BitVec.allOnes 64 →
        writesG (.div o) s u o.d x ∧ writesG (.rem o) s u o.d 0) ∧
      (y ≠ 0 → x ≠ 0x8000000000000000#64 ∨ y ≠ BitVec.allOnes 64 → ∃ q r : Word, writesG (.div o) s u o.d q ∧ writesG (.rem o) s u o.d r ∧
        x.toInt = y.toInt * q.toInt + r.toInt ∧ r.toInt.natAbs < y.toInt.natAbs ∧ (r = 0 ∨ r.msb = x.msb))) ∧
    (intOperands o false s = .ok ((x, y), u) →
      (y = 0 → writesG (.divn o) s u o.d (BitVec.allOnes 64) ∧ writesG (.remn o) s u o.d x) ∧
      (y ≠ 0 → ∃ q r : Word, writesG (.divn o) s u o.d q ∧ writesG (.remn o) s u o.d r ∧
        x.toNat = y.toNat * q.toNat + r.toNat ∧ r.toNat < y.toNat))

/-- R169, R170: SEL keeps x where `g[d]` is not zero and y elsewhere, y being 0 in the form without prefixes; CMP writes 1 where its condition
holds and 0 elsewhere, and the inverted form the other way round. -/
def Obligations.SelectAndCompare : Prop :=
  ∀ (s u : State) (o : IntBin) (x y : Word), s.namesOk o.regs →
    (∀ s1 s2 c, readS o.s o.q false s = .ok (x, s1) →
      (match o.src with
        | .imm p => y = immS p 0 0 ∧ s2 = s1
        | .reg t => readG t s1 = .ok (y, s2)
        | .two => y = 0 ∧ s2 = s1) →
      readG o.d s2 = .ok (c, u) → writesG (.sel o) s u o.d (if c = 0 then y else x)) ∧
    (intOperands o false s = .ok ((x, y), u) →
      writesG (.cmp .eq false o) s u o.d (if x = y then 1 else 0) ∧
      writesG (.cmp .eq true o) s u o.d (if x = y then 0 else 1) ∧
      writesG (.cmp .ltn false o) s u o.d (if x.toNat < y.toNat then 1 else 0) ∧
      writesG (.cmp .ltn true o) s u o.d (if x.toNat < y.toNat then 0 else 1)) ∧
    (intOperands o true s = .ok ((x, y), u) →
      writesG (.cmp .lt false o) s u o.d (if x.toInt < y.toInt then 1 else 0) ∧
      writesG (.cmp .lt true o) s u o.d (if x.toInt < y.toInt then 0 else 1) ∧
      writesG (.cmp .le false o) s u o.d (if x.toInt ≤ y.toInt then 1 else 0) ∧
      writesG (.cmp .le true o) s u o.d (if x.toInt ≤ y.toInt then 0 else 1))

/-- R171-R175: MOV copies its operand; CLZ, CTZ and POPC count its leading zero bits, its trailing zero bits and its one bits; and the results of the
extensions, the field instructions, the immediate forms, LEA, BND of a range inside the region, and NOP. A BND whose range does not lie inside
the slot's region changes nothing but takes the trap CONFINE, with the checked address in `taddr` and the length and 16 in `tinfo`. -/
def Obligations.UnaryFieldAndAddressResults : Prop :=
  (∀ (s u : State) (o : IntUn) (a : Word), s.namesOk (o.d :: UnSrc.regs o.src) → unOperand o.src s = .ok (a, u) →
    writesG (.mov o) s u o.d a ∧
    (∃ n, n ≤ 64 ∧ writesG (.clz o) s u o.d (BitVec.ofNat 64 n) ∧ a.toNat < 2 ^ (64 - n) ∧ (n < 64 → 2 ^ (63 - n) ≤ a.toNat)) ∧
    (∃ n, n ≤ 64 ∧ writesG (.ctz o) s u o.d (BitVec.ofNat 64 n) ∧ a.toNat % 2 ^ n = 0 ∧ (n < 64 → a.getLsbD n = true)) ∧
    writesG (.popc o) s u o.d (BitVec.ofNat 64 ((List.range 64).countP (fun i => a.getLsbD i)))) ∧
  ((∀ (s u : State) (o : ExtOp) (a : Word), s.namesOk [o.d, o.s] →
    (readS o.s o.q true s = .ok (a, u) →
      writesG (.sext o) s u o.d (match o.w with
        | .w8 => (a.setWidth 8).signExtend 64
        | .w16 => (a.setWidth 16).signExtend 64
        | .w32 => (a.setWidth 32).signExtend 64)) ∧
    (readS o.s o.q false s = .ok (a, u) →
      writesG (.zext o) s u o.d (BitVec.ofNat 64 (a.toNat % 2 ^ (match o.w with | .w8 => 8 | .w16 => 16 | .w32 => 32))))) ∧
  (∀ (s u : State) (o : RegImm) (x : Word), s.namesOk [o.d] →
    writesG (.movImm o) s s o.d (immS o.p 6 o.i.toNat) ∧
    (readG o.d s = .ok (x, u) → writesG (.addImm o) s u o.d (x + immS o.p 6 o.i.toNat))) ∧
  (∀ (s s1 u : State) (o : FieldOp) (a x : Word), s.namesOk [o.d, o.s] → readS o.s o.q false s = .ok (a, s1) →
    writesG (.extb o) s s1 o.d (BitVec.ofNat 64 (a.toNat / 2 ^ o.pos.toNat % 2 ^ o.wid.toNat)) ∧
    (readG o.d s1 = .ok (x, u) →
      ∃ r : Word, writesG (.insb o) s u o.d r ∧ ∀ i, i < 64 → r.getLsbD i =
        (if o.pos.toNat ≤ i ∧ i < o.pos.toNat + o.wid.toNat then a.getLsbD (i - o.pos.toNat) else x.getLsbD i))) ∧
  (∀ (s s1 u : State) (o : LeaOp) (b i : Word), s.namesOk [o.d, o.s, o.t] → readG o.s s = .ok (b, s1) → readG o.t s1 = .ok (i, u) →
    writesG (.lea o) s u o.d (b + i * BitVec.ofNat 64 (2 ^ o.f.toNat) + immS o.p 0 0)) ∧
  (∀ (s u : State) (d src : Reg) (len : BndLen) (a rb rl : Word), s.namesOk [d, src] → readG src s = .ok (a, u) →
    readG 61 u = .ok (rb, u) → readG 62 u = .ok (rl, u) →
    rb.toNat ≤ a.toNat → a.toNat + bndLen len ≤ rl.toNat → writesG (.bnd d src len) s u d a) ∧
  (∀ s : State, completes .nop s s) ∧
  (∀ (s u : State) (d src : Reg) (len : BndLen) (a rb rl : Word), s.namesOk [d, src] → readG src s = .ok (a, u) →
      readG 61 u = .ok (rb, u) → readG 62 u = .ok (rl, u) → (a.toNat < rb.toNat ∨ rl.toNat < a.toNat + bndLen len) →
      exec (.bnd d src len) s = .next (s.takeTrap .confine a (BitVec.ofNat 64 (bndLen len * 2 ^ 20 + 16 * 2 ^ 12)) false)))

/-- R176-R182: a taken branch goes on at PC + 2 × off, an indirect one at its target, which traps ALIGN when it is odd; CALL and CALLR leave
the address of the next instruction in `lk`; a branch that is not taken goes on at `next_pc`.
The model's own choices in it are those of log 39. -/
def Obligations.BranchTargets : Prop :=
  (∀ (s : State) (i : BitVec 10) (p : Pxi),
    completes (.br i p) s (s.modMe (fun c => { c with npc := branchTo s.me.pc (immS p 10 i.toNat) }))) ∧
  (∀ (s t : State) (i : BitVec 10) (p : Pxi), writeG 63 s.me.npc s = .ok ((), t) →
    completes (.call i p) s (t.modMe (fun c => { c with npc := branchTo t.me.pc (immS p 10 i.toNat) }))) ∧
  (∀ (s u : State) (c : BcCond) (sr : Reg) (i : BitVec 4) (p : Pxi) (a : Word), s.namesOk [sr] → readG sr s = .ok (a, u) →
    completes (.bc c sr i p) s
      (if (match c with
          | .z => decide (a = 0)
          | .nz => decide (a ≠ 0)
          | .lz => decide (a.toInt < 0)
          | .gez => decide (0 ≤ a.toInt))
        then u.modMe (fun k => { k with npc := branchTo u.me.pc (immS p 4 i.toNat) }) else u)) ∧
  (∀ (s s1 u : State) (c : BcmpCond) (d sr : Reg) (p : Pxi) (x y : Word), s.namesOk [d, sr] → readG sr s = .ok (y, s1) →
    readG d s1 = .ok (x, u) →
    completes (.bcmp c d sr p) s
      (if (match c with
          | .eq => decide (x = y)
          | .ne => decide (x ≠ y)
          | .lt => decide (x.toInt < y.toInt)
          | .ltn => decide (x.toNat < y.toNat))
        then u.modMe (fun k => { k with npc := branchTo u.me.pc (immS p 0 0) }) else u)) ∧
  (∀ (s u t : State) (sr : Reg) (a : Word), s.namesOk [sr] → readG sr s = .ok (a, u) →
    (a.getLsbD 0 = false → a.toNat < 2 ^ 56 →
      completes (.jmp sr) s (u.modMe (fun c => { c with npc := a })) ∧
      (writeG 63 s.me.npc u = .ok ((), t) → completes (.callr sr) s (t.modMe (fun c => { c with npc := a })))) ∧
    (a.getLsbD 0 = true ∨ 2 ^ 56 ≤ a.toNat →
      exec (.jmp sr) s = .next (s.takeTrap .align a (accInfo 17 8 false) false) ∧
      exec (.callr sr) s = .next (s.takeTrap .align a (accInfo 17 8 false) false))) ∧
  (∀ (s u : State) (a : Word), readG 63 s = .ok (a, u) →
    (a.getLsbD 0 = false → a.toNat < 2 ^ 56 → completes .ret s (u.modMe (fun c => { c with npc := a }))) ∧
    (a.getLsbD 0 = true ∨ 2 ^ 56 ≤ a.toNat → exec .ret s = .next (s.takeTrap .align a (accInfo 17 8 false) false))) ∧
  (∀ (s u : State) (sense : Bool) (i : BitVec 9) (p : Pxi) (b : Word), s.atAnchor → readG 60 s = .ok (b, u) →
    completes (.bqb sense i p) s
      (if b.getLsbD 0 = sense then u.modMe (fun c => { c with npc := branchTo u.me.pc (immS p 9 i.toNat) }) else u))

/-- R187-R189: the binary floating-point instructions write their result, zero-extended, and OR the flags that it raises into `fcs`; the
arithmetic ones round once in the mode of `fcs.rm`.
R188, R191, R192: FMA rounds s × t + d once; FSQRT, FCLASS and FCVT of one operand.
The model's own choices in it are those of log 13 and log 75. -/
def Obligations.ScalarFloatResults : Prop :=
  (∀ (s u : State) (o : FBin) (x y : Nat), s.namesOk [o.d, o.s, o.src.getD 0] → fltOperands o s = .ok ((x, y), u) →
    let f := fmtS o.dbl
    writesF (.fadd o) s u o.d (f.add u.me.rm x y) ∧
    writesF (.fsub o) s u o.d (f.sub u.me.rm x y) ∧
    writesF (.fmul o) s u o.d (f.mul u.me.rm x y) ∧
    writesF (.fdiv o) s u o.d (f.div u.me.rm x y) ∧
    writesF (.fmin o) s u o.d (f.minmax false x y) ∧
    writesF (.fmax o) s u o.d (f.minmax true x y) ∧
    ∀ c, writesF (.fcmp c o) s u o.d ((f.compare c x y).1.toNat, (f.compare c x y).2)) ∧
  ((∀ (s s1 s2 u : State) (dbl : Bool) (d src t : Reg) (m : SMod) (p : Nat) (q c : Word), s.namesOk [d, src, t] →
    readF dbl src m s = .ok (p, s1) → readG t s1 = .ok (q, s2) → readG d s2 = .ok (c, u) →
    writesF (.fma dbl d src t m) s u d ((fmtS dbl).fma u.me.rm false false p (bitsS dbl q) (bitsS dbl c))) ∧
  (∀ (s u : State) (o : FUn) (a : Nat), s.namesOk [o.d, o.s] → readF o.dbl o.s o.m s = .ok (a, u) →
    writesF (.fsqrt o) s u o.d ((fmtS o.dbl).sqrt u.me.rm a) ∧
    writesF (.fclass o) s u o.d (2 ^ (fmtS o.dbl).cls a, 0)) ∧
  (∀ (s u : State) (k : CvtKind) (d src : Reg) (m : SMod) (x : Word), s.namesOk [d, src] →
    (if m = .sync then readSync src else readG src) s = .ok (x, u) →
    ∀ t, writeG d (cvt k u.me.rm m x).1 u = .ok ((), t) →
      completes (.fcvt k d src m) s (t.modMe (fun c => { c with fcs := c.fcs ||| (cvt k u.me.rm m x).2 }))))


/-! ## The vector instructions -/

/-- R195-R197, R200, R202, R204, R212: the two-operand lane instructions complete by writing, in each enabled lane, the element results:
rounded once in the mode of `fcs.rm` with their flags on floating types, exact and then wrapped (or clamped under `.sat`) on integer types.
R199, R201, R202, R208, R209: the lane instructions of one and of three operands.
The model's own choices in it are those of log 5, log 13 and log 75. -/
def Obligations.VectorArithmeticResults : Prop :=
  (∀ (s s1 u : State) (o : VBin) (x y : VWord) (k : BitVec 16), s.atAnchor → vecOperands o s = .ok ((x, y), s1) →
    readK o.q.mask s1 = .ok (k, u) →
    let f := fmtOfTy o.ty
    let flt (i : Instr) (g : Nat → Nat → Nat × Word) : Prop :=
      o.ty.isFloat = true → writesVF i s u o.d k (lanewise2 o.ty k x y (fun a b => ((BitVec.ofNat 32 (g a.toNat b.toNat).1), (g a.toNat b.toNat).2)))
    let int (i : Instr) (g : Int → Int → Int) : Prop :=
      o.ty.isFloat = false → writesVF i s u o.d k (lanewise2 o.ty k x y (fun a b => (BitVec.ofInt 32 (g (elemInt o.ty a) (elemInt o.ty b)), 0)))
    let sat (g : Int → Int → Int) (a b : Int) : Int := max (tyMin o.ty) (min (tyMax o.ty) (g a b))
    let bits (i : Instr) (g : BitVec 32 → BitVec 32 → BitVec 32) : Prop :=
      writesVF i s u o.d k (lanewise2 o.ty k x y (fun a b => (g a b, 0)))
    flt (.vadd false o) (f.add u.me.rm) ∧ int (.vadd false o) (· + ·) ∧ int (.vadd true o) (sat (· + ·)) ∧
    flt (.vsub false o) (f.sub u.me.rm) ∧ int (.vsub false o) (· - ·) ∧ int (.vsub true o) (sat (· - ·)) ∧
    flt (.vmul false o) (f.mul u.me.rm) ∧ int (.vmul false o) (· * ·) ∧ int (.vmul true o) (sat (· * ·)) ∧
    flt (.vdiv o) (f.div u.me.rm) ∧ int (.vdiv o) (fun a b => if b = 0 then -1 else a.tdiv b) ∧
    flt (.vmin o) (f.minmax false) ∧ int (.vmin o) min ∧
    flt (.vmax o) (f.minmax true) ∧ int (.vmax o) max ∧
    bits (.vand o) (· &&& ·) ∧ bits (.vor o) (· ||| ·) ∧ bits (.vxor o) (· ^^^ ·) ∧ bits (.vandn o) (fun a b => a &&& ~~~b) ∧
    bits (.vshl o) (fun a b => a <<< (b.toNat % o.ty.width)) ∧
    bits (.vshrl o) (fun a b => a >>> (b.toNat % o.ty.width)) ∧
    bits (.vshra o) (fun a b => ((a.setWidth o.ty.width).signExtend 32).sshiftRight (b.toNat % o.ty.width)) ∧
    bits (.vrotl o) (fun a b => ((a.setWidth o.ty.width).rotateLeft (b.toNat % o.ty.width)).setWidth 32) ∧
    writesVF (.vscal o) s u o.d k (lanewise2 o.ty k x y (fun a b =>
      (BitVec.ofNat 32 (scalB u.me.rm a b.toInt).1, (scalB u.me.rm a b.toInt).2)))) ∧
  ((∀ (s s1 u : State) (o : VUn) (x : VWord) (k : BitVec 16), s.atAnchor → readVS o.ty o.s o.q s = .ok (x, s1) →
    readK o.q.mask s1 = .ok (k, u) →
    let un (i : Instr) (g : BitVec 32 → BitVec 32 × Word) : Prop := writesVF i s u o.d k (lanewise1 o.ty k x g)
    let code (r : Nat × Word) : BitVec 32 × Word := (BitVec.ofNat 32 r.1, r.2)
    un (.vmov o) (fun a => (a, 0)) ∧
    (o.ty.isFloat = true → un (.vabs false o) (fun a => (a &&& ~~~(BitVec.ofNat 32 (2 ^ (o.ty.width - 1))), 0)) ∧
      un (.vneg false o) (fun a => (a ^^^ BitVec.ofNat 32 (2 ^ (o.ty.width - 1)), 0))) ∧
    (o.ty.isFloat = false → o.ty.isSigned = false → ∀ sat, un (.vabs sat o) (fun a => (a, 0)) ∧ un (.vneg sat o) (fun a => (a, 0))) ∧
    (o.ty.isFloat = false → o.ty.isSigned = true →
      un (.vabs false o) (fun a => (BitVec.ofInt 32 (elemInt o.ty a).natAbs, 0)) ∧
      un (.vneg false o) (fun a => (BitVec.ofInt 32 (-(elemInt o.ty a)), 0)) ∧
      un (.vabs true o) (fun a => (BitVec.ofInt 32 (min (tyMax o.ty) (elemInt o.ty a).natAbs), 0)) ∧
      un (.vneg true o) (fun a => (BitVec.ofInt 32 (min (tyMax o.ty) (-(elemInt o.ty a))), 0))) ∧
    un (.vrcp o) (fun a => code (approxRcp a.toNat)) ∧ un (.vrsq o) (fun a => code (approxRsq a.toNat)) ∧
    un (.vexp2 o) (fun a => code (approxExp2 a.toNat)) ∧ un (.vlog2 o) (fun a => code (approxLog2 a.toNat)) ∧
    ∀ dst, un (.vcvt dst o) (vcvtElem o.ty dst u.me.rm)) ∧
  (∀ (s s1 s2 s3 u : State) (o : VTri) (p q c : VWord) (k : BitVec 16), s.atAnchor → readVS o.ty o.s o.q s = .ok (p, s1) →
    readV o.t s1 = .ok (q, s2) → readV o.d s2 = .ok (c, s3) → readK o.q.mask s3 = .ok (k, u) →
    let fused (i : Instr) (np nc : Bool) (g : Int → Int → Int → Int) : Prop :=
      writesVF i s u o.d k (lanewise3 o.ty k p q c (fun x y z =>
        if o.ty.isFloat then
          (BitVec.ofNat 32 ((fmtOfTy o.ty).fma u.me.rm np nc x.toNat y.toNat z.toNat).1, ((fmtOfTy o.ty).fma u.me.rm np nc x.toNat y.toNat z.toNat).2)
        else (BitVec.ofInt 32 (g (elemInt o.ty x) (elemInt o.ty y) (elemInt o.ty z)), 0)))
    fused (.vfma o) false false (fun x y z => x * y + z) ∧ fused (.vfms o) false true (fun x y z => x * y - z) ∧
    fused (.vfnma o) true false (fun x y z => z - x * y)))

/-- R199, R205-R207: broadcast, extract, index, select, permute, slide, compare and reduce. -/
def Obligations.VectorLaneMovementAndReduction : Prop :=
  (∀ (s u : State) (o : VBcastOp) (p : Pxi) (k : BitVec 16), s.atAnchor → o.src = .imm p → readK o.mask s = .ok (k, u) →
    writesV (.vbcast o) s u o.d k (broadcast o.ty (immS p 0 0))) ∧
  (∀ (s s1 u : State) (o : VBcastOp) (r : Reg) (q : Pxs) (x : Word) (k : BitVec 16), s.atAnchor → o.src = .reg r q →
    (if q.smod = .sync then readSync r else readG r) s = .ok (x, s1) → readK o.mask s1 = .ok (k, u) →
    writesV (.vbcast o) s u o.d k (broadcast o.ty
      ((modElem o.ty q.smod ((selectG q.sel o.ty.isSigned x).setWidth 32 &&& BitVec.ofNat 32 (2 ^ o.ty.width - 1))).setWidth 64))) ∧
  (∀ (s u : State) (o : VExtOp) (x : VWord), s.atAnchor → readVS o.ty o.s o.q s = .ok (x, u) →
    writesG (.vext o) s u o.d (if o.ty.isSigned then (lane x o.lane.toNat).signExtend 64 else (lane x o.lane.toNat).setWidth 64)) ∧
  (∀ (s u : State) (ty : VTy) (d : Reg) (mask : BitVec 3) (k : BitVec 16), s.atAnchor → readK mask s = .ok (k, u) →
    writesV (.viota ty d mask) s u d k (genLanes (fun i => genElems ty (fun j =>
      if ty.isFloat then BitVec.ofNat 32 ((fmtOfTy ty).ofInt .rne ((i * ty.count + j : Nat) : Int)).1 else BitVec.ofNat 32 (i * ty.count + j))))) ∧
  (∀ (s s1 s2 u : State) (o : VBin) (x y : VWord) (k : BitVec 16), s.atAnchor → readVS o.ty o.s o.q s = .ok (x, s1) →
    (match o.src with
      | .reg t => readV t s1 = .ok (y, s2)
      | .two => readV o.d s1 = .ok (y, s2)
      | .imm p => y = broadcast o.ty (immS p 0 0) ∧ s2 = s1) →
    readK o.q.mask s2 = .ok (k, u) →
    writesV (.vsel o) s u o.d (BitVec.allOnes 16) (genLanes (fun i => if k.getLsbD i then lane x i else lane y i))) ∧
  (∀ (s s1 u : State) (o : VBin) (x y : VWord) (k : BitVec 16), s.atAnchor → (∀ p, o.src ≠ .imm p) → vecOperands o s = .ok ((x, y), s1) →
    readK o.q.mask s1 = .ok (k, u) →
    writesV (.vperm o) s u o.d k (genLanes (fun i => lane x ((lane y i).toNat % 16)))) ∧
  (∀ (s s1 u : State) (o : VBin) (p : Pxi) (x : VWord) (k : BitVec 16), s.atAnchor → o.src = .imm p → readVS o.ty o.s o.q s = .ok (x, s1) →
    readK o.q.mask s1 = .ok (k, u) →
    writesV (.vperm o) s u o.d k (genLanes (fun _ => lane x ((immS p 0 0).toNat % 16)))) ∧
  (∀ (s s1 s2 u : State) (o : VSlideOp) (x y : VWord) (k : BitVec 16), s.atAnchor → readVS o.ty o.s o.q s = .ok (x, s1) →
    readV o.t s1 = .ok (y, s2) → readK o.q.mask s2 = .ok (k, u) →
    writesV (.vslide o) s u o.d k
      (genLanes (fun i => if i + o.n.toNat ≤ 15 then lane x (i + o.n.toNat) else lane y (i + o.n.toNat - 16)))) ∧
  (∀ (s s1 u : State) (c : VcmpCond) (o : VBin) (x y : VWord) (k : BitVec 16), s.atAnchor → vecOperands o s = .ok ((x, y), s1) →
    readK o.q.mask s1 = .ok (k, u) →
    ∃ t : State, completes (.vcmp c o) s t ∧ t.me.g = u.me.g ∧ t.me.v = u.me.v ∧
      ∀ i, i < 16 → (t.me.k[(o.d.extractLsb' 0 3).toNat]).getLsbD i =
        (k.getLsbD i && (List.range o.ty.count).all (fun j => (vcmpElem o.ty c (elemOf o.ty (lane x i) j) (elemOf o.ty (lane y i) j)).1))) ∧
  (∀ (s s1 u : State) (op : VredOp) (o : VUn) (x : VWord) (k : BitVec 16), s.atAnchor → readVS o.ty o.s o.q s = .ok (x, s1) →
    readK o.q.mask s1 = .ok (k, u) →
    (o.ty.isFloat = true → writesF (.vred op o) s u o.d (vredF op u.me.rm k x)) ∧
    (o.ty = .s32 → writesG (.vred op o) s u o.d ((BitVec.ofInt 32 (vredI op .s32 k x)).signExtend 64)) ∧
    (o.ty = .n32 → writesG (.vred op o) s u o.d ((BitVec.ofInt 32 (vredI op .n32 k x)).setWidth 64)))

/-- R210, R211, R213, R214: packing, unpacking, the lane dot products and quantisation.
The model's own choices in it are those of log 75. -/
def Obligations.VectorPackDotAndQuantise : Prop :=
  (∀ (s s1 s2 u : State) (f : PackFmt) (o : Tri) (a b : VWord) (k : BitVec 16), s.atAnchor → readVS (packInfo f).1 o.s o.q s = .ok (a, s1) →
    readV o.t s1 = .ok (b, s2) → readK o.q.mask s2 = .ok (k, u) →
    let w := (packInfo f).2
    let one (j : Nat) : Nat × Word := if j < 32 then packElem f u.me.rm (if j < 16 then lane a j else lane b (j - 16)) else (0, 0)
    writesVF (.vpack f o) s u o.d k (onLanes k (fun i =>
      (BitVec.ofNat 32 (((List.range (32 / w)).map (fun j => (one (i * (32 / w) + j)).1 * 2 ^ (w * j))).sum),
       (List.range (32 / w)).foldl (fun x j => x ||| (one (i * (32 / w) + j)).2) 0)))) ∧
  (∀ (s s1 u : State) (f : UnpkFmt) (part : BitVec 3) (d sr : Reg) (q : Pxs) (a : VWord) (k : BitVec 16), s.atAnchor →
    readVS (unpkInfo f).2 sr q s = .ok (a, s1) → readK q.mask s1 = .ok (k, u) →
    writesVF (.vunpk f part d sr q) s u d k (onLanes k (fun i =>
      unpkElem f (a.toNat / 2 ^ ((unpkInfo f).1 * (16 * part.toNat + i)) % 2 ^ (unpkInfo f).1)))) ∧
  (∀ (s s1 s2 s3 u : State) (o : Tri) (ty : VTy) (p q c : VWord) (k : BitVec 16), s.atAnchor → readVS ty o.s o.q s = .ok (p, s1) →
    readV o.t s1 = .ok (q, s2) → readV o.d s2 = .ok (c, s3) → readK o.q.mask s3 = .ok (k, u) →
    let int (i : Instr) (sx : Bool) (n w : Nat) : Prop :=
      let el (x : BitVec 32) (j : Nat) : Int := let v := BitVec.ofNat w (x.toNat / 2 ^ (w * j)); if sx then v.toInt else (v.toNat : Int)
      writesV i s u o.d k (genLanes (fun i =>
        lane c i + BitVec.ofInt 32 (((List.range n).map (fun j => el (lane p i) j * el (lane q i) j)).foldl (· + ·) 0)))
    let flt (i : Instr) (f : FFmt) (n : Nat) : Prop :=
      let el (x : BitVec 32) (j : Nat) : Fp := (fmtOf f).dec (x.toNat / 2 ^ (32 / n * j) % 2 ^ (32 / n))
      writesVF i s u o.d k (onLanes k (fun i =>
        let ps := (List.range n).map (fun j => (el (lane p i) j).mul (el (lane q i) j))
        let r := (fmtOf .f32).sum u.me.rm (ps.map Prod.fst ++ [(fmtOf .f32).dec (lane c i).toNat]) (ps.any Prod.snd)
        (BitVec.ofNat 32 r.1, r.2)))
    (ty = .s8x4 → int (.vdot4 .s8 o) true 4 8 ∧ int (.vdot8 .s4 o) true 8 4) ∧
    (ty = .n8x4 → int (.vdot4 .n8 o) false 4 8) ∧
    (ty = .s16x2 → int (.vdot2 .s16 o) true 2 16) ∧
    (ty = .f32 → flt (.vdot4 .e4m3 o) .e4m3 4 ∧ flt (.vdot4 .e5m2 o) .e5m2 4 ∧ flt (.vdot8 .e2m1 o) .e2m1 8) ∧
    (ty = .bf16x2 → flt (.vdot2 .bf16 o) .bf16 2) ∧
    (ty = .f16x2 → flt (.vdot2 .f16 o) .f16 2)) ∧
  (∀ (s s1 u : State) (f : QntFmt) (o : Tri) (a b : VWord), s.atAnchor → readVS .f32 o.s o.q s = .ok (a, s1) → readV o.t s1 = .ok (b, u) →
    let r := quantise f ((List.range 16).map (fun i => (lane a i).toNat) ++ (List.range 16).map (fun i => (lane b i).toNat))
    writesVF (.vqnt f o) s u o.d (BitVec.allOnes 16) (BitVec.ofNat 512 (ofBytes r.1), r.2))

/-- R217, R218: the mask instructions. -/
def Obligations.MaskResults : Prop :=
  ∀ (s : State), s.atAnchor →
    (∀ (s1 u : State) (op : KopOp) (d sr : BitVec 3) (t : Option (BitVec 3)) (a b : BitVec 16),
      readK (match t with | none => d | some _ => sr) s = .ok (a, s1) → readK (match t with | none => sr | some y => y) s1 = .ok (b, u) →
      ∃ w : State, completes (.kop op d sr t) s w ∧
        w.me.k[d.toNat] = (match op with | .and => a &&& b | .or => a ||| b | .xor => a ^^^ b | .andn => a &&& ~~~b) ∧
        ∀ j : Fin 8, j.val ≠ d.toNat → w.me.k[j] = u.me.k[j]) ∧
    (∀ (u : State) (d : BitVec 3) (sr : Reg) (x : Word), readG sr s = .ok (x, u) →
      (∃ w : State, completes (.kmovToMask d sr) s w ∧ w.me.k[d.toNat] = x.setWidth 16) ∧
      (∃ w : State, completes (.klow d sr) s w ∧ ∀ i, i < 16 → (w.me.k[d.toNat]).getLsbD i = decide (i < x.toNat))) ∧
    (∀ (u : State) (d : Reg) (sr : BitVec 3) (x : BitVec 16), readK sr s = .ok (x, u) →
      writesG (.kmovFromMask d sr) s u d (x.setWidth 64) ∧
      writesG (.kpop d sr) s u d (BitVec.ofNat 64 ((List.range 16).countP (fun i => x.getLsbD i))))

/-! ## Loads, stores and full/empty operations -/

/-- R121, R125, R126: a load or a store of main memory, aligned and allowed, issues: its counter rises by one, the load's destination becomes
pending and empty, and a request with the address, the size and the data goes to the slice of the address. No byte of memory changes at
issue. A load that hits the L1 copy of the core, with no earlier load of its thread to the line under way, is answered from the copy.
The model's own choices in it are those of log 26. -/
def Obligations.MainMemoryAccessIssues : Prop :=
  (∀ (s u : State) (m : MemOp) (q : LoadQ) (a : Nat), s.namesOk [m.d, m.b, m.t] → memEa m s = .ok (a, u) → a % m.size = 0 →
    regionOf u.part a = .main → u.me.allows a m.size rightsLd = true → u.me.ld < 63 → freeG m.d u = .ok ((), u) →
    ∃ t : State, completes (.ld m q) s t ∧ t.me.ld = u.me.ld + 1 ∧ t.me.g = u.me.g ∧ t.mem = s.mem ∧
      (m.d ≠ 0 → isPort m.d = false → t.me.gPend.getLsbD m.d.toNat = true ∧ t.me.gFull.getLsbD m.d.toNat = false) ∧
      t.me.wait = (if q.acq then .reply else u.me.wait) ∧
      (((q.fresh || q.acq) = true ∨ u.l1Find u.me.core u.me.ptag u.me.key (a / 128) = none) →
        t.loads = u.loads ∧ ∃ r, t.sliceQ = u.sliceQ ++ [r] ∧ r.addr = a ∧ r.size = m.size ∧ r.slice = u.sliceOf a ∧ r.cid = u.me.cid ∧
          r.op = .load m.d q.sx) ∧
      (∀ e, (q.fresh || q.acq) = false → u.l1Find u.me.core u.me.ptag u.me.key (a / 128) = some e →
        u.sliceQ.any (fun r => r.cid == u.me.cid && r.addr / 128 == a / 128) = false →
        t.sliceQ = u.sliceQ ∧ ∃ r, t.loads = u.loads ++ [r] ∧ r.cid = u.me.cid ∧
          r.val = .g m.d (extend q.sx m.size (ofBytes (slice e.data (a % 128) m.size))))) ∧
  (∀ (s s1 u : State) (m : MemOp) (rel : Bool) (a : Nat) (x : Word), s.namesOk [m.d, m.b, m.t] → memEa m s = .ok (a, s1) →
    a % m.size = 0 → regionOf s1.part a = .main → s1.me.allows a m.size rightsSt = true →
    (rel = true → s1.me.ld = 0 ∧ s1.me.st = 0) → readG m.d s1 = .ok (x, u) → u.me.st < 63 →
    ∃ t : State, completes (.st m rel) s t ∧ t.me.st = u.me.st + 1 ∧ t.mem = s.mem ∧ t.me.g = u.me.g ∧
      ∃ r, t.sliceQ.getLast? = some r ∧ t.sliceQ.length = u.sliceQ.length + 1 ∧ r.addr = a ∧ r.size = m.size ∧ r.cid = u.me.cid ∧
        r.op = .store x (u.fijArmed u.me.cid))

/-- R83, R87, R119: a load or a store of tile space, of the vault window or of control space, aligned, completes in its turn; what it reads and
writes is what its unit answers.
The model's own choices in it are those of log 25 and log 69. -/
def Obligations.TileAndControlAccessCompletes : Prop :=
  (∀ (s s1 u : State) (m : MemOp) (q : LoadQ) (a : Nat) (g : Region) (b : List Byte), s.namesOk [m.d, m.b, m.t] → memEa m s = .ok (a, s1) →
    a % m.size = 0 → regionOf s1.part a = g → regionWhy g true = none → g ≠ .main →
    (match g with
      | .control off => b = s1.ctlBytes (s1.privileged s1.me) s1.me.tenid s1.me.ptag off m.size ∧ u = s1
      | _ => roomG m.d s1 = .ok ((), s1) ∧ tileBytes s g 0 a m.size s1 = .ok (b, u)) →
    writesG (.ld m q) s u m.d (extend q.sx m.size (ofBytes b))) ∧
  (∀ (s s1 s2 : State) (m : MemOp) (rel : Bool) (a : Nat) (g : Region) (x : Word), s.namesOk [m.d, m.b, m.t] →
    memEa m s = .ok (a, s1) → a % m.size = 0 → regionOf s1.part a = g → regionWhy g true = none → g ≠ .main →
    (rel = true → s1.me.ld = 0 ∧ s1.me.st = 0) → readG m.d s1 = .ok (x, s2) →
    (match g with
      | .control off => completes (.st m rel) s (if m.size = 8 then s2.ctlStore (s2.privileged s2.me) s2.me.tenid off x else s2)
      | _ => ∀ u, tileWrite s g 1 a (fun b => storeUpds ((List.range m.size).map (b + ·) |>.zip (toBytes m.size x.toNat))) s2 = .ok ((), u) →
          completes (.st m rel) s u))

/-- R118, R119, R123: a scalar access whose address is not a multiple of its size traps ALIGN, with the address in `taddr`; an aligned one whose
address is malformed, in a host window, or (for the full/empty operations) in control space traps CONFINE with `why` 1, 2 or 6. -/
def Obligations.MemoryAccessTraps : Prop :=
  ∀ (s u : State) (m : MemOp) (a : Nat), s.namesOk [m.d, m.b, m.t] → memEa m s = .ok (a, u) →
    (a % m.size ≠ 0 →
      (∀ q, exec (.ld m q) s = .next (s.takeTrap .align (BitVec.ofNat 64 a) (accInfo 0 8 false) false) ∧
        exec (.ldw m q) s = .next (s.takeTrap .align (BitVec.ofNat 64 a) (accInfo 2 8 false) false) ∧
        exec (.ldt m q) s = .next (s.takeTrap .align (BitVec.ofNat 64 a) (accInfo 3 8 false) false)) ∧
      (∀ r, exec (.st m r) s = .next (s.takeTrap .align (BitVec.ofNat 64 a) (accInfo 1 8 false) false) ∧
        exec (.stf m r) s = .next (s.takeTrap .align (BitVec.ofNat 64 a) (accInfo 4 8 false) false))) ∧
    (a % m.size = 0 → ∀ why, regionWhy (regionOf u.part a) true = some why →
      (∀ q, exec (.ld m q) s = .next (s.takeTrap .confine (BitVec.ofNat 64 a) (accInfo 0 why false) false)) ∧
      (∀ r, exec (.st m r) s = .next (s.takeTrap .confine (BitVec.ofNat 64 a) (accInfo 1 why false) false))) ∧
    (a % m.size = 0 → ∀ why, regionWhy (regionOf u.part a) false = some why →
      (∀ q, exec (.ldw m q) s = .next (s.takeTrap .confine (BitVec.ofNat 64 a) (accInfo 2 why false) false) ∧
        exec (.ldt m q) s = .next (s.takeTrap .confine (BitVec.ofNat 64 a) (accInfo 3 why false) false)) ∧
      (∀ r, exec (.stf m r) s = .next (s.takeTrap .confine (BitVec.ofNat 64 a) (accInfo 4 why false) false)))

/-- R127-R129: LDW, LDT, STF and FEQ, aligned and allowed, complete in their turn once the unit of their location performs them, and write what
it answers.
The model's own choices in it are those of log 25. -/
def Obligations.FullEmptyInstructionsComplete : Prop :=
  (∀ (s s1 u : State) (m : MemOp) (q : LoadQ) (a : Nat) (y : Word × Word), s.namesOk [m.d, m.b, m.t] → memEa m s = .ok (a, s1) →
    a % m.size = 0 → regionWhy (regionOf s1.part a) false = none →
    (regionOf s1.part a = .main → s1.me.allows a m.size { rightsLd with fe := true } = true) → roomG m.d s1 = .ok ((), s1) →
    let fin (i : Instr) : Prop := ∀ t, writeG m.d y.1 u = .ok ((), t) → completes i s (if q.acq then t.acquire t.me.core else t)
    (locOp s (regionOf s1.part a) (s.homeReq (.ldw m.d q.sx q.acq) a m.size 2 (popsOf [m.b, m.t])) s1 = .ok (y, u) → fin (.ldw m q)) ∧
    (locOp s (regionOf s1.part a) (s.homeReq (.ldt m.d q.sx q.acq) a m.size 3 (popsOf [m.b, m.t])) s1 = .ok (y, u) → fin (.ldt m q))) ∧
  (∀ (s s1 s2 u : State) (m : MemOp) (rel : Bool) (a : Nat) (x : Word) (y : Word × Word), s.namesOk [m.d, m.b, m.t] →
    memEa m s = .ok (a, s1) → a % m.size = 0 → regionWhy (regionOf s1.part a) false = none →
    (regionOf s1.part a = .main → s1.me.allows a m.size { rightsSt with fe := true } = true) →
    (rel = true → s1.me.ld = 0 ∧ s1.me.st = 0) → readG m.d s1 = .ok (x, s2) →
    locOp s (regionOf s1.part a) (s.homeReq (.stf x) a m.size 4 (popsOf [m.b, m.t, m.d])) s2 = .ok (y, u) →
    completes (.stf m rel) s u) ∧
  (∀ (s s1 u : State) (d sr : Reg) (x : Word) (y : Word × Word), s.namesOk [d, sr] → readG sr s = .ok (x, s1) →
    let a := x.toNat % 2 ^ 56
    a % 16 = 0 → regionWhy (regionOf s1.part a) false = none →
    (regionOf s1.part a = .main → s1.me.allows a 16 { rightsLd with fe := true } = true) → roomG d s1 = .ok ((), s1) →
    locOp s (regionOf s1.part a) (s.homeReq (.feq d) a 16 6 (popsOf [sr])) s1 = .ok (y, u) →
    writesG (.feq d sr) s u d y.1)

/-- R127: an LDW reads its location and leaves it full; an LDT reads it and leaves it empty; an STF writes it and leaves it full; the
condition is that LDW and LDT find the granule full and STF finds it empty. R129: FEQ reads the granule's state and poison. R128: FEMARK
sets the granules that it names. R265: an atomic writes the new value and answers the old one.
R120, R127: an operation on a location of main memory whose home can perform it now, and whose condition holds, is performed in the
turn; one whose condition does not hold waits in the home's list, and its slot parks. The bytes of memory are as said where no snapshot has
pages copied.
The model's own choices in it are those of log 25. -/
def Obligations.LocationOperationsAtTheHome : Prop :=
  (∀ (s : State) (key a n : Nat),
    let old := ofBytes (s.rdDev key a n)
    (∀ d sx acq, (HomeOp.ldw d sx acq).ready = id ∧ (s.perform (.ldw d sx acq) key a n).s = s ∧
      (s.perform (.ldw d sx acq) key a n).y = extend sx n old) ∧
    (∀ d sx acq, (HomeOp.ldt d sx acq).ready = id ∧ (s.perform (.ldt d sx acq) key a n).s.isFull (a / 16) = false ∧
      (s.perform (.ldt d sx acq) key a n).y = extend sx n old) ∧
    (∀ x, (HomeOp.stf x).ready = not ∧ (s.perform (.stf x) key a n).s.isFull (a / 16) = true) ∧
    (∀ d, (s.perform (.feq d) key a n).s = s ∧
      (s.perform (.feq d) key a n).y = BitVec.ofNat 64 ((s.isFull (a / 16)).toNat + 2 * (s.isPoison a).toNat)) ∧
    (∀ k full i, i < k → (s.perform (.femark k full) key a n).s.isFull (a / 16 + i) = full) ∧
    (∀ op w acq d x, (s.perform (.amo op w acq d x) key a n).y = BitVec.ofNat 64 old) ∧
    (∀ w acq d e x, (s.perform (.cas w acq d e x) key a n).y = BitVec.ofNat 64 old ∧
      (s.perform (.cas w acq d e x) key a n).s.mem =
        (s.wrDev key a (toBytes n (if old = e.toNat % 256 ^ n then x.toNat else old))).mem) ∧
    (s.noSnap = true →
      (∀ d sx acq, (s.perform (.ldt d sx acq) key a n).s.mem = s.mem) ∧
      (∀ k full, (s.perform (.femark k full) key a n).s.mem = s.mem) ∧
      (∀ x, (s.perform (.stf x) key a n).s.mem = (s.wrDev key a (toBytes n x.toNat)).mem) ∧
      (∀ op w acq d x, (s.perform (.amo op w acq d x) key a n).s.mem =
        (s.wrDev key a (toBytes n (atNew op w old (x.toNat % 256 ^ n)).1)).mem) ∧
      (∀ op w x, s.isPoison a = false → (s.perform (.rupd op w x) key a n).s.mem =
        (s.wrDev key a (toBytes n (atNew op w old (x.toNat % 256 ^ n)).1)).mem))) ∧
  (∀ (s0 s : State) (r : HomeReq), s.routeClear r.core r.addr = true → s.refused46 r.ptag r.addr = false →
    (r.op.changes = true → s.sealedAt r.addr r.span = false) →
    let h := (s.l1Kills r).homeReady r.addr r.op.changes
    h.1 = true → (r.op.traps = true → h.2.isPoison r.addr = false) →
    (r.op.ready (h.2.isFull (r.addr / 16)) = true →
      let z := h.2.perform r.op r.key r.addr r.size
      homeOp s0 r s = .ok ((z.y, z.fl), z.s.serveHomes z.grans)) ∧
    (r.op.ready (h.2.isFull (r.addr / 16)) = false → ∃ t : State, homeOp s0 r s = .error (.go t) ∧ (s0.noSnap = true → t.mem = s0.mem)))

/-- R128, R130-R132, R138: FEMARK, PFT, FENCE, WAITC and CINV.
The model's own choices in it are those of log 16 and log 50. -/
def Obligations.MarksFencesAndCacheControl : Prop :=
  (∀ (s s1 u : State) (d sr : Reg) (x n : Word) (full : Bool), s.namesOk [d, sr] → readG sr s = .ok (x, s1) →
    (if d = 0 then n = 1 ∧ u = s1 else readG d s1 = .ok (n, u)) →
    let a := x.toNat % 2 ^ 56
    let i := if full then Instr.femarkFull d sr else Instr.femarkEmpty d sr
    0 < n.toNat → n.toNat ≤ 256 → a % 4096 + 16 * n.toNat ≤ 4096 → a % 16 = 0 →
    (regionOf u.part a = .main → u.me.allows a (16 * n.toNat) { rightsSt with fe := true } = true →
      u.me.st + (femarkLines a n.toNat).length ≤ 63 →
      ∃ t : State, completes i s t ∧ t.me.st = u.me.st + (femarkLines a n.toNat).length ∧ t.mem = s.mem) ∧
    (∀ g t, regionOf u.part a = g → (∃ q tl b, g = .tile q tl b ∨ g = .vault q b) →
      tileWrite s g 5 a (fun b => (List.range n.toNat).map (fun j =>
        { gran := b / 16 + j, ty := tyNone, op := if full then opFill else opEmpty, mask := 0, data := 0 })) u = .ok ((), t) →
      completes i s t)) ∧
  (∀ (s u : State) (sr : Reg) (x : Word), s.namesOk [sr] → readG sr s = .ok (x, u) →
    ∃ t1 t2 : State, completes (.pftL1 sr) s t1 ∧ completes (.pftL2 sr) s t2 ∧ t1.mem = s.mem ∧ t2.mem = s.mem ∧ t1.me.g = u.me.g ∧ t2.me.g = u.me.g) ∧
  (∀ (s : State) (k : FenceKind), completes (.fence k .slot) s s) ∧
  (∀ (s : State) (k : FenceKind) (c : FenceScope), c ≠ .slot → s.me.ld = 0 → (k ≠ .acq → s.me.st = 0) → (k = .full → s.me.tl = 0) →
    (k = .engine → s.me.cp = 0) →
    completes (.fence k c) s (if k = .acq ∨ k = .acqrel ∨ k = .full then s.acquire s.me.core else s)) ∧
  (∀ (s : State) (ld st cp tl : BitVec 4), (ld = 15 ∨ s.me.ld ≤ ld.toNat) → (st = 15 ∨ s.me.st ≤ st.toNat) →
    (cp = 15 ∨ s.me.cp ≤ cp.toNat) → (tl = 15 ∨ s.me.tl ≤ tl.toNat) → completes (.waitc ld st cp tl) s s) ∧
  (∀ (s : State) (ld st cp tl : BitVec 4), (ld ≠ 15 ∧ ld.toNat < s.me.ld) ∨ (st ≠ 15 ∧ st.toNat < s.me.st) ∨
    (cp ≠ 15 ∧ cp.toNat < s.me.cp) ∨ (tl ≠ 15 ∧ tl.toNat < s.me.tl) →
    exec (.waitc ld st cp tl) s = .next (s.modMe Ctx.bubble)) ∧
  (∀ (s s1 u : State) (d sr : Reg) (x n : Word), s.namesOk [d, sr] → readG sr s = .ok (x, s1) → readG d s1 = .ok (n, u) →
    ∃ t : State, completes (.cinv d sr) s t ∧ t.mem = s.mem ∧ t.me.g = u.me.g ∧
      (d = 0 → sr = 0 → (t.core u.me.core).l1 = []) ∧
      (d = 0 → sr ≠ 0 → ∀ e ∈ (t.core u.me.core).l1, 128 * e.line ≠ x.toNat / 128 * 128))

/-- R215, R216, R312: the vector loads and stores of main memory issue one request for each lane of a VLD, each enabled lane of a VST, VLDX or
VSTX, and the one broadcast value; a load's register becomes pending and empty, and its counter rises by one.
The model's own choices in it are those of log 26 and log 78. -/
def Obligations.VectorMemoryAccessIssues : Prop :=
  (∀ (s s1 u : State) (w : VldW) (fresh : Bool) (mask : BitVec 3) (d b t : Reg) (p : Pxi) (a : Nat) (k : BitVec 16), s.atAnchor →
    vecEa w b t p s = .ok (a, s1) → a % w.size = 0 → readK mask s1 = .ok (k, u) →
    (regionOf u.part a = .main → u.me.allows a w.size rightsLd = true → u.me.ld < 63 → u.me.vPend.getLsbD d.toNat = false →
      let ops : List SliceOp := match w with
        | .b => [.vbcast d k]
        | _ => (List.range (w.size / 4)).map (fun l => .vloadx d false l (vldMask w k l) (k == BitVec.allOnes 16))
      ∃ z : State, completes (.vld w fresh mask d b t p) s z ∧ z.me.ld = u.me.ld + 1 ∧ z.mem = s.mem ∧ z.me.vPend.getLsbD d.toNat = true ∧
        z.me.vFull.getLsbD d.toNat = false ∧ z.me.v = u.me.v ∧
        ((fresh = true ∨ u.l1Find u.me.core u.me.ptag u.me.key (a / 128) = none) → z.loads = u.loads ∧
          ∃ rs, z.sliceQ = u.sliceQ ++ rs ∧ rs.map SliceReq.op = ops ∧ (∀ r ∈ rs, r.size = 4 ∧ r.cid = u.me.cid) ∧
            ∀ i r, rs[i]? = some r → r.addr = a + 4 * i) ∧
        (∀ e, fresh = false → u.l1Find u.me.core u.me.ptag u.me.key (a / 128) = some e →
          u.sliceQ.any (fun r => r.cid == u.me.cid && r.addr / 128 == a / 128) = false → z.sliceQ = u.sliceQ ∧
          ∃ rs, z.loads = u.loads ++ rs ∧ rs.length = ops.length ∧
            ∀ (i : Nat) (r : LoadRep) (o : SliceOp), rs[i]? = some r → ops[i]? = some o → r.cid = u.me.cid ∧ r.val = o.value 4 (slice e.data ((a + 4 * i) % 128) 4))) ∧
    (∀ off, regionOf u.part a = .control off →
      writesV (.vld w fresh mask d b t p) s u d k (vldValue w (u.ctlBytes (u.privileged u.me) u.me.tenid u.me.ptag off w.size))) ∧
    (∀ g c y, regionOf u.part a = g → (∃ q tl o, g = .tile q tl o ∨ g = .vault q o) → u.me.vPend.getLsbD d.toNat = false →
      tileBytes s g 10 a w.size u = .ok (y, c) → writesV (.vld w fresh mask d b t p) s c d k (vldValue w y))) ∧
  (∀ (s s1 s2 u : State) (w : VldW) (mask : BitVec 3) (d b t : Reg) (p : Pxi) (a : Nat) (k : BitVec 16) (x : VWord), s.atAnchor →
    vecEa w b t p s = .ok (a, s1) → a % w.size = 0 → readV d s1 = .ok (x, s2) → readK mask s2 = .ok (k, u) →
    (regionOf u.part a = .main → s1.me.allows a w.size rightsSt = true → u.me.st < 63 →
      let ls := (List.range (w.size / 4)).filter (fun l => k.getLsbD l)
      ∃ z : State, completes (.vst w mask d b t p) s z ∧ z.me.st = u.me.st + (if ls = [] then 0 else 1) ∧ z.mem = s.mem ∧ z.me.v = u.me.v ∧
        z.sliceQ.length = u.sliceQ.length + ls.length ∧
        ∀ i l, ls[i]? = some l → ∃ r, z.sliceQ[u.sliceQ.length + i]? = some r ∧ r.addr = a + 4 * l ∧ r.size = 4 ∧ r.cid = u.me.cid ∧
          r.op = .vstorex (lane x l)) ∧
    (∀ off, regionOf u.part a = .control off → completes (.vst w mask d b t p) s (u.vstCtl off (vstBytes w k x))) ∧
    (∀ g c, regionOf u.part a = g → (∃ q tl o, g = .tile q tl o ∨ g = .vault q o) →
      tileWrite s g 11 a (fun o => storeUpds ((vstBytes w k x).map (fun y => (o + y.1, y.2)))) u = .ok ((), c) →
      completes (.vst w mask d b t p) s c)) ∧
  (∀ (s s1 s2 u : State) (sz : VxSize) (sx fresh : Bool) (mask : BitVec 3) (d sr t : Reg) (b : Word) (i : VWord) (k : BitVec 16), s.atAnchor →
    readG sr s = .ok (b, s1) → readV t s1 = .ok (i, s2) → readK mask s2 = .ok (k, u) →
    let l := laneAddrs b i k
    laneChecks sz.size 12 rightsLd l u = .ok ((), u) → u.me.vPend.getLsbD d.toNat = false →
    (lanesMain 12 l u = .ok (false, u) → ∀ y c, lanesRead s sz.size sx l u = .ok (y, c) →
      writesV (.vldx sz sx fresh mask d sr t) s c d k y) ∧
    (lanesMain 12 l u = .ok (true, u) → u.me.ld < 63 →
    ∃ z : State, completes (.vldx sz sx fresh mask d sr t) s z ∧ z.me.ld = u.me.ld + 1 ∧ z.mem = s.mem ∧ z.me.vPend.getLsbD d.toNat = true ∧
      z.sliceQ.length + z.loads.length = u.sliceQ.length + u.loads.length + l.length)) ∧
  (∀ (s s1 s2 s3 u : State) (sz : VxSize) (mask : BitVec 3) (d sr t : Reg) (b : Word) (i x : VWord) (k : BitVec 16), s.atAnchor →
    readG sr s = .ok (b, s1) → readV t s1 = .ok (i, s2) → readK mask s2 = .ok (k, s3) →
    let l := laneAddrs b i k
    laneChecks sz.size 13 rightsSt l s3 = .ok ((), s3) → readV d s3 = .ok (x, u) →
    (lanesMain 13 l s3 = .ok (false, s3) → ∀ c, lanesWrite s sz.size x l u = .ok ((), c) → completes (.vstx sz mask d sr t) s c) ∧
    (lanesMain 13 l s3 = .ok (true, s3) → u.me.st < 63 →
    ∃ z : State, completes (.vstx sz mask d sr t) s z ∧ z.me.st = u.me.st + 1 ∧ z.mem = s.mem ∧ z.sliceQ.length = u.sliceQ.length + l.length))

/-! ## Tiles, atomics and threads that move -/

/-- R83-R86, R133, R134: an update instruction of a tile, aligned, completes in its turn once the tile unit takes its one update.
R72, R77, R83, R85: one update of a tile that the issuer may use. In a RESIDENT tile it is applied to its granule of the frame and to no
other byte of memory; in an ABSENT or ARRIVING tile whose log takes it, memory stays as it is and the tile's state too; a LEAVING tile
parks the slot; a tile of another owner traps CONFINE.
The model's own choices in it are those of log 25 and log 77. -/
def Obligations.TileUpdates : Prop :=
  (∀ (s s1 u w : State) (d sr : Reg) (x y : Word) (q t b : Nat), s.atAnchor → readG sr s = .ok (x, s1) →
    let a := x.toNat % 2 ^ 56
    regionOf s1.part a = .tile q t b → readG d s1 = .ok (y, u) →
    let upd (ty op n : Nat) (i : Instr) : Prop :=
      a % n = 0 →
      let f (o : Nat) : List Upd :=
        [{ gran := o / 16, ty := ty, op := op, mask := maskOf (o % 16) n, data := BitVec.ofNat 128 (y.toNat % 256 ^ n * 256 ^ (o % 16)) }]
      tileWrite s (.tile q t b) 7 a f u = .ok ((), w) → completes i s w
    upd tyS32 opAdd 4 (.tadd .s32 d sr) ∧ upd tyS64 opAdd 8 (.tadd .s64 d sr) ∧ upd tyF32 opAdd 4 (.tadd .f32 d sr) ∧
    upd tyS32 opMax 4 (.tmax .s32 d sr) ∧ upd tyN32 opMax 4 (.tmax .n32 d sr) ∧ upd tyF32 opMax 4 (.tmax .f32 d sr) ∧
    upd tyS64 opMax 8 (.tmax .s64 d sr) ∧
    upd tyS32 opMin 4 (.tmin .s32 d sr) ∧ upd tyN32 opMin 4 (.tmin .n32 d sr) ∧ upd tyF32 opMin 4 (.tmin .f32 d sr) ∧
    upd tyS64 opMin 8 (.tmin .s64 d sr) ∧
    upd tyNone opOr 8 (.tor d sr) ∧ upd tyNone opXor 8 (.txor d sr) ∧ upd tyNone opAnd 8 (.tand d sr)) ∧
  (∀ (s0 s : State) (q t b code a : Nat) (u : Upd), memWf s.mem = true → b < 4096 → u.gran < 256 →
    let e := (s.squad q).tile t
    let out := tileWrite s0 (.tile q t b) code a (fun _ => [u]) s
    (∀ why, s.tileRefused s.me.ptag s.me.tenid q t = some why → out = .error (.trap .confine (BitVec.ofNat 64 a) (accInfo code why false))) ∧
    (s.tileRefused s.me.ptag s.me.tenid q t = none → s.tileClear s.me.core q = true →
      (e.st = .resident → u.op ≠ opFill → u.op ≠ opEmpty →
        ∃ w : State, out = .ok ((), w) ∧ granOf w.mem ((e.base q + 16 * u.gran) / 16) =
            applyData (granOf s.mem ((e.base q + 16 * u.gran) / 16)) u.ty u.op u.mask u.data ∧
          ∀ i, i < e.base q + 16 * u.gran ∨ e.base q + 16 * u.gran + 16 ≤ i → rd8 w.mem i = rd8 s.mem i) ∧
      (e.st = .absent ∨ e.st = .arriving → ∀ r, s.append? q t [u] = some r →
        out = .ok ((), r) ∧ r.mem = s.mem ∧ ((r.squad q).tile t).st = e.st) ∧
      (e.st = .leaving → ∃ r, out = .error (.go r) ∧ r.mem = s0.mem ∧ r.me.wait = .tile q t)))

/-- R76, R135-R137: TPIN and TUNPIN move the pin count by one, TFETCH counts an arrival, TEVICT starts a departure and writes 1, or writes 0
when the tile is not RESIDENT or is held; TSTAT writes the residency entry and TSYNC of a RESIDENT tile 0.
The model's own choices in it are those of log 42. -/
def Obligations.TileResidencyControl : Prop :=
  ∀ (s u : State) (d sr : Reg) (x : Word) (q t b : Nat), s.atAnchor → readG sr s = .ok (x, u) →
    let a := x.toNat % 2 ^ 56
    let e := (u.squad q).tile t
    regionOf u.part a = .tile q t b → u.tileRefused u.me.ptag u.me.tenid q t = none → u.tileClear u.me.core q = true →
    (e.st ≠ .leaving → e.pins < 255 → (u.squad q).pinnedTiles < 1016 → u.me.tl < 63 →
      ∃ w : State, completes (.tpin sr) s w ∧ ((w.squad q).tile t).pins = e.pins + 1 ∧ w.mem = s.mem ∧
        (e.st = .resident → w.me.tl = u.me.tl) ∧ (e.st = .arriving → w.me.tl = u.me.tl + 1)) ∧
    (0 < e.pins → ∃ w : State, completes (.tunpin sr) s w ∧ ((w.squad q).tile t).pins = e.pins - 1 ∧ w.mem = s.mem) ∧
    (e.pins = 0 → exec (.tunpin sr) s = .next (s.takeTrap .illegal 0 (illegalInfo u 0x0E) false)) ∧
    (e.st = .resident → completes (.tfetch sr) s u) ∧
    (e.st ≠ .resident → u.me.tl < 63 → ∃ w : State, completes (.tfetch sr) s w ∧ w.me.tl = u.me.tl + 1 ∧ w.mem = s.mem ∧
      (e.st = .absent → ((w.squad q).tile t).st = .arriving)) ∧
    (e.st = .resident → u.held q t = false → u.me.tl < 63 → ∃ w : State, writesG (.tevict d sr) s w d 1 ∧ w.me.tl = u.me.tl + 1 ∧
      ((w.squad q).tile t).st = .leaving ∧ w.mem = s.mem) ∧
    (e.st ≠ .resident ∨ u.held q t = true → writesG (.tevict d sr) s u d 0) ∧
    writesG (.tstat d sr) s u d e.word ∧
    (e.st = .resident → writesG (.tsync d sr) s u d 0) ∧
    (e.st = .absent ∨ e.st = .arriving → roomG d u = .ok ((), u) →
      ∃ w : State, exec (.tsync d sr) s = .next w ∧ w.me.wait = .tsync q t d (popsOf [sr]) ∧ w.me.pc = s.me.pc ∧ w.mem = s.mem)

/-- R257, R264-R267: an AMO or CAS of a thread that stands where it may, its operands read, completes once the home of the location performs
it, writes the old value and raises its flags. RUPD issues without moving, with `st` one higher.
R257: a thread stands where an atomic of main memory may be performed when it is on the home core of the address, on a pivot core, or
audited; elsewhere, with its counters at zero, it is sent to the home core and executes the instruction there.
The model's own choices in it are those of log 25 and log 41. -/
def Obligations.Atomics : Prop :=
  ((∀ (s s1 s2 u v w : State) (op : AtOp) (wd : AtW) (ord : AtOrd) (d sr t : Reg) (a : Nat) (x : Word) (y : Word × Word),
    s.namesOk [d, sr, t] → atomicAt sr (atSize wd) s = .ok (a, s1) → standAt s a s1 = .ok ((), s2) → readG t s2 = .ok (x, u) →
    (AtOrd.isRel ord = true → u.me.ld = 0 ∧ u.me.st = 0) →
    locOp s (regionOf u.part a) (s.homeReq (.amo op wd (AtOrd.isAcq ord) d x) a (atSize wd) 15 (popsOf [sr, t])) u = .ok (y, v) →
    writeG d y.1 v = .ok ((), w) →
    let z := w.modMe (fun c => { c with fcs := c.fcs ||| y.2 })
    completes (.amo op wd ord d sr t) s (if AtOrd.isAcq ord then z.acquire z.me.core else z)) ∧
  (∀ (s s1 s2 s3 u v w : State) (w64 : Bool) (ord : AtOrd) (d sr t : Reg) (a : Nat) (x e : Word) (y : Word × Word),
    let n := if w64 then 8 else 4
    s.namesOk [d, sr, t] → atomicAt sr n s = .ok (a, s1) → standAt s a s1 = .ok ((), s2) → readG t s2 = .ok (x, s3) →
    readG d s3 = .ok (e, u) → (AtOrd.isRel ord = true → u.me.ld = 0 ∧ u.me.st = 0) →
    locOp s (regionOf u.part a) (s.homeReq (.cas w64 (AtOrd.isAcq ord) d e x) a n 15 (popsOf [sr, t, d])) u = .ok (y, v) →
    writeG d y.1 v = .ok ((), w) →
    let z := w.modMe (fun c => { c with fcs := c.fcs ||| y.2 })
    completes (.cas w64 ord d sr t) s (if AtOrd.isAcq ord then z.acquire z.me.core else z)) ∧
  (∀ (s s1 u : State) (op : AtOp) (wd : AtW) (ord : AtOrd) (sr t : Reg) (a k : Nat) (x : Word),
    s.namesOk [sr, t] → atomicAt sr (atSize wd) s = .ok (a, s1) → (AtOrd.isRel ord = true → s1.me.ld = 0 ∧ s1.me.st = 0) →
    s1.me.st < 63 → readG t s1 = .ok (x, u) → u.unitOf a = some k →
    ∃ w : State, completes (.rupd op wd ord sr t) s w ∧ w.me.st = u.me.st + 1 ∧ w.mem = s.mem ∧ w.me.core = s.me.core ∧
      ∃ r, w.rupds = u.rupds ++ [(k, r)] ∧ r.addr = a ∧ r.op = .rupd op wd x)) ∧
  (∀ (s : State) (a : Nat), regionOf s.part a = .main →
    (s.me.core = 4096 + s.chanOf a ∨ s.part.isPivot s.me.core = true ∨ s.me.audited = true → standAt s a s = .ok ((), s)) ∧
    (s.me.core ≠ 4096 + s.chanOf a → s.part.isPivot s.me.core = false → s.me.audited = false →
      (s.me.quiet = true → ∃ (w : State) (m : ThreadMsg), standAt s a s = .error (.go w) ∧ w.threads = s.threads ++ [m] ∧ m.core = 4096 + s.chanOf a ∧
        m.ctx.pc = s.me.pc ∧ m.ctx.g = s.me.g ∧ m.parent = none ∧ w.mem = s.mem) ∧
      (s.me.quiet = false → standAt s a s = .error .park)))

/-- R268, R269: MIGR to the home core of an address moves the thread, which goes on after the MIGR, or does nothing where the thread stands
already; MIGR to a pivot core and MIGR back likewise; MIGR to a selector goes where the selector leads. SPAWN sends a child that starts at
the address in `g[d]`, with `st` of the parent one higher.
The model's own choices in it are those of log 18 and log 32. -/
def Obligations.MigrationAndSpawn : Prop :=
  (∀ (s u : State) (sr : Reg) (x : Word), s.namesOk [sr] → readG sr s = .ok (x, u) → regionOf u.part (x.toNat % 2 ^ 56) = .main →
    u.me.audited = false →
    (u.me.core = 4096 + u.chanOf (x.toNat % 2 ^ 56) →
      completes (.migrHome sr) s u) ∧
    (u.me.core ≠ 4096 + u.chanOf (x.toNat % 2 ^ 56) → u.me.quiet = true →
      ∃ (w : State) (m : ThreadMsg), exec (.migrHome sr) s = .next w ∧ w.threads = u.threads ++ [m] ∧ m.core = 4096 + u.chanOf (x.toNat % 2 ^ 56) ∧
        m.ctx.pc = u.me.npc ∧ m.ctx.g = u.me.g ∧ w.mem = s.mem)) ∧
  (∀ (s s1 u : State) (sr t : Reg) (sel : Word) (core : Nat) (slot : Option Nat) (dest : Word), s.namesOk [sr, t] →
    readG sr s = .ok (sel, s1) → selector false sel (readG t) s1 = .ok ((core, slot, dest), u) → u.me.audited = false →
    u.part.isPivot u.me.core = false →
    (core = u.me.core → completes (.migr sr t) s u) ∧
    (core ≠ u.me.core → u.me.quiet = true → ∃ (w : State) (m : ThreadMsg), exec (.migr sr t) s = .next w ∧ w.threads = u.threads ++ [m] ∧ m.core = core ∧
      m.slot = slot ∧ m.ctx.pc = u.me.npc ∧ m.ctx.g = u.me.g)) ∧
  (∀ s : State, s.part.isPivot s.me.core = true → completes .migrPivot s s) ∧
  (∀ s : State, s.part.isPivot s.me.core = false → s.me.anchorMode = .here → s.me.audited = false → s.me.quiet = true →
    ∃ (w : State) (m : ThreadMsg), exec .migrPivot s = .next w ∧ w.threads = s.threads ++ [m] ∧ m.ctx.pc = s.me.npc ∧ m.ctx.anchorMode = .saved ∧
      m.ctx.anchorCore = s.me.core) ∧
  (∀ s : State, s.me.audited = false → s.me.isAway = false → completes .migrBack s s) ∧
  (∀ s : State, s.me.audited = false → s.me.isAway = true → s.me.quiet = true →
    ∃ (w : State) (m : ThreadMsg), exec .migrBack s = .next w ∧ w.threads = s.threads ++ [m] ∧ m.core = s.me.anchorCore ∧ m.back = true ∧ m.ctx.pc = s.me.npc) ∧
  (∀ (s s1 s2 s3 u : State) (n : SpawnN) (d sr : Reg) (sel pc : Word) (args : List Word) (core : Nat) (slot : Option Nat) (dest : Word),
    s.namesOk [d, sr] → readG sr s = .ok (sel, s1) → readG d s1 = .ok (pc, s2) → readArgs 1 (spawnArgs n) s2 = .ok (args, s3) →
    selector true sel (pure (args.headD 0)) s3 = .ok ((core, slot, dest), u) → readG 61 u = .ok (u.me.g[61], u) →
    readG 62 u = .ok (u.me.g[62], u) → s.me.ld = 0 → s.me.st = 0 → u.me.st = 0 →
    ∃ (w : State) (m : ThreadMsg), completes (.spawn n d sr) s w ∧ w.me.st = 1 ∧ w.threads = u.threads ++ [m] ∧ m.core = core ∧ m.slot = slot ∧
      m.ctx.pc = pc ∧ m.parent = some u.me.cid ∧ m.ctx.tenid = u.me.tenid ∧ m.ctx.g[61] = u.me.g[61] ∧ m.ctx.g[62] = u.me.g[62])

/-! ## What the memory and tile units do by themselves -/

/-- R121, R123: the oldest load reply to a context arrives: the register takes the value and becomes full and not pending, and `ld` falls by
one. The oldest acknowledgement lowers `st` by one.
R46, R52, R58, R61, R121, R377: a slice performs the request that it takes of those that head its cores' queues. A load that the home lets pass
brings the bytes that main memory holds under its key slot and changes no byte; a store that is let pass writes its bytes, and every other
byte reads as before under that key slot; a request of another partition is refused with CONFINE, `why` 3, and a store in a sealed range with
`why` 5, and nothing is written. A line that the slice holds dirty under another key slot is written back first.
The model's own choices in it are those of log 26 and log 65. -/
def Obligations.SliceRequestsAndReplies : Prop :=
  ((∀ (s : State) (c : Ctx) (r : LoadRep) (rest : List LoadRep) (d : Reg) (x : Word), s.inv = true → s.noEnding = true → s.byCid c.cid = some c →
    c.cid ≠ 0 → takeFirst (fun (q : LoadRep) => q.cid == c.cid) s.loads = some (r, rest) → r.val = .g d x → d ≠ 0 → isPort d = false →
    r.acq = none →
    ∃ (w : State) (k : Ctx), exec (.loadReply c.cid) s = .next w ∧ w.at? c.core c.slot = some k ∧ k.g[d.toNat] = x ∧
      k.gFull.getLsbD d.toNat = true ∧ k.gPend.getLsbD d.toNat = false ∧ k.ld = c.ld - 1 ∧ k.pc = c.pc ∧ w.loads = rest ∧ w.mem = s.mem) ∧
  (∀ (s : State) (c : Ctx) (r : StoreRep) (rest : List StoreRep), s.noEnding = true → s.byCid c.cid = some c → c.cid ≠ 0 →
    takeFirst (fun (q : StoreRep) => q.cid == c.cid) s.acks = some (r, rest) → r.fail = none → r.tag = 0 →
    ∃ (w : State) (k : Ctx), exec (.storeAck c.cid) s = .next w ∧ w.at? c.core c.slot = some k ∧ k.st = c.st - 1 ∧ k.g = c.g ∧
      k.pc = c.pc ∧ w.acks = rest ∧ w.mem = s.mem)) ∧
  (∀ (s s1 t : State) (sl : Nat) (r : SliceReq),
    s.pick ((headsOf SliceReq.core (s.sliceQ.filter (fun q => q.slice == sl))).filter (fun q => !s.homeBefore q)) = some (r, s1) →
    State.slicePerform { s1 with sliceQ := s1.sliceQ.filter (fun q => q.seq != r.seq) } r = some t →
    exec (.sliceRequest sl []) s = .next t.reportEvicted ∧ (t.evicted = [] → exec (.sliceRequest sl []) s = .next t)) ∧
  (∀ (s : State) (r : SliceReq), s.memOk = true →
    (s.refused46 r.ptag r.addr = false → s.l2Other (r.addr / 128) r.key = false →
      (∀ d sx, r.op = .load d sx → s.isPoison r.addr = false →
        ∃ (w : State) (l : LoadRep), s.slicePerform r = some w ∧ w.mem = s.mem ∧ w.loads = s.loads ++ [l] ∧
          l.cid = r.cid ∧ l.val = .g d (extend sx r.size (ofBytes (s.rdMain r.key r.addr r.size)))) ∧
      (∀ x fj, r.op = .store x fj → s.sealedAt r.addr r.size = false → s.spillBlockAt (r.addr / 128 * 128) = false → s.noSnap = true →
        ∃ (w : State) (l : StoreRep), s.slicePerform r = some w ∧ w.acks = s.acks ++ [l] ∧ l.cid = r.cid ∧
          l.fail = none ∧ w.rdMain r.key r.addr r.size = toBytes r.size x.toNat ∧
          ∀ b, b < r.addr ∨ r.addr + r.size ≤ b → w.rdKey r.key b = s.rdKey r.key b)) ∧
    (s.refused46 r.ptag r.addr = false → s.l2Other (r.addr / 128) r.key = true → (r.op.isLoad = false → s.sealedAt r.addr r.size = false) →
      (s.homeReady r.addr true).1 = true → s.slicePerform r = (s.homeReady r.addr true).2.slicePerform r) ∧
    (s.refused46 r.ptag r.addr = true →
      (∀ d sx, r.op = .load d sx → ∃ (w : State) (l : LoadRep), s.slicePerform r = some w ∧ w.mem = s.mem ∧
        w.loads = s.loads ++ [l] ∧ l.val = .fail .confine 3 (some d) none) ∧
      (∀ x fj, r.op = .store x fj → r.quiet = false → ∃ (w : State) (l : StoreRep), s.slicePerform r = some w ∧
        w.mem = s.mem ∧ w.acks = s.acks ++ [l] ∧ l.fail = some (.confine, 3))) ∧
    (s.refused46 r.ptag r.addr = false → s.sealedAt r.addr r.size = true →
      ∀ x fj, r.op = .store x fj → r.quiet = false → ∃ (w : State) (l : StoreRep), s.slicePerform r = some w ∧
        w.mem = s.mem ∧ w.acks = s.acks ++ [l] ∧ l.fail = some (.confine, 5)))

/-- R51, R54, R122, R267: a home core takes one of the requests that it may and answers it; an update in flight to a tile unit is performed or
appended there; a rejected request may be issued again; the withdrawal of a context's request takes it off the lists.
The model's own choices in it are those of log 19, log 25 and log 77. -/
def Obligations.HomeUnitsTakeRequests : Prop :=
  (∀ (s s1 w : State) (ch : Nat) (r : HomeReq),
    s.pick (headsOf HomeReq.core ((s.chan ch).hq.filter (fun q => (s.chan ch).copying != some (s.pageOf q.addr) && !s.sliceBefore ch q))) =
      some (r, s1) →
    (s1.modChan ch (fun c => { c with hq := c.hq.filter (fun q => q.seq != r.seq) })).homeTake r = some w →
    exec (.homeRequest ch) s = .next w.reportEvicted ∧ (w.evicted = [] → exec (.homeRequest ch) s = .next w)) ∧
  (∀ (s : State) (r : HomeReq), s.refused46 r.ptag r.addr = true → r.op.counted = true → r.quiet = false →
    ∃ (w : State) (l : StoreRep), s.homeTake r = some w ∧ w.mem = s.mem ∧ w.acks = s.acks ++ [l] ∧ l.fail = some (.confine, 3)) ∧
  (∀ (s : State) (r : HomeReq), s.refused46 r.ptag r.addr = false → (r.op.changes = true → s.sealedAt r.addr r.span = false) →
    (s.homeReady r.addr r.op.changes).1 = true → r.op.counted = true →
    ∃ w : State, s.homeTake r = some w ∧
      w = (((s.homeReady r.addr r.op.changes).2.perform r.op r.key r.addr r.size).s.ackHome r none).serveHomes
        ((s.homeReady r.addr r.op.changes).2.perform r.op r.key r.addr r.size).grans) ∧
  (∀ (s s1 : State) (q : Nat) (r : HomeReq),
    s.pick (headsOf (fun (p : Nat × HomeReq) => p.2.core) (s.rupds.filter (fun p => p.1 == 4096 + q))) = some ((4096 + q, r), s1) →
    (State.rupdTile { s1 with rupds := s1.rupds.filter (fun p => p.2.seq != r.seq) } r).2 = true →
    exec (.remoteUpdate (4096 + q)) s =
      .next (State.rupdTile { s1 with rupds := s1.rupds.filter (fun p => p.2.seq != r.seq) } r).1) ∧
  (∀ (s : State) (c : Ctx), s.byCid c.cid = some c → c.cid ≠ 0 → c.wait = .rejected → s.rejected.any (fun r => r.cid == c.cid) = true →
    ∃ (w : State) (k : Ctx), exec (.requestReissue c.cid) s = .next w ∧ w.at? c.core c.slot = some k ∧ k.wait = .none ∧ k.pc = c.pc ∧
      w.rejected.any (fun r => r.cid == c.cid) = false ∧ w.mem = s.mem) ∧
  (∀ (s : State) (cid : Nat), s.withdrawn.contains cid = true → ∃ w : State, exec (.withdrawal cid) s = .next w ∧
    w.withdrawn.contains cid = false ∧ (s.areaOf cid = none → w.mem = s.mem) ∧ ∀ r ∈ w.rejected, r.cid = cid → r.op.counted = true)

/-- R54, R55: arming, starting and stopping a snapshot, the end of a copy, and a firmware read; what a write does while a snapshot is ACTIVE,
by the bit of its page and the room for copies.
R63, R64, R74: a write of `l1mode` empties the L1 of a barrel core before the mode changes and is ignored elsewhere; a line of 65,536
cycles leaves its L1; `tlcap` is held between 4 and 64.
The model's own choices in it are those of log 19 and log 33. -/
def Obligations.SnapshotAndCacheSteps : Prop :=
  (∀ (s : State) (ch : Nat),
    ((s.chan ch).snap = .off → ∃ w : State, exec (.snapshotArm ch) s = .next w ∧ (w.chan ch).snap = .armed ∧
      (w.chan ch).bitmap = (s.chan ch).bitmap ∧ w.mem = s.mem) ∧
    ((s.chan ch).snap ≠ .off → exec (.snapshotArm ch) s = .next s) ∧
    (∃ w : State, exec (.snapshotStop ch) s = .next w ∧ (w.chan ch).snap = .off ∧ (w.chan ch).bitmap = (s.chan ch).bitmap ∧
      w.mem = s.mem) ∧
    ((s.chan ch).snap = .armed → (s.chan ch).snapt.toNat ≤ s.clk → ∃ w : State, exec (.snapshotStart ch) s = .next w ∧
      (w.chan ch).snap = .active ∧ (w.chan ch).bitmap = [] ∧ (w.chan ch).ncopies = 0 ∧
      (s.memOk = true → ∀ a, (∀ i, i < 32 → a / 128 ≠ s.lineAt ch (512 * (s.chan ch).abase + i)) → rd8 w.mem a = rd8 s.mem a)) ∧
    (∀ p, (s.chan ch).copying = some p → ∃ w : State, exec (.snapshotCopyDone ch) s = .next w ∧ (w.chan ch).copying = none ∧
      (w.chan ch).ncopies = (s.chan ch).ncopies + 1 ∧ p ∈ (w.chan ch).bitmap) ∧
    (∀ page key gran, ∃ (w : State) (x : Granule), exec (.snapshotRead ch page key gran) s = .next w ∧ w.snapReads = s.snapReads ++ [x] ∧
      w.mem = s.mem ∧
      ((s.chan ch).bitmap.contains page = false →
        x = formUnder key ((s.pageGrans ch page).getD (gran % 4096) 0) (s.homeGran ((s.pageGrans ch page).getD (gran % 4096) 0))) ∧
      (∀ l y, (s.chan ch).bitmap.contains page = true → (s.chan ch).copies.find? (fun p => p.1 == page) = some (page, l) →
        l.find? (fun z => z.1 == (s.pageGrans ch page).getD (gran % 4096) 0) = some y →
        x = formUnder key ((s.pageGrans ch page).getD (gran % 4096) 0) y.2.1))) ∧
  (∀ (s : State) (a : Nat), let c := s.chan (s.chanOf a)
    c.snap = .active → (s.pageOf a < c.abase ∨ c.abase + c.alen ≤ s.pageOf a) → c.copying ≠ some (s.pageOf a) →
    (c.bitmap.contains (s.pageOf a) = true → s.snapGate a = (true, s)) ∧
    (c.bitmap.contains (s.pageOf a) = false → c.ncopies + 1 < c.alen → c.copying = none →
      ∃ t : State, s.snapGate a = (false, t) ∧ (t.chan (s.chanOf a)).copying = some (s.pageOf a) ∧ t.mem = s.mem) ∧
    (c.bitmap.contains (s.pageOf a) = false → c.alen ≤ c.ncopies + 1 →
      ∃ t : State, s.snapGate a = (true, t) ∧ (t.chan (s.chanOf a)).snap = .overflow ∧ s.pageOf a ∈ (t.chan (s.chanOf a)).bitmap)) ∧
  ((∀ (s : State) (core : Nat) (v : Word), s.part.isBarrel core = true → ∃ w : State, exec (.l1modeWrite core v) s = .next w ∧
    (w.core core).l1 = [] ∧ (w.core core).l1mode = v &&& 3 ∧ w.mem = s.mem) ∧
  (∀ (s : State) (core : Nat) (v : Word), s.part.isBarrel core = false → exec (.l1modeWrite core v) s = .next s) ∧
  (∀ (s : State) (core line : Nat), ∃ w : State, exec (.l1LineExpiry core line) s = .next w ∧ w.mem = s.mem ∧
    ∀ e : L1Line, e ∈ (w.core core).l1 ↔ (e ∈ (s.core core).l1 ∧ (e.line = line → s.cyc < e.filled + 65536))) ∧
  (∀ (s : State) (q : Nat) (v : Word), q < s.part.squads → ∃ w : State, exec (.tlcapWrite q v) s = .next w ∧ w.mem = s.mem ∧
    4 ≤ (w.squad q).tlcap.toNat ∧ (w.squad q).tlcap.toNat ≤ 64 ∧
    (4 ≤ v.toNat % 128 → v.toNat % 128 ≤ 64 → (w.squad q).tlcap.toNat = v.toNat % 128)))

/-- R73, R77, R79, R89: an owner is assigned to a tile that is ABSENT, unpinned and without log entries, and refused otherwise; a slot parked on
a tile goes on when the tile is RESIDENT or ABSENT; an arrival with every line ready makes the tile RESIDENT with an empty log; a
departure makes it ABSENT.
The model's own choices in it are those of log 19. -/
def Obligations.TileUnitSteps : Prop :=
  (∀ (s : State) (q : Nat) (v : Word), ∃ w : State, exec (.tileOwnerAssign q v) s = .next w ∧ w.mem = s.mem ∧
    let t := fld v 13 0
    let e := (s.squad q).tile t
    (e.st = .absent → e.log = [] → e.pins = 0 → ((w.squad q).tile t).owner = fld v 47 32 ∧ (w.squad q).townc.getLsbD 63 = false) ∧
    (e.st ≠ .absent ∨ e.log ≠ [] ∨ e.pins ≠ 0 → ((w.squad q).tile t).owner = e.owner ∧ (w.squad q).townc.getLsbD 63 = true)) ∧
  (∀ (s : State) (c : Ctx) (q t : Nat), s.at? c.core c.slot = some c → c.wait = .tile q t →
    (((s.squad q).tile t).st = .resident ∨ ((s.squad q).tile t).st = .absent → ∃ (w : State) (k : Ctx),
      exec (.tileAccess c.core c.slot) s = .next w ∧ w.at? c.core c.slot = some k ∧ k.wait = .none ∧ k.pc = c.pc ∧ w.mem = s.mem) ∧
    (((s.squad q).tile t).st = .arriving ∨ ((s.squad q).tile t).st = .leaving → exec (.tileAccess c.core c.slot) s = .next s)) ∧
  (∀ (s u : State) (q t : Nat), ((s.squad q).tile t).st = .arriving → ((s.squad q).tile t).framed = true →
    s.linesReady (s.backing q t) false 32 = some u →
    ∃ w : State, exec (.tileArrival q t) s = .next w ∧ ((w.squad q).tile t).st = .resident ∧ ((w.squad q).tile t).log = []) ∧
  (∀ (s u : State) (q t : Nat), ((s.squad q).tile t).st = .leaving → s.linesReady (s.backing q t) true 32 = some u →
    ∃ w : State, exec (.tileDepartureDone q t) s = .next w ∧
      ((w.squad q).tile t).st = (if ((s.squad q).tile t).tlRes = [] then .absent else .arriving))

/-! ## Streams, fills and barriers -/

/-- R271-R273: SEND of a message on a bound outbound half with allowance sends its words as one message and takes one unit; without
allowance the slot parks; unbound or above the word limit it traps PORT with cause 1 or 4. SEND of a register fill sends the value with
`st` one higher. QBIND of an inbound half and an unbind complete at once, and of `bq` where the named slot holds a context of the tenant, while it
traps PORT with cause 2 where it holds none; of an outbound half it waits for the reply. QSTAT reads the counts.
The model's own choices in it are those of log 47. -/
def Obligations.StreamInstructions : Prop :=
  (∀ (s u : State) (d sr t : Reg) (ws : List Word), (Instr.send d sr t).wf = true → isPort d = true → s.atAnchor →
    readRun sr t.toNat s = .ok (ws, u) →
    let o := u.me.streams[portOf d].out
    (o.bound = false → exec (.send d sr t) s = .next (s.takeTrap .port 0 (BitVec.ofNat 64 ((portOf d).val * 16 + 1)) false)) ∧
    (o.bound = true → o.wlim < ws.length →
      exec (.send d sr t) s = .next (s.takeTrap .port 0 (BitVec.ofNat 64 ((portOf d).val * 16 + 4)) false)) ∧
    (o.bound = true → ws.length ≤ o.wlim → o.allow = 0 → exec (.send d sr t) s = .next (s.modMe Ctx.bubble)) ∧
    (o.bound = true → ws.length ≤ o.wlim → o.allow ≠ 0 →
      ∃ (w : State) (m : StreamMsg), completes (.send d sr t) s w ∧ w.streamQ = u.streamQ ++ [m] ∧ m.core = o.core ∧ m.slot = o.slot ∧
        m.k = o.pstrm ∧ m.msg.words = ws ∧ m.msg.core = s.me.core ∧ m.msg.slot = s.me.slot ∧ m.sender = s.me.cid ∧
        w.me.streams[portOf d].out.allow = o.allow - 1 ∧ w.me.g = u.me.g ∧ w.mem = s.mem)) ∧
  (∀ (s s1 u : State) (d sr t : Reg) (v sel : Word), (Instr.send d sr t).wf = true → isPort d = false → s.namesOk [sr] → readG sr s = .ok (v, s1) →
    readG d s1 = .ok (sel, u) → fld sel 63 20 = 0 → fld sel 19 16 ≠ 15 →
    (u.part.hasCore (fld sel 15 0) = false → exec (.send d sr t) s = .next (s.takeTrap .notPresent 0 5 false)) ∧
    (u.part.hasCore (fld sel 15 0) = true → u.me.st < 63 →
      ∃ (w : State) (m : FillMsg), completes (.send d sr t) s w ∧ w.fills = u.fills ++ [m] ∧ m.core = fld sel 15 0 ∧ m.slot = fld sel 19 16 ∧
        m.x = t ∧ m.val = v ∧ m.sender = u.me.cid ∧ w.me.st = u.me.st + 1 ∧ w.me.g = u.me.g ∧ w.mem = s.mem)) ∧
  (∀ (s u : State) (d sr : Reg) (x : Word), (Instr.qbind d sr).wf = true → s.atAnchor → readG sr s = .ok (x, u) →
    (badBind (d == 60) s.me.core x = true → exec (.qbind d sr) s = .next (s.takeTrap .illegal 0 (illegalInfo u 0x0E) false)) ∧
    (badBind (d == 60) s.me.core x = false → d = 60 → fld x 3 0 = 2 → completes (.qbind d sr) s u) ∧
    (badBind (d == 60) s.me.core x = false →
    (d = 60 → fld x 3 0 = 0 → ∃ w : State, completes (.qbind d sr) s w ∧ w.me.bq.bound = false ∧ w.me.bq.q = u.me.bq.q) ∧
    (d = 60 → fld x 3 0 = 1 → ∀ c, u.at? u.me.core (fld x 31 28) = some c → c.tenid = u.me.tenid →
      ∃ w : State, completes (.qbind d sr) s w ∧ w.me.bq.bound = true ∧ w.me.bq.slot = fld x 31 28) ∧
    (d = 60 → fld x 3 0 = 1 → (∀ c, u.at? u.me.core (fld x 31 28) = some c → c.tenid ≠ u.me.tenid) →
      exec (.qbind d sr) s = .next (s.takeTrap .port 0 0x82 false)) ∧
    (d ≠ 60 → fld x 3 0 = 0 → ∃ w : State, completes (.qbind d sr) s w ∧ w.me.streams[portOf d] = StreamSt.unbound ∧
      w.allowances = u.allowances ++ (u.me.streams[portOf d].inn.msgs).map (fun m => (m.core, m.slot, m.strm))) ∧
    (d ≠ 60 → fld x 3 0 = 2 → ∃ w : State, completes (.qbind d sr) s w ∧ w.me.streams[portOf d].inn.bound = true ∧
      w.me.streams[portOf d].inn.allow = fld x 23 20 ∧
      w.me.streams[portOf d].inn.wlim = (if fld x 19 16 = 0 then 8 else fld x 19 16) ∧
      w.me.streams[portOf d].out = u.me.streams[portOf d].out) ∧
    (d ≠ 60 → fld x 3 0 = 1 → ∃ (w : State) (m : BindMsg), exec (.qbind d sr) s = .next w ∧ w.binds = s.binds ++ [m] ∧ m.cid = u.me.cid ∧
      m.core = fld x 47 32 ∧ m.slot = fld x 31 28 ∧ m.pstrm = fld x 25 24 ∧ m.seq = s.nextReq ∧ m.reply = none ∧ w.me.wait = .bind s.nextReq ∧
      w.me.pc = s.me.pc ∧ w.me.streams = s.me.streams ∧ w.mem = s.mem))) ∧
  (∀ (s : State) (d sr : Reg), (Instr.qstat d sr).wf = true → s.atAnchor →
    (∀ t : StreamSt, sr ≠ 60 → s.me.streams[portOf sr] = t → wordsIn t.inn.msgs < 2 ^ 13 → t.inn.msgs.length < 32 → t.out.allow < 16 →
      writesG (.qstat d sr) s s d (BitVec.ofNat 64 (wordsIn t.inn.msgs + 2 ^ 13 * t.inn.msgs.length + 2 ^ 18 * t.inn.bound.toNat +
        2 ^ 19 * t.out.bound.toNat + 2 ^ 20 * (if t.out.bound then t.out.allow else 0)))) ∧
    (sr = 60 → s.me.bq.q.length < 32 →
      writesG (.qstat d sr) s s d (BitVec.ofNat 64 (2 ^ 13 * s.me.bq.q.length + 2 ^ 19 * s.me.bq.bound.toNat))))

/-- R263, R270-R272: the oldest message to a bound inbound half joins its messages; to an unbound half it is discarded and its allowance unit
returns; where the slot holds no context of the tenant, and none of it is saved, its sender traps CONFINE with `why` 9. The oldest fill that
can be made writes its register and makes it full, and its sender's `st` falls; a fill whose register is pending or full waits; one that no
context takes traps CONFINE in its sender. An allowance unit raises the allowance of its sender, to 15 at most.
The model's own choices in it are those of log 46. -/
def Obligations.StreamFillAndAllowanceArrivals : Prop :=
  (∀ (s : State) (core slot k : Nat) (m : StreamMsg) (rest : List StreamMsg) (kk : Fin 4),
    takeFirst (fun (q : StreamMsg) => q.core == core && q.slot == slot && q.k == k) s.streamQ = some (m, rest) → kk.val = k % 4 →
    (s.core core).diverted = false →
    (∀ c, s.at? core slot = some c → c.core = core → c.slot = slot → c.tenid = m.tenid →
      (c.streams[kk].inn.bound = true → ∃ (w : State) (d : Ctx), exec (.streamMessageArrival core slot k) s = .next w ∧
        w.at? core slot = some d ∧ d.streams[kk].inn.msgs = c.streams[kk].inn.msgs ++ [m.msg] ∧ d.streams[kk].out = c.streams[kk].out ∧
        (∀ j : Fin 4, j ≠ kk → d.streams[j] = c.streams[j]) ∧ d.pc = c.pc ∧ d.g = c.g ∧ w.streamQ = rest ∧ w.mem = s.mem) ∧
      (c.streams[kk].inn.bound = false → exec (.streamMessageArrival core slot k) s =
        .next { s with streamQ := rest, allowances := s.allowances ++ [(m.msg.core, m.msg.slot, m.msg.strm)] })) ∧
    ((∀ c, s.at? core slot = some c → c.tenid ≠ m.tenid) → s.savedAt core slot m.tenid = none →
      exec (.streamMessageArrival core slot k) s =
        .next (State.lateTrap { s with streamQ := rest, allowances := s.allowances ++ [(m.msg.core, m.msg.slot, m.msg.strm)] } m.sender .confine
          m.pc (BitVec.ofNat 64 (core + slot * 2 ^ 16)) (accInfo 15 9 true)))) ∧
  (∀ (s : State) (core slot : Nat), (s.core core).diverted = false →
    (∀ (m : FillMsg) (rest : List FillMsg),
      takeFirst (fun (q : FillMsg) => q.core == core && q.slot == slot && s.fillReady q) s.fills = some (m, rest) →
      (∀ c, s.at? core slot = some c → c.tenid = m.tenid →
        exec (.registerFill core slot) s =
          .next ((State.place { s with fills := rest } (c.setG m.x m.val)).onCtx m.sender (fun k => { k with st := k.st - 1 })) ∧
        c.gPend.getLsbD m.x.toNat = false ∧ c.gFull.getLsbD m.x.toNat = false) ∧
      ((∀ c, s.at? core slot = some c → c.tenid ≠ m.tenid) → s.savedAt core slot m.tenid = none →
        exec (.registerFill core slot) s =
          .next ((State.onCtx { s with fills := rest } m.sender (fun k => { k with st := k.st - 1 })).lateTrap m.sender .confine m.pc m.addr
            (accInfo 15 9 true)))) ∧
    (takeFirst (fun (q : FillMsg) => q.core == core && q.slot == slot && s.fillReady q) s.fills = none →
      exec (.registerFill core slot) s = .next s) ∧
    (∀ (q : FillMsg) (c : Ctx), s.at? q.core q.slot = some c → c.tenid = q.tenid → c.cid ≠ 0 →
      s.fillReady q = (!c.gPend.getLsbD q.x.toNat && !c.gFull.getLsbD q.x.toNat))) ∧
  (∀ (s : State) (core slot k : Nat) (x : Nat × Nat × Nat) (rest : List (Nat × Nat × Nat)) (kk : Fin 4) (c : Ctx), s.at? core slot = some c →
    c.core = core → c.slot = slot → takeFirst (fun (p : Nat × Nat × Nat) => p == (core, slot, k)) s.allowances = some (x, rest) →
    kk.val = k % 4 →
    ∃ (w : State) (d : Ctx), exec (.allowanceReturn core slot k) s = .next w ∧ w.at? core slot = some d ∧ w.allowances = rest ∧
      d.streams[kk].out.allow = (if c.streams[kk].out.bound then Nat.min 15 (c.streams[kk].out.allow + 1) else c.streams[kk].out.allow) ∧
      d.streams[kk].inn = c.streams[kk].inn ∧ d.pc = c.pc ∧ d.g = c.g ∧ w.mem = s.mem)

/-- R271: a bind request reaches the named inbound half: bound, and with its allowance granted within 16 slots, it answers with its allowance
and word limit; an unbound half, a slot without a context of the tenant (cause 2) and a half without room (cause 3) refuse. The reply to the
context that waits for it binds the outbound half and completes the QBIND; a refusal traps PORT with its cause, precise.
The model's own choices in it are those of log 47. -/
def Obligations.BindRequestsAndReplies : Prop :=
  (∀ (s : State) (m : BindMsg) (kk : Fin 4), List.find? (fun (q : BindMsg) => q.cid == m.cid && q.reply.isNone) s.binds = some m →
    kk.val = m.pstrm % 4 →
    (∀ c, s.at? m.core m.slot = some c → c.core = m.core → c.slot = m.slot → c.tenid = m.tenid → c.streams[kk].inn.bound = true →
      (c.streams[kk].inn.granted + c.streams[kk].inn.allow ≤ 16 →
        ∃ (w : State) (d : Ctx), exec (.bindRequest m.cid) s = .next w ∧ w.at? m.core m.slot = some d ∧
          d.streams[kk].inn.granted = c.streams[kk].inn.granted + c.streams[kk].inn.allow ∧ d.pc = c.pc ∧ d.g = c.g ∧
          { m with reply := some (c.streams[kk].inn.allow, c.streams[kk].inn.wlim, 0) } ∈ w.binds ∧ w.mem = s.mem) ∧
      (16 < c.streams[kk].inn.granted + c.streams[kk].inn.allow →
        ∃ w : State, exec (.bindRequest m.cid) s = .next w ∧ w.slots = s.slots ∧ w.me = s.me ∧ { m with reply := some (0, 0, 3) } ∈ w.binds ∧
          w.mem = s.mem)) ∧
    ((∀ c, s.at? m.core m.slot = some c → c.tenid = m.tenid → c.streams[kk].inn.bound = false) →
      ∃ w : State, exec (.bindRequest m.cid) s = .next w ∧ w.slots = s.slots ∧ w.me = s.me ∧ { m with reply := some (0, 0, 2) } ∈ w.binds ∧
        w.mem = s.mem)) ∧
  (∀ (s : State) (c : Ctx) (m : BindMsg) (rest : List BindMsg) (allow wlim : Nat) (kk : Fin 4), s.inv = true → s.byCid c.cid = some c →
    c.cid ≠ 0 → takeFirst (fun (q : BindMsg) => q.cid == c.cid && q.reply.isSome) s.binds = some (m, rest) → kk.val = m.k % 4 →
    c.wait = .bind m.seq →
    (m.reply = some (allow, wlim, 0) → ∃ (w : State) (d : Ctx), exec (.bindReply c.cid) s = .next w ∧ w.at? c.core c.slot = some d ∧
      d.streams[kk].out = { bound := true, core := m.core, slot := m.slot, pstrm := m.pstrm, allow := allow, wlim := wlim } ∧
      d.pc = m.npc ∧ d.wait = .none ∧ d.g = c.g ∧ w.binds = rest ∧ w.mem = s.mem) ∧
    (∀ cause, m.reply = some (allow, wlim, cause + 1) → c.slot ≠ 15 → (∀ x ∈ (s.core c.core).trapQ, x.slot ≠ c.slot) →
      ∃ (w : State) (d : Ctx) (r : TrapRec), exec (.bindReply c.cid) s = .next w ∧ w.at? c.core c.slot = some d ∧ d.wait = .none ∧ d.pc = c.pc ∧
        d.g = c.g ∧ d.streams = c.streams ∧ r ∈ (w.core c.core).trapQ ∧ r.cls = .port ∧ r.slot = c.slot ∧ r.pc = m.pc ∧ r.late = false ∧
        r.info = BitVec.ofNat 64 (16 * kk.val + cause + 1) ∧ w.binds = rest ∧ w.mem = s.mem))

/-- R274, R275: HBAR arrives at the barrier for its core, with the phase it arrives at in `g[d]`, and completes the phase when every member
has arrived; it parks while the core's lead is 3. HWAIT completes once its phase is complete and parks until then. HSTAT reads the
barrier. An HBAR with a mask that differs from a busy barrier's, or without its core, is ILLEGAL. -/
def Obligations.HuddleBarriers : Prop :=
  (∀ q b : Nat, State.reset.barrier q b = { mask := 0, c := 0, leads := Vector.replicate 8 0 }) ∧
  (∀ (s u t : State) (d sr : Reg) (x : Word) (b : Barrier) (m : BitVec 8), s.atAnchor → readG sr s = .ok (x, u) →
    fld x 63 16 = 0 → fld x 7 3 = 0 → m = x.extractLsb' 8 8 → b = u.barrier (u.me.core / 8) (fld x 2 0) →
    (m.getLsbD (u.me.core % 8) = false ∨ ((∃ i, i < 8 ∧ b.lead i ≠ 0) ∧ b.mask ≠ m) →
      exec (.hbar d sr) s = .next (s.takeTrap .illegal 0 (illegalInfo u 0x0E) false)) ∧
    (m.getLsbD (u.me.core % 8) = true → ((∀ i, i < 8 → b.lead i = 0) ∨ b.mask = m) →
      (b.lead u.me.core = 3 → exec (.hbar d sr) s = .next (s.modMe Ctx.bubble)) ∧
      (b.lead u.me.core ≠ 3 → writeG d (BitVec.setWidth 64 (b.c + (b.lead u.me.core).setWidth 16)) u = .ok ((), t) →
        ∃ (w : State) (b1 : Barrier), completes (.hbar d sr) s w ∧ w.barrier (u.me.core / 8) (fld x 2 0) = b1 ∧ b1.mask = m ∧
          w.mem = t.mem ∧ w.me = t.me ∧
          ((∀ i, i < 8 → m.getLsbD i = true → i ≠ u.me.core % 8 → b.lead i ≠ 0) →
            b1.c = b.c + 1 ∧ ∀ i, i < 8 → m.getLsbD i = true →
              b1.lead i = (if i = u.me.core % 8 then b.lead i else b.lead i - 1)) ∧
          ((∃ i, i < 8 ∧ m.getLsbD i = true ∧ i ≠ u.me.core % 8 ∧ b.lead i = 0) →
            b1.c = b.c ∧ ∀ i, i < 8 → b1.lead i = (if i = u.me.core % 8 then b.lead i + 1 else b.lead i))))) ∧
  (∀ (s u : State) (sr : Reg) (x : Word) (b : Barrier), s.atAnchor → readG sr s = .ok (x, u) → fld x 63 32 = 0 → fld x 15 3 = 0 →
    b = u.barrier (u.me.core / 8) (fld x 2 0) →
    ((b.c - 1 - x.extractLsb' 16 16).toNat < 2 ^ 15 → completes (.hwait sr) s u) ∧
    (2 ^ 15 ≤ (b.c - 1 - x.extractLsb' 16 16).toNat → exec (.hwait sr) s = .next (s.modMe Ctx.bubble))) ∧
  (∀ (s u : State) (d sr : Reg) (x : Word) (b : Barrier), s.atAnchor → readG sr s = .ok (x, u) → fld x 63 3 = 0 →
    b = u.barrier (u.me.core / 8) (fld x 2 0) →
    ∃ r : Word, writesG (.hstat d sr) s u d r ∧ r.extractLsb' 0 16 = b.c ∧ r.extractLsb' 16 8 = b.mask ∧
      (∀ i, i < 8 → r.extractLsb' (24 + 2 * i) 2 = b.lead i) ∧ r.extractLsb' 40 24 = 0)

/-! ## Control flow of streams, ends of contexts, traps and system calls -/

/-- R287, R289, R290, R297-R300: JOIN of a thread without a stream is a plain branch; with one it waits or goes on as the state of the stream
says. DETACH clears `att`. WAITW of the ring's slot parks until its counters are zero, then waits for a task, out of the rotation and of its stream. HALT ends its context once `ld` and `st` are
zero, and in slot 15 it waits for a trap record; HALT.retain of a valid RCB also sets the core's hold.
The model's own choices in it are those of log 30, log 36 and log 38. -/
def Obligations.JoinWaitAndHalt : Prop :=
  (∀ (s : State) (i : BitVec 10) (p : Pxi) (l : Word) (q : Nat), l = branchTo s.me.pc (immS p 10 i.toNat) → q = s.me.core / 8 →
    (s.hasStream s.me = false → completes (.join i p) s (s.modMe (fun c => { c with npc := l }))) ∧
    (s.hasStream s.me = true →
      ((s.stream q s.me.slot).st = .run → ∃ w : State, exec (.join i p) s = .next w ∧ w.me.wait = .joinWait l s.cyc ∧ w.me.pc = s.me.pc ∧
        w.me.g = s.me.g ∧ w.mem = s.mem) ∧
      ((s.stream q s.me.slot).st = .idle → ∃ w : State, exec (.join i p) s = .next w ∧ w.me.wait = .joinCounted l ∧ w.me.pc = s.me.pc ∧
        (w.stream q s.me.slot).st = .joinWait l) ∧
      (∀ m, (s.stream q s.me.slot).st = .joinWait m →
        (m = l → ∃ w : State, exec (.join i p) s = .next w ∧ w.me.wait = .joinCounted l ∧ w.me.pc = s.me.pc) ∧
        (m ≠ l → completes (.join i p) s (s.modMe (fun c => { c with npc := l, att := false })))))) ∧
  (∀ s : State, completes .detach s (s.modMe (fun c => { c with att := false }))) ∧
  (∀ (s u : State) (sr : Reg) (x : Word), s.atAnchor → readG sr s = .ok (x, u) →
    let r := u.ring (u.me.core / 8) (fld x 3 0)
    (fld x 63 4 ≠ 0 ∨ r.tenant = 0 ∨ r.tenant ≠ u.me.tenid ∨ r.sidx ≠ u.me.slot →
      exec (.waitw sr) s = .next (s.takeTrap .illegal 0 (illegalInfo u 0x0E) false)) ∧
    (fld x 63 4 = 0 → r.tenant ≠ 0 → r.tenant = u.me.tenid → r.sidx = u.me.slot → u.me.quiet = false →
      exec (.waitw sr) s = .next (s.modMe Ctx.bubble)) ∧
    (fld x 63 4 = 0 → r.tenant ≠ 0 → r.tenant = u.me.tenid → r.sidx = u.me.slot → u.me.quiet = true →
      ∃ w : State, exec (.waitw sr) s = .next w ∧ w.me.wait = .serve (u.me.core / 8) (fld x 3 0) (popsOf [sr]) ∧ w.me.pc = s.me.pc ∧
        w.me.att = false ∧ w.me.g = s.me.g ∧ w.mem = s.mem ∧
        (w.ring (u.me.core / 8) (fld x 3 0)).waiters = (s.ring (u.me.core / 8) (fld x 3 0)).waiters ++ [s.me.cid])) ∧
  (∀ s : State, (s.me.slot ≠ 15 → s.me.ld = 0 → s.me.st = 0 → exec .halt s = .next (s.endContext s.me) ∧
      (s.me.live = true → s.me.anchorMode ≠ .away → s.inst? s.me.inst = none →
        (s.endContext s.me).at? s.me.core s.me.slot = none ∧ (s.endContext s.me).mem = s.mem)) ∧
    (s.me.slot ≠ 15 → s.me.ld ≠ 0 ∨ s.me.st ≠ 0 → exec .halt s = .next (s.modMe Ctx.bubble)) ∧
    (s.me.slot = 15 → (s.core s.me.core).hasRecord = true → completes .halt s s) ∧
    (s.me.slot = 15 → (s.core s.me.core).hasRecord = false → exec .halt s = .next (s.modMe Ctx.bubble))) ∧
  (∀ (s u : State) (sr : Reg) (x : Word), s.namesOk [sr] → readG sr s = .ok (x, u) →
    (u.me.slot = 15 → (u.core u.me.core).hasRecord = true → completes (.haltRetain sr) s u) ∧
    (u.me.slot ≠ 15 → u.me.ld = 0 → u.me.st = 0 → ∃ w : State, exec (.haltRetain sr) s = .next w ∧
      (u.part.isBarrel u.me.core = false ∨ u.validRcb (x.toNat % 2 ^ 56) u.me.tenid = false → w = u.endContext u.me) ∧
      (u.part.isBarrel u.me.core = true → u.validRcb (x.toNat % 2 ^ 56) u.me.tenid = true →
        w = (u.modCore u.me.core (fun k => { k with retain := some (x.toNat % 2 ^ 56) })).endContext u.me)))

/-- R44, R279, R295, R350, R351: taking a trap in slots 0 to 14 raises one record with the class, the slot, the pc of the instruction, `taddr` and
`tinfo`. It enters the core's trap queue, after the records raised before it and among those of its cycle in ascending slot order; where the
queue holds a record of the slot already it is held. The slot parks with its pc, its registers and its counters as they were, and no byte of
memory changes.
The model's own choices in it are those of log 40. -/
def Obligations.TakingATrap : Prop :=
  ∀ (s : State) (cls : TrapClass) (addr info : Word) (fetch : Bool), s.me.live = true → s.me.slot ≠ 15 →
    ∃ r : TrapRec,
      ((∀ x ∈ (s.core s.me.core).trapQ, x.slot ≠ s.me.slot) → ∃ p q, (s.core s.me.core).trapQ = p ++ q ∧
        (s.takeTrap cls addr info fetch).core s.me.core = { s.core s.me.core with trapQ := p ++ r :: q } ∧
        (∀ x ∈ p, ¬ (x.cyc = s.cyc ∧ s.me.slot < x.slot)) ∧ ∀ x ∈ q.head?, x.cyc = s.cyc ∧ s.me.slot < x.slot) ∧
      ((∃ x ∈ (s.core s.me.core).trapQ, x.slot = s.me.slot) →
        (s.takeTrap cls addr info fetch).core s.me.core = { s.core s.me.core with held := (s.core s.me.core).held ++ [r] }) ∧
      r.cls = cls ∧ r.slot = s.me.slot ∧ r.pc = s.me.pc ∧ r.addr = addr ∧ r.info = info ∧ r.late = false ∧
      (s.takeTrap cls addr info fetch).me = { s.me with att := false, inHand := none } ∧
      (s.takeTrap cls addr info fetch).trapped (s.takeTrap cls addr info fetch).me = true ∧
      (s.takeTrap cls addr info fetch).mem = s.mem ∧ (s.takeTrap cls addr info fetch).slots = s.slots

/-- R354: a trap condition in slot 15 raises no record: the supervisor starts again at the entry of its image, with the class, the pc, `taddr`
and `tinfo` in `g1` to `g4`, `rb` and `rl` kept, every other register zero and full; a second fault within 1 ms bars the core; a record of
kind 4 goes to the firmware.
The model's own choices in it are those of log 31. -/
def Obligations.SupervisorFault : Prop :=
  ∀ (s : State) (cls : TrapClass) (addr info : Word) (fetch : Bool), s.me.live = true → s.me.slot = 15 →
    let w := s.takeTrap cls addr info fetch
    w.me.pc = s.me.entry ∧ w.me.g[1] = BitVec.ofNat 64 cls.code ∧ w.me.g[2] = s.me.pc ∧ w.me.g[3] = addr ∧ w.me.g[4] = info ∧
    w.me.g[61] = s.me.g[61] ∧ w.me.g[62] = s.me.g[62] ∧ (∀ i : Fin 64, 4 < i.val → i.val ≠ 61 → i.val ≠ 62 → w.me.g[i] = 0) ∧
    w.me.gFull = BitVec.allOnes 64 ∧ w.me.fcs = 0 ∧ w.me.wait = .none ∧ (w.core s.me.core).trapQ = (s.core s.me.core).trapQ ∧
    (w.core s.me.core).supFault = some s.clk ∧
    (w.core s.me.core).barred = ((s.core s.me.core).barred || (match (s.core s.me.core).supFault with
      | some t => decide (s.clk < t + 1000000)
      | none => false)) ∧
    w.fwFaults.length = s.fwFaults.length + 1 ∧ w.mem = s.mem

/-- R40, R300, R302, R376: TRAP raises SOFT with its operand in `tinfo`; a word that does not decode raises ILLEGAL; a fetch outside live text
raises UNSEALED or REVOKED. RETT on the record at the head of the core's queue takes it off, and the slot goes on at its resume point, at the
address in `g[d]`, or after the trapped instruction; a core record is taken off with action 0; without a record RETT is ILLEGAL. -/
def Obligations.TrapInstructionsAndReturn : Prop :=
  (∀ (s u : State) (sr : Reg) (x : Word), s.namesOk [sr] → readG sr s = .ok (x, u) →
    exec (.trap sr) s = .next (s.takeTrap .soft 0 x false) ∧
    (s.me.live = true → s.me.slot ≠ 15 → (∀ y ∈ (s.core s.me.core).trapQ, y.slot ≠ s.me.slot) →
      ∃ (w : State) (r : TrapRec), exec (.trap sr) s = .next w ∧ r ∈ (w.core s.me.core).trapQ ∧ r.cls = .soft ∧
        r.slot = s.me.slot ∧ r.pc = s.me.pc ∧ r.addr = 0 ∧ r.info = x ∧ r.late = false ∧ w.me.pc = s.me.pc ∧ w.me.g = s.me.g) ∧
    (s.me.live = true → s.me.slot = 15 → ∃ w : State, exec (.trap sr) s = .next w ∧ w.me.pc = s.me.entry ∧ w.me.g[1] = 0x0B ∧ w.me.g[4] = x ∧
      (w.core s.me.core).trapQ = (s.core s.me.core).trapQ)) ∧
  decodeWords [0xC41F] = .ok (.trap 7, 1) ∧
  (∀ (s : State) (code : BitVec 8) (idx : BitVec 3),
    exec (.illegalWord code idx) s = .next (s.takeTrap .illegal 0 (BitVec.ofNat 64 (code.toNat + 256 * idx.toNat)) false)) ∧
  (∀ s : State, s.me.pc.getLsbD 0 = true → exec .fetchRefused s = .next (s.takeTrap .unsealed s.me.pc 0 true)) ∧
  (∀ s : State, s.me.pc.getLsbD 0 = false → s.fetchEnt s.me.tenid s.me.pc.toNat = none →
    (s.revokedEnt s.me.tenid s.me.pc.toNat = none → exec .fetchRefused s = .next (s.takeTrap .unsealed s.me.pc 0 true)) ∧
    (∀ e, s.revokedEnt s.me.tenid s.me.pc.toNat = some e →
      exec .fetchRefused s = .next (s.takeTrap .revoked (BitVec.ofNat 64 e.base) (BitVec.ofNat 64 e.tenant.toNat) true))) ∧
  (∀ (s s1 u : State) (d sr : Reg) (x tgt : Word) (k : CoreSt), s.namesOk [d, sr] → readG sr s = .ok (x, s1) →
    (if fld x 1 0 = 1 then readG d s1 = .ok (tgt, u) else tgt = 0 ∧ u = s1) → k = u.core u.me.core →
    (fld x 63 2 ≠ 0 ∨ k.hasRecord = false ∨ (fld x 1 0 = 1 ∧ (tgt.getLsbD 0 = true ∨ fld tgt 63 56 ≠ 0)) →
      exec (.rett d sr) s = .next (s.takeTrap .illegal 0 (illegalInfo u 0x0E) false)) ∧
    (x = 0 → k.preempt.isSome = true →
      ∃ w : State, completes (.rett d sr) s w ∧ w.core u.me.core = { k with preempt := none } ∧ w.me = u.me ∧ w.mem = s.mem) ∧
    (x = 0 → k.preempt = none → k.spill.isSome = true →
      ∃ w : State, completes (.rett d sr) s w ∧ w.core u.me.core = { k with spill := none } ∧ w.me = u.me ∧ w.mem = s.mem) ∧
    (∀ (r : TrapRec) (rest : List TrapRec) (c : Ctx), k.preempt = none → k.spill = none → k.trapQ = r :: rest → fld x 63 2 = 0 →
      fld x 1 0 ≠ 2 → (fld x 1 0 = 1 → tgt.getLsbD 0 = false ∧ fld tgt 63 56 = 0) → u.at? u.me.core r.slot = some c → c.cid = r.cid →
      c.core = u.me.core → c.slot = r.slot → (∀ h ∈ k.held, h.slot ≠ r.slot) → c.wait = .none → r.slot ≠ u.me.slot →
      ∃ (w : State) (c1 : Ctx), completes (.rett d sr) s w ∧ (w.core u.me.core).trapQ = rest ∧ w.at? u.me.core r.slot = some c1 ∧
        c1.pc = (if fld x 1 0 = 1 then tgt else if fld x 1 0 = 3 ∧ r.late = false ∧ r.fetch = false then r.next else c.pc) ∧
        c1.g = c.g ∧ c1.att = false ∧ w.me = u.me ∧ w.mem = s.mem))

/-- R301, R401: SYSC with room in its partition's ring appends the request and waits for the answer; with none it waits, and after 1 ms goes on
with E_BUSY in `g1`. A request is answered through `g1` and `g2`: ECHO with its argument, NOTIFY by raising an entry of the partition, TIME
with the lock state and the bound of the servo, EXTQ with word 2 of an extent that it may name; an unknown service with E_NOSVC. With
E_BUSY and every other status than OK `g2` is 0.
The model's own choices in it are those of log 29. -/
def Obligations.SystemCalls : Prop :=
  (∀ (s s1 u : State) (sr : Reg) (x : Word) (args : List Word), s.namesOk [sr] → readG sr s = .ok (x, s1) → fld x 63 16 = 0 →
    readArgs 1 6 s1 = .ok (args, u) → u.me.ld = 0 → u.me.st = 0 →
    ((u.partn u.me.ptag).sysRoom = true → ∃ (w : State) (r : SysReq), exec (.sysc sr) s = .next w ∧
      (w.partn u.me.ptag).sys = (u.partn u.me.ptag).sys ++ [r] ∧ (w.partn u.me.ptag).sysTail = (u.partn u.me.ptag).sysTail + 1 ∧
      r.svc = x.toNat ∧ r.args = args ∧ r.cid = u.me.cid ∧ w.me.wait = .syscReply ∧ w.me.pc = u.me.pc ∧ w.me.g = u.me.g) ∧
    ((u.partn u.me.ptag).sysRoom = false → u.me.wait = .none →
      exec (.sysc sr) s = .next (s.modMe (fun c => ({ c with wait := .syscRoom u.clk (popsOf [sr]) } : Ctx).bubble))) ∧
    (∀ t0 ps, (u.partn u.me.ptag).sysRoom = false → u.me.wait = .syscRoom t0 ps → t0 + 1000000 ≤ u.clk → u.me.gPend.getLsbD 1 = false →
      u.me.gPend.getLsbD 2 = false →
      ∃ w : State, completes (.sysc sr) s w ∧ w.me.g[1] = 0xFFFFFFFFFFFFFFF0#64 ∧ w.me.g[2] = 0 ∧ w.me.wait = .none)) ∧
  (∀ (s : State) (c : Ctx) (t0 : Nat) (ps : List Reg), s.inv = true → s.byCid c.cid = some c → c.cid ≠ 0 → c.wait = .syscRoom t0 ps →
    t0 + 1000000 ≤ s.clk → (s.partn c.ptag).sysRoom = false → c.gPend.getLsbD 1 = false → c.gPend.getLsbD 2 = false →
    ∃ (w : State) (k : Ctx), exec (.syscBusyTimeout c.cid) s = .next w ∧ w.at? c.core c.slot = some k ∧ k.g[1] = 0xFFFFFFFFFFFFFFF0#64 ∧
      k.g[2] = 0 ∧ k.pc = c.npc ∧ k.wait = .none ∧ w.mem = s.mem) ∧
  (∀ (s : State) (p : Nat) (r : SysReq) (rest : List SysReq) (c : Ctx), (s.partn p).sys = r :: rest → s.byCid r.cid = some c →
    c.wait = .syscReply → s.pivotFree = true →
    (∀ i y z, (i = Instr.echo p ∧ r.svc = 1 ∧ y = 0 ∧ z = r.args.getD 0 0) ∨
        (i = Instr.notify p ∧ r.svc = 2 ∧ 2048 ≤ (r.args.getD 0 0).toNat ∧ y = 0xFFFFFFFFFFFFFFF2#64 ∧ z = 0) ∨
        (i = Instr.notify p ∧ r.svc = 2 ∧ (r.args.getD 0 0).toNat < 2048 ∧
          (1024 ≤ (r.args.getD 0 0).toNat ∨ (r.args.getD 0 0).toNat / 32 ≠ p) ∧ y = 0xFFFFFFFFFFFFFFF3#64 ∧ z = 0) ∨
        (i = Instr.notify p ∧ r.svc = 2 ∧ (r.args.getD 0 0).toNat < 1024 ∧ (r.args.getD 0 0).toNat / 32 = p ∧ y = 0 ∧ z = 0) ∨
        (i = Instr.time p ∧ r.svc = 3 ∧ y = 0 ∧
          z = BitVec.ofNat 64 (2 * s.servo.bound + (if s.servo.bound < 1000 then 1 else 0))) ∨
        (i = Instr.extq p ∧ r.svc = 4 ∧ r.xlen ≤ (r.args.getD 0 0).toNat ∧ y = 0xFFFFFFFFFFFFFFF2#64 ∧ z = 0) ∨
        (i = Instr.extq p ∧ r.svc = 4 ∧ (r.args.getD 0 0).toNat < r.xlen ∧
          extentOf (s.extentWords ((r.xtab + 32 * (r.args.getD 0 0).toNat) % 2 ^ 56)) = none ∧ y = 0 ∧
          z = (s.extentWords ((r.xtab + 32 * (r.args.getD 0 0).toNat) % 2 ^ 56)).getD 2 0) ∨
        (∃ e, i = Instr.extq p ∧ r.svc = 4 ∧ (r.args.getD 0 0).toNat < r.xlen ∧
          extentOf (s.extentWords ((r.xtab + 32 * (r.args.getD 0 0).toNat) % 2 ^ 56)) = some e ∧
          (if e.node = 0 ∧ regionOf s.part e.base = .main ∧ s.refused46 p e.base = true then y = 0xFFFFFFFFFFFFFFF3#64 ∧ z = 0
           else y = 0 ∧ z = (s.extentWords ((r.xtab + 32 * (r.args.getD 0 0).toNat) % 2 ^ 56)).getD 2 0)) ∨
        ((i = Instr.echo p ∨ i = Instr.notify p ∨ i = Instr.time p ∨ i = Instr.extq p) ∧ (r.svc = 0 ∨ 4 < r.svc) ∧ y = 0xFFFFFFFFFFFFFFF1#64 ∧
          z = 0) →
      ∃ (w : State) (k : Ctx), exec i s = .next w ∧ (w.partn p).sys = rest ∧ (w.partn p).sysHead = (s.partn p).sysHead + 1 ∧
        w.at? c.core c.slot = some k ∧ k.g[1] = y ∧ k.g[2] = z ∧ k.pc = r.npc ∧ k.wait = .none ∧ w.mem = s.mem))

/-! ## Contexts saved and loaded, control registers, and the owner state of the matrix unit -/

/-- R303-R310: CTXS saves the context of a slot of the core to an area; CTXL loads an area into a free slot; SLOTX does the two in one step, and
with both addresses zero does nothing; QDRAIN delivers a queue that it can empty, with the number of messages in `g[d]`; AUDW loads the
windows of a slot.
The model's own choices in it are those of log 27, log 28 and log 34. -/
def Obligations.ContextInstructionsComplete : Prop :=
  (∀ (s s1 u t0 w : State) (d sr : Reg) (x k : Word) (a slot : Nat) (c t b b1 : Ctx), s.namesOk [d, sr] → readG sr s = .ok (x, s1) →
    readG d s1 = .ok (k, u) → a = x.toNat % 2 ^ 56 → slot = k.toNat → slot < 15 → u.at? u.me.core slot = some c → a % 128 = 0 →
    regionOf u.part a = .main → u.sealedAt a areaBytes = false → u.savedForm c = some (t, b) → u.linesGate a 24 = (true, t0) →
    t0.spillWords b t0.me.core = some (w, b1) → completes (.ctxs d sr) s (w.storeCtx t b1 a)) ∧
  (∀ (s s1 u : State) (d sr : Reg) (x k : Word) (a slot : Nat), s.namesOk [d, sr] → readG sr s = .ok (x, s1) →
    readG d s1 = .ok (k, u) → a = x.toNat % 2 ^ 56 → slot = fld k 3 0 → slot ≠ 15 → u.at? u.me.core slot = none → a % 128 = 0 →
    regionOf u.part a = .main → (u.rdWord 0 (a + 0xA28)).getLsbD 63 = true → u.areaSpoilt a = false → u.areaCounts a = 0 →
    (∀ b, u.saved.find? a = some b → u.withdrawn.contains b.cid = false) → completes (.ctxl d sr) s (u.loadCtx u.me.core slot a)) ∧
  (∀ (s s1 u : State) (d sr : Reg) (x k : Word) (a slot : Nat), s.namesOk [d, sr] → readG sr s = .ok (x, s1) →
    readG d s1 = .ok (k, u) → a = x.toNat % 2 ^ 56 → slot = fld k 3 0 → a % 16 = 0 → regionOf u.part a = .main →
    u.anyPoison (linesOf (a / 128 * 128) (a % 128) 16) = false →
    ((u.rdWord 0 a).toNat % 2 ^ 56 = 0 → (u.rdWord 0 (a + 8)).toNat % 2 ^ 56 = 0 → u.at? u.me.core slot = none →
      completes (.slotx d sr) s u) ∧
    (∀ r, (u.rdWord 0 a).toNat % 2 ^ 56 = 0 → (u.rdWord 0 (a + 8)).toNat % 2 ^ 56 = r → r ≠ 0 → u.at? u.me.core slot = none → slot ≠ 15 →
      r % 128 = 0 → regionOf u.part r = .main → (u.rdWord 0 (r + 0xA28)).getLsbD 63 = true → u.areaSpoilt r = false → u.areaCounts r = 0 →
      (∀ b, u.saved.find? r = some b → u.withdrawn.contains b.cid = false) → completes (.slotx d sr) s (u.loadCtx u.me.core slot r)) ∧
    (∀ (o : Nat) (c t b b1 : Ctx) (t0 w : State), (u.rdWord 0 a).toNat % 2 ^ 56 = o → o ≠ 0 → (u.rdWord 0 (a + 8)).toNat % 2 ^ 56 = 0 →
      u.at? u.me.core slot = some c → fld k 63 4 = 0 → slot ≠ 15 → o % 128 = 0 → regionOf u.part o = .main →
      u.sealedAt o areaBytes = false → u.savedForm c = some (t, b) → u.linesGate o 24 = (true, t0) →
      t0.spillWords b t0.me.core = some (w, b1) → completes (.slotx d sr) s (w.storeCtx t b1 o)) ∧
    (∀ (o r : Nat) (c t b b1 : Ctx) (t0 w v : State), (u.rdWord 0 a).toNat % 2 ^ 56 = o → o ≠ 0 →
      (u.rdWord 0 (a + 8)).toNat % 2 ^ 56 = r → r ≠ 0 → u.at? u.me.core slot = some c → fld k 63 4 = 0 → slot ≠ 15 → o % 128 = 0 →
      regionOf u.part o = .main → u.sealedAt o areaBytes = false → u.savedForm c = some (t, b) → u.linesGate o 24 = (true, t0) →
      t0.spillWords b t0.me.core = some (w, b1) → v = w.storeCtx t b1 o → v.at? v.me.core slot = none → r % 128 = 0 →
      regionOf v.part r = .main → (v.rdWord 0 (r + 0xA28)).getLsbD 63 = true → v.areaSpoilt r = false → v.areaCounts r = 0 →
      (∀ e, v.saved.find? r = some e → v.withdrawn.contains e.cid = false) → completes (.slotx d sr) s (v.loadCtx v.me.core slot r))) ∧
  (∀ (s u v t : State) (d sr : Reg) (x : Word) (a n : Nat), s.namesOk [d, sr] → readG sr s = .ok (x, u) → a = x.toNat % 2 ^ 56 → a % 128 = 0 →
    regionOf u.part a = .main → u.anyPoison (linesOf (a / 128 * 128) (a % 128) 128) = false → readyG d u = .ok ((), u) →
    State.drainQueue a (u.spillLen a) u = (v, n) → v.spillLen a = 0 → u.me.wait = .none →
    writeG d (BitVec.ofNat 64 n) ((v.undivert u.me.core a).modMe (fun c => { c with wait := .none })) = .ok ((), t) →
    completes (.qdrain d sr) s t) ∧
  (∀ (s s1 u : State) (d sr : Reg) (x k : Word) (a : Nat) (c : Ctx), s.namesOk [d, sr] → s.part.isPivot s.me.core = false →
    readG sr s = .ok (x, s1) → readG d s1 = .ok (k, u) → a = x.toNat % 2 ^ 56 → u.at? u.me.core (fld k 3 0) = some c → a % 16 = 0 →
    regionOf u.part a = .main → u.anyPoison (linesOf (a / 128 * 128) (a % 128) 64) = false →
    completes (.audw d sr) s (u.modAt u.me.core (fld k 3 0) (fun c => { c with audw := u.windowsAt a })))

/-- R14, R15, R74, R183-R186: CRD writes what the slot reads of a control register to `g[d]`: its own slot, core, squad, tags, flags, the device time,
the core's cycles, its counters, the squad's log cap, and the capabilities of the part and of the core that it runs on; the trap registers read zero outside slot 15; a number without a register reads zero. CWR writes the
fields of `fcs` and `ctrs`, holds `tlcap` between 4 and 64 on a barrel core, and leaves a read-only register as it is. -/
def Obligations.ControlRegisterInstructions : Prop :=
  (∀ (s : State) (d : Reg), s.namesOk [d] →
    writesG (.crd d 0x000) s s d (BitVec.ofNat 64 s.me.slot) ∧
    writesG (.crd d 0x001) s s d (BitVec.ofNat 64 s.me.core) ∧
    writesG (.crd d 0x002) s s d (if s.part.isBarrel s.me.core then BitVec.ofNat 64 (s.me.core / 8) else 0xFFFF) ∧
    writesG (.crd d 0x003) s s d (s.me.ctxtag.setWidth 64) ∧
    writesG (.crd d 0x004) s s d (s.me.tenid.setWidth 64) ∧
    writesG (.crd d 0x005) s s d s.me.fcs ∧
    writesG (.crd d 0x006) s s d (BitVec.ofNat 64 s.clk) ∧
    writesG (.crd d 0x007) s s d (BitVec.ofNat 64 s.cyc) ∧
    writesG (.crd d 0x008) s s d s.me.ctrs ∧
    writesG (.crd d 0x00A) s s d (s.core s.me.core).aown ∧
    writesG (.crd d 0x00B) s s d (if s.part.isBarrel s.me.core then (s.squad (s.me.core / 8)).tlcap else 0) ∧
    writesG (.crd d 0x020) s s d ((if s.part = .x4 then 0x0000182020040050#64 else 0x0000081010020020#64) |||
      (if s.part.isBarrel s.me.core then 7#64 else 0)) ∧
    writesG (.crd d 0x021) s s d (if s.part = .x4 then 0 else 96) ∧
    writesG (.crd d 0x022) s s d (if s.part = .x4 then 0x8C00 else 0x4601) ∧
    (∀ n : BitVec 12, 0x010 ≤ n.toNat → n.toNat ≤ 0x014 → s.me.slot ≠ 15 → writesG (.crd d n) s s d 0) ∧
    (∀ n : BitVec 12, 0x031 ≤ n.toNat → writesG (.crd d n) s s d 0) ∧
    (∀ r : TrapRec, s.me.slot = 15 → (s.core s.me.core).preempt = none → (s.core s.me.core).spill = none →
      (s.core s.me.core).trapQ.head? = some r →
      writesG (.crd d 0x012) s s d (r.pc &&& 0x00FFFFFFFFFFFFFF#64) ∧ writesG (.crd d 0x013) s s d r.addr ∧
      writesG (.crd d 0x014) s s d r.info)) ∧
  (∀ (s u : State) (d : Reg) (x : Word), s.namesOk [d] → readG d s = .ok (x, u) →
    completes (.cwr d 0x005) s (u.modMe (fun c => { c with fcs := x &&& 0x1F3#64 })) ∧
    (∃ w : State, exec (.cwr d 0x008) s = .next w ∧ w.me.ctrs.extractLsb' 0 32 = x.extractLsb' 0 32 ∧ w.me.pc = s.me.npc ∧ w.me.g = u.me.g ∧
      w.me.fcs = u.me.fcs ∧ w.mem = u.mem) ∧
    (∀ n : BitVec 12, n ∉ [0x005#12, 0x008#12, 0x00B#12, 0x00C#12, 0x00D#12, 0x030#12] → completes (.cwr d n) s u) ∧
    (u.part.isBarrel u.me.core = true → completes (.cwr d 0x00B) s (u.modSquad (u.me.core / 8) (fun k => { k with
      tlcap := BitVec.ofNat 64 (if x.toNat % 128 < 4 then 4 else if 64 < x.toNat % 128 then 64 else x.toNat % 128) }))) ∧
    (u.part.isBarrel u.me.core = false → completes (.cwr d 0x00B) s u) ∧
    (u.part.isBarrel u.me.core = true → ∃ w : State, completes (.cwr d 0x00D) s w ∧ w.me = u.me ∧ w.mem = u.mem ∧
      (w.squad (u.me.core / 8)).mgate = x &&& 0xFFFF#64)) ∧
  (∀ (s : State) (cid : Nat) (v : Word),
    (3 ≤ fld v 3 0 ∨ s.part.links ≤ fld v 23 16 → exec (.fijWrite cid v) s = .next s) ∧
    (fld v 3 0 ≤ 2 → (fld v 3 0 = 1 → fld v 47 32 ≠ 0) → fld v 23 16 < s.part.links → ∃ w : State, exec (.fijWrite cid v) s = .next w ∧
      w.fij = v &&& 0x0000FFFF00FF000F#64 ∧ w.fijBy = (if fld v 3 0 = 2 then cid else 0) ∧ w.mem = s.mem ∧ w.me = s.me))

/-- R280, R284, R287, R289-R292: the steps of the front end and of the serve unit.
The model's own choices in it are those of log 24, log 30 and log 36. -/
def Obligations.FrontEndSteps : Prop :=
  (∀ (s : State) (q k : Nat) (c : Ctx) (r : List Ctx), (s.stream q k).st = .run → s.attached q k = c :: r → (s.stream q k).held = false →
    s.buffered q k < 32 → ∃ w : State, exec (.streamDecode q k) s = .next w ∧ (w.stream q k).decoded = (s.stream q k).decoded + 1 ∧
      w.mem = s.mem ∧ w.me = s.me ∧ w.slots = s.slots) ∧
  (∀ (s : State) (q k : Nat), (s.stream q k).held = true ∨ 32 ≤ s.buffered q k → exec (.streamDecode q k) s = .next s) ∧
  (∀ (s : State) (q : Nat) (c : Ctx), s.privateNext q = some c →
    (s.cyc < (s.squad q).pfFree → exec (.privateFetchDelivery q) s = .next s) ∧
    ((s.squad q).pfFree ≤ s.cyc → c.live = true → ∃ (w : State) (d : Ctx), exec (.privateFetchDelivery q) s = .next w ∧
      w.at? c.core c.slot = some d ∧ d.inHand = some c.pc ∧ d.pc = c.pc ∧ d.g = c.g ∧ (w.squad q).pfFree = s.cyc + 4 ∧ w.mem = s.mem)) ∧
  (∀ (s : State) (q k : Nat), (s.stream q k).stallSince = none → exec (.driftStallDetach q k) s = .next s) ∧
  (∀ (s : State) (q k t : Nat), (s.stream q k).stallSince = some t →
    (s.cyc < t + 1024 → exec (.driftStallDetach q k) s = .next s) ∧
    (t + 1024 ≤ s.cyc → ∃ w : State, exec (.driftStallDetach q k) s = .next w ∧ (w.stream q k).stallSince = none ∧ w.mem = s.mem ∧
      (∀ c ∈ s.attached q k, s.at? c.core c.slot = some c → s.lag c = 32 →
        (c.bubbled || c.asleep || s.trapped c) = true → ∃ d, w.at? c.core c.slot = some d ∧ d.att = false))) ∧
  (∀ (s : State) (c : Ctx) (l : Word) (t : Nat), s.at? c.core c.slot = some c → c.wait = .joinWait l t →
    (t + 65536 ≤ s.cyc → (s.stream (c.core / 8) c.slot).st = .run → ∃ (w : State) (d : Ctx), exec (.joinWaitTimeout c.core c.slot) s = .next w ∧
      w.at? c.core c.slot = some d ∧ d.pc = l ∧ d.att = false ∧ d.wait = .none ∧ d.g = c.g ∧ w.mem = s.mem) ∧
    (s.cyc < t + 65536 → exec (.joinWaitTimeout c.core c.slot) s = .next s)) ∧
  (∀ (s : State) (ten q n : Nat) (v : Word),
    ((s.ring q n).tenant.toNat ≠ ten ∨ ten = 0 → exec (.srtailWrite ten q n v) s = .next s) ∧
    ((s.ring q n).tenant.toNat = ten → ten ≠ 0 → ∃ w : State, exec (.srtailWrite ten q n v) s = .next w ∧ w.mem = s.mem ∧
      (w.ring q n).head = (s.ring q n).head ∧
      (w.ring q n).tail = (if 2 ^ fld (s.ring q n).srcfg 43 40 < (v.extractLsb' 0 16 - (s.ring q n).head).toNat then (s.ring q n).tail
        else v.extractLsb' 0 16))) ∧
  (∀ (s : State) (q n a : Nat) (c : Ctx) (rest : List Nat), (s.ring q n).waiters = c.cid :: rest → (s.ring q n).head ≠ (s.ring q n).tail →
    s.byCid c.cid = some c → c.wait = .serve q n [] →
    a = fld (s.ring q n).srcfg 33 0 * 64 + (s.ring q n).head.toNat % 2 ^ fld (s.ring q n).srcfg 43 40 * 64 → s.refused46 c.ptag a = false →
    s.isPoison a = false →
    ∃ (w : State) (d : Ctx), exec (.serveDelivery q n) s = .next w ∧ w.at? c.core c.slot = some d ∧ d.wait = .none ∧ d.pc = c.npc ∧
      d.g[1] = s.rdWord c.key a ∧ d.g[8] = s.rdWord c.key (a + 56) ∧ d.g[9] = (s.ring q n).head.setWidth 64 ∧ d.att = false ∧
      (w.ring q n).head = (s.ring q n).head + 1 ∧ (w.ring q n).waiters = rest ∧ w.mem = s.mem) ∧
  (∀ (s : State) (core : Nat),
    ((s.core core).retain = none → exec (.retainHoldCancel core) s = .next s) ∧
    ((s.core core).retain ≠ none → ∃ w : State, exec (.retainHoldCancel core) s = .next w ∧ (w.core core).retain = none ∧ w.mem = s.mem ∧
      (w.core core).retention = ((s.core core).retention || (s.part.isBarrel core && !s.coreBusy core))))

/-- R261, R352-R354: a pre-emption message becomes the core's PREEMPT record and empties its done granule; one that is not answered within
100 µs counts as a fault of the supervisor. A thread message that the ingress lets pass claims a free slot, and the thread goes on there; one
that it refuses traps at its source. Back-pressure of 8,192 cycles diverts the core and raises its SPILLQ record once.
The model's own choices in it are those of log 31 and log 45. -/
def Obligations.PreemptionAndArrival : Prop :=
  (∀ (s : State) (core desc : Nat) (ms : Bool) (rs : BitVec 4) (sl : BitVec 15), s.part.hasCore core = true → s.preemptDone core = true →
    desc % 128 = 0 → regionOf s.part desc = .main →
    ∃ (w : State) (r : TrapRec), exec (.preemptMessage core ms rs sl desc) s = .next w ∧ (w.core core).preempt = some r ∧ r.cls = .preempt ∧
      r.addr = BitVec.ofNat 64 desc ∧ r.info = BitVec.ofNat 64 (sl.toNat + 2 ^ 16 * rs.toNat + 2 ^ 20 * ms.toNat) ∧
      w.isFull ((desc + 240) / 16) = false ∧ (w.core core).preemptAt = some (s.clk, (desc + 240) / 16, false) ∧
      (s.noSnap = true → w.mem = s.mem)) ∧
  (∀ (s : State) (core t g : Nat), (s.core core).preemptAt = some (t, g, false) →
    (s.clk < t + 100000 ∨ s.isFull g = true → exec (.preemptDoneTimeout core) s = .next s) ∧
    (t + 100000 ≤ s.clk → s.isFull g = false → ∃ w : State, exec (.preemptDoneTimeout core) s = .next w ∧
      (w.core core).supFault = some s.clk ∧ (w.core core).preemptAt = some (t, g, true) ∧ w.fwFaults.length = s.fwFaults.length + 1 ∧
      w.mem = s.mem ∧ (∀ u, (s.core core).supFault = some u → s.clk < u + 1000000 → (w.core core).barred = true))) ∧
  (∀ (s : State) (core k : Nat) (m : ThreadMsg) (rest : List ThreadMsg),
    List.find? (fun (q : ThreadMsg) => q.core == core && !q.rejected) s.threads = some m → rest = s.threads.filter (fun q => q != m) →
    s.ingress core m.ctx.ptag = true → s.homeRoom m = true → (s.core core).diverted = false → m.parent = none → m.ctx.anchorMode = .away → m.ctx.anchorCore ≠ core →
    m.slot = some k → ({ s with threads := rest } : State).slotFree core k = true →
    (s.me.core ≠ core ∨ s.me.slot ≠ k) → m.ctx.live = true →
    ∃ (w : State) (c : Ctx), exec (.threadArrival core) s = .next w ∧ w.at? core k = some c ∧ c.cid = m.ctx.cid ∧ c.pc = m.ctx.pc ∧
      c.g = m.ctx.g ∧ c.wait = .none ∧ c.vFull = BitVec.allOnes 32 ∧ w.threads = rest ∧ w.mem = s.mem) ∧
  (∀ (s : State) (core : Nat) (m : ThreadMsg) (rest : List ThreadMsg),
    List.find? (fun (q : ThreadMsg) => q.core == core && !q.rejected) s.threads = some m → rest = s.threads.filter (fun q => q != m) →
    s.ingress core m.ctx.ptag = false →
    exec (.threadArrival core) s = .next (({ s with threads := rest } : State).refuseThread m)) ∧
  (∀ (s : State) (core : Nat),
    ((s.core core).diverted = true ∨ (s.core core).spqa.toNat % 2 ^ 56 = 0 ∨ (s.core core).pressed = none →
      exec (.spillDiversion core) s = .next s) ∧
    (∀ t, (s.core core).pressed = some t → s.cyc < t + 8192 → exec (.spillDiversion core) s = .next s) ∧
    (∀ t, (s.core core).pressed = some t → t + 8192 ≤ s.cyc →
      (s.core core).diverted = false → (s.core core).spqa.toNat % 2 ^ 56 ≠ 0 →
      ∃ (w : State) (r : TrapRec), exec (.spillDiversion core) s = .next w ∧ (w.core core).spill = some r ∧ r.cls = .spillQ ∧
        r.addr = (s.core core).spqa ∧ (w.core core).diverted = true))

/-- R231, R307, R308: AOWN, ASPILL and AFILL complete once the core's queue is empty and no command of it runs: AOWN sets the owner, and a
change of tag makes the owner state zero; ASPILL writes the image of a unit; AFILL fills it from one that it accepts.
The model's own choices in it are those of log 37. -/
def Obligations.OwnerStateInstructions : Prop :=
  (∀ (s u : State) (sr : Reg) (v : Word), s.part.isBarrel s.me.core = true → s.namesOk [sr] → readG sr s = .ok (v, u) →
    v &&& ~~~0x10FFFF#64 = 0 → (u.core u.me.core).mq = [] →
    ∃ w : State, completes (.aown sr) s w ∧ (w.core u.me.core).aown = v ∧ w.mem = s.mem ∧ w.me = u.me ∧
      (v.getLsbD 20 = false ∨ v.extractLsb' 0 16 ≠ (u.core u.me.core).ownTag → (w.core u.me.core).mx = MxState.zero) ∧
      (v.getLsbD 20 = true → v.extractLsb' 0 16 = (u.core u.me.core).ownTag → (w.core u.me.core).mx = (u.core u.me.core).mx)) ∧
  (∀ (s u u1 : State) (i : BitVec 4) (sr : Reg) (x : Word) (a n : Nat), s.part.isBarrel s.me.core = true → s.namesOk [sr] →
    readG sr s = .ok (x, u) → i.toNat ≤ 12 → a = x.toNat % 2 ^ 56 → n = (if i.toNat = 12 then 16 else 4096) →
    a % (if i.toNat = 12 then 16 else 128) = 0 → regionOf u.part a = .main → u.sealedAt a n = false → (u.core u.me.core).mq = [] → u.noSnap = true →
    u.linesGate (a / 128 * 128) ((n + 127) / 128) = (true, u1) → u1.memOk = true →
    ∃ w : State, completes (.aspill i sr) s w ∧ w.me = u1.me ∧ (w.core u.me.core).mx = (u1.core u.me.core).mx ∧
      ((u1.core u1.me.core).mx.poisonOf i.toNat = [] →
        w.rdMain 0 a ((u1.core u1.me.core).mx.image i.toNat).length = (u1.core u1.me.core).mx.image i.toNat)) ∧
  (∀ (s u : State) (i : BitVec 4) (sr : Reg) (x : Word) (a n : Nat) (m : MxState), s.part.isBarrel s.me.core = true → s.namesOk [sr] →
    readG sr s = .ok (x, u) → i.toNat ≤ 12 → a = x.toNat % 2 ^ 56 → n = (if i.toNat = 12 then 16 else 4096) →
    a % (if i.toNat = 12 then 16 else 128) = 0 → regionOf u.part a = .main → (u.core u.me.core).mq = [] →
    (u.core u.me.core).mx.fill i.toNat (u.rdMain 0 a n) = some m → u.anyPoison (linesOf (a / 128 * 128) (a % 128) n) = false →
    ∃ w : State, completes (.afill i sr) s w ∧ (w.core u.me.core).mx = m ∧ w.me = u.me ∧ w.mem = s.mem)

/-! ## The matrix unit, the engines and the fabric -/

/-- R230, R241, R244-R256: a matrix instruction of the slot whose tag owns, or comes to own, the unit enters the queue of its core; MQST waits for
its value, the destination of AMOV becomes pending. Another owner's state makes it trap ACC_OWNER; a full queue parks it.
The model's own choices in it are those of log 37. -/
def Obligations.MatrixInstructionsIssue : Prop :=
  (∀ (s u : State) (sr : Reg) (v : Word), s.atAnchor → readG sr s = .ok (v, u) → u.matrixRoom false →
    (∀ d, mcfgLegal v = true → enters (.mcfg d sr) s u (.mcfg d v) id) ∧
    (fld v 63 32 = 0 → fcLegal (v.extractLsb' 0 32) = true → enters (.mfmt sr) s u (.mfmt (v.extractLsb' 0 32)) id)) ∧
  (∀ (s u : State) (sr : Reg) (x : Word) (a : Nat), s.atAnchor → readG sr s = .ok (x, u) → a = x.toNat % 2 ^ 56 → a % 16 = 0 →
    u.isLocal (u.me.core / 8) a = true → u.matrixRoom true →
    (∀ d, enters (.mperm d sr) s u (.mperm d a) id) ∧ (∀ n d, enters (.mmeta n d sr) s u (.mmeta n d a) id)) ∧
  (∀ (s s1 u : State) (sr t : Reg) (x y : Word) (a : Nat) (st : Option Nat), s.atAnchor → readG sr s = .ok (x, s1) → a = x.toNat % 2 ^ 56 →
    (if t = 0 then st = none ∧ u = s1 else readG t s1 = .ok (y, u) ∧ fld y 63 20 = 0 ∧ st = some y.toNat) →
    u.isLocal (u.me.core / 8) a = true → u.matrixRoom true →
    (a % 4 = 0 → st.getD 0 % 4 = 0 → ∀ sc d, enters (.mld sc d sr t) s u (.mld sc d a st) id) ∧
    (a % 16 = 0 → st.getD 0 % 16 = 0 → ∀ d, enters (.ast d sr t) s u (.ast d a st) id ∧ enters (.ald d sr t) s u (.ald d a st) id)) ∧
  (∀ (s s1 u : State) (d : BitVec 3) (sr t : Reg) (x n : Word) (a : Nat), s.atAnchor → readG sr s = .ok (x, s1) → readG t s1 = .ok (n, u) →
    a = x.toNat % 2 ^ 56 → a % 16 = 0 → n.toNat % 16 = 0 → 128 ≤ n.toNat → n.toNat ≤ 5120 → (2560 < n.toNat → d.getLsbD 0 = false) →
    u.isLocal (u.me.core / 8) a = true → u.matrixRoom true → enters (.mldc d sr t) s u (.mldc d a n.toNat) id) ∧
  (∀ s : State, s.atAnchor → s.matrixRoom false →
    (∀ d, enters (.mzero d) s s (.mzero d) id) ∧
    (∀ d sr b, enters (.mma d sr b) s s (.mma d sr b) id) ∧
    (∀ d sr b x, enters (.mmas d sr b x) s s (.mmas d sr b x) id) ∧
    (∀ d sr b, enters (.mman d sr b) s s (.mman d sr b) id) ∧
    (∀ d sel, freeG d s = .ok ((), s) → enters (.mqst d sel) s s (.mqst d sel) (fun c => { c with wait := .reply })) ∧
    (∀ d sr row half, s.me.vPend.getLsbD d.toNat = false → enters (.amov d sr row half) s s (.amov d sr row half) (fun c => c.pendV d)) ∧
    (∀ d sr row half x, readV sr s = .ok (x, s) → enters (.amovv d sr row half) s s (.amovv d x row half) id)) ∧
  (∀ (s : State) (d : BitVec 2) (a b : BitVec 3), s.atAnchor →
    ((s.core s.me.core).ownValid = true → (s.core s.me.core).ownTag ≠ s.me.ctxtag →
      exec (.mma d a b) s = .next (s.takeTrap .accOwner 0 (s.core s.me.core).aown false)) ∧
    ((s.core s.me.core).ownValid = false ∨ (s.core s.me.core).ownTag = s.me.ctxtag → 16 ≤ (s.core s.me.core).mq.length →
      exec (.mma d a b) s = .next (s.modMe Ctx.bubble)))

/-- R220, R221, R233-R236, R242, R252: the unit starts a head of a squad's queues, when no sub-array is gated; the command in its turn
completes with its effect, and `tl` falls; a new budget period, of 10 µs, has nothing charged; idle sub-arrays of the C2 gate and wake.
The model's own choices in it are those of log 18 and log 37. -/
def Obligations.MatrixUnitSteps : Prop :=
  (∀ (s t : State) (q i u : Nat), (s.countDeferred q).pickHead q = (some (i, u), t) → (t.squad q).gated = false →
    ∃ w : State, exec (.matrixCommandStart q) s = .next w ∧
      ∀ c r, (t.core (8 * q + i)).mq = c :: r → (w.core (8 * q + i)).mrun = true ∧ (w.squad q).served = i) ∧
  (∀ (s : State) (core : Nat) (c : MCmd) (rest : List MCmd) (x : MxState), (s.core core).mq = c :: rest → (s.core core).mrun = true →
    x = (s.core core).mx → s.matrixSpoilt core c = false → c.holds = [] → (∀ p : Nat × Ctx, p ∈ s.saved → p.2.cid ≠ c.cid) →
    (∀ d a b acc, c.op = .mma d a b → x.mma true d.toNat a.toNat b.toNat = .ok acc →
      ∃ w : State, exec (.matrixCommandComplete core) s = .next w ∧ (w.core core).mx = x.setAcc d.toNat acc ∧ (w.core core).mq = rest ∧
        (w.core core).mrun = false ∧ w.mem = s.mem) ∧
    (∀ d a b acc, c.op = .mman d a b → x.mma false d.toNat a.toNat b.toNat = .ok acc →
      ∃ w : State, exec (.matrixCommandComplete core) s = .next w ∧ (w.core core).mx = x.setAcc d.toNat acc ∧ (w.core core).mq = rest ∧
        (w.core core).mrun = false ∧ w.mem = s.mem) ∧
    (∀ d, c.op = .mzero d → ∃ w : State, exec (.matrixCommandComplete core) s = .next w ∧
      (w.core core).mx = x.setAcc d.toNat { el := [], poison := [] } ∧ (w.core core).mq = rest ∧ (w.core core).mrun = false ∧ w.mem = s.mem) ∧
    (∀ v, c.op = .mfmt v → ∃ w : State, exec (.matrixCommandComplete core) s = .next w ∧ (w.core core).mx = { x with fc := v } ∧
      (w.core core).mq = rest ∧ (w.core core).mrun = false ∧ w.mem = s.mem)) ∧
  (∀ (s : State) (core : Nat), (s.core core).mrun = false ∨ (s.core core).mq = [] → exec (.matrixCommandComplete core) s = .next s) ∧
  (∀ (s : State) (q : Nat),
    (s.clk / 10000 ≤ (s.squad q).mperiod → exec (.matrixBudgetPeriod q) s = .next s) ∧
    ((s.squad q).mperiod < s.clk / 10000 → ∃ w : State, exec (.matrixBudgetPeriod q) s = .next w ∧ (w.squad q).mused = 0 ∧
      (w.squad q).mperiod = s.clk / 10000 ∧ w.mem = s.mem ∧ w.me = s.me)) ∧
  (∀ (s : State) (q : Nat),
    (s.part = .c2 → fld (s.squad q).mgate 15 0 ≠ 0 → s.queuesEmpty q = true → (s.squad q).mIdle + fld (s.squad q).mgate 15 0 ≤ s.cyc →
      exec (.matrixGate q) s = .next (s.modSquad q (fun k => { k with gated := true }))) ∧
    (s.part = .x4 ∨ fld (s.squad q).mgate 15 0 = 0 ∨ s.queuesEmpty q = false ∨ s.cyc < (s.squad q).mIdle + fld (s.squad q).mgate 15 0 →
      exec (.matrixGate q) s = .next s) ∧
    ((s.squad q).gated = true → (s.squad q).waking = true → (s.squad q).mIdle + 96 ≤ s.cyc →
      exec (.matrixWake q) s = .next (s.modSquad q (fun k => { k with gated := false, waking := false }))) ∧
    ((s.squad q).gated = false ∨ (s.squad q).waking = false ∨ s.cyc < (s.squad q).mIdle + 96 → exec (.matrixWake q) s = .next s))

/-- R93-R96: an engine instruction, with room in the scoreboard and in `cp` and its destination not pending, passes its command. With a completion
address in main memory it also sends the FEMARK that makes the granule empty. An LG9-C2 has no Rally engine: NOTPRESENT, unit 4.
The model's own choices in it are those of log 51. -/
def Obligations.EngineCommandsIssue : Prop :=
  ∀ (s u : State) (i : Instr) (op : EngOp) (d sr : Reg) (desc : List Word) (ca : Nat),
    ((∃ put fe, i = .cpy put fe d sr ∧ op = .cpy put fe) ∨ (∃ put fe, i = .cpyx put fe d sr ∧ op = .cpyx put fe) ∨
      (i = .cpyc d sr ∧ op = .cpyc) ∨ (∃ x m, i = .cfill x m d sr ∧ op = .cfill x m) ∨ (i = .gath d sr ∧ op = .gath) ∨
      (i = .scat d sr ∧ op = .scat) ∨ (∃ r, i = .echk r d sr ∧ op = .echk r) ∨ (i = .coll d sr ∧ op = .coll) ∨
      (i = .cgrp d sr ∧ op = .cgrp) ∨ (i = .cabt d sr ∧ op = .cabt)) →
    (op = .coll ∨ op = .cgrp ∨ op = .cabt → s.part = .c2 → exec i s = .next (s.takeTrap .notPresent 0 4 false)) ∧
    ((op = .coll ∨ op = .cgrp ∨ op = .cabt → s.part = .x4) → s.atAnchor → readDesc sr 0 op.count s = .ok (desc, u) →
      ca = (desc.getD 0 0).toNat % 2 ^ 56 → u.sbUsed (u.me.core / 8) < 64 → u.me.cp < 63 → (d = 0 ∨ u.me.gPend.getLsbD d.toNat = false) →
      (ca = 0 → passes i s u op d) ∧
      (ca ≠ 0 → regionOf u.part ca = .main → ca % 16 = 0 → u.refused46 u.me.ptag ca = false → u.me.allows ca 16 rightsSt = true →
        u.me.st < 63 → passes i s (u.femarkMain false ca [(ca, 1)]) op d ∧ (u.femarkMain false ca [(ca, 1)]).me.st = u.me.st + 1))

/-- R100, R104, R107: a command that is malformed goes to COMPLETING with FORMAT; one that passes its checks runs; one whose accesses are all
performed ends OK, and one with an access that fails with that status; a command that completes fills its register with its number, its engine and its status, lowers `cp` and leaves its squad. An extent entry is invalidated in every
cache. A compaction that waits for the invalidation then goes on.
The model's own choices in it are those of log 52, log 53 and log 91. -/
def Obligations.EngineAndExtentSteps : Prop :=
  (∀ (s : State) (id : Nat) (c : Cmd), s.cmd? id = some c → c.st = .accepted → s.blocked c.squad id = false →
    (c.op = .cpyc → 2 ^ 26 < c.w 3 → exec (.engineStart id) s = .next (s.endCmd c.id 6 0 (decide (0 < c.w 3 % 2 ^ 27)) 0)) ∧
    (c.op = .cpyc → c.w 3 ≤ 2 ^ 26 → s.localFail c = none → ∃ w : State, exec (.engineStart id) s = .next w ∧
      w = (s.holdTiles c.squad c.tiles).modCmd c.id (fun k =>
        { k with st := .running, ext := none, xent := none, holds := c.tiles, t0 := s.clk })) ∧
    (c.op = .coll → exec (.engineStart id) s = .next (s.collStart c)) ∧
    (c.op = .cgrp → exec (.engineStart id) s = .next (s.cgrpStart c)) ∧
    (c.op = .cabt → exec (.engineStart id) s = .next (s.cabtStart c))) ∧
  (∀ (s : State) (id : Nat) (c : Cmd), s.cmd? id = some c → c.op.engine ≠ 2 → (∀ wr, c.op ≠ .matrix wr) → c.st = .running →
    (∀ e, c.ext = some e → e.node = 0) → s.localReady c = (true, s) →
    (∀ (t : State) (k : Cmd) (status detail bytes : Nat), runData c.id none c.steps s = .fail t status detail bytes → t.cmd? c.id = some k →
      exec (.engineAccessFailure id) s =
        .next (((t.strayRest k).touchAll c.squad c.holds).endCmd c.id status bytes (decide (bytes < c.requested)) detail) ∧
      exec (.engineComplete id) s = .next t) ∧
    (∀ (t v : State) (k : Cmd), runData c.id none c.steps s = .all t → v = (t.touchAll c.squad c.holds).endCmd c.id 0 c.requested false 0 →
      v.cmd? c.id = some k → k.st = .completing → exec (.engineComplete id) s = .next (v.finishCmd k)) ∧
    (∀ t : State, runData c.id none c.steps s = .wait t → exec (.engineComplete id) s = .next t ∧ exec (.engineAccessFailure id) s = .next t)) ∧
  (∀ (s : State) (id : Nat) (c : Cmd) (k : Ctx), s.cmd? id = some c → (∀ wr, c.op ≠ .matrix wr) → c.st = .completing →
    s.femarkDone c = true → c.ca = 0 → c.orphan = false → c.status = 0 → c.holds = [] → s.byCid c.cid = some k →
    ∃ (w : State) (k1 : Ctx), exec (.engineComplete id) s = .next w ∧ w.at? k.core k.slot = some k1 ∧ k1.cp = k.cp - 1 ∧ k1.pc = k.pc ∧
      (c.d ≠ 0 → k1.g[c.d.toNat] = BitVec.ofNat 64 (2 ^ 32 * c.cseq.toNat + 2 ^ 16 * (c.op.engine % 256) + 2 ^ 24 * c.part.toNat) ∧
        k1.gFull.getLsbD c.d.toNat = true ∧ k1.gPend.getLsbD c.d.toNat = false) ∧
      (w.squad c.squad).cmds = (s.squad c.squad).cmds.filter (fun (x : Cmd) => x.id != c.id) ∧ w.mem = s.mem) ∧
  (∀ (s : State) (e : Nat), ∃ w : State, exec (.extentInvalidate e) s = .next w.compactStep ∧ (s.compacts = [] → w.compactStep = w) ∧
    w.invalidating.contains e = true ∧ w.mem = s.mem ∧ w.me = s.me ∧ ∀ p : Nat × SquadSt, p ∈ w.squads → ∀ x : Nat × List Word, x ∈ p.2.xcache → x.1 ≠ e) ∧
  (∀ (s : State) (e : Nat), (∀ p : Nat × SquadSt, p ∈ s.squads → ∀ c : Cmd, c ∈ p.2.cmds → c.xent ≠ some e) →
    ∃ w : State, exec (.extentInvalidateDone e) s = .next w.compactStep ∧ (s.compacts = [] → w.compactStep = w) ∧
      w.invalidating.contains e = false ∧ w.mem = s.mem ∧ w.me = s.me)

/-- R115, R404, R409-R415: packets of an older generation are counted and dropped. A JOIN of the generation that forms, with the same list and
in time, joins its member. Held packets older than the deadline are dropped; a group whose members have not joined in time is LOST. Ring data
that comes early is kept. A step whose wait reaches the deadline breaks the group with TIMEOUT. A notice breaks a formed group, and is kept
while it forms.
The model's own choices in it are those of log 20 and log 54. -/
def Obligations.CollectivePackets : Prop :=
  (∀ (s : State) (p : Packet) (lp : Nat) (g : Group), packetHere p s → s.paired p.src p.part = some lp → g = s.group lp p.group →
    (genBelow p.gen g.gen = true →
      (∃ w : State, exec (.joinPacket p) s = .next w ∧ (w.group lp p.group).stale = satInc g.stale ∧ w.mem = s.mem) ∧
      (∃ w : State, exec (.collData p) s = .next w ∧ (w.group lp p.group).stale = satInc g.stale ∧ w.mem = s.mem) ∧
      (∃ w : State, exec (.abort p) s = .next w ∧ (w.group lp p.group).stale = satInc g.stale ∧ w.mem = s.mem)) ∧
    (genBelow p.gen g.gen = false → p.gen = g.gen →
      (∀ i, g.begun = true → List.find? (fun j => g.node j == p.src) (List.range g.members) = some i → p.operand = g.lcrc →
        s.clk < g.t0 + g.deadline → (∃ j, j < g.members ∧ j ≠ i ∧ g.joined.contains j = false) →
        ∃ w : State, exec (.joinPacket p) s = .next w ∧ (w.group lp p.group).joined.contains i = true ∧ w.mem = s.mem) ∧
      ((∀ r ∈ g.colls, r.wants g p = false ∨ r.x = []) →
        exec (.collData p) s = .next ((s.takeUp p).modGroup lp p.group (fun g => { g with inbox := g.inbox ++ [p] }))) ∧
      (g.st = .forming → ∃ w : State, exec (.abort p) s = .next w ∧ (w.group lp p.group).abortKept = some (g.abortKept.getD p.rank)) ∧
      (g.st = .formed → g.colls = [] → ∃ w : State, exec (.abort p) s = .next w ∧ (w.group lp p.group).st = .broken ∧
        (w.group lp p.group).bstat = 0x11 ∧ (w.group lp p.group).brank = p.rank))) ∧
  (∀ (s : State) (part gid : Nat), ∃ w : State, exec (.joinHoldExpiry part gid) s = .next w ∧ w.mem = s.mem ∧
    ∀ x, x ∈ (w.group part gid).heldPk ↔ (x ∈ (s.group part gid).heldPk ∧ s.clk < x.2 + (s.group part gid).deadline)) ∧
  (∀ (s : State) (part gid id : Nat), (s.group part gid).cmd = some id → (s.group part gid).begun = true →
    ((s.group part gid).t0 + (s.group part gid).deadline ≤ s.clk → ∃ w : State, exec (.cgrpDeadline part gid) s = .next w ∧
      (w.group part gid).st = .lost ∧ (w.group part gid).cmd = none ∧ w.mem = s.mem) ∧
    (s.clk < (s.group part gid).t0 + (s.group part gid).deadline → exec (.cgrpDeadline part gid) s = .next s)) ∧
  (∀ (s : State) (c : Cmd) (id gid : Nat) (r : CollRun), s.cmd? id = some c → gid = c.w 1 % 256 → (s.group c.ptag gid).run? id = some r →
    (r.step ≠ 0 → r.owed = 0 → exec (.collStepAck id) s =
      .next ((s.modRun c.ptag gid id (fun k => { k with acked := true })).collGo c)) ∧
    (r.step ≠ 0 → (r.got && r.acked) = false → r.t0 + (s.group c.ptag gid).deadline ≤ s.clk →
      ∃ w : State, exec (.collStepTimeout id) s = .next w ∧ (w.group c.ptag gid).st = .broken ∧ (w.group c.ptag gid).bstat = 0x12 ∧
        w.mem = s.mem) ∧
    (r.step = 0 ∨ (r.got && r.acked) = true ∨ s.clk < r.t0 + (s.group c.ptag gid).deadline → exec (.collStepTimeout id) s = .next s))

/-- R404-R410: ports train, come up and fail; a flit in order is acknowledged. A request of another device that was performed already is only
answered again; one that is refused is answered with its cause and performs nothing; the answers to this device are taken; an ATOMIC is
performed once for each number; a budget period starts the counts again.
The model's own choices in it are those of log 20, log 55 and log 56. -/
def Obligations.LinksAndPackets : Prop :=
  (∀ (s : State) (port : Nat),
    (port < s.part.links → ∃ w : State, exec (.linkTrain port) s = .next w ∧ (w.link port).st = .training ∧ w.mem = s.mem) ∧
    (s.part.links ≤ port → exec (.linkTrain port) s = .next s) ∧
    (∀ pn pp, (s.link port).st = .training → ∃ w : State, exec (.linkTrained port pn pp) s = .next w ∧
      (w.link port).st = .up ∧ (w.link port).pnode = pn ∧ (w.link port).pport = pp ∧ w.mem = s.mem) ∧
    ((s.link port).st = .up → exec (.laneLockLoss port) s = .next (s.portFails port) ∧
      exec (.linkIdleTimeout port) s = .next (if (s.link port).heard + 10000 ≤ s.clk then s.portFails port else s) ∧
      exec (.replayLimit port) s = .next (if 16 ≤ (s.link port).streak then s.portFails port else s)) ∧
    (s.fab.groups = [] → ((s.portFails port).link port).st = .failed) ∧
    ((s.link port).st = .down ∨ (s.link port).st = .failed → exec (.laneLockLoss port) s = .next s ∧ exec (.linkIdleTimeout port) s = .next s ∧
      exec (.replayLimit port) s = .next s ∧ ∀ f, exec (.flitReceive port f) s = .next s)) ∧
  (∀ (s : State) (port : Nat) (f : Flit), (s.link port).st = .up →
    (flitOk f = true → f.lseq = (s.link port).rx → f.lkind = 1 ∨ f.lkind = 2 → ∃ w : State, exec (.flitReceive port f) s = .next w ∧
      (w.link port).rx = f.lseq + 1 ∧ (w.link port).acks = (s.link port).acks ++ [(f.lseq, true)] ∧ w.mem = s.mem ∧
      (∀ pk, f.lkind = 1 → packetOf port [f.pay] = some pk → w.fab.arrived = s.fab.arrived ++ [pk])) ∧
    (flitOk f = true → f.lkind = 3 → exec (.flitReceive port f) s = .next (s.modLink port (fun k =>
      { (k.acked f.lseq) with credit := k.credit + f.credit.toNat, heard := s.clk }))) ∧
    (flitOk f = false ∨ (f.lkind = 1 ∨ f.lkind = 2) ∧ f.lseq ≠ (s.link port).rx → ∃ w : State, exec (.flitReceive port f) s = .next w ∧ (w.link port).rx = (s.link port).rx ∧
      (w.link port).acks = (s.link port).acks ++ [((s.link port).rx - 1, false)] ∧ w.mem = s.mem)) ∧
  (∀ (s : State) (p : Packet) (lp : Nat), packetHere p s → s.paired p.src p.part = some lp →
    (s.seen p = true → exec (.write p) s = .next ((s.takeUp p).answer p 5 lp 0 0 [])) ∧
    (∀ st, s.seen p = false → s.requestFails (some lp) p p.data.length true = some st → exec (.write p) s = .next ((s.takeUp p).answer p 5 lp st 0 [])) ∧
    (∀ t, s.seen p = false → s.requestFails (some lp) p p.data.length true = none →
      (s.takeUp p).farReady (remoteCmd lp) true (linesIn p.addr p.data.length) = (true, t) → (s.takeUp p).behind p = false →
      ∃ w : State, exec (.write p) s = .next w ∧ w.seen p = true) ∧
    (∀ st, s.requestFails (some lp) p p.rank false = some st → exec (.read p) s = .next ((s.takeUp p).answer p 2 lp st 0 [])) ∧
    (∀ t, s.requestFails (some lp) p p.rank false = none → (s.takeUp p).farReady (remoteCmd lp) false (linesIn p.addr p.rank) = (true, t) →
      (s.takeUp p).behind p = false →
      ∃ w : State, exec (.read p) s = .next w ∧ w.seen p = true) ∧
    (∀ x, List.find? (fun (x : BitVec 32 × BitVec 32) => x.1 == p.pseq) (s.replies p.src) = some x →
      exec (.atomic p) s = .next ((s.takeUp p).answer p 4 lp x.2.toNat 0 [])) ∧
    (∀ t old, List.find? (fun (x : BitVec 32 × BitVec 32) => x.1 == p.pseq) (s.replies p.src) = none → (s.replies p.src).length < 256 →
      p.addr % 4 = 0 → s.requestFails (some lp) p 4 true = none → s.requestFails (some lp) p 4 false = none →
      (s.takeUp p).remoteAdd p = (t, some old) → ∃ w : State, exec (.atomic p) s = .next w ∧ (p.pseq, old) ∈ w.replies p.src ∧ w.mem = t.mem)) ∧
  (∀ (s : State) (p : Packet), packetHere p s →
    (s.waiter p = none → (∃ w : State, exec (.readReply p) s = .next w ∧ w.mem = s.mem ∧
        w.fab.unanswered = s.fab.unanswered.filter (fun x => !(x.dst == p.src && x.pseq == BitVec.ofNat 32 p.addr))) ∧
      (∃ w : State, exec (.writeAck p) s = .next w ∧ w.mem = s.mem ∧
        w.fab.unanswered = s.fab.unanswered.filter (fun x => !(x.dst == p.src && x.pseq == BitVec.ofNat 32 p.addr)))) ∧
    (s.fab.unanswered.any (fun x => x.dst == p.src && x.pseq == BitVec.ofNat 32 p.addr) = true →
      ∃ w : State, exec (.atomicReply p) s = .next w ∧ w.fab.recorded = s.fab.recorded ++ [(p.src, BitVec.ofNat 32 p.addr, p.operand)] ∧
        w.mem = s.mem) ∧
    (∃ w : State, exec (.release p) s = .next w ∧ w.mem = s.mem ∧
      ∀ x : BitVec 32 × BitVec 32, x ∈ w.replies p.src ↔ (x ∈ s.replies p.src ∧ x.1 ≠ BitVec.ofNat 32 p.addr))) ∧
  (∀ (s : State) (id : Nat) (c : Cmd) (e : Extent), s.cmd? id = some c → c.ext = some e → c.st = .running →
    (s.clk < c.t0 + s.fab.ldead * 1000 ∨ e.node = 0 → exec (.remoteDeadline id) s = .next s) ∧
    (e.node ≠ 0 → c.made = false → c.op.writesFar = true → c.pend = [] → c.t0 + s.fab.ldead * 1000 ≤ s.clk →
      exec (.remoteDeadline id) s = .next (s.endCmd id
        (if (match s.routeOf e.node with | some q => (s.link q).st == .failed | none => false : Bool) = true then 0x13 else 0x12)
        (gotUpTo c.got c.got.length 0) (decide (gotUpTo c.got c.got.length 0 < c.requested)) 0))) ∧
  (∀ s : State, s.clk / 10000 ≤ s.period → exec .budgetPeriod s = .next s) ∧
  (∀ s : State, s.period < s.clk / 10000 → s.senders = [] → s.fab.groups = [] → ∃ w : State, exec .budgetPeriod s = .next w ∧ w.fab.used = [] ∧ w.period = s.clk / 10000 ∧ w.mem = s.mem ∧
    (s.slots = [] → s.me.live = true → s.me.rcb ≠ 0 → w.me.eff = s.me.eff.renew (s.rcbEff s.me.rcb.toNat)))

/-! ## Errors, interrupts, the host, queues, plays, seals, partitions and resets -/

/-- R359-R363, R387: errors poison what they hit; an event is counted and handed to the device or the host as its entry says, and its claimant
clears it; a read of the semaphore acquires it and returns 0 while it is free, and returns the register otherwise; it is renewed and released by its holder, and free once its lease has run. -/
def Obligations.ErrorsInterruptsAndSemaphore : Prop :=
  (∀ (s : State) (line : Nat),
    exec (.uncorrectableError (.dram line)) s = .next (s.setPoison (128 * line) true) ∧
    exec (.memoryScrub line false) s = .next s ∧
    exec (.memoryScrub line true) s = .next ((s.setPoison (128 * line) true).poisonReport line) ∧
    (s.setPoison (128 * line) true).isPoison (128 * line) = true ∧ (s.noSnap = true → (s.setPoison (128 * line) true).mem = s.mem)) ∧
  (∀ (s : State) (c : Ctx) (n : Nat), s.at? c.core c.slot = some c → 0 < n → n < 56 →
    ∃ (w : State) (k : Ctx), exec (.uncorrectableError (.greg c.core c.slot n)) s = .next w ∧ w.at? c.core c.slot = some k ∧
      k.gPoison.getLsbD n = true ∧ k.g = c.g ∧ w.mem = s.mem) ∧
  (∀ (s : State) (e : ErrSite), ∃ w : State, exec (.correctableError e) s = .next w ∧ w.boot.corrected = s.boot.corrected + 1 ∧
    w.mem = s.mem ∧ w.me = s.me ∧ w.slots = s.slots ∧ w.poison = s.poison) ∧
  (∀ (s : State) (n : Nat) (e : Irq) (m : Nat × Nat), e = s.irq n → m = ((e.irte.extractLsb' 16 8).toNat, (e.irte.extractLsb' 4 12).toNat) →
    (n < 1094 → ∃ w : State, exec (.interruptEvent n) s = .next w ∧ w.mem = s.mem ∧
      (e.st ≠ .idle ∨ e.irte.getLsbD 2 = false → w.irq n = { e with events := e.events + 1 } ∧ w.msix = s.msix ∧ w.signals = s.signals) ∧
      (e.st = .idle → e.irte.getLsbD 2 = true →
        (e.irte.extractLsb' 0 2 = 0 → (w.irq n).st = .device ∧ w.signals = s.signals ++ [n] ∧ w.msix = s.msix) ∧
        (e.irte.extractLsb' 0 2 = 1 → (w.irq n).st = .host ∧ w.msix = s.msix ++ [m] ∧ w.signals = s.signals) ∧
        (e.irte.extractLsb' 0 2 = 2 → (w.irq n).st = .devWait ∧ (w.irq n).t0 = s.clk ∧ w.signals = s.signals ++ [n] ∧ w.msix = s.msix))) ∧
    (e.st = .devWait → exec (.irqAck n) s = .next (s.modIrq n (fun e => { e with st := .device })) ∧
      exec (.irqEscalate n) s = .next { s.modIrq n (fun e => { e with st := .host }) with msix := s.msix ++ [m] } ∧
      (e.t0 + 20000 ≤ s.clk → exec (.irqTimerExpiry n) s = .next { s.modIrq n (fun e => { e with st := .host }) with msix := s.msix ++ [m] }) ∧
      (s.clk < e.t0 + 20000 → exec (.irqTimerExpiry n) s = .next s)) ∧
    (e.st = .device ∨ e.st = .host → exec (.irqStateClear n) s = .next (s.modIrq n (fun e => { e with st := .idle }))) ∧
    (e.st ≠ .devWait → exec (.irqAck n) s = .next s ∧ exec (.irqEscalate n) s = .next s ∧ exec (.irqTimerExpiry n) s = .next s)) ∧
  (∀ (s : State) (h : BitVec 2),
    (s.sema.busy = false → h ≠ 0 → ∃ w : State, exec (.semaAcquire h) s = .next w ∧ w.sema.busy = true ∧ w.sema.holder = h ∧
      w.sema.t0 = s.clk ∧ w.sema.lease = 10000 ∧ w = (s.startLease h).regReturn h 0) ∧
    (s.sema.busy = true → h ≠ 0 → exec (.semaAcquire h) s = .next (s.regReturn h s.semaWord)) ∧
    (∀ v : Word, (s.regReturn 3 v).fwReads = s.fwReads ++ [v] ∧ (s.regReturn 1 v).hostReads = s.hostReads ++ [toBytes 8 v.toNat]) ∧
    (s.holds h = true → ∃ w : State, exec (.semaRenew h) s = .next w ∧ w.sema.t0 = s.clk ∧ w.sema.lease = 10000 ∧ w.sema.holder = s.sema.holder) ∧
    (s.holds h = true → ∃ w : State, exec (.semaRelease h) s = .next w ∧ w.sema.busy = false ∧ w.sema.holder = 0) ∧
    (s.holds h = false → exec (.semaRenew h) s = .next s ∧ exec (.semaRelease h) s = .next s) ∧
    (s.sema.busy = true → s.sema.t0 + s.sema.lease * 1000000 ≤ s.clk → ∃ w : State, exec .semaLeaseExpiry s = .next w ∧
      w.sema.busy = false ∧ (w.irq 1088).events = (s.irq 1088).events + 1) ∧
    (s.clk < s.sema.t0 + s.sema.lease * 1000000 → exec .semaLeaseExpiry s = .next s))

/-- R52, R389, R399, R408: a key slot is loaded, and a host window written, by an agent that holds the semaphore and refused otherwise; a
programmed access that its window allows reads or writes device memory, and a read that it does not allow answers all bytes 0xFF; an
interface goes from unlocked to locked to running and back.
The model's own choices in it are those of log 23 and log 70. -/
def Obligations.HostPortsAndInterfaces : Prop :=
  (∀ (s : State) (h : BitVec 2) (slot part : Nat),
    (s.holds h = true → 0 < slot → slot < 128 → part < 32 → ∃ w : State, exec (.keySlotLoad h slot part) s = .next w ∧
      w.keySlots.find? slot = some part ∧ w.mem = s.mem ∧ ∀ p : Nat × Nat, p ∈ w.keys → p.2 ≠ slot) ∧
    (s.holds h = false → ∃ w : State, exec (.keySlotLoad h slot part) s = .next w ∧ w.keySlots = s.keySlots ∧ w.keys = s.keys ∧
      w.sema.rej = satInc s.sema.rej)) ∧
  (∀ (s : State) (part w : Nat) (w0 w1 w2 : Word),
    (s.holds 3 = true → s.locked part = false → w < 8 → part < 32 →
      fld w1 47 0 = 0 ∨ s.partHolds part (fld w2 55 0) (fld w1 47 0) = true →
      ∃ t : State, exec (.hostWindowWrite part w w0 w1 w2) s = .next t ∧ t.mem = s.mem ∧ t.wcache = [] ∧
        (t.partn part).wins.find? w = some { w0 := w0, w1 := w1 &&& 0x801FFFFFFFFFFFFF#64, w2 := w2 &&& 0x00FFFFFFFFFFFFFF#64 }) ∧
    (s.holds 3 = false ∨ s.locked part = true → ∃ t : State, exec (.hostWindowWrite part w w0 w1 w2) s = .next t ∧
      t.parts = s.parts ∧ t.sema.rej = satInc s.sema.rej)) ∧
  (∀ (s : State) (part off n a die : Nat) (x d : HostWin), 5 ≤ s.boot.step → (s.partn part).vf = true →
    x = (s.partn part).wins.getD HostWin.reset (off / 2 ^ 40) → die = s.dieOf (s.chanOf ((fld x.w2 55 0 + off % 2 ^ 40) % 2 ^ 56)) →
    d = s.winAt die part (off / 2 ^ 40) → a = (fld d.w2 55 0 + off % 2 ^ 40) % 2 ^ 56 →
    (off / 2 ^ 40 < 8 → d.w1.getLsbD 63 = true → off % 2 ^ 40 < fld d.w1 47 0 → d.w1.getLsbD 51 = true → s.classAFails part a n false = false →
      ∃ w : State, exec (.hostProgrammedAccess (.aperture part) off none n) s = .next w ∧ w.mem = s.mem ∧ w.svcDrops = s.svcDrops ∧
        w.hostReads = s.hostReads ++ [s.rdMain (s.rcbEff (fld (s.partn part).prcb 55 0)).key a n]) ∧
    (d.w1.getLsbD 63 = false ∨ d.w1.getLsbD 51 = false ∨ fld d.w1 47 0 ≤ off % 2 ^ 40 →
      ∃ w : State, exec (.hostProgrammedAccess (.aperture part) off none n) s = .next w ∧ w.mem = s.mem ∧ w.svcDrops = s.svcDrops + 1 ∧
        w.hostReads = s.hostReads ++ [List.replicate n 0xFF]) ∧
    (∀ b : List Byte, off / 2 ^ 40 < 8 → d.w1.getLsbD 63 = true → off % 2 ^ 40 < fld d.w1 47 0 → d.w1.getLsbD 52 = true →
      s.classAFails part a b.length true = false → s.memOk = true → s.noSnap = true → (∀ l, s.spillBlockAt l = false) →
      ∃ w : State, exec (.hostProgrammedAccess (.aperture part) off (some b) n) s = .next w ∧
        w.rdMain (s.rcbEff (fld (s.partn part).prcb 55 0)).key a b.length = b) ∧
    (∀ b : List Byte, d.w1.getLsbD 63 = false ∨ d.w1.getLsbD 52 = false ∨ fld d.w1 47 0 ≤ off % 2 ^ 40 →
      ∃ w : State, exec (.hostProgrammedAccess (.aperture part) off (some b) n) s = .next w ∧ w.mem = s.mem ∧ w.svcDrops = s.svcDrops + 1)) ∧
  (∀ (s : State) (port : Nat) (b : List Byte) (off : Nat), 5 ≤ s.boot.step → b.length = 8 → off % 8 = 0 →
    exec (.hostProgrammedAccess (.bar2 port) off (some b) 8) s = .next (s.ctlWrite (.port port) off (BitVec.ofNat 64 (ofBytes b)))) ∧
  (∀ (s : State) (vf : Nat), 1 ≤ vf → vf ≤ 32 →
    ((s.partn (vf - 1)).tdi = .unlocked → ∃ w : State, exec (.lockInterface vf) s = .next w ∧ (w.partn (vf - 1)).tdi = .locked ∧ w.mem = s.mem) ∧
    ((s.partn (vf - 1)).tdi = .locked → ∃ w : State, exec (.startInterface vf) s = .next w ∧ (w.partn (vf - 1)).tdi = .run ∧ w.mem = s.mem) ∧
    ((s.partn (vf - 1)).tdi ≠ .unlocked → ∃ w : State, exec (.stopInterface vf) s = .next w ∧ (w.partn (vf - 1)).tdi = .unlocked ∧ w.mem = s.mem) ∧
    ((s.partn (vf - 1)).tdi ≠ .unlocked → exec (.lockInterface vf) s = .next s) ∧
    ((s.partn (vf - 1)).tdi ≠ .locked → exec (.startInterface vf) s = .next s) ∧
    (∃ (w : State) (r : TdiReport), exec (.getDeviceInterfaceReport vf) s = .next w ∧ w.reports = s.reports ++ [r] ∧ r.vf = vf ∧
      r.queues = (s.partn (vf - 1)).qtab ∧ w.mem = s.mem))

/-- R390-R398: the queue table, doorbells, acceptance, the commands, retirement and mapping of user queues. A queue that is stored while it is
mapped keeps the copy that was stored.
The model's own choices in it are those of log 71. -/
def Obligations.UserQueues : Prop :=
  (∀ (s : State) (p q : Nat) (y : Qcb), y.mapped = true → (∀ a, s.qcbAt p q = some a → ((s.putQ p q y).writeBlock p a y).isSome = true) →
    ((s.storeQ p q y).partn p).qs.find? q = some y) ∧
  (∀ (s : State) (p q : Nat) (v : Word), p < 32 → q < 4096 →
    (s.locked p = true → exec (.queueTableWrite p q v) s = .next s.reject) ∧
    (s.locked p = false → (s.readQ p q = none ∧ (s.partn p).qs.find? q = none) ∨
        (∃ x, s.readQ p q = some x ∧ x.mapped = false ∧ x.accept = x.retire) →
      ∃ w : State, exec (.queueTableWrite p q v) s = .next w ∧
        (w.partn p).qtab.find? q = some (v &&& 0x80FFFFFFFFFFFFFF#64) ∧ w.mem = s.mem) ∧
    (∀ x, s.locked p = false → s.readQ p q = some x → x.mapped = true ∨ x.accept ≠ x.retire → exec (.queueTableWrite p q v) s = .next s)) ∧
  (∀ (s : State) (p q : Nat) (x : Qcb) (t : BitVec 32), 5 ≤ s.boot.step → (s.partn p).vf = true → s.loadQ p q = some x →
    (x.st = .error → exec (.doorbellKick p q t) s = .next s ∧
      exec (.doorbellReset p q) s = .next (s.storeQ p q { x with tail := x.accept, st := .idle })) ∧
    (x.st ≠ .error → exec (.doorbellReset p q) s = .next s) ∧
    (x.st ≠ .error → (t - x.accept).toNat + (x.accept - x.retire).toNat ≤ 2 ^ x.lsize → x.mapped = true →
      exec (.doorbellKick p q t) s = .next (s.storeQ p q { x with tail := t, st := .active })) ∧
    (x.st ≠ .error → (t - x.accept).toNat + (x.accept - x.retire).toNat ≤ 2 ^ x.lsize → x.mapped = false → t ≠ x.accept →
      exec (.doorbellKick p q t) s = .next (s.storeQ p q { x with tail := t, pend := true, since := s.clk })) ∧
    (x.st ≠ .error → 2 ^ x.lsize < (t - x.accept).toNat + (x.accept - x.retire).toNat →
      exec (.doorbellKick p q t) s = .next (s.queueError p q x 1 (t.setWidth 64) 0))) ∧
  (∀ (s : State) (p q : Nat) (x : Qcb) (e : List Word), s.loadQ p q = some x → (s.partn p).pstate = .active → x.mapped = true →
    x.st = .active → x.accept ≠ x.tail → (x.accept - x.retire).toNat < 2 ^ x.lsize → s.ringEntry p x x.accept = some e →
    (e.getD 1 0 = x.nseq → badEntry e = false → exec (.queueAccept p q) s = .next (s.storeQ p q { x with
      accept := x.accept + 1, nseq := x.nseq + 1,
      cmds := x.cmds ++ [{ op := (e.getD 0 0).toNat, seq := e.getD 1 0, arg := e.getD 2 0, done := false, dup := false, status := 0, inst := 0 }] })) ∧
    ((e.getD 1 0).toNat < x.nseq.toNat → exec (.queueAccept p q) s = .next (s.storeQ p q { x with
      accept := x.accept + 1,
      cmds := x.cmds ++ [{ op := (e.getD 0 0).toNat, seq := e.getD 1 0, arg := e.getD 2 0, done := true, dup := true, status := 0, inst := 0 }] })) ∧
    (x.nseq.toNat < (e.getD 1 0).toNat → exec (.queueAccept p q) s = .next (s.queueError p q x 2 (e.getD 1 0) (x.accept.toNat % 2 ^ x.lsize)))) ∧
  (∀ (s : State) (p q : Nat) (x : Qcb) (c : QCmd), s.loadQ p q = some x →
    (x.waiting 0 = some c → exec (.nopCommand p q) s = .next (s.storeQ p q (x.modCmd c.seq (fun c => c.finish 0)))) ∧
    (x.waiting 1 = some c → exec (.play p q) s = .next (s.submit p q x c)) ∧
    (x.waiting 2 = some c → exec (.hold p q) s = .next (s.storeQ p q
      { x.modCmd c.seq (fun c => c.finish 0) with npe := true, npeend := s.clk + Nat.min c.arg.toNat 2000 * 1000 })) ∧
    (x.npe = true → x.npeend ≤ s.clk → exec (.holdExpiry p q) s = .next (s.storeQ p q { x with npe := false })) ∧
    (x.npe = false ∨ s.clk < x.npeend → exec (.holdExpiry p q) s = .next s) ∧
    (∀ (r : List QCmd) (y : Qcb) (t : State), x.cmds = c :: r → c.op = 3 → c.done = false → s.signalGranule p x.tenant c.arg.toNat = (true, t) →
      t.loadQ p q = some y → exec (.signal p q) s = .next (t.storeQ p q (y.modCmd c.seq (fun c => c.finish 0)))) ∧
    (∀ (r : List QCmd) (t : State), x.cmds = c :: r → c.op = 3 → c.done = false → s.signalGranule p x.tenant c.arg.toNat = (false, t) →
      exec (.signal p q) s = .next t) ∧
    (∀ r : List QCmd, x.cmds = c :: r → c.done = true → c.dup = true →
      exec (.queueRetire p q) s = .next (s.storeQ p q { x with retire := x.retire + 1, cmds := r })) ∧
    (∀ (r : List QCmd) (t : State), x.cmds = c :: r → c.done = true → c.dup = false → (x.retire - x.chead).toNat ≠ 2 ^ x.lsize → x.inot = false →
      s.fwWrite p (s.rcbEff x.rcb).key (x.cbase / 32 * 32 + 32 * (x.retire.toNat % 2 ^ x.lsize))
        [c.seq, BitVec.ofNat 64 (c.status + c.op * 2 ^ 16), c.arg, BitVec.ofNat 64 s.clk] = some t →
      exec (.queueRetire p q) s = .next (t.storeQ p q { x with retire := x.retire + 1, cmds := r }))) ∧
  (∀ (s : State) (p q : Nat) (x : Qcb), exec (.queueMapping p) s = .next (s.remap p) ∧
    (s.firstPending p = none → s.remap p = s) ∧
    (s.loadQ p q = some x → x.pend = true → x.mapped = false → x.since + (s.partn p).age ≤ s.clk →
      exec (.queueAgeBoundary p q) s = .next (s.remap p)) ∧
    (s.loadQ p q = some x → x.mapped = true → x.mappedAt + (s.partn p).slice ≤ s.clk →
      exec (.queueSliceElapsed p q) s = .next (s.remap p)))

/-- R340-R349: an instance is eligible from its launch time on once its objects read full; a placed stage is released when its places are
empty; the missed-slot policy of one whose window has passed ends it, defers it, or lets it be late; rotation happens at slice boundaries of
an active partition only; a gang that has lost its patience chooses a drain set.
The model's own choices in it are those of log 57, log 58, log 59 and log 60. -/
def Obligations.KickoffSteps : Prop :=
  (∀ (s : State) (n : Nat) (i : PlayInst), s.inst? n = some i →
    (s.clk < i.t → exec (.instanceDue n) s = .next s) ∧
    (i.t ≤ s.clk → i.period = 0 → i.elig = none → i.waits.all s.objectFull = true →
      exec (.instanceDue n) s = .next (s.modInst n (fun i => { i with elig := some s.clk }))) ∧
    (i.t ≤ s.clk → i.period = 0 → i.waits.all s.objectFull = false → exec (.instanceDue n) s = .next s) ∧
    (s.missed i = false → i.waiting = true → exec (.stageRelease n) s = .next (s.tryPlace i)) ∧
    (s.missed i = true → i.dropped = false → i.released = false → exec (.stageRelease n) s = .next (s.dropLate i)) ∧
    (s.missed i = false → i.waiting = false → i.dropped = false → i.released = false → i.cells ≠ [] →
      (i.cells.getD (i.left - 1) []).any (fun x => (s.at? x.1 x.2).isSome) = false → exec (.stageRelease n) s = .next (s.releaseNext i)) ∧
    (i.dropped = true ∨ i.released = true → exec (.stageRelease n) s = .next s) ∧
    (s.clk < i.t + i.window ∨ i.released = true ∨ i.dropped = true → exec (.launchWindowExpiry n) s = .next s) ∧
    (i.t + i.window ≤ s.clk → i.released = false → i.dropped = false →
      (i.policy = 1 → exec (.launchWindowExpiry n) s = .next (s.modInst n (fun i => { i with late := true }))) ∧
      (i.policy = 0 → exec (.launchWindowExpiry n) s = .next ((s.giveUp i).launch_ i 2 0 0)) ∧
      (i.policy = 2 → exec (.launchWindowExpiry n) s = .next ((s.giveUp i).launch_ i 3 0 0))) ∧
    ((s.waiters i.part).findSome? (fun w => match w with | .inst j => if s.impatient j then some j.n else none | .ctx _ _ _ => none) = some n →
      (∀ j ∈ s.kick.insts, j.part = i.part → j.drain = []) → s.drainSet i ≠ [] →
      ∃ w : State, exec (.gangPatienceExpiry n) s = .next w ∧ w.mem = s.mem ∧
        ∀ j ∈ w.kick.insts, j.n = n → j.drain = s.drainSet i ∧ j.drainAt = some s.clk)) ∧
  (∀ (s : State) (p : Nat),
    ((s.partn p).pstate ≠ .active ∨ s.clk / Nat.max (s.partn p).slice 1 ≤ (s.partn p).slices → exec (.sliceRotation p) s = .next s) ∧
    ((s.partn p).pstate = .active → (s.partn p).slices < s.clk / Nat.max (s.partn p).slice 1 → s.ctxs = [] → s.kick.outs = [] →
      s.kick.insts = [] → ∃ w : State, exec (.sliceRotation p) s = .next w ∧
        (w.partn p).slices = s.clk / Nat.max (s.partn p).slice 1 ∧ w.mem = s.mem) ∧
    ((∀ i ∈ s.kick.insts, i.part = p → i.drain = []) → exec (.drainExpiry p) s = .next s) ∧
    (∀ i, List.find? (fun (i : PlayInst) => i.part == p && !i.drain.isEmpty) s.kick.insts = some i →
      (s.clk < i.drainAt.getD s.clk + 1000 * fld (s.partn p).kcfg 47 32 → exec (.drainExpiry p) s = .next s) ∧
      (i.drainAt.getD s.clk + 1000 * fld (s.partn p).kcfg 47 32 ≤ s.clk → s.ctxs = [] → s.saved = [] →
        (s.fitIn true i.stages (s.freeCells p i.n) = none ∨ i.waiting = false ∨ s.missed i = true ∨ s.underCap p i.rcb i.need = false →
          exec (.drainExpiry p) s = .next s) ∧
        (∀ x, s.fitIn true i.stages (s.freeCells p i.n) = some x → i.waiting = true → s.missed i = false → s.underCap p i.rcb i.need = true →
          exec (.drainExpiry p) s = .next (x.2.reserve i x.1)))))

/-- R372, R374, R375, R381: a SEAL of a FREE entry with a valid descriptor makes it SEALING under the next generation, with result 1 to 5 for
the first check that fails; its end makes it LIVE with the seal of its range, once its reach set is bound; REVOKE makes a LIVE entry REVOKING and its end makes that
REVOKED; FREE clears a REVOKED entry; REVOKE_TGEN bars a generation; the daily recheck revokes what no longer matches.
The model's own choices in it are those of log 3, log 61 and log 62. -/
def Obligations.SealUnitSteps : Prop :=
  (∀ (s : State) (i d : Nat), s.sealU.busy = false → i < 2 ^ 16 → d < 2 ^ 56 →
    (4096 ≤ i ∨ (s.sealEnt i).st ≠ .free → ∃ w : State, exec (.seal i d) s = .next w ∧ w.sealU.result = 1 ∧ w.sealU.tab = s.sealU.tab) ∧
    (i < 4096 → (s.sealEnt i).st = .free → s.sealDesc d = none → ∃ w : State, exec (.seal i d) s = .next w ∧ w.sealU.result = 4 ∧
      w.sealU.tab = s.sealU.tab) ∧
    (∀ e, i < 4096 → (s.sealEnt i).st = .free → s.sealDesc d = some e →
      (s.sealU.isBarred e.tgen = true → ∃ w : State, exec (.seal i d) s = .next w ∧ w.sealU.result = 2) ∧
      (s.sealU.isBarred e.tgen = false → s.sealOverlap e = true → ∃ w : State, exec (.seal i d) s = .next w ∧ w.sealU.result = 3) ∧
      (s.sealU.isBarred e.tgen = false → s.sealOverlap e = false → s.sealHomes e = false →
        ∃ w : State, exec (.seal i d) s = .next w ∧ w.sealU.result = 5) ∧
      (s.sealU.isBarred e.tgen = false → s.sealOverlap e = false → s.sealHomes e = true → ∃ w : State, exec (.seal i d) s = .next w ∧
        w.sealEnt i = { e with sgen := s.sealU.nextGen } ∧ e.st = .sealing ∧ w.sealU.nextGen = s.sealU.nextGen + 1 ∧ w.sealU.busy = true ∧
        (s.noSnap = true → w.mem = s.mem)))) ∧
  (∀ (s : State) (i : Nat),
    ((s.sealEnt i).st = .sealing → (s.sealEnt i).sup = true ∨ s.reachOk (s.sealEnt i) = true →
      ∃ w : State, exec (.sealDone i) s = .next w.compactStep ∧ (s.compacts = [] → w.compactStep = w) ∧
        w.sealEnt i = { s.sealEnt i with st := .live, digest := s.sealOf (s.sealEnt i) } ∧ w.sealU.result = 0 ∧ w.sealU.busy = false ∧
        w.mem = s.mem) ∧
    ((s.sealEnt i).st ≠ .sealing ∨ ((s.sealEnt i).sup = false ∧ s.reachOk (s.sealEnt i) = false) → exec (.sealDone i) s = .next s.compactStep) ∧
    (s.sealU.busy = false → (s.sealEnt i).st = .live → ∃ w : State, exec (.revoke i) s = .next w ∧
      w.sealEnt i = { s.sealEnt i with st := .revoking } ∧ w.sealU.result = 0 ∧ (s.noSnap = true → w.mem = s.mem)) ∧
    (s.sealU.busy = false → (s.sealEnt i).st ≠ .live → ∃ w : State, exec (.revoke i) s = .next w ∧ w.sealU.tab = s.sealU.tab ∧ w.sealU.result = 1) ∧
    ((s.sealEnt i).st = .revoking → ∃ w : State, exec (.revokeDone i) s = .next w.compactStep ∧ (s.compacts = [] → w.compactStep = w) ∧
      w.sealEnt i = { s.sealEnt i with st := .revoked } ∧ w.mem = s.mem) ∧
    (s.sealU.busy = false → (s.sealEnt i).st = .revoked → ∃ w : State, exec (.free i) s = .next w ∧ w.sealEnt i = SealEnt.reset ∧
      w.sealU.result = 0) ∧
    (s.sealU.busy = false → (s.sealEnt i).st ≠ .revoked → ∃ w : State, exec (.free i) s = .next w ∧ w.sealU.tab = s.sealU.tab ∧
      w.sealU.result = 1)) ∧
  (∀ (s : State) (g : BitVec 32), s.sealU.busy = false → ∃ w : State, exec (.revokeTgen g) s = .next w ∧ w.sealU.isBarred g = true ∧ (s.noSnap = true → w.mem = s.mem) ∧
    (s.sealU.isBarred g = false →
      ∀ i, (s.sealEnt i).st = .live → (s.sealEnt i).tgen = g → (w.sealEnt i).st = .revoking)) ∧
  (∀ s : State, (s.clk / 86400000000000 ≤ s.sealU.days → exec .sealRecheck s = .next s) ∧
    (s.sealU.days < s.clk / 86400000000000 → (∀ p : Nat × SealEnt, p ∈ s.sealU.tab → (s.sealEnt p.1).st = .live → s.sealOf (s.sealEnt p.1) = (s.sealEnt p.1).digest) →
      ∃ w : State, exec .sealRecheck s = .next w ∧ w.sealU.days = s.clk / 86400000000000 ∧ w.sealU.tab = s.sealU.tab ∧ w.mem = s.mem) ∧
    (∀ i e, s.sealU.days < s.clk / 86400000000000 → s.sealU.tab = [(i, e)] → e.st = .live → s.sealOf e ≠ e.digest →
      ∃ w : State, exec .sealRecheck s = .next w ∧ (w.sealEnt i).st = .revoking))

/-- R45, R419-R427: a FREE partition is configured and activated, and an ACTIVE one drained, by the holder of the semaphore; a drained one is
FREE again. A power-on reset leaves the state of reset; a part reset keeps memory that no cache held dirty. The steps of boot follow one
another. The part throttles, trips and follows its time source. A write to control space goes to the register at its offset.
The model's own choices in it are those of log 63, log 64, log 66, log 67 and log 68. -/
def Obligations.PartitionsResetsAndPower : Prop :=
  (∀ (s : State) (p : Nat), p < 32 → s.holds 3 = true →
    ((s.partn p).pstate = .free → (∀ v, rangeOk (fld v 11 0) (fld v 15 12) s.part.squads = true →
          s.claimedBy p PartSt.chanRange (fld v 11 0) (fld v 11 0 + 2 ^ fld v 15 12) = false →
        ∃ w : State, exec (.partitionConfigWrite p .pchan v) s = .next w ∧ (w.partn p).pchan = v &&& 0xFFFF#64 ∧ w.mem = s.mem) ∧
      (s.rcbTreeOk p = true → ∃ w : State, exec (.partitionActivate p) s = .next w ∧ (w.partn p).pstate = .active ∧ (w.partn p).vf = true ∧
        w.mem = s.mem) ∧
      (s.rcbTreeOk p = false → exec (.partitionActivate p) s = .next s)) ∧
    ((s.partn p).pstate ≠ .free → ∀ r v, exec (.partitionConfigWrite p r v) s = .next s ∧ exec (.partitionActivate p) s = .next s) ∧
    ((s.partn p).pstate = .free → exec (.partitionDrain p) s = .next s) ∧
    ((s.partn p).pstate = .active → (s.partn p).qtab = [] → s.ctxs = [] → ∃ w : State, exec (.partitionDrain p) s = .next w ∧
      (w.partn p).pstate = .draining ∧ w.mem = s.mem)) ∧
  (∀ (s : State) (p : Nat) (r : PartReg) (v : Word), s.holds 3 = false →
    exec (.partitionConfigWrite p r v) s = .next s.reject ∧ exec (.partitionActivate p) s = .next s.reject) ∧
  (∀ (s : State) (p : Nat),
    ((s.partn p).pstate ≠ .draining → exec (.partitionDrainDone p) s = .next s) ∧
    ((s.partn p).pstate = .draining → (s.partLoaded p).isEmpty = true → s.queuesIdle p = true → s.squadsIdle p = true →
      ∃ w : State, exec (.partitionDrainDone p) s = .next w ∧ (w.partn p).pstate = .free ∧ (w.partn p).vf = false)) ∧
  (∀ s : State, (∃ w : State, exec .powerOnReset s = .next w ∧ w.mem = State.reset.mem ∧ w.me = State.reset.me ∧ w.slots = State.reset.slots ∧
      w.cores = State.reset.cores ∧ w.clk = 0 ∧ w.boot.step = 0 ∧ w.boot.tripped = false ∧ w.part = s.part) ∧
    (s.l2 = [] → s.msc = [] → ∃ w : State, exec .partReset s = .next w ∧ w.mem = s.mem ∧ w.keys = s.keys ∧ w.empties = s.empties ∧
      w.poison = s.poison ∧ w.clk = s.clk ∧ w.me = State.reset.me ∧ w.slots = State.reset.slots ∧ w.boot.step = 0)) ∧
  (∀ s : State, s.boot.recovery = false →
    (s.boot.step = 0 → s.bootVerified = true → exec .bootStepComplete s = .next s.stepDone) ∧
    (s.boot.step = 0 → s.bootVerified = false → ∃ w : State, exec .bootStepComplete s = .next w ∧ w.boot.recovery = true ∧ w.boot.step = 0) ∧
    (∀ t, s.boot.step = 2 → s.bootSupervisors = some t → exec .bootStepComplete s = .next t.stepDone) ∧
    (s.boot.step = 3 → ∃ w : State, exec .bootStepComplete s = .next w ∧ w.servo.run = true ∧ w.boot.step = 4) ∧
    (s.boot.step = 1 ∨ s.boot.step = 4 ∨ s.boot.step = 5 → exec .bootStepComplete s = .next s.stepDone) ∧
    (6 ≤ s.boot.step → exec .bootStepComplete s = .next s)) ∧
  (∀ (s : State) (h : BitVec 2) (b : List Byte),
    (s.holds h = true → s.imageOk b = true → ∃ w : State, exec (.firmwareUpdate h b) s = .next w ∧ w.boot.image = b ∧
      w.boot.version = fieldAt b 8 8 ∧ w.boot.rollback = fieldAt b 8 8) ∧
    (s.holds h = true → s.imageOk b = false → ∃ w : State, exec (.firmwareUpdate h b) s = .next w ∧ w.boot = s.boot) ∧
    (s.holds h = false → exec (.firmwareUpdate h b) s = .next s.reject)) ∧
  (∀ (s : State) (n : Nat),
    (n ≤ s.part.watts → exec (.powerWindow n) s = .next s) ∧ (n ≤ 100 → exec (.thermalThrottle n) s = .next s) ∧
    (n < 110 → exec (.thermalTrip n) s = .next s) ∧
    (s.part.watts < n → ∃ w : State, exec (.powerWindow n) s = .next w ∧ w.mem = s.mem ∧ w.me = s.me ∧
      w.boot.mhz = (if 100 < s.boot.mhz then s.boot.mhz - 100 else s.boot.mhz)) ∧
    (100 < n → ∃ w : State, exec (.thermalThrottle n) s = .next w ∧ w.mem = s.mem ∧ w.me = s.me ∧
      w.boot.mhz = (if 100 < s.boot.mhz then s.boot.mhz - 100 else s.boot.mhz)) ∧
    (110 ≤ n → ∃ w : State, exec (.thermalTrip n) s = .next w ∧ w.boot.tripped = true ∧ w.mem = s.mem ∧
      (w.irq 1089).events = (s.irq 1089).events + 1)) ∧
  (∀ (s : State) (o : Int) (b : Nat), s.servo.run = true →
    (1000000 < o → ∃ w : State, exec (.ptpMessage o b) s = .next w ∧ w.clk = s.clk + o.toNat ∧ w.servo.bound = b ∧ w.servo.slew = 0) ∧
    (o ≤ 1000000 → ∃ w : State, exec (.ptpMessage o b) s = .next w ∧ w.clk = s.clk ∧ w.servo.bound = b ∧ w.servo.slew = o * s.boot.mhz)) ∧
  (∀ (s : State) (ch : Nat) (v : Word), ch < s.part.squads →
    (∃ w : State, exec (.controlRegisterWrite .firmware (0x100000 + 256 * ch + 8) v) s = .next w ∧ (w.chan ch).snapt = v ∧ w.mem = s.mem) ∧
    (∃ w : State, exec (.controlRegisterWrite .firmware (0x200000 + 256 * ch) v) s = .next w ∧
      (w.squad ch).tbase = v &&& 0x000000FFFC000000#64 ∧ w.mem = s.mem) ∧
    (s.holds 1 = false → exec (.controlRegisterWrite (.port 0) (0x200000 + 256 * ch) v) s = .next s.reject) ∧
    exec (.controlRegisterWrite .firmware (0x100000 + 256 * ch) v) s = .next s ∧
    (s.holds 3 = false → exec (.controlRegisterWrite .policy (0x100000 + 256 * ch) v) s = .next s.reject) ∧
    (s.holds 3 = true → s.chanUsed ch = false → ∃ w : State, exec (.controlRegisterWrite .policy (0x100000 + 256 * ch) v) s = .next w ∧
      (w.chan ch).own = v.getLsbD 8 ∧ (w.chan ch).part = fld v 4 0 ∧ w.mem = s.mem))

/-! ## The whole machine -/

/-- R422, R184, R73-R75, R227, R234, R274, R346, R374, R404, R419: right after reset no slot holds a context; memory, vaults and logs are zero, every
granule is full and none is poisoned; the registers of device control space hold the reset values of their tables; seal entries and partitions are
FREE, the links are DOWN, huddle barriers are idle; and the invariant of runs holds.
The model's own choices in it are those of log 21 and log 73. -/
def Obligations.ResetState : Prop :=
  State.reset.inv = true ∧ State.reset.ctxs = [] ∧ State.reset.mem = [] ∧ State.reset.cyc = 0 ∧
  (∀ g, State.reset.isFull g = true) ∧ (∀ a, State.reset.isPoison a = false) ∧
  (∀ c, (State.reset.core c).l1mode = 1 ∧ (State.reset.core c).aown = 0 ∧ (State.reset.core c).trapQ = []) ∧
  (∀ q, (State.reset.squad q).tlcap = 64 ∧ (State.reset.squad q).mgate = 2048 ∧ (State.reset.squad q).tbase = 0 ∧
    (State.reset.squad q).mbudget = 0x100000 ∧ (∀ t, ((State.reset.squad q).tile t).st = .absent ∧ ((State.reset.squad q).tile t).owner = 0 ∧
      ((State.reset.squad q).tile t).log = []) ∧
    (∀ b, State.reset.barrier q b = { mask := 0, c := 0, leads := Vector.replicate 8 0 })) ∧
  (∀ c, (State.reset.chan c).own = false ∧ (State.reset.chan c).part = 0 ∧ (State.reset.chan c).snapt = 0 ∧ (State.reset.chan c).rejects = 0) ∧
  (∀ p, (State.reset.partn p).pstate = .free ∧ (State.reset.partn p).pchan = 0 ∧ (State.reset.partn p).psqd = 0 ∧
    (State.reset.partn p).kcfg = BitVec.ofNat 64 (1000 * 2 ^ 48 + 1000 * 2 ^ 32 + 100 * 2 ^ 16 + 100)) ∧
  (∀ i, (State.reset.sealEnt i).st = .free) ∧ State.reset.sealU.nextGen = 1 ∧ State.reset.sealU.barred = [] ∧ State.reset.sealU.floor = none ∧
  (∀ n, (State.reset.irq n).st = .idle ∧ (State.reset.irq n).irte = 0 ∧ (State.reset.irq n).events = 0) ∧
  (∀ p, (State.reset.link p).st = .down) ∧ State.reset.fab.ldead = 2000 ∧ State.reset.fab.node = 0 ∧ State.reset.fij = 0

/-- From every state in which both memories have their canonical form and each place has one slot, every step leads to such a state.
The model's own choices in it are those of log 73. -/
def Obligations.StepKeepsInv : Prop :=
  ∀ s t : State, s.inv = true → step s = .next t → t.inv = true

/-- Every instruction and every move answers a next state in every state; a step stops only where a part that THERMAL_TRIP has stopped
has nothing left to do (R426).
The model's own choices in it are those of log 19 and log 68. -/
def Obligations.StepStopsOnlyWhenTripped : Prop :=
  (∀ (i : Instr) (s : State), ∃ t : State, exec i s = .next t) ∧
  (∀ s : State, (s.agenda ≠ [] ∨ s.boot.tripped = false) → ∃ t : State, step s = .next t) ∧
  (∀ s : State, s.agenda = [] → s.boot.tripped = true → step s = .fault .thermalHold)

/-- R276, R277, R280, R376, R42: with nothing on the agenda, the turn of a slot that is not parked, and to which its front end has the next instruction to
give, runs the instruction whose words stand at its pc in the text of a LIVE entry, with `next_pc` after them; a slot in a fetch wait or a drift stall
has a bubble; a detached slot of a barrel core is in a fetch wait until the private path has delivered; a move of the agenda is run before any turn; an instruction on the agenda, which no fetch brought, is dropped.
The model's own choices in it are those of log 18 and log 24. -/
def Obligations.StepRunsDecoded : Prop :=
  (∀ (s t : State) (i : Instr) (n : Nat), s.agenda = [] → s.boot.tripped = false → s.me.live = true → s.parked = false → s.feGate s.me = some t →
    t.fetch t.me = .instr i n →
    step s = mapNext (State.afterTurn t.me) (exec i (t.modMe (fun c => { c with npc := c.pc + BitVec.ofNat 64 (2 * n) })))) ∧
  (∀ s : State, s.agenda = [] → s.boot.tripped = false → s.me.live = true → s.parked = false → s.feGate s.me = none →
    step s = .next ((s.feStall s.me).modMe Ctx.bubble).rotate) ∧
  (∀ (s : State) (c : Ctx), c.att = false → s.feGate c = if s.part.isBarrel c.core && c.inHand != some c.pc then none else some s) ∧
  (∀ (s : State) (c : Ctx) (e : SealEnt) (i : Instr) (n : Nat), c.pc.getLsbD 0 = false → s.fetchEnt c.tenid c.pc.toNat = some e →
    decodeWords (s.words c.pc.toNat 8 (e.base + e.flen - c.pc.toNat)) = .ok (i, n) → s.fetch c = .instr i n) ∧
  (∀ (s : State) (i : Instr) (r : List Instr), s.agenda = i :: r → s.boot.tripped = false → isMove i = true →
    step s = mapNext State.feCheckAll (exec i { s with agenda := r })) ∧
  (∀ (s : State) (i : Instr) (r : List Instr), s.agenda = i :: r → isMove i = false → step s = .next { s with agenda := r })

/-- Every well-formed instruction decodes from its encoding, whatever words follow, to itself with its length in words; every instruction of
Zagyr has an encoding of at most five words (R34). -/
def Obligations.DecodeOfEncode : Prop :=
  ∀ (i : Instr) (ws rest : List IWord), i.wf = true → encode i = some ws →
    ws.length ≤ 5 ∧ decodeWords (ws ++ rest) = .ok (i, ws.length)

/-- Whatever words the decoder accepts, the instruction is well-formed and has an encoding, which decodes to it; a word that it does not accept has
a reason from 0x01 to 0x0E at a word of its chain (R34, R40).
The model's own choices in it are those of log 8. -/
def Obligations.DecodedIsWellFormed : Prop :=
  ∀ ws : List IWord,
    match decodeWords ws with
    | .ok (i, n) => i.wf = true ∧ 1 ≤ n ∧ n ≤ 5 ∧ n ≤ ws.length ∧ ∃ e : List IWord, encode i = some e ∧ decodeWords e = .ok (i, e.length)
    | .error v => 1 ≤ v.code ∧ v.code ≤ 14 ∧ v.idx ≤ 4

/-- Words of the manual's own examples, and words written out bit by bit from its encodings, decode to the instructions that they stand for. -/
def Obligations.DecodeWords : Prop :=
  decodeWords [0x9920] = .ok (.crd 4 0x020, 1) ∧
  decodeWords [0x9D85] = .ok (.cwr 6 0x005, 1) ∧
  decodeWords [0x9C8B] = .ok (.cwr 2 0x00B, 1) ∧
  decodeWords [0xCC8F] = .ok (.slotx 2 3, 1) ∧
  decodeWords [0xF700, 0xB631] = .ok (.qbind 56 12, 2) ∧
  decodeWords [0xF4C0, 0xB522] = .ok (.qstat 4 56, 2) ∧
  decodeWords [0xF704, 0xB668] = .ok (.send 57 10 4, 2) ∧
  decodeWords [0xF405, 0x08D0] = .ok (.add { d := 3, s := 4, src := .reg 5, q := Pxs.none }, 2) ∧
  decodeWords [0xF801, 0xF406, 0x2D17] = .ok (.cmp .le true { d := 4, s := 5, src := .reg 6, q := Pxs.none }, 3) ∧
  decodeWords [0x3D57] = .ok (.bnd 5 5 (.size 3), 1) ∧
  decodeWords [0x34BF] = .ok (.movImm { d := 2, i := 0x3F, p := [] }, 1) ∧
  decodeWords [0xC402] = .ok (.halt, 1) ∧
  decodeWords [0xF801, 0xC416] = .ok (.haltRetain 5, 2) ∧
  decodeWords [0xC41F] = .ok (.trap 7, 1) ∧
  decodeWords [0x9024] = .ok (.jmp 9, 1) ∧
  decodeWords [0xB90C] = .ok (.hbar 4 3, 1)

/-- R26, R27, R43, R364: what reading and writing a register of the slot in its turn do: `g0`, a port, `bq`, and every other register, which parks while it is
empty or pending and traps MEMERR while it is poisoned. -/
def Obligations.RegisterAccess : Prop :=
  (∀ (s : State) (x : Word), readG 0 s = .ok (0, s) ∧ writeG 0 x s = .ok ((), s)) ∧
  (∀ (s : State) (r : Reg) (x : Word), isPort r = false → r ≠ 0 →
    (alwaysFull r = false → s.me.gFull.getLsbD r.toNat = false → readG r s = .error .park ∧ readSync r s = .error .park) ∧
    (alwaysFull r = true ∨ s.me.gFull.getLsbD r.toNat = true →
      (s.me.gPoison.getLsbD r.toNat = true → readG r s = .error (.trap .memErr (BitVec.ofNat 64 (2 ^ 63 + r.toNat)) 7)) ∧
      (s.me.gPoison.getLsbD r.toNat = false → readG r s = .ok (s.me.g[r.toNat], s) ∧
        (alwaysFull r = false → ∃ t : State, readSync r s = .ok (s.me.g[r.toNat], t) ∧ t.me.gFull.getLsbD r.toNat = false ∧
          t.me.g = s.me.g ∧ ∀ n, n ≠ r.toNat → t.me.gFull.getLsbD n = s.me.gFull.getLsbD n) ∧
        (alwaysFull r = true → readSync r s = .ok (s.me.g[r.toNat], s)))) ∧
    (s.me.gPend.getLsbD r.toNat = true → writeG r x s = .error .park) ∧
    (s.me.gPend.getLsbD r.toNat = false → ∃ t : State, writeG r x s = .ok ((), t) ∧ readG r t = .ok (x, t) ∧
      (∀ y : Reg, y ≠ r → t.me.g[y.toNat] = s.me.g[y.toNat] ∧ t.me.gFull.getLsbD y.toNat = s.me.gFull.getLsbD y.toNat ∧
        t.me.gPend.getLsbD y.toNat = s.me.gPend.getLsbD y.toNat ∧ t.me.gPoison.getLsbD y.toNat = s.me.gPoison.getLsbD y.toNat) ∧
      t.me.v = s.me.v ∧ t.me.fcs = s.me.fcs ∧ t.mem = s.mem)) ∧
  (∀ (s : State) (r : Reg) (x : Word) (k : Fin 4), s.me.live = true → r.toNat = 56 + k →
    (s.me.streams[k].inn.bound = false → readG r s = .error (.trap .port 0 (BitVec.ofNat 64 (16 * k + 1)))) ∧
    (s.me.streams[k].inn.bound = true →
      (s.me.streams[k].inn.msgs = [] → readG r s = .error .park) ∧
      (∀ (m : Msg) (l : List Msg) (w : Word) (ws : List Word), s.me.streams[k].inn.msgs = m :: l → m.words = w :: ws →
        ∃ t : State, readG r s = .ok (w, t) ∧ t.mem = s.mem ∧ t.me.g = s.me.g ∧
          (ws = [] → t.me.streams[k].inn.msgs = l ∧ t.allowances = s.allowances ++ [(m.core, m.slot, m.strm)]) ∧
          (ws ≠ [] → t.me.streams[k].inn.msgs = { m with words := ws } :: l ∧ t.allowances = s.allowances))) ∧
    (s.me.streams[k].out.bound = false → writeG r x s = .error (.trap .port 0 (BitVec.ofNat 64 (16 * k + 1)))) ∧
    (s.me.streams[k].out.bound = true → 1 ≤ s.me.streams[k].out.wlim →
      (s.me.streams[k].out.allow = 0 → writeG r x s = .error .park) ∧
      (s.me.streams[k].out.allow ≠ 0 → ∃ (t : State) (m : StreamMsg), writeG r x s = .ok ((), t) ∧ t.streamQ = s.streamQ ++ [m] ∧
        m.core = s.me.streams[k].out.core ∧ m.slot = s.me.streams[k].out.slot ∧ m.k = s.me.streams[k].out.pstrm ∧ m.msg.words = [x] ∧
        t.me.streams[k].out.allow = s.me.streams[k].out.allow - 1 ∧ t.me.g = s.me.g ∧ t.mem = s.mem))) ∧
  (∀ (s : State) (x : Word),
    (s.me.bq.q = [] → readG 60 s = .error .park) ∧
    (∀ (b : Bool) (l : List Bool), s.me.bq.q = b :: l →
      ∃ t : State, readG 60 s = .ok (if b then 1 else 0, t) ∧ t.me.bq.q = l ∧ t.me.g = s.me.g ∧ t.mem = s.mem) ∧
    (s.me.bq.bound = false →
      (16 ≤ s.me.bq.q.length → writeG 60 x s = .error .park) ∧
      (s.me.bq.q.length < 16 → ∃ t : State, writeG 60 x s = .ok ((), t) ∧ t.me.bq.q = s.me.bq.q ++ [x.getLsbD 0] ∧ t.mem = s.mem)))

/-- A register-only instruction, whether it completes, parks, traps or sends its thread home, changes no register but those that it names, no
flag but those that it raises, no byte of memory, and no unit of the part; of other contexts it changes at most a branch-outcome queue that its
slot is bound to (R42, R165-R218). -/
def Obligations.FrameOfRegisterInstructions : Prop :=
  ∀ (i : Instr) (w : Names) (s t : State), namesOf i = some w → i.wf = true → s.me.live = true → s.me.slot ≠ 15 → s.slotsOk = true →
    exec i s = .next t →
    w.frame s.me t.me ∧
    t = { s with me := t.me, slots := t.slots, cores := t.cores, streamQ := t.streamQ, allowances := t.allowances, threads := t.threads } ∧
    (∀ c, t.core c = { s.core c with trapQ := (t.core c).trapQ, held := (t.core c).held }) ∧
    (∀ n, Tbl.find? t.slots n = Tbl.find? s.slots n ∨
      ∃ c c' : Ctx, Tbl.find? s.slots n = some c ∧ Tbl.find? t.slots n = some c' ∧ c' = { c with bq := c'.bq })
end

