-- ==== Sys2Proof/Laws/Tables.lean ====
section
/-!
SUPPORT. Reading a table after it has been written, and the order of its indices.
-/

namespace Sys2Proof

variable {α : Type}

/-- The entry just written. -/
@[simp] theorem Tbl.find?_put_self (t : Tbl α) (k : Nat) (a : α) : Tbl.find? (Tbl.put t k a) k = some a := by
  induction t with
  | nil => simp [Tbl.put, Tbl.find?]
  | cons p r ih =>
    obtain ⟨i, b⟩ := p
    simp only [Tbl.put]
    split
    · simp [Tbl.find?]
    · split
      · simp [Tbl.find?]
      · rw [Tbl.find?, if_neg (by omega), ih]

/-- Every other entry. -/
theorem Tbl.find?_put_ne (t : Tbl α) {k j : Nat} (a : α) (h : j ≠ k) : Tbl.find? (Tbl.put t k a) j = Tbl.find? t j := by
  induction t with
  | nil => simp [Tbl.put, Tbl.find?, Ne.symm h]
  | cons p r ih =>
    obtain ⟨i, b⟩ := p
    simp only [Tbl.put]
    split
    · rw [Tbl.find?, if_neg (Ne.symm h)]
    · split
      · next hki => subst hki; simp [Tbl.find?, Ne.symm h]
      · simp only [Tbl.find?, ih]

@[simp] theorem Tbl.getD_put_self (t : Tbl α) (d a : α) (k : Nat) : Tbl.getD (Tbl.put t k a) d k = a := by
  simp [Tbl.getD]

theorem Tbl.getD_put_ne (t : Tbl α) {k j : Nat} (d a : α) (h : j ≠ k) : Tbl.getD (Tbl.put t k a) d j = Tbl.getD t d j := by
  simp [Tbl.getD, Tbl.find?_put_ne t a h]

/-- One step of the order. -/
theorem Tbl.sorted_cons (i : Nat) (a : α) (r : Tbl α) :
    Tbl.sorted ((i, a) :: r) = ((match r with | [] => true | (j, _) :: _ => decide (i < j)) && Tbl.sorted r) := by
  cases r with
  | nil => rfl
  | cons q r => rfl

/-- Every index of a sorted table lies above one below its first. -/
theorem Tbl.sorted_put {t : Tbl α} (k : Nat) (a : α) (h : Tbl.sorted t = true) : Tbl.sorted (Tbl.put t k a) = true := by
  induction t with
  | nil => rfl
  | cons p r ih =>
    obtain ⟨i, b⟩ := p
    rw [Tbl.sorted_cons, Bool.and_eq_true] at h
    simp only [Tbl.put]
    split
    · next hk => rw [Tbl.sorted_cons, Tbl.sorted_cons]; simp [hk, h.1, h.2]
    · split
      · next hk => subst hk; rw [Tbl.sorted_cons, Bool.and_eq_true]; exact h
      · rw [Tbl.sorted_cons, Bool.and_eq_true]
        refine ⟨?_, ih h.2⟩
        cases r with
        | nil => simp [Tbl.put]; omega
        | cons q r =>
          obtain ⟨j, c⟩ := q
          have hij : i < j := by simpa using h.1
          by_cases h1 : k < j
          · simp only [Tbl.put, if_pos h1, decide_eq_true_eq]; omega
          · by_cases h2 : k = j
            · simp only [Tbl.put, if_neg h1, if_pos h2, decide_eq_true_eq]; omega
            · simpa only [Tbl.put, if_neg h1, if_neg h2, decide_eq_true_eq] using hij

theorem Tbl.sorted_erase {t : Tbl α} (k : Nat) (h : Tbl.sorted t = true) : Tbl.sorted (Tbl.erase t k) = true := by
  induction t with
  | nil => rfl
  | cons p r ih =>
    obtain ⟨i, b⟩ := p
    rw [Tbl.sorted_cons, Bool.and_eq_true] at h
    simp only [Tbl.erase]
    split
    · exact h.2
    · rw [Tbl.sorted_cons, Bool.and_eq_true]
      refine ⟨?_, ih h.2⟩
      cases r with
      | nil => rfl
      | cons q r =>
        obtain ⟨j, c⟩ := q
        have hij : i < j := by simpa using h.1
        by_cases h1 : j = k
        · simp only [Tbl.erase, if_pos h1]
          cases r with
          | nil => rfl
          | cons q2 r2 =>
            obtain ⟨l, d⟩ := q2
            have h2 := h.2
            rw [Tbl.sorted_cons, Bool.and_eq_true] at h2
            have hjl : j < l := by simpa using h2.1
            simp only [decide_eq_true_eq]; omega
        · simpa only [Tbl.erase, if_neg h1, decide_eq_true_eq] using hij

/-- What holds of every entry, and of the new one, holds of every entry after a write. -/
theorem Tbl.all_put {t : Tbl α} {p : Nat × α → Bool} {k : Nat} {a : α} (h : t.all p = true) (ha : p (k, a) = true) :
    (Tbl.put t k a).all p = true := by
  induction t with
  | nil => simp [Tbl.put, ha]
  | cons q r ih =>
    obtain ⟨i, b⟩ := q
    rw [List.all_cons, Bool.and_eq_true] at h
    simp only [Tbl.put]
    split
    · simp [ha, h.1, h.2]
    · split
      · simp [ha, h.2]
      · simp [h.1, ih h.2]

theorem Tbl.all_erase {t : Tbl α} {p : Nat × α → Bool} (k : Nat) (h : t.all p = true) : (Tbl.erase t k).all p = true := by
  induction t with
  | nil => rfl
  | cons q r ih =>
    obtain ⟨i, b⟩ := q
    rw [List.all_cons, Bool.and_eq_true] at h
    simp only [Tbl.erase]
    split
    · exact h.2
    · simp [h.1, ih h.2]

/-- An entry that a search finds is an entry of the table. -/
theorem Tbl.mem_of_find? {t : Tbl α} {k : Nat} {a : α} (h : Tbl.find? t k = some a) : (k, a) ∈ t := by
  induction t with
  | nil => cases h
  | cons q r ih =>
    obtain ⟨i, b⟩ := q
    simp only [Tbl.find?] at h
    split at h
    · next hk => cases h; subst hk; exact List.mem_cons_self
    · exact List.mem_cons_of_mem _ (ih h)

end Sys2Proof
end

