-- ==== Sys2Proof/Laws/Memory.lean ====
section
/-!
SUPPORT. Memory: reading after writing, and that every write keeps the canonical form.
-/

namespace Sys2Proof.Machine

/-- One step of the canonical form. -/
theorem memWf_cons (i : Nat) (x : Byte) (r : List Host.Cell) :
    memWf ((i, x) :: r) = (x != 0 && (match r with | [] => true | (j, _) :: _ => decide (i < j)) && memWf r) := rfl

theorem memWf_tail {c : Host.Cell} {r : List Host.Cell} (h : memWf (c :: r) = true) : memWf r = true := by
  obtain ⟨i, x⟩ := c
  simp only [memWf_cons, Bool.and_eq_true] at h
  exact h.2

/-- A memory whose first entry lies above `a` lists nothing at or below `a`. -/
theorem rd8_below {m : List Host.Cell} {a : Nat} (h : memWf m = true)
    (hl : match m with | [] => True | (j, _) :: _ => a < j) : rd8 m a = 0 := by
  induction m with
  | nil => rfl
  | cons c r ih =>
    obtain ⟨i, x⟩ := c
    simp only [memWf_cons, Bool.and_eq_true] at h
    simp only at hl
    rw [rd8, if_neg (by omega)]
    apply ih h.2
    cases r with
    | nil => trivial
    | cons d r => obtain ⟨j, y⟩ := d; have : i < j := by simpa using h.1.2
                  simp only; omega

/-- A byte just written, in a memory of canonical form. -/
theorem rd8_wr8_self {m : List Host.Cell} (a : Nat) (b : Byte) (h : memWf m = true) : rd8 (wr8 m a b) a = b := by
  induction m with
  | nil => simp only [wr8]; split <;> simp_all [rd8]
  | cons c r ih =>
    obtain ⟨i, x⟩ := c
    have ht := memWf_tail h
    simp only [wr8]
    split
    · next hlt =>
      split
      · next hb => rw [hb]; exact rd8_below h (by simpa using hlt)
      · simp [rd8]
    · split
      · next hai =>
        split
        · next hb =>
          rw [hb]
          simp only [memWf_cons, Bool.and_eq_true] at h
          apply rd8_below ht
          cases r with
          | nil => trivial
          | cons d r => obtain ⟨j, y⟩ := d; have : i < j := by simpa using h.1.2
                        simp only; omega
        · simp [rd8]
      · rw [rd8, if_neg (by omega), ih ht]

/-- Every other byte, in any memory. -/
theorem rd8_wr8_ne (m : List Host.Cell) {a i : Nat} (b : Byte) (h : i ≠ a) : rd8 (wr8 m a b) i = rd8 m i := by
  induction m with
  | nil => simp only [wr8]; split <;> simp [rd8, Ne.symm h]
  | cons c r ih =>
    obtain ⟨j, x⟩ := c
    simp only [wr8]
    split
    · split
      · rfl
      · rw [rd8, if_neg (Ne.symm h)]
    · split
      · next haj =>
        subst haj
        split
        · rw [rd8, if_neg (Ne.symm h)]
        · simp [rd8, Ne.symm h]
      · simp only [rd8, ih]

/-- The first entry after a write is no lower than the lower of the two. -/
theorem head_wr8 {m : List Host.Cell} {i a : Nat} (b : Byte) (ha : i < a)
    (hl : (match m with | [] => true | (j, _) :: _ => decide (i < j)) = true) (hw : memWf m = true) :
    (match wr8 m a b with | [] => true | (j, _) :: _ => decide (i < j)) = true := by
  cases m with
  | nil =>
    by_cases h3 : b = 0
    · simp only [wr8, if_pos h3]
    · simp only [wr8, if_neg h3, decide_eq_true_eq]; exact ha
  | cons c r =>
    obtain ⟨j, x⟩ := c
    have hij : i < j := by simpa using hl
    by_cases h1 : a < j
    · by_cases h3 : b = 0
      · simp only [wr8, if_pos h1, if_pos h3, decide_eq_true_eq]; exact hij
      · simp only [wr8, if_pos h1, if_neg h3, decide_eq_true_eq]; exact ha
    · by_cases h2 : a = j
      · by_cases h3 : b = 0
        · simp only [wr8, if_neg h1, if_pos h2, if_pos h3]
          simp only [memWf_cons, Bool.and_eq_true] at hw
          cases r with
          | nil => rfl
          | cons d r =>
            obtain ⟨l, y⟩ := d
            have : j < l := by simpa using hw.1.2
            simp only [decide_eq_true_eq]; omega
        · simp only [wr8, if_neg h1, if_pos h2, if_neg h3, decide_eq_true_eq]; exact ha
      · simp only [wr8, if_neg h1, if_neg h2, decide_eq_true_eq]; exact hij

/-- A write keeps the canonical form. -/
theorem memWf_wr8 {m : List Host.Cell} (a : Nat) (b : Byte) (h : memWf m = true) : memWf (wr8 m a b) = true := by
  induction m with
  | nil => simp only [wr8]; split <;> simp_all [memWf]
  | cons c r ih =>
    obtain ⟨i, x⟩ := c
    have ht := memWf_tail h
    simp only [wr8]
    split
    · next hlt =>
      split
      · exact h
      · next hb =>
        rw [memWf_cons]
        simp only [Bool.and_eq_true, bne_iff_ne, ne_eq, decide_eq_true_eq]
        exact ⟨⟨hb, hlt⟩, h⟩
    · next hlt =>
      split
      · next hai =>
        split
        · exact ht
        · next hb =>
          simp only [memWf_cons, Bool.and_eq_true] at h ⊢
          subst hai
          exact ⟨⟨by simpa using hb, h.1.2⟩, h.2⟩
      · next hne =>
        have h0 := h
        simp only [memWf_cons, Bool.and_eq_true] at h ⊢
        exact ⟨⟨h.1.1, head_wr8 b (by omega) h.1.2 ht⟩, ih ht⟩

theorem memWf_wrBytes {m : List Host.Cell} (a : Nat) (l : List Byte) (h : memWf m = true) : memWf (wrBytes m a l) = true := by
  induction l generalizing m a with
  | nil => exact h
  | cons b r ih => exact ih (a + 1) (memWf_wr8 a b h)

/-- A byte outside the bytes written. -/
theorem rd8_wrBytes_out (m : List Host.Cell) {a i : Nat} (l : List Byte) (h : i < a ∨ a + l.length ≤ i) :
    rd8 (wrBytes m a l) i = rd8 m i := by
  induction l generalizing m a with
  | nil => rfl
  | cons b r ih =>
    rw [List.length_cons] at h
    rw [wrBytes, ih (wr8 m a b) (by omega), rd8_wr8_ne m b (by omega)]

/-- A byte written. -/
theorem rd8_wrBytes_in {m : List Host.Cell} {a i : Nat} (l : List Byte) (hw : memWf m = true) (h : i < l.length) :
    rd8 (wrBytes m a l) (a + i) = l[i] := by
  induction l generalizing m a i with
  | nil => exact absurd h (by simp)
  | cons b r ih =>
    cases i with
    | zero => rw [wrBytes, rd8_wrBytes_out _ r (by omega)]; exact rd8_wr8_self a b hw
    | succ n =>
      rw [wrBytes, show a + (n + 1) = (a + 1) + n by omega]
      simpa using ih (memWf_wr8 a b hw) (by simpa using h)

theorem length_rdBytes (m : List Host.Cell) (a n : Nat) : (rdBytes m a n).length = n := by
  induction n generalizing a with
  | zero => rfl
  | succ n ih => simp [rdBytes, ih]

/-- What was written reads back. -/
theorem rdBytes_wrBytes {m : List Host.Cell} (a : Nat) (l : List Byte) (hw : memWf m = true) :
    rdBytes (wrBytes m a l) a l.length = l := by
  induction l generalizing m a with
  | nil => rfl
  | cons b r ih =>
    rw [List.length_cons, rdBytes, wrBytes, ih (a + 1) (memWf_wr8 a b hw), rd8_wrBytes_out _ r (by omega), rd8_wr8_self a b hw]

/-- Dropping entries keeps the canonical form. -/
theorem memWf_filter {m : List Host.Cell} (p : Host.Cell → Bool) (h : memWf m = true) : memWf (m.filter p) = true := by
  suffices hs : memWf (m.filter p) = true ∧ ∀ i, (match m with | [] => true | (j, _) :: _ => decide (i < j)) = true →
      (match m.filter p with | [] => true | (j, _) :: _ => decide (i < j)) = true from hs.1
  induction m with
  | nil => exact ⟨rfl, fun _ _ => rfl⟩
  | cons c r ih =>
    obtain ⟨i, x⟩ := c
    simp only [memWf_cons, Bool.and_eq_true] at h
    obtain ⟨ih1, ih2⟩ := ih h.2
    rw [List.filter_cons]
    split
    · refine ⟨?_, fun j hj => by simpa using hj⟩
      rw [memWf_cons]
      simp only [Bool.and_eq_true]
      exact ⟨⟨h.1.1, ih2 i h.1.2⟩, ih1⟩
    · refine ⟨ih1, fun j hj => ih2 j ?_⟩
      have h1 := h.1.2
      cases r with
      | nil => rfl
      | cons d r =>
        obtain ⟨l, y⟩ := d
        simp only [decide_eq_true_eq] at h1 hj ⊢
        omega

/-- Memory right after reset has its canonical form. -/
theorem memOk_reset : State.reset.memOk = true := by decide

end Sys2Proof.Machine
end

