-- ==== Sys2Proof/Laws/Op.lean ====
section
/-!
SUPPORT. How the parts of a meaning compose, and what a turn does with each way in which they end.
-/

namespace Sys2Proof.Machine

@[simp] theorem op_pure {α : Type} (a : α) (s : State) : (pure a : Op α) s = .ok (a, s) := rfl

theorem op_bind {α β : Type} (m : Op α) (f : α → Op β) (s : State) :
    (m >>= f) s = (match m s with | .ok r => f r.1 r.2 | .error e => .error e) := by
  show (StateT.bind m f) s = _
  unfold StateT.bind
  cases h : m s <;> simp [bind, Except.bind]

/-- A part that succeeds hands its result on. -/
theorem op_bind_ok {α β : Type} {m : Op α} {f : α → Op β} {s : State} {r : α × State} (h : m s = .ok r) :
    (m >>= f) s = f r.1 r.2 := by rw [op_bind, h]

/-- A part that ends the instruction ends the whole. -/
theorem op_bind_error {α β : Type} {m : Op α} {f : α → Op β} {s : State} {e : Stop} (h : m s = .error e) :
    (m >>= f) s = .error e := by rw [op_bind, h]

@[simp] theorem parkOp_apply {α : Type} (s : State) : (parkOp : Op α) s = .error .park := rfl
@[simp] theorem parkUntil_true (s : State) : parkUntil true s = .ok ((), s) := rfl
@[simp] theorem parkUntil_false (s : State) : parkUntil false s = .error .park := rfl
@[simp] theorem trapOp_apply {α : Type} (c : TrapClass) (a i : Word) (s : State) :
    (trapOp c a i : Op α) s = .error (.trap c a i) := rfl
@[simp] theorem trapIf_false (c : TrapClass) (a i : Word) (s : State) : trapIf false c a i s = .ok ((), s) := rfl
@[simp] theorem trapIf_true (c : TrapClass) (a i : Word) (s : State) : trapIf true c a i s = .error (.trap c a i) := rfl
@[simp] theorem goOp_apply {α : Type} (t s : State) : (goOp t : Op α) s = .error (.go t) := rfl
@[simp] theorem getS_apply (s : State) : getS s = .ok (s, s) := rfl
@[simp] theorem modS_apply (f : State → State) (s : State) : modS f s = .ok ((), f s) := rfl

/-- A completed instruction advances the slot to `npc` and counts it. -/
theorem issueOp_ok {m : Op Unit} {s t : State} (h : m s = .ok ((), t)) : issueOp m s = .next (t.modMe Ctx.issue) := by
  simp [issueOp, runOp, h]
/-- A parked instruction leaves only the count of the bubble. -/
theorem issueOp_park {m : Op Unit} {s : State} (h : m s = .error .park) : issueOp m s = .next (s.modMe Ctx.bubble) := by
  simp [issueOp, runOp, h]
/-- A trap is taken in the state before the instruction. -/
theorem issueOp_trap {m : Op Unit} {s : State} {c : TrapClass} {a i : Word} (h : m s = .error (.trap c a i)) :
    issueOp m s = .next (s.takeTrap c a i false) := by
  simp [issueOp, runOp, h]
/-- An instruction that needs the anchor sends an away thread home. -/
theorem issueOp_home {m : Op Unit} {s : State} (h : m s = .error .home) : issueOp m s = .next s.autoReturn := by
  simp [issueOp, runOp, h]
/-- An instruction that has dealt with the pc itself ends as it says. -/
theorem issueOp_go {m : Op Unit} {s t : State} (h : m s = .error (.go t)) : issueOp m s = .next t := by
  simp [issueOp, runOp, h]

/-- A turn always has a next state. -/
theorem issueOp_next (m : Op Unit) (s : State) : issueOp m s = .next (runOp m s) := rfl

/-- The registers that an instruction may name pass the gate. -/
theorem gate_ok {rs : List Reg} {s : State} (h : s.namesOk rs) : gate rs s = .ok ((), s) := by
  unfold gate
  rcases h with h | ⟨h1, h2⟩
  · rw [h]; rfl
  · by_cases h3 : rs.any isPort = true
    · simp [h3, needUnit, h1, h2]
    · simp [h3]

end Sys2Proof.Machine
end

