-- ==== Sys2Proof/Laws/Scalar.lean ====
section
/-!
SUPPORT. What the shared forms of the scalar instructions do once their operands are read.
-/

namespace Sys2Proof.Machine

theorem intBin_ok {sg : Bool} {f : Word → Word → Word} {o : IntBin} {s u t : State} {x y : Word} (hn : s.namesOk o.regs)
    (ho : intOperands o sg s = .ok ((x, y), u)) (hw : writeG o.d (f x y) u = .ok ((), t)) :
    issueOp (intBin sg f o) s = .next (t.modMe Ctx.issue) := by
  apply issueOp_ok
  unfold intBin
  rw [op_bind_ok (gate_ok hn), op_bind_ok ho, hw]

theorem intUn_ok {f : Word → Word} {o : IntUn} {s u t : State} {a : Word} (hn : s.namesOk (o.d :: UnSrc.regs o.src))
    (ho : unOperand o.src s = .ok (a, u)) (hw : writeG o.d (f a) u = .ok ((), t)) :
    issueOp (intUn f o) s = .next (t.modMe Ctx.issue) := by
  apply issueOp_ok
  unfold intUn
  rw [op_bind_ok (gate_ok hn), op_bind_ok ho, hw]

/-- A result with flags, when its register takes a value. -/
theorem putF_ok {d : Reg} {r : Nat × Word} {u t : State} (hw : writeG d (BitVec.ofNat 64 r.1) u = .ok ((), t)) :
    putF d r u = .ok ((), t.modMe (fun c => { c with fcs := c.fcs ||| r.2 })) := by
  unfold putF
  rw [op_bind_ok hw]
  rfl

theorem fltBin_ok {f : Fmt → Rm → Nat → Nat → Nat × Word} {o : FBin} {s u t : State} {x y : Nat}
    (hn : s.namesOk [o.d, o.s, o.src.getD 0]) (ho : fltOperands o s = .ok ((x, y), u))
    (hw : writeG o.d (BitVec.ofNat 64 (f (fmtS o.dbl) u.me.rm x y).1) u = .ok ((), t)) :
    issueOp (fltBin f o) s = .next ((t.modMe (fun c => { c with fcs := c.fcs ||| (f (fmtS o.dbl) u.me.rm x y).2 })).modMe Ctx.issue) := by
  apply issueOp_ok
  unfold fltBin
  rw [op_bind_ok (gate_ok hn), op_bind_ok ho]
  exact putF_ok hw

end Sys2Proof.Machine
end

