-- ==== Sys2Proof/Laws/State.lean ====
section
/-!
SUPPORT. Every field of the state after each of the updates by which the machine changes it, so that no later proof unfolds one.
-/

namespace Sys2Proof.Machine

/-! ## `modMe` -/

@[simp] theorem State.modMe_part (s : State) (f : Ctx → Ctx) : (s.modMe f).part = s.part := rfl
@[simp] theorem State.modMe_cyc (s : State) (f : Ctx → Ctx) : (s.modMe f).cyc = s.cyc := rfl
@[simp] theorem State.modMe_clk (s : State) (f : Ctx → Ctx) : (s.modMe f).clk = s.clk := rfl
@[simp] theorem State.modMe_sub (s : State) (f : Ctx → Ctx) : (s.modMe f).sub = s.sub := rfl
@[simp] theorem State.modMe_period (s : State) (f : Ctx → Ctx) : (s.modMe f).period = s.period := rfl
@[simp] theorem State.modMe_cursor (s : State) (f : Ctx → Ctx) : (s.modMe f).cursor = s.cursor := rfl
@[simp] theorem State.modMe_me (s : State) (f : Ctx → Ctx) : (s.modMe f).me = f s.me := rfl
@[simp] theorem State.modMe_slots (s : State) (f : Ctx → Ctx) : (s.modMe f).slots = s.slots := rfl
@[simp] theorem State.modMe_mem (s : State) (f : Ctx → Ctx) : (s.modMe f).mem = s.mem := rfl
@[simp] theorem State.modMe_keys (s : State) (f : Ctx → Ctx) : (s.modMe f).keys = s.keys := rfl
@[simp] theorem State.modMe_empties (s : State) (f : Ctx → Ctx) : (s.modMe f).empties = s.empties := rfl
@[simp] theorem State.modMe_poison (s : State) (f : Ctx → Ctx) : (s.modMe f).poison = s.poison := rfl
@[simp] theorem State.modMe_l2 (s : State) (f : Ctx → Ctx) : (s.modMe f).l2 = s.l2 := rfl
@[simp] theorem State.modMe_msc (s : State) (f : Ctx → Ctx) : (s.modMe f).msc = s.msc := rfl
@[simp] theorem State.modMe_evicted (s : State) (f : Ctx → Ctx) : (s.modMe f).evicted = s.evicted := rfl
@[simp] theorem State.modMe_hostMem (s : State) (f : Ctx → Ctx) : (s.modMe f).hostMem = s.hostMem := rfl
@[simp] theorem State.modMe_sliceQ (s : State) (f : Ctx → Ctx) : (s.modMe f).sliceQ = s.sliceQ := rfl
@[simp] theorem State.modMe_loads (s : State) (f : Ctx → Ctx) : (s.modMe f).loads = s.loads := rfl
@[simp] theorem State.modMe_acks (s : State) (f : Ctx → Ctx) : (s.modMe f).acks = s.acks := rfl
@[simp] theorem State.modMe_rupds (s : State) (f : Ctx → Ctx) : (s.modMe f).rupds = s.rupds := rfl
@[simp] theorem State.modMe_rejected (s : State) (f : Ctx → Ctx) : (s.modMe f).rejected = s.rejected := rfl
@[simp] theorem State.modMe_withdrawn (s : State) (f : Ctx → Ctx) : (s.modMe f).withdrawn = s.withdrawn := rfl
@[simp] theorem State.modMe_threads (s : State) (f : Ctx → Ctx) : (s.modMe f).threads = s.threads := rfl
@[simp] theorem State.modMe_streamQ (s : State) (f : Ctx → Ctx) : (s.modMe f).streamQ = s.streamQ := rfl
@[simp] theorem State.modMe_fills (s : State) (f : Ctx → Ctx) : (s.modMe f).fills = s.fills := rfl
@[simp] theorem State.modMe_binds (s : State) (f : Ctx → Ctx) : (s.modMe f).binds = s.binds := rfl
@[simp] theorem State.modMe_allowances (s : State) (f : Ctx → Ctx) : (s.modMe f).allowances = s.allowances := rfl
@[simp] theorem State.modMe_spillQ (s : State) (f : Ctx → Ctx) : (s.modMe f).spillQ = s.spillQ := rfl
@[simp] theorem State.modMe_fullWaits (s : State) (f : Ctx → Ctx) : (s.modMe f).fullWaits = s.fullWaits := rfl
@[simp] theorem State.modMe_saved (s : State) (f : Ctx → Ctx) : (s.modMe f).saved = s.saved := rfl
@[simp] theorem State.modMe_cores (s : State) (f : Ctx → Ctx) : (s.modMe f).cores = s.cores := rfl
@[simp] theorem State.modMe_squads (s : State) (f : Ctx → Ctx) : (s.modMe f).squads = s.squads := rfl
@[simp] theorem State.modMe_chans (s : State) (f : Ctx → Ctx) : (s.modMe f).chans = s.chans := rfl
@[simp] theorem State.modMe_parts (s : State) (f : Ctx → Ctx) : (s.modMe f).parts = s.parts := rfl
@[simp] theorem State.modMe_fij (s : State) (f : Ctx → Ctx) : (s.modMe f).fij = s.fij := rfl
@[simp] theorem State.modMe_fijBy (s : State) (f : Ctx → Ctx) : (s.modMe f).fijBy = s.fijBy := rfl
@[simp] theorem State.modMe_keySlots (s : State) (f : Ctx → Ctx) : (s.modMe f).keySlots = s.keySlots := rfl
@[simp] theorem State.modMe_sealU (s : State) (f : Ctx → Ctx) : (s.modMe f).sealU = s.sealU := rfl
@[simp] theorem State.modMe_fab (s : State) (f : Ctx → Ctx) : (s.modMe f).fab = s.fab := rfl
@[simp] theorem State.modMe_irqs (s : State) (f : Ctx → Ctx) : (s.modMe f).irqs = s.irqs := rfl
@[simp] theorem State.modMe_msix (s : State) (f : Ctx → Ctx) : (s.modMe f).msix = s.msix := rfl
@[simp] theorem State.modMe_signals (s : State) (f : Ctx → Ctx) : (s.modMe f).signals = s.signals := rfl
@[simp] theorem State.modMe_hostReads (s : State) (f : Ctx → Ctx) : (s.modMe f).hostReads = s.hostReads := rfl
@[simp] theorem State.modMe_fwReads (s : State) (f : Ctx → Ctx) : (s.modMe f).fwReads = s.fwReads := rfl
@[simp] theorem State.modMe_snapReads (s : State) (f : Ctx → Ctx) : (s.modMe f).snapReads = s.snapReads := rfl
@[simp] theorem State.modMe_reports (s : State) (f : Ctx → Ctx) : (s.modMe f).reports = s.reports := rfl
@[simp] theorem State.modMe_sema (s : State) (f : Ctx → Ctx) : (s.modMe f).sema = s.sema := rfl
@[simp] theorem State.modMe_kick (s : State) (f : Ctx → Ctx) : (s.modMe f).kick = s.kick := rfl
@[simp] theorem State.modMe_boot (s : State) (f : Ctx → Ctx) : (s.modMe f).boot = s.boot := rfl
@[simp] theorem State.modMe_servo (s : State) (f : Ctx → Ctx) : (s.modMe f).servo = s.servo := rfl
@[simp] theorem State.modMe_fwFaults (s : State) (f : Ctx → Ctx) : (s.modMe f).fwFaults = s.fwFaults := rfl
@[simp] theorem State.modMe_svcDrops (s : State) (f : Ctx → Ctx) : (s.modMe f).svcDrops = s.svcDrops := rfl
@[simp] theorem State.modMe_wcache (s : State) (f : Ctx → Ctx) : (s.modMe f).wcache = s.wcache := rfl
@[simp] theorem State.modMe_invalidating (s : State) (f : Ctx → Ctx) : (s.modMe f).invalidating = s.invalidating := rfl
@[simp] theorem State.modMe_compacts (s : State) (f : Ctx → Ctx) : (s.modMe f).compacts = s.compacts := rfl
@[simp] theorem State.modMe_nextCid (s : State) (f : Ctx → Ctx) : (s.modMe f).nextCid = s.nextCid := rfl
@[simp] theorem State.modMe_nextCmd (s : State) (f : Ctx → Ctx) : (s.modMe f).nextCmd = s.nextCmd := rfl
@[simp] theorem State.modMe_nextReq (s : State) (f : Ctx → Ctx) : (s.modMe f).nextReq = s.nextReq := rfl
@[simp] theorem State.modMe_agenda (s : State) (f : Ctx → Ctx) : (s.modMe f).agenda = s.agenda := rfl
@[simp] theorem State.modMe_oracle (s : State) (f : Ctx → Ctx) : (s.modMe f).oracle = s.oracle := rfl
@[simp] theorem State.modMe_fresh (s : State) (f : Ctx → Ctx) : (s.modMe f).fresh = s.fresh := rfl

/-! ## `modCore` -/

@[simp] theorem State.modCore_part (s : State) (n : Nat) (f : CoreSt → CoreSt) : (s.modCore n f).part = s.part := rfl
@[simp] theorem State.modCore_cyc (s : State) (n : Nat) (f : CoreSt → CoreSt) : (s.modCore n f).cyc = s.cyc := rfl
@[simp] theorem State.modCore_clk (s : State) (n : Nat) (f : CoreSt → CoreSt) : (s.modCore n f).clk = s.clk := rfl
@[simp] theorem State.modCore_sub (s : State) (n : Nat) (f : CoreSt → CoreSt) : (s.modCore n f).sub = s.sub := rfl
@[simp] theorem State.modCore_period (s : State) (n : Nat) (f : CoreSt → CoreSt) : (s.modCore n f).period = s.period := rfl
@[simp] theorem State.modCore_cursor (s : State) (n : Nat) (f : CoreSt → CoreSt) : (s.modCore n f).cursor = s.cursor := rfl
@[simp] theorem State.modCore_me (s : State) (n : Nat) (f : CoreSt → CoreSt) : (s.modCore n f).me = s.me := rfl
@[simp] theorem State.modCore_slots (s : State) (n : Nat) (f : CoreSt → CoreSt) : (s.modCore n f).slots = s.slots := rfl
@[simp] theorem State.modCore_mem (s : State) (n : Nat) (f : CoreSt → CoreSt) : (s.modCore n f).mem = s.mem := rfl
@[simp] theorem State.modCore_keys (s : State) (n : Nat) (f : CoreSt → CoreSt) : (s.modCore n f).keys = s.keys := rfl
@[simp] theorem State.modCore_empties (s : State) (n : Nat) (f : CoreSt → CoreSt) : (s.modCore n f).empties = s.empties := rfl
@[simp] theorem State.modCore_poison (s : State) (n : Nat) (f : CoreSt → CoreSt) : (s.modCore n f).poison = s.poison := rfl
@[simp] theorem State.modCore_l2 (s : State) (n : Nat) (f : CoreSt → CoreSt) : (s.modCore n f).l2 = s.l2 := rfl
@[simp] theorem State.modCore_msc (s : State) (n : Nat) (f : CoreSt → CoreSt) : (s.modCore n f).msc = s.msc := rfl
@[simp] theorem State.modCore_evicted (s : State) (n : Nat) (f : CoreSt → CoreSt) : (s.modCore n f).evicted = s.evicted := rfl
@[simp] theorem State.modCore_hostMem (s : State) (n : Nat) (f : CoreSt → CoreSt) : (s.modCore n f).hostMem = s.hostMem := rfl
@[simp] theorem State.modCore_sliceQ (s : State) (n : Nat) (f : CoreSt → CoreSt) : (s.modCore n f).sliceQ = s.sliceQ := rfl
@[simp] theorem State.modCore_loads (s : State) (n : Nat) (f : CoreSt → CoreSt) : (s.modCore n f).loads = s.loads := rfl
@[simp] theorem State.modCore_acks (s : State) (n : Nat) (f : CoreSt → CoreSt) : (s.modCore n f).acks = s.acks := rfl
@[simp] theorem State.modCore_rupds (s : State) (n : Nat) (f : CoreSt → CoreSt) : (s.modCore n f).rupds = s.rupds := rfl
@[simp] theorem State.modCore_rejected (s : State) (n : Nat) (f : CoreSt → CoreSt) : (s.modCore n f).rejected = s.rejected := rfl
@[simp] theorem State.modCore_withdrawn (s : State) (n : Nat) (f : CoreSt → CoreSt) : (s.modCore n f).withdrawn = s.withdrawn := rfl
@[simp] theorem State.modCore_threads (s : State) (n : Nat) (f : CoreSt → CoreSt) : (s.modCore n f).threads = s.threads := rfl
@[simp] theorem State.modCore_streamQ (s : State) (n : Nat) (f : CoreSt → CoreSt) : (s.modCore n f).streamQ = s.streamQ := rfl
@[simp] theorem State.modCore_fills (s : State) (n : Nat) (f : CoreSt → CoreSt) : (s.modCore n f).fills = s.fills := rfl
@[simp] theorem State.modCore_binds (s : State) (n : Nat) (f : CoreSt → CoreSt) : (s.modCore n f).binds = s.binds := rfl
@[simp] theorem State.modCore_allowances (s : State) (n : Nat) (f : CoreSt → CoreSt) : (s.modCore n f).allowances = s.allowances := rfl
@[simp] theorem State.modCore_spillQ (s : State) (n : Nat) (f : CoreSt → CoreSt) : (s.modCore n f).spillQ = s.spillQ := rfl
@[simp] theorem State.modCore_fullWaits (s : State) (n : Nat) (f : CoreSt → CoreSt) : (s.modCore n f).fullWaits = s.fullWaits := rfl
@[simp] theorem State.modCore_saved (s : State) (n : Nat) (f : CoreSt → CoreSt) : (s.modCore n f).saved = s.saved := rfl
@[simp] theorem State.modCore_cores (s : State) (n : Nat) (f : CoreSt → CoreSt) : (s.modCore n f).cores = s.cores.put n (f (s.core n)) := rfl
@[simp] theorem State.modCore_squads (s : State) (n : Nat) (f : CoreSt → CoreSt) : (s.modCore n f).squads = s.squads := rfl
@[simp] theorem State.modCore_chans (s : State) (n : Nat) (f : CoreSt → CoreSt) : (s.modCore n f).chans = s.chans := rfl
@[simp] theorem State.modCore_parts (s : State) (n : Nat) (f : CoreSt → CoreSt) : (s.modCore n f).parts = s.parts := rfl
@[simp] theorem State.modCore_fij (s : State) (n : Nat) (f : CoreSt → CoreSt) : (s.modCore n f).fij = s.fij := rfl
@[simp] theorem State.modCore_fijBy (s : State) (n : Nat) (f : CoreSt → CoreSt) : (s.modCore n f).fijBy = s.fijBy := rfl
@[simp] theorem State.modCore_keySlots (s : State) (n : Nat) (f : CoreSt → CoreSt) : (s.modCore n f).keySlots = s.keySlots := rfl
@[simp] theorem State.modCore_sealU (s : State) (n : Nat) (f : CoreSt → CoreSt) : (s.modCore n f).sealU = s.sealU := rfl
@[simp] theorem State.modCore_fab (s : State) (n : Nat) (f : CoreSt → CoreSt) : (s.modCore n f).fab = s.fab := rfl
@[simp] theorem State.modCore_irqs (s : State) (n : Nat) (f : CoreSt → CoreSt) : (s.modCore n f).irqs = s.irqs := rfl
@[simp] theorem State.modCore_msix (s : State) (n : Nat) (f : CoreSt → CoreSt) : (s.modCore n f).msix = s.msix := rfl
@[simp] theorem State.modCore_signals (s : State) (n : Nat) (f : CoreSt → CoreSt) : (s.modCore n f).signals = s.signals := rfl
@[simp] theorem State.modCore_hostReads (s : State) (n : Nat) (f : CoreSt → CoreSt) : (s.modCore n f).hostReads = s.hostReads := rfl
@[simp] theorem State.modCore_fwReads (s : State) (n : Nat) (f : CoreSt → CoreSt) : (s.modCore n f).fwReads = s.fwReads := rfl
@[simp] theorem State.modCore_snapReads (s : State) (n : Nat) (f : CoreSt → CoreSt) : (s.modCore n f).snapReads = s.snapReads := rfl
@[simp] theorem State.modCore_reports (s : State) (n : Nat) (f : CoreSt → CoreSt) : (s.modCore n f).reports = s.reports := rfl
@[simp] theorem State.modCore_sema (s : State) (n : Nat) (f : CoreSt → CoreSt) : (s.modCore n f).sema = s.sema := rfl
@[simp] theorem State.modCore_kick (s : State) (n : Nat) (f : CoreSt → CoreSt) : (s.modCore n f).kick = s.kick := rfl
@[simp] theorem State.modCore_boot (s : State) (n : Nat) (f : CoreSt → CoreSt) : (s.modCore n f).boot = s.boot := rfl
@[simp] theorem State.modCore_servo (s : State) (n : Nat) (f : CoreSt → CoreSt) : (s.modCore n f).servo = s.servo := rfl
@[simp] theorem State.modCore_fwFaults (s : State) (n : Nat) (f : CoreSt → CoreSt) : (s.modCore n f).fwFaults = s.fwFaults := rfl
@[simp] theorem State.modCore_svcDrops (s : State) (n : Nat) (f : CoreSt → CoreSt) : (s.modCore n f).svcDrops = s.svcDrops := rfl
@[simp] theorem State.modCore_wcache (s : State) (n : Nat) (f : CoreSt → CoreSt) : (s.modCore n f).wcache = s.wcache := rfl
@[simp] theorem State.modCore_invalidating (s : State) (n : Nat) (f : CoreSt → CoreSt) : (s.modCore n f).invalidating = s.invalidating := rfl
@[simp] theorem State.modCore_compacts (s : State) (n : Nat) (f : CoreSt → CoreSt) : (s.modCore n f).compacts = s.compacts := rfl
@[simp] theorem State.modCore_nextCid (s : State) (n : Nat) (f : CoreSt → CoreSt) : (s.modCore n f).nextCid = s.nextCid := rfl
@[simp] theorem State.modCore_nextCmd (s : State) (n : Nat) (f : CoreSt → CoreSt) : (s.modCore n f).nextCmd = s.nextCmd := rfl
@[simp] theorem State.modCore_nextReq (s : State) (n : Nat) (f : CoreSt → CoreSt) : (s.modCore n f).nextReq = s.nextReq := rfl
@[simp] theorem State.modCore_agenda (s : State) (n : Nat) (f : CoreSt → CoreSt) : (s.modCore n f).agenda = s.agenda := rfl
@[simp] theorem State.modCore_oracle (s : State) (n : Nat) (f : CoreSt → CoreSt) : (s.modCore n f).oracle = s.oracle := rfl
@[simp] theorem State.modCore_fresh (s : State) (n : Nat) (f : CoreSt → CoreSt) : (s.modCore n f).fresh = s.fresh := rfl

/-! ## `modSquad` -/

@[simp] theorem State.modSquad_part (s : State) (n : Nat) (f : SquadSt → SquadSt) : (s.modSquad n f).part = s.part := rfl
@[simp] theorem State.modSquad_cyc (s : State) (n : Nat) (f : SquadSt → SquadSt) : (s.modSquad n f).cyc = s.cyc := rfl
@[simp] theorem State.modSquad_clk (s : State) (n : Nat) (f : SquadSt → SquadSt) : (s.modSquad n f).clk = s.clk := rfl
@[simp] theorem State.modSquad_sub (s : State) (n : Nat) (f : SquadSt → SquadSt) : (s.modSquad n f).sub = s.sub := rfl
@[simp] theorem State.modSquad_period (s : State) (n : Nat) (f : SquadSt → SquadSt) : (s.modSquad n f).period = s.period := rfl
@[simp] theorem State.modSquad_cursor (s : State) (n : Nat) (f : SquadSt → SquadSt) : (s.modSquad n f).cursor = s.cursor := rfl
@[simp] theorem State.modSquad_me (s : State) (n : Nat) (f : SquadSt → SquadSt) : (s.modSquad n f).me = s.me := rfl
@[simp] theorem State.modSquad_slots (s : State) (n : Nat) (f : SquadSt → SquadSt) : (s.modSquad n f).slots = s.slots := rfl
@[simp] theorem State.modSquad_mem (s : State) (n : Nat) (f : SquadSt → SquadSt) : (s.modSquad n f).mem = s.mem := rfl
@[simp] theorem State.modSquad_keys (s : State) (n : Nat) (f : SquadSt → SquadSt) : (s.modSquad n f).keys = s.keys := rfl
@[simp] theorem State.modSquad_empties (s : State) (n : Nat) (f : SquadSt → SquadSt) : (s.modSquad n f).empties = s.empties := rfl
@[simp] theorem State.modSquad_poison (s : State) (n : Nat) (f : SquadSt → SquadSt) : (s.modSquad n f).poison = s.poison := rfl
@[simp] theorem State.modSquad_l2 (s : State) (n : Nat) (f : SquadSt → SquadSt) : (s.modSquad n f).l2 = s.l2 := rfl
@[simp] theorem State.modSquad_msc (s : State) (n : Nat) (f : SquadSt → SquadSt) : (s.modSquad n f).msc = s.msc := rfl
@[simp] theorem State.modSquad_evicted (s : State) (n : Nat) (f : SquadSt → SquadSt) : (s.modSquad n f).evicted = s.evicted := rfl
@[simp] theorem State.modSquad_hostMem (s : State) (n : Nat) (f : SquadSt → SquadSt) : (s.modSquad n f).hostMem = s.hostMem := rfl
@[simp] theorem State.modSquad_sliceQ (s : State) (n : Nat) (f : SquadSt → SquadSt) : (s.modSquad n f).sliceQ = s.sliceQ := rfl
@[simp] theorem State.modSquad_loads (s : State) (n : Nat) (f : SquadSt → SquadSt) : (s.modSquad n f).loads = s.loads := rfl
@[simp] theorem State.modSquad_acks (s : State) (n : Nat) (f : SquadSt → SquadSt) : (s.modSquad n f).acks = s.acks := rfl
@[simp] theorem State.modSquad_rupds (s : State) (n : Nat) (f : SquadSt → SquadSt) : (s.modSquad n f).rupds = s.rupds := rfl
@[simp] theorem State.modSquad_rejected (s : State) (n : Nat) (f : SquadSt → SquadSt) : (s.modSquad n f).rejected = s.rejected := rfl
@[simp] theorem State.modSquad_withdrawn (s : State) (n : Nat) (f : SquadSt → SquadSt) : (s.modSquad n f).withdrawn = s.withdrawn := rfl
@[simp] theorem State.modSquad_threads (s : State) (n : Nat) (f : SquadSt → SquadSt) : (s.modSquad n f).threads = s.threads := rfl
@[simp] theorem State.modSquad_streamQ (s : State) (n : Nat) (f : SquadSt → SquadSt) : (s.modSquad n f).streamQ = s.streamQ := rfl
@[simp] theorem State.modSquad_fills (s : State) (n : Nat) (f : SquadSt → SquadSt) : (s.modSquad n f).fills = s.fills := rfl
@[simp] theorem State.modSquad_binds (s : State) (n : Nat) (f : SquadSt → SquadSt) : (s.modSquad n f).binds = s.binds := rfl
@[simp] theorem State.modSquad_allowances (s : State) (n : Nat) (f : SquadSt → SquadSt) : (s.modSquad n f).allowances = s.allowances := rfl
@[simp] theorem State.modSquad_spillQ (s : State) (n : Nat) (f : SquadSt → SquadSt) : (s.modSquad n f).spillQ = s.spillQ := rfl
@[simp] theorem State.modSquad_fullWaits (s : State) (n : Nat) (f : SquadSt → SquadSt) : (s.modSquad n f).fullWaits = s.fullWaits := rfl
@[simp] theorem State.modSquad_saved (s : State) (n : Nat) (f : SquadSt → SquadSt) : (s.modSquad n f).saved = s.saved := rfl
@[simp] theorem State.modSquad_cores (s : State) (n : Nat) (f : SquadSt → SquadSt) : (s.modSquad n f).cores = s.cores := rfl
@[simp] theorem State.modSquad_squads (s : State) (n : Nat) (f : SquadSt → SquadSt) : (s.modSquad n f).squads = s.squads.put n (f (s.squad n)) := rfl
@[simp] theorem State.modSquad_chans (s : State) (n : Nat) (f : SquadSt → SquadSt) : (s.modSquad n f).chans = s.chans := rfl
@[simp] theorem State.modSquad_parts (s : State) (n : Nat) (f : SquadSt → SquadSt) : (s.modSquad n f).parts = s.parts := rfl
@[simp] theorem State.modSquad_fij (s : State) (n : Nat) (f : SquadSt → SquadSt) : (s.modSquad n f).fij = s.fij := rfl
@[simp] theorem State.modSquad_fijBy (s : State) (n : Nat) (f : SquadSt → SquadSt) : (s.modSquad n f).fijBy = s.fijBy := rfl
@[simp] theorem State.modSquad_keySlots (s : State) (n : Nat) (f : SquadSt → SquadSt) : (s.modSquad n f).keySlots = s.keySlots := rfl
@[simp] theorem State.modSquad_sealU (s : State) (n : Nat) (f : SquadSt → SquadSt) : (s.modSquad n f).sealU = s.sealU := rfl
@[simp] theorem State.modSquad_fab (s : State) (n : Nat) (f : SquadSt → SquadSt) : (s.modSquad n f).fab = s.fab := rfl
@[simp] theorem State.modSquad_irqs (s : State) (n : Nat) (f : SquadSt → SquadSt) : (s.modSquad n f).irqs = s.irqs := rfl
@[simp] theorem State.modSquad_msix (s : State) (n : Nat) (f : SquadSt → SquadSt) : (s.modSquad n f).msix = s.msix := rfl
@[simp] theorem State.modSquad_signals (s : State) (n : Nat) (f : SquadSt → SquadSt) : (s.modSquad n f).signals = s.signals := rfl
@[simp] theorem State.modSquad_hostReads (s : State) (n : Nat) (f : SquadSt → SquadSt) : (s.modSquad n f).hostReads = s.hostReads := rfl
@[simp] theorem State.modSquad_fwReads (s : State) (n : Nat) (f : SquadSt → SquadSt) : (s.modSquad n f).fwReads = s.fwReads := rfl
@[simp] theorem State.modSquad_snapReads (s : State) (n : Nat) (f : SquadSt → SquadSt) : (s.modSquad n f).snapReads = s.snapReads := rfl
@[simp] theorem State.modSquad_reports (s : State) (n : Nat) (f : SquadSt → SquadSt) : (s.modSquad n f).reports = s.reports := rfl
@[simp] theorem State.modSquad_sema (s : State) (n : Nat) (f : SquadSt → SquadSt) : (s.modSquad n f).sema = s.sema := rfl
@[simp] theorem State.modSquad_kick (s : State) (n : Nat) (f : SquadSt → SquadSt) : (s.modSquad n f).kick = s.kick := rfl
@[simp] theorem State.modSquad_boot (s : State) (n : Nat) (f : SquadSt → SquadSt) : (s.modSquad n f).boot = s.boot := rfl
@[simp] theorem State.modSquad_servo (s : State) (n : Nat) (f : SquadSt → SquadSt) : (s.modSquad n f).servo = s.servo := rfl
@[simp] theorem State.modSquad_fwFaults (s : State) (n : Nat) (f : SquadSt → SquadSt) : (s.modSquad n f).fwFaults = s.fwFaults := rfl
@[simp] theorem State.modSquad_svcDrops (s : State) (n : Nat) (f : SquadSt → SquadSt) : (s.modSquad n f).svcDrops = s.svcDrops := rfl
@[simp] theorem State.modSquad_wcache (s : State) (n : Nat) (f : SquadSt → SquadSt) : (s.modSquad n f).wcache = s.wcache := rfl
@[simp] theorem State.modSquad_invalidating (s : State) (n : Nat) (f : SquadSt → SquadSt) : (s.modSquad n f).invalidating = s.invalidating := rfl
@[simp] theorem State.modSquad_compacts (s : State) (n : Nat) (f : SquadSt → SquadSt) : (s.modSquad n f).compacts = s.compacts := rfl
@[simp] theorem State.modSquad_nextCid (s : State) (n : Nat) (f : SquadSt → SquadSt) : (s.modSquad n f).nextCid = s.nextCid := rfl
@[simp] theorem State.modSquad_nextCmd (s : State) (n : Nat) (f : SquadSt → SquadSt) : (s.modSquad n f).nextCmd = s.nextCmd := rfl
@[simp] theorem State.modSquad_nextReq (s : State) (n : Nat) (f : SquadSt → SquadSt) : (s.modSquad n f).nextReq = s.nextReq := rfl
@[simp] theorem State.modSquad_agenda (s : State) (n : Nat) (f : SquadSt → SquadSt) : (s.modSquad n f).agenda = s.agenda := rfl
@[simp] theorem State.modSquad_oracle (s : State) (n : Nat) (f : SquadSt → SquadSt) : (s.modSquad n f).oracle = s.oracle := rfl
@[simp] theorem State.modSquad_fresh (s : State) (n : Nat) (f : SquadSt → SquadSt) : (s.modSquad n f).fresh = s.fresh := rfl

/-! ## `modChan` -/

@[simp] theorem State.modChan_part (s : State) (n : Nat) (f : ChanSt → ChanSt) : (s.modChan n f).part = s.part := rfl
@[simp] theorem State.modChan_cyc (s : State) (n : Nat) (f : ChanSt → ChanSt) : (s.modChan n f).cyc = s.cyc := rfl
@[simp] theorem State.modChan_clk (s : State) (n : Nat) (f : ChanSt → ChanSt) : (s.modChan n f).clk = s.clk := rfl
@[simp] theorem State.modChan_sub (s : State) (n : Nat) (f : ChanSt → ChanSt) : (s.modChan n f).sub = s.sub := rfl
@[simp] theorem State.modChan_period (s : State) (n : Nat) (f : ChanSt → ChanSt) : (s.modChan n f).period = s.period := rfl
@[simp] theorem State.modChan_cursor (s : State) (n : Nat) (f : ChanSt → ChanSt) : (s.modChan n f).cursor = s.cursor := rfl
@[simp] theorem State.modChan_me (s : State) (n : Nat) (f : ChanSt → ChanSt) : (s.modChan n f).me = s.me := rfl
@[simp] theorem State.modChan_slots (s : State) (n : Nat) (f : ChanSt → ChanSt) : (s.modChan n f).slots = s.slots := rfl
@[simp] theorem State.modChan_mem (s : State) (n : Nat) (f : ChanSt → ChanSt) : (s.modChan n f).mem = s.mem := rfl
@[simp] theorem State.modChan_keys (s : State) (n : Nat) (f : ChanSt → ChanSt) : (s.modChan n f).keys = s.keys := rfl
@[simp] theorem State.modChan_empties (s : State) (n : Nat) (f : ChanSt → ChanSt) : (s.modChan n f).empties = s.empties := rfl
@[simp] theorem State.modChan_poison (s : State) (n : Nat) (f : ChanSt → ChanSt) : (s.modChan n f).poison = s.poison := rfl
@[simp] theorem State.modChan_l2 (s : State) (n : Nat) (f : ChanSt → ChanSt) : (s.modChan n f).l2 = s.l2 := rfl
@[simp] theorem State.modChan_msc (s : State) (n : Nat) (f : ChanSt → ChanSt) : (s.modChan n f).msc = s.msc := rfl
@[simp] theorem State.modChan_evicted (s : State) (n : Nat) (f : ChanSt → ChanSt) : (s.modChan n f).evicted = s.evicted := rfl
@[simp] theorem State.modChan_hostMem (s : State) (n : Nat) (f : ChanSt → ChanSt) : (s.modChan n f).hostMem = s.hostMem := rfl
@[simp] theorem State.modChan_sliceQ (s : State) (n : Nat) (f : ChanSt → ChanSt) : (s.modChan n f).sliceQ = s.sliceQ := rfl
@[simp] theorem State.modChan_loads (s : State) (n : Nat) (f : ChanSt → ChanSt) : (s.modChan n f).loads = s.loads := rfl
@[simp] theorem State.modChan_acks (s : State) (n : Nat) (f : ChanSt → ChanSt) : (s.modChan n f).acks = s.acks := rfl
@[simp] theorem State.modChan_rupds (s : State) (n : Nat) (f : ChanSt → ChanSt) : (s.modChan n f).rupds = s.rupds := rfl
@[simp] theorem State.modChan_rejected (s : State) (n : Nat) (f : ChanSt → ChanSt) : (s.modChan n f).rejected = s.rejected := rfl
@[simp] theorem State.modChan_withdrawn (s : State) (n : Nat) (f : ChanSt → ChanSt) : (s.modChan n f).withdrawn = s.withdrawn := rfl
@[simp] theorem State.modChan_threads (s : State) (n : Nat) (f : ChanSt → ChanSt) : (s.modChan n f).threads = s.threads := rfl
@[simp] theorem State.modChan_streamQ (s : State) (n : Nat) (f : ChanSt → ChanSt) : (s.modChan n f).streamQ = s.streamQ := rfl
@[simp] theorem State.modChan_fills (s : State) (n : Nat) (f : ChanSt → ChanSt) : (s.modChan n f).fills = s.fills := rfl
@[simp] theorem State.modChan_binds (s : State) (n : Nat) (f : ChanSt → ChanSt) : (s.modChan n f).binds = s.binds := rfl
@[simp] theorem State.modChan_allowances (s : State) (n : Nat) (f : ChanSt → ChanSt) : (s.modChan n f).allowances = s.allowances := rfl
@[simp] theorem State.modChan_spillQ (s : State) (n : Nat) (f : ChanSt → ChanSt) : (s.modChan n f).spillQ = s.spillQ := rfl
@[simp] theorem State.modChan_fullWaits (s : State) (n : Nat) (f : ChanSt → ChanSt) : (s.modChan n f).fullWaits = s.fullWaits := rfl
@[simp] theorem State.modChan_saved (s : State) (n : Nat) (f : ChanSt → ChanSt) : (s.modChan n f).saved = s.saved := rfl
@[simp] theorem State.modChan_cores (s : State) (n : Nat) (f : ChanSt → ChanSt) : (s.modChan n f).cores = s.cores := rfl
@[simp] theorem State.modChan_squads (s : State) (n : Nat) (f : ChanSt → ChanSt) : (s.modChan n f).squads = s.squads := rfl
@[simp] theorem State.modChan_chans (s : State) (n : Nat) (f : ChanSt → ChanSt) : (s.modChan n f).chans = s.chans.put n (f (s.chan n)) := rfl
@[simp] theorem State.modChan_parts (s : State) (n : Nat) (f : ChanSt → ChanSt) : (s.modChan n f).parts = s.parts := rfl
@[simp] theorem State.modChan_fij (s : State) (n : Nat) (f : ChanSt → ChanSt) : (s.modChan n f).fij = s.fij := rfl
@[simp] theorem State.modChan_fijBy (s : State) (n : Nat) (f : ChanSt → ChanSt) : (s.modChan n f).fijBy = s.fijBy := rfl
@[simp] theorem State.modChan_keySlots (s : State) (n : Nat) (f : ChanSt → ChanSt) : (s.modChan n f).keySlots = s.keySlots := rfl
@[simp] theorem State.modChan_sealU (s : State) (n : Nat) (f : ChanSt → ChanSt) : (s.modChan n f).sealU = s.sealU := rfl
@[simp] theorem State.modChan_fab (s : State) (n : Nat) (f : ChanSt → ChanSt) : (s.modChan n f).fab = s.fab := rfl
@[simp] theorem State.modChan_irqs (s : State) (n : Nat) (f : ChanSt → ChanSt) : (s.modChan n f).irqs = s.irqs := rfl
@[simp] theorem State.modChan_msix (s : State) (n : Nat) (f : ChanSt → ChanSt) : (s.modChan n f).msix = s.msix := rfl
@[simp] theorem State.modChan_signals (s : State) (n : Nat) (f : ChanSt → ChanSt) : (s.modChan n f).signals = s.signals := rfl
@[simp] theorem State.modChan_hostReads (s : State) (n : Nat) (f : ChanSt → ChanSt) : (s.modChan n f).hostReads = s.hostReads := rfl
@[simp] theorem State.modChan_fwReads (s : State) (n : Nat) (f : ChanSt → ChanSt) : (s.modChan n f).fwReads = s.fwReads := rfl
@[simp] theorem State.modChan_snapReads (s : State) (n : Nat) (f : ChanSt → ChanSt) : (s.modChan n f).snapReads = s.snapReads := rfl
@[simp] theorem State.modChan_reports (s : State) (n : Nat) (f : ChanSt → ChanSt) : (s.modChan n f).reports = s.reports := rfl
@[simp] theorem State.modChan_sema (s : State) (n : Nat) (f : ChanSt → ChanSt) : (s.modChan n f).sema = s.sema := rfl
@[simp] theorem State.modChan_kick (s : State) (n : Nat) (f : ChanSt → ChanSt) : (s.modChan n f).kick = s.kick := rfl
@[simp] theorem State.modChan_boot (s : State) (n : Nat) (f : ChanSt → ChanSt) : (s.modChan n f).boot = s.boot := rfl
@[simp] theorem State.modChan_servo (s : State) (n : Nat) (f : ChanSt → ChanSt) : (s.modChan n f).servo = s.servo := rfl
@[simp] theorem State.modChan_fwFaults (s : State) (n : Nat) (f : ChanSt → ChanSt) : (s.modChan n f).fwFaults = s.fwFaults := rfl
@[simp] theorem State.modChan_svcDrops (s : State) (n : Nat) (f : ChanSt → ChanSt) : (s.modChan n f).svcDrops = s.svcDrops := rfl
@[simp] theorem State.modChan_wcache (s : State) (n : Nat) (f : ChanSt → ChanSt) : (s.modChan n f).wcache = s.wcache := rfl
@[simp] theorem State.modChan_invalidating (s : State) (n : Nat) (f : ChanSt → ChanSt) : (s.modChan n f).invalidating = s.invalidating := rfl
@[simp] theorem State.modChan_compacts (s : State) (n : Nat) (f : ChanSt → ChanSt) : (s.modChan n f).compacts = s.compacts := rfl
@[simp] theorem State.modChan_nextCid (s : State) (n : Nat) (f : ChanSt → ChanSt) : (s.modChan n f).nextCid = s.nextCid := rfl
@[simp] theorem State.modChan_nextCmd (s : State) (n : Nat) (f : ChanSt → ChanSt) : (s.modChan n f).nextCmd = s.nextCmd := rfl
@[simp] theorem State.modChan_nextReq (s : State) (n : Nat) (f : ChanSt → ChanSt) : (s.modChan n f).nextReq = s.nextReq := rfl
@[simp] theorem State.modChan_agenda (s : State) (n : Nat) (f : ChanSt → ChanSt) : (s.modChan n f).agenda = s.agenda := rfl
@[simp] theorem State.modChan_oracle (s : State) (n : Nat) (f : ChanSt → ChanSt) : (s.modChan n f).oracle = s.oracle := rfl
@[simp] theorem State.modChan_fresh (s : State) (n : Nat) (f : ChanSt → ChanSt) : (s.modChan n f).fresh = s.fresh := rfl

/-! ## `modPartn` -/

@[simp] theorem State.modPartn_part (s : State) (n : Nat) (f : PartSt → PartSt) : (s.modPartn n f).part = s.part := rfl
@[simp] theorem State.modPartn_cyc (s : State) (n : Nat) (f : PartSt → PartSt) : (s.modPartn n f).cyc = s.cyc := rfl
@[simp] theorem State.modPartn_clk (s : State) (n : Nat) (f : PartSt → PartSt) : (s.modPartn n f).clk = s.clk := rfl
@[simp] theorem State.modPartn_sub (s : State) (n : Nat) (f : PartSt → PartSt) : (s.modPartn n f).sub = s.sub := rfl
@[simp] theorem State.modPartn_period (s : State) (n : Nat) (f : PartSt → PartSt) : (s.modPartn n f).period = s.period := rfl
@[simp] theorem State.modPartn_cursor (s : State) (n : Nat) (f : PartSt → PartSt) : (s.modPartn n f).cursor = s.cursor := rfl
@[simp] theorem State.modPartn_me (s : State) (n : Nat) (f : PartSt → PartSt) : (s.modPartn n f).me = s.me := rfl
@[simp] theorem State.modPartn_slots (s : State) (n : Nat) (f : PartSt → PartSt) : (s.modPartn n f).slots = s.slots := rfl
@[simp] theorem State.modPartn_mem (s : State) (n : Nat) (f : PartSt → PartSt) : (s.modPartn n f).mem = s.mem := rfl
@[simp] theorem State.modPartn_keys (s : State) (n : Nat) (f : PartSt → PartSt) : (s.modPartn n f).keys = s.keys := rfl
@[simp] theorem State.modPartn_empties (s : State) (n : Nat) (f : PartSt → PartSt) : (s.modPartn n f).empties = s.empties := rfl
@[simp] theorem State.modPartn_poison (s : State) (n : Nat) (f : PartSt → PartSt) : (s.modPartn n f).poison = s.poison := rfl
@[simp] theorem State.modPartn_l2 (s : State) (n : Nat) (f : PartSt → PartSt) : (s.modPartn n f).l2 = s.l2 := rfl
@[simp] theorem State.modPartn_msc (s : State) (n : Nat) (f : PartSt → PartSt) : (s.modPartn n f).msc = s.msc := rfl
@[simp] theorem State.modPartn_evicted (s : State) (n : Nat) (f : PartSt → PartSt) : (s.modPartn n f).evicted = s.evicted := rfl
@[simp] theorem State.modPartn_hostMem (s : State) (n : Nat) (f : PartSt → PartSt) : (s.modPartn n f).hostMem = s.hostMem := rfl
@[simp] theorem State.modPartn_sliceQ (s : State) (n : Nat) (f : PartSt → PartSt) : (s.modPartn n f).sliceQ = s.sliceQ := rfl
@[simp] theorem State.modPartn_loads (s : State) (n : Nat) (f : PartSt → PartSt) : (s.modPartn n f).loads = s.loads := rfl
@[simp] theorem State.modPartn_acks (s : State) (n : Nat) (f : PartSt → PartSt) : (s.modPartn n f).acks = s.acks := rfl
@[simp] theorem State.modPartn_rupds (s : State) (n : Nat) (f : PartSt → PartSt) : (s.modPartn n f).rupds = s.rupds := rfl
@[simp] theorem State.modPartn_rejected (s : State) (n : Nat) (f : PartSt → PartSt) : (s.modPartn n f).rejected = s.rejected := rfl
@[simp] theorem State.modPartn_withdrawn (s : State) (n : Nat) (f : PartSt → PartSt) : (s.modPartn n f).withdrawn = s.withdrawn := rfl
@[simp] theorem State.modPartn_threads (s : State) (n : Nat) (f : PartSt → PartSt) : (s.modPartn n f).threads = s.threads := rfl
@[simp] theorem State.modPartn_streamQ (s : State) (n : Nat) (f : PartSt → PartSt) : (s.modPartn n f).streamQ = s.streamQ := rfl
@[simp] theorem State.modPartn_fills (s : State) (n : Nat) (f : PartSt → PartSt) : (s.modPartn n f).fills = s.fills := rfl
@[simp] theorem State.modPartn_binds (s : State) (n : Nat) (f : PartSt → PartSt) : (s.modPartn n f).binds = s.binds := rfl
@[simp] theorem State.modPartn_allowances (s : State) (n : Nat) (f : PartSt → PartSt) : (s.modPartn n f).allowances = s.allowances := rfl
@[simp] theorem State.modPartn_spillQ (s : State) (n : Nat) (f : PartSt → PartSt) : (s.modPartn n f).spillQ = s.spillQ := rfl
@[simp] theorem State.modPartn_fullWaits (s : State) (n : Nat) (f : PartSt → PartSt) : (s.modPartn n f).fullWaits = s.fullWaits := rfl
@[simp] theorem State.modPartn_saved (s : State) (n : Nat) (f : PartSt → PartSt) : (s.modPartn n f).saved = s.saved := rfl
@[simp] theorem State.modPartn_cores (s : State) (n : Nat) (f : PartSt → PartSt) : (s.modPartn n f).cores = s.cores := rfl
@[simp] theorem State.modPartn_squads (s : State) (n : Nat) (f : PartSt → PartSt) : (s.modPartn n f).squads = s.squads := rfl
@[simp] theorem State.modPartn_chans (s : State) (n : Nat) (f : PartSt → PartSt) : (s.modPartn n f).chans = s.chans := rfl
@[simp] theorem State.modPartn_parts (s : State) (n : Nat) (f : PartSt → PartSt) : (s.modPartn n f).parts = s.parts.put n (f (s.partn n)) := rfl
@[simp] theorem State.modPartn_fij (s : State) (n : Nat) (f : PartSt → PartSt) : (s.modPartn n f).fij = s.fij := rfl
@[simp] theorem State.modPartn_fijBy (s : State) (n : Nat) (f : PartSt → PartSt) : (s.modPartn n f).fijBy = s.fijBy := rfl
@[simp] theorem State.modPartn_keySlots (s : State) (n : Nat) (f : PartSt → PartSt) : (s.modPartn n f).keySlots = s.keySlots := rfl
@[simp] theorem State.modPartn_sealU (s : State) (n : Nat) (f : PartSt → PartSt) : (s.modPartn n f).sealU = s.sealU := rfl
@[simp] theorem State.modPartn_fab (s : State) (n : Nat) (f : PartSt → PartSt) : (s.modPartn n f).fab = s.fab := rfl
@[simp] theorem State.modPartn_irqs (s : State) (n : Nat) (f : PartSt → PartSt) : (s.modPartn n f).irqs = s.irqs := rfl
@[simp] theorem State.modPartn_msix (s : State) (n : Nat) (f : PartSt → PartSt) : (s.modPartn n f).msix = s.msix := rfl
@[simp] theorem State.modPartn_signals (s : State) (n : Nat) (f : PartSt → PartSt) : (s.modPartn n f).signals = s.signals := rfl
@[simp] theorem State.modPartn_hostReads (s : State) (n : Nat) (f : PartSt → PartSt) : (s.modPartn n f).hostReads = s.hostReads := rfl
@[simp] theorem State.modPartn_fwReads (s : State) (n : Nat) (f : PartSt → PartSt) : (s.modPartn n f).fwReads = s.fwReads := rfl
@[simp] theorem State.modPartn_snapReads (s : State) (n : Nat) (f : PartSt → PartSt) : (s.modPartn n f).snapReads = s.snapReads := rfl
@[simp] theorem State.modPartn_reports (s : State) (n : Nat) (f : PartSt → PartSt) : (s.modPartn n f).reports = s.reports := rfl
@[simp] theorem State.modPartn_sema (s : State) (n : Nat) (f : PartSt → PartSt) : (s.modPartn n f).sema = s.sema := rfl
@[simp] theorem State.modPartn_kick (s : State) (n : Nat) (f : PartSt → PartSt) : (s.modPartn n f).kick = s.kick := rfl
@[simp] theorem State.modPartn_boot (s : State) (n : Nat) (f : PartSt → PartSt) : (s.modPartn n f).boot = s.boot := rfl
@[simp] theorem State.modPartn_servo (s : State) (n : Nat) (f : PartSt → PartSt) : (s.modPartn n f).servo = s.servo := rfl
@[simp] theorem State.modPartn_fwFaults (s : State) (n : Nat) (f : PartSt → PartSt) : (s.modPartn n f).fwFaults = s.fwFaults := rfl
@[simp] theorem State.modPartn_svcDrops (s : State) (n : Nat) (f : PartSt → PartSt) : (s.modPartn n f).svcDrops = s.svcDrops := rfl
@[simp] theorem State.modPartn_wcache (s : State) (n : Nat) (f : PartSt → PartSt) : (s.modPartn n f).wcache = s.wcache := rfl
@[simp] theorem State.modPartn_invalidating (s : State) (n : Nat) (f : PartSt → PartSt) : (s.modPartn n f).invalidating = s.invalidating := rfl
@[simp] theorem State.modPartn_compacts (s : State) (n : Nat) (f : PartSt → PartSt) : (s.modPartn n f).compacts = s.compacts := rfl
@[simp] theorem State.modPartn_nextCid (s : State) (n : Nat) (f : PartSt → PartSt) : (s.modPartn n f).nextCid = s.nextCid := rfl
@[simp] theorem State.modPartn_nextCmd (s : State) (n : Nat) (f : PartSt → PartSt) : (s.modPartn n f).nextCmd = s.nextCmd := rfl
@[simp] theorem State.modPartn_nextReq (s : State) (n : Nat) (f : PartSt → PartSt) : (s.modPartn n f).nextReq = s.nextReq := rfl
@[simp] theorem State.modPartn_agenda (s : State) (n : Nat) (f : PartSt → PartSt) : (s.modPartn n f).agenda = s.agenda := rfl
@[simp] theorem State.modPartn_oracle (s : State) (n : Nat) (f : PartSt → PartSt) : (s.modPartn n f).oracle = s.oracle := rfl
@[simp] theorem State.modPartn_fresh (s : State) (n : Nat) (f : PartSt → PartSt) : (s.modPartn n f).fresh = s.fresh := rfl

/-! ## `Ctx.issue` -/

@[simp] theorem Ctx.issue_live (c : Ctx) : c.issue.live = c.live := rfl
@[simp] theorem Ctx.issue_core (c : Ctx) : c.issue.core = c.core := rfl
@[simp] theorem Ctx.issue_slot (c : Ctx) : c.issue.slot = c.slot := rfl
@[simp] theorem Ctx.issue_cid (c : Ctx) : c.issue.cid = c.cid := rfl
@[simp] theorem Ctx.issue_pc (c : Ctx) : c.issue.pc = c.npc := rfl
@[simp] theorem Ctx.issue_npc (c : Ctx) : c.issue.npc = c.npc := rfl
@[simp] theorem Ctx.issue_g (c : Ctx) : c.issue.g = c.g := rfl
@[simp] theorem Ctx.issue_gFull (c : Ctx) : c.issue.gFull = c.gFull := rfl
@[simp] theorem Ctx.issue_gPend (c : Ctx) : c.issue.gPend = c.gPend := rfl
@[simp] theorem Ctx.issue_gPoison (c : Ctx) : c.issue.gPoison = c.gPoison := rfl
@[simp] theorem Ctx.issue_v (c : Ctx) : c.issue.v = c.v := rfl
@[simp] theorem Ctx.issue_vFull (c : Ctx) : c.issue.vFull = c.vFull := rfl
@[simp] theorem Ctx.issue_vPend (c : Ctx) : c.issue.vPend = c.vPend := rfl
@[simp] theorem Ctx.issue_vPoison (c : Ctx) : c.issue.vPoison = c.vPoison := rfl
@[simp] theorem Ctx.issue_k (c : Ctx) : c.issue.k = c.k := rfl
@[simp] theorem Ctx.issue_kPoison (c : Ctx) : c.issue.kPoison = c.kPoison := rfl
@[simp] theorem Ctx.issue_ld (c : Ctx) : c.issue.ld = c.ld := rfl
@[simp] theorem Ctx.issue_st (c : Ctx) : c.issue.st = c.st := rfl
@[simp] theorem Ctx.issue_cp (c : Ctx) : c.issue.cp = c.cp := rfl
@[simp] theorem Ctx.issue_tl (c : Ctx) : c.issue.tl = c.tl := rfl
@[simp] theorem Ctx.issue_cseq (c : Ctx) : c.issue.cseq = c.cseq := rfl
@[simp] theorem Ctx.issue_issues (c : Ctx) : c.issue.issues = c.issues + 1 := rfl
@[simp] theorem Ctx.issue_fcs (c : Ctx) : c.issue.fcs = c.fcs := rfl
@[simp] theorem Ctx.issue_ctrs (c : Ctx) : c.issue.ctrs = c.ctrs + 0x100000000#64 := rfl
@[simp] theorem Ctx.issue_tenid (c : Ctx) : c.issue.tenid = c.tenid := rfl
@[simp] theorem Ctx.issue_ctxtag (c : Ctx) : c.issue.ctxtag = c.ctxtag := rfl
@[simp] theorem Ctx.issue_ptag (c : Ctx) : c.issue.ptag = c.ptag := rfl
@[simp] theorem Ctx.issue_key (c : Ctx) : c.issue.key = c.key := rfl
@[simp] theorem Ctx.issue_rcb (c : Ctx) : c.issue.rcb = c.rcb := rfl
@[simp] theorem Ctx.issue_eff (c : Ctx) : c.issue.eff = c.eff := rfl
@[simp] theorem Ctx.issue_save (c : Ctx) : c.issue.save = c.save := rfl
@[simp] theorem Ctx.issue_gang (c : Ctx) : c.issue.gang = c.gang := rfl
@[simp] theorem Ctx.issue_anchorCore (c : Ctx) : c.issue.anchorCore = c.anchorCore := rfl
@[simp] theorem Ctx.issue_anchorSlot (c : Ctx) : c.issue.anchorSlot = c.anchorSlot := rfl
@[simp] theorem Ctx.issue_anchorMode (c : Ctx) : c.issue.anchorMode = c.anchorMode := rfl
@[simp] theorem Ctx.issue_streams (c : Ctx) : c.issue.streams = c.streams := rfl
@[simp] theorem Ctx.issue_bq (c : Ctx) : c.issue.bq = c.bq := rfl
@[simp] theorem Ctx.issue_audw (c : Ctx) : c.issue.audw = c.audw := rfl
@[simp] theorem Ctx.issue_wait (c : Ctx) : c.issue.wait = c.wait := rfl
@[simp] theorem Ctx.issue_bubbled (c : Ctx) : c.issue.bubbled = false := rfl
@[simp] theorem Ctx.issue_inHand (c : Ctx) : c.issue.inHand = none := rfl
@[simp] theorem Ctx.issue_att (c : Ctx) : c.issue.att = c.att := rfl
@[simp] theorem Ctx.issue_consumed (c : Ctx) : c.issue.consumed = c.consumed + 1 := rfl
@[simp] theorem Ctx.issue_entry (c : Ctx) : c.issue.entry = c.entry := rfl
@[simp] theorem Ctx.issue_loadedAt (c : Ctx) : c.issue.loadedAt = c.loadedAt := rfl
@[simp] theorem Ctx.issue_inst (c : Ctx) : c.issue.inst = c.inst := rfl
@[simp] theorem Ctx.issue_notBefore (c : Ctx) : c.issue.notBefore = c.notBefore := rfl

/-! ## `Ctx.bubble` -/

@[simp] theorem Ctx.bubble_live (c : Ctx) : c.bubble.live = c.live := rfl
@[simp] theorem Ctx.bubble_core (c : Ctx) : c.bubble.core = c.core := rfl
@[simp] theorem Ctx.bubble_slot (c : Ctx) : c.bubble.slot = c.slot := rfl
@[simp] theorem Ctx.bubble_cid (c : Ctx) : c.bubble.cid = c.cid := rfl
@[simp] theorem Ctx.bubble_pc (c : Ctx) : c.bubble.pc = c.pc := rfl
@[simp] theorem Ctx.bubble_npc (c : Ctx) : c.bubble.npc = c.npc := rfl
@[simp] theorem Ctx.bubble_g (c : Ctx) : c.bubble.g = c.g := rfl
@[simp] theorem Ctx.bubble_gFull (c : Ctx) : c.bubble.gFull = c.gFull := rfl
@[simp] theorem Ctx.bubble_gPend (c : Ctx) : c.bubble.gPend = c.gPend := rfl
@[simp] theorem Ctx.bubble_gPoison (c : Ctx) : c.bubble.gPoison = c.gPoison := rfl
@[simp] theorem Ctx.bubble_v (c : Ctx) : c.bubble.v = c.v := rfl
@[simp] theorem Ctx.bubble_vFull (c : Ctx) : c.bubble.vFull = c.vFull := rfl
@[simp] theorem Ctx.bubble_vPend (c : Ctx) : c.bubble.vPend = c.vPend := rfl
@[simp] theorem Ctx.bubble_vPoison (c : Ctx) : c.bubble.vPoison = c.vPoison := rfl
@[simp] theorem Ctx.bubble_k (c : Ctx) : c.bubble.k = c.k := rfl
@[simp] theorem Ctx.bubble_kPoison (c : Ctx) : c.bubble.kPoison = c.kPoison := rfl
@[simp] theorem Ctx.bubble_ld (c : Ctx) : c.bubble.ld = c.ld := rfl
@[simp] theorem Ctx.bubble_st (c : Ctx) : c.bubble.st = c.st := rfl
@[simp] theorem Ctx.bubble_cp (c : Ctx) : c.bubble.cp = c.cp := rfl
@[simp] theorem Ctx.bubble_tl (c : Ctx) : c.bubble.tl = c.tl := rfl
@[simp] theorem Ctx.bubble_cseq (c : Ctx) : c.bubble.cseq = c.cseq := rfl
@[simp] theorem Ctx.bubble_issues (c : Ctx) : c.bubble.issues = c.issues := rfl
@[simp] theorem Ctx.bubble_fcs (c : Ctx) : c.bubble.fcs = c.fcs := rfl
@[simp] theorem Ctx.bubble_ctrs (c : Ctx) : c.bubble.ctrs = c.ctrs.extractLsb' 32 32 ++ (c.ctrs.extractLsb' 0 32 + 1#32) := rfl
@[simp] theorem Ctx.bubble_tenid (c : Ctx) : c.bubble.tenid = c.tenid := rfl
@[simp] theorem Ctx.bubble_ctxtag (c : Ctx) : c.bubble.ctxtag = c.ctxtag := rfl
@[simp] theorem Ctx.bubble_ptag (c : Ctx) : c.bubble.ptag = c.ptag := rfl
@[simp] theorem Ctx.bubble_key (c : Ctx) : c.bubble.key = c.key := rfl
@[simp] theorem Ctx.bubble_rcb (c : Ctx) : c.bubble.rcb = c.rcb := rfl
@[simp] theorem Ctx.bubble_eff (c : Ctx) : c.bubble.eff = c.eff := rfl
@[simp] theorem Ctx.bubble_save (c : Ctx) : c.bubble.save = c.save := rfl
@[simp] theorem Ctx.bubble_gang (c : Ctx) : c.bubble.gang = c.gang := rfl
@[simp] theorem Ctx.bubble_anchorCore (c : Ctx) : c.bubble.anchorCore = c.anchorCore := rfl
@[simp] theorem Ctx.bubble_anchorSlot (c : Ctx) : c.bubble.anchorSlot = c.anchorSlot := rfl
@[simp] theorem Ctx.bubble_anchorMode (c : Ctx) : c.bubble.anchorMode = c.anchorMode := rfl
@[simp] theorem Ctx.bubble_streams (c : Ctx) : c.bubble.streams = c.streams := rfl
@[simp] theorem Ctx.bubble_bq (c : Ctx) : c.bubble.bq = c.bq := rfl
@[simp] theorem Ctx.bubble_audw (c : Ctx) : c.bubble.audw = c.audw := rfl
@[simp] theorem Ctx.bubble_wait (c : Ctx) : c.bubble.wait = c.wait := rfl
@[simp] theorem Ctx.bubble_bubbled (c : Ctx) : c.bubble.bubbled = true := rfl
@[simp] theorem Ctx.bubble_inHand (c : Ctx) : c.bubble.inHand = c.inHand := rfl
@[simp] theorem Ctx.bubble_att (c : Ctx) : c.bubble.att = c.att := rfl
@[simp] theorem Ctx.bubble_consumed (c : Ctx) : c.bubble.consumed = c.consumed := rfl
@[simp] theorem Ctx.bubble_entry (c : Ctx) : c.bubble.entry = c.entry := rfl
@[simp] theorem Ctx.bubble_loadedAt (c : Ctx) : c.bubble.loadedAt = c.loadedAt := rfl
@[simp] theorem Ctx.bubble_inst (c : Ctx) : c.bubble.inst = c.inst := rfl
@[simp] theorem Ctx.bubble_notBefore (c : Ctx) : c.bubble.notBefore = c.notBefore := rfl

/-! ## `Ctx.setG` -/

@[simp] theorem Ctx.setG_live (c : Ctx) (x : Reg) (v : Word) : (c.setG x v).live = c.live := rfl
@[simp] theorem Ctx.setG_core (c : Ctx) (x : Reg) (v : Word) : (c.setG x v).core = c.core := rfl
@[simp] theorem Ctx.setG_slot (c : Ctx) (x : Reg) (v : Word) : (c.setG x v).slot = c.slot := rfl
@[simp] theorem Ctx.setG_cid (c : Ctx) (x : Reg) (v : Word) : (c.setG x v).cid = c.cid := rfl
@[simp] theorem Ctx.setG_pc (c : Ctx) (x : Reg) (v : Word) : (c.setG x v).pc = c.pc := rfl
@[simp] theorem Ctx.setG_npc (c : Ctx) (x : Reg) (v : Word) : (c.setG x v).npc = c.npc := rfl
@[simp] theorem Ctx.setG_g (c : Ctx) (x : Reg) (v : Word) : (c.setG x v).g = c.g.set x.toNat v := rfl
@[simp] theorem Ctx.setG_gFull (c : Ctx) (x : Reg) (v : Word) : (c.setG x v).gFull = c.gFull ||| (1#64 <<< x.toNat) := rfl
@[simp] theorem Ctx.setG_gPend (c : Ctx) (x : Reg) (v : Word) : (c.setG x v).gPend = c.gPend &&& ~~~(1#64 <<< x.toNat) := rfl
@[simp] theorem Ctx.setG_gPoison (c : Ctx) (x : Reg) (v : Word) : (c.setG x v).gPoison = c.gPoison &&& ~~~(1#64 <<< x.toNat) := rfl
@[simp] theorem Ctx.setG_v (c : Ctx) (x : Reg) (v : Word) : (c.setG x v).v = c.v := rfl
@[simp] theorem Ctx.setG_vFull (c : Ctx) (x : Reg) (v : Word) : (c.setG x v).vFull = c.vFull := rfl
@[simp] theorem Ctx.setG_vPend (c : Ctx) (x : Reg) (v : Word) : (c.setG x v).vPend = c.vPend := rfl
@[simp] theorem Ctx.setG_vPoison (c : Ctx) (x : Reg) (v : Word) : (c.setG x v).vPoison = c.vPoison := rfl
@[simp] theorem Ctx.setG_k (c : Ctx) (x : Reg) (v : Word) : (c.setG x v).k = c.k := rfl
@[simp] theorem Ctx.setG_kPoison (c : Ctx) (x : Reg) (v : Word) : (c.setG x v).kPoison = c.kPoison := rfl
@[simp] theorem Ctx.setG_ld (c : Ctx) (x : Reg) (v : Word) : (c.setG x v).ld = c.ld := rfl
@[simp] theorem Ctx.setG_st (c : Ctx) (x : Reg) (v : Word) : (c.setG x v).st = c.st := rfl
@[simp] theorem Ctx.setG_cp (c : Ctx) (x : Reg) (v : Word) : (c.setG x v).cp = c.cp := rfl
@[simp] theorem Ctx.setG_tl (c : Ctx) (x : Reg) (v : Word) : (c.setG x v).tl = c.tl := rfl
@[simp] theorem Ctx.setG_cseq (c : Ctx) (x : Reg) (v : Word) : (c.setG x v).cseq = c.cseq := rfl
@[simp] theorem Ctx.setG_issues (c : Ctx) (x : Reg) (v : Word) : (c.setG x v).issues = c.issues := rfl
@[simp] theorem Ctx.setG_fcs (c : Ctx) (x : Reg) (v : Word) : (c.setG x v).fcs = c.fcs := rfl
@[simp] theorem Ctx.setG_ctrs (c : Ctx) (x : Reg) (v : Word) : (c.setG x v).ctrs = c.ctrs := rfl
@[simp] theorem Ctx.setG_tenid (c : Ctx) (x : Reg) (v : Word) : (c.setG x v).tenid = c.tenid := rfl
@[simp] theorem Ctx.setG_ctxtag (c : Ctx) (x : Reg) (v : Word) : (c.setG x v).ctxtag = c.ctxtag := rfl
@[simp] theorem Ctx.setG_ptag (c : Ctx) (x : Reg) (v : Word) : (c.setG x v).ptag = c.ptag := rfl
@[simp] theorem Ctx.setG_key (c : Ctx) (x : Reg) (v : Word) : (c.setG x v).key = c.key := rfl
@[simp] theorem Ctx.setG_rcb (c : Ctx) (x : Reg) (v : Word) : (c.setG x v).rcb = c.rcb := rfl
@[simp] theorem Ctx.setG_eff (c : Ctx) (x : Reg) (v : Word) : (c.setG x v).eff = c.eff := rfl
@[simp] theorem Ctx.setG_save (c : Ctx) (x : Reg) (v : Word) : (c.setG x v).save = c.save := rfl
@[simp] theorem Ctx.setG_gang (c : Ctx) (x : Reg) (v : Word) : (c.setG x v).gang = c.gang := rfl
@[simp] theorem Ctx.setG_anchorCore (c : Ctx) (x : Reg) (v : Word) : (c.setG x v).anchorCore = c.anchorCore := rfl
@[simp] theorem Ctx.setG_anchorSlot (c : Ctx) (x : Reg) (v : Word) : (c.setG x v).anchorSlot = c.anchorSlot := rfl
@[simp] theorem Ctx.setG_anchorMode (c : Ctx) (x : Reg) (v : Word) : (c.setG x v).anchorMode = c.anchorMode := rfl
@[simp] theorem Ctx.setG_streams (c : Ctx) (x : Reg) (v : Word) : (c.setG x v).streams = c.streams := rfl
@[simp] theorem Ctx.setG_bq (c : Ctx) (x : Reg) (v : Word) : (c.setG x v).bq = c.bq := rfl
@[simp] theorem Ctx.setG_audw (c : Ctx) (x : Reg) (v : Word) : (c.setG x v).audw = c.audw := rfl
@[simp] theorem Ctx.setG_wait (c : Ctx) (x : Reg) (v : Word) : (c.setG x v).wait = c.wait := rfl
@[simp] theorem Ctx.setG_bubbled (c : Ctx) (x : Reg) (v : Word) : (c.setG x v).bubbled = c.bubbled := rfl
@[simp] theorem Ctx.setG_inHand (c : Ctx) (x : Reg) (v : Word) : (c.setG x v).inHand = c.inHand := rfl
@[simp] theorem Ctx.setG_att (c : Ctx) (x : Reg) (v : Word) : (c.setG x v).att = c.att := rfl
@[simp] theorem Ctx.setG_consumed (c : Ctx) (x : Reg) (v : Word) : (c.setG x v).consumed = c.consumed := rfl
@[simp] theorem Ctx.setG_entry (c : Ctx) (x : Reg) (v : Word) : (c.setG x v).entry = c.entry := rfl
@[simp] theorem Ctx.setG_loadedAt (c : Ctx) (x : Reg) (v : Word) : (c.setG x v).loadedAt = c.loadedAt := rfl
@[simp] theorem Ctx.setG_inst (c : Ctx) (x : Reg) (v : Word) : (c.setG x v).inst = c.inst := rfl
@[simp] theorem Ctx.setG_notBefore (c : Ctx) (x : Reg) (v : Word) : (c.setG x v).notBefore = c.notBefore := rfl

/-! ## `Ctx.pendG` -/

@[simp] theorem Ctx.pendG_live (c : Ctx) (x : Reg) : (c.pendG x).live = c.live := rfl
@[simp] theorem Ctx.pendG_core (c : Ctx) (x : Reg) : (c.pendG x).core = c.core := rfl
@[simp] theorem Ctx.pendG_slot (c : Ctx) (x : Reg) : (c.pendG x).slot = c.slot := rfl
@[simp] theorem Ctx.pendG_cid (c : Ctx) (x : Reg) : (c.pendG x).cid = c.cid := rfl
@[simp] theorem Ctx.pendG_pc (c : Ctx) (x : Reg) : (c.pendG x).pc = c.pc := rfl
@[simp] theorem Ctx.pendG_npc (c : Ctx) (x : Reg) : (c.pendG x).npc = c.npc := rfl
@[simp] theorem Ctx.pendG_g (c : Ctx) (x : Reg) : (c.pendG x).g = c.g := rfl
@[simp] theorem Ctx.pendG_gFull (c : Ctx) (x : Reg) : (c.pendG x).gFull = c.gFull &&& ~~~(1#64 <<< x.toNat) := rfl
@[simp] theorem Ctx.pendG_gPend (c : Ctx) (x : Reg) : (c.pendG x).gPend = c.gPend ||| (1#64 <<< x.toNat) := rfl
@[simp] theorem Ctx.pendG_gPoison (c : Ctx) (x : Reg) : (c.pendG x).gPoison = c.gPoison := rfl
@[simp] theorem Ctx.pendG_v (c : Ctx) (x : Reg) : (c.pendG x).v = c.v := rfl
@[simp] theorem Ctx.pendG_vFull (c : Ctx) (x : Reg) : (c.pendG x).vFull = c.vFull := rfl
@[simp] theorem Ctx.pendG_vPend (c : Ctx) (x : Reg) : (c.pendG x).vPend = c.vPend := rfl
@[simp] theorem Ctx.pendG_vPoison (c : Ctx) (x : Reg) : (c.pendG x).vPoison = c.vPoison := rfl
@[simp] theorem Ctx.pendG_k (c : Ctx) (x : Reg) : (c.pendG x).k = c.k := rfl
@[simp] theorem Ctx.pendG_kPoison (c : Ctx) (x : Reg) : (c.pendG x).kPoison = c.kPoison := rfl
@[simp] theorem Ctx.pendG_ld (c : Ctx) (x : Reg) : (c.pendG x).ld = c.ld := rfl
@[simp] theorem Ctx.pendG_st (c : Ctx) (x : Reg) : (c.pendG x).st = c.st := rfl
@[simp] theorem Ctx.pendG_cp (c : Ctx) (x : Reg) : (c.pendG x).cp = c.cp := rfl
@[simp] theorem Ctx.pendG_tl (c : Ctx) (x : Reg) : (c.pendG x).tl = c.tl := rfl
@[simp] theorem Ctx.pendG_cseq (c : Ctx) (x : Reg) : (c.pendG x).cseq = c.cseq := rfl
@[simp] theorem Ctx.pendG_issues (c : Ctx) (x : Reg) : (c.pendG x).issues = c.issues := rfl
@[simp] theorem Ctx.pendG_fcs (c : Ctx) (x : Reg) : (c.pendG x).fcs = c.fcs := rfl
@[simp] theorem Ctx.pendG_ctrs (c : Ctx) (x : Reg) : (c.pendG x).ctrs = c.ctrs := rfl
@[simp] theorem Ctx.pendG_tenid (c : Ctx) (x : Reg) : (c.pendG x).tenid = c.tenid := rfl
@[simp] theorem Ctx.pendG_ctxtag (c : Ctx) (x : Reg) : (c.pendG x).ctxtag = c.ctxtag := rfl
@[simp] theorem Ctx.pendG_ptag (c : Ctx) (x : Reg) : (c.pendG x).ptag = c.ptag := rfl
@[simp] theorem Ctx.pendG_key (c : Ctx) (x : Reg) : (c.pendG x).key = c.key := rfl
@[simp] theorem Ctx.pendG_rcb (c : Ctx) (x : Reg) : (c.pendG x).rcb = c.rcb := rfl
@[simp] theorem Ctx.pendG_eff (c : Ctx) (x : Reg) : (c.pendG x).eff = c.eff := rfl
@[simp] theorem Ctx.pendG_save (c : Ctx) (x : Reg) : (c.pendG x).save = c.save := rfl
@[simp] theorem Ctx.pendG_gang (c : Ctx) (x : Reg) : (c.pendG x).gang = c.gang := rfl
@[simp] theorem Ctx.pendG_anchorCore (c : Ctx) (x : Reg) : (c.pendG x).anchorCore = c.anchorCore := rfl
@[simp] theorem Ctx.pendG_anchorSlot (c : Ctx) (x : Reg) : (c.pendG x).anchorSlot = c.anchorSlot := rfl
@[simp] theorem Ctx.pendG_anchorMode (c : Ctx) (x : Reg) : (c.pendG x).anchorMode = c.anchorMode := rfl
@[simp] theorem Ctx.pendG_streams (c : Ctx) (x : Reg) : (c.pendG x).streams = c.streams := rfl
@[simp] theorem Ctx.pendG_bq (c : Ctx) (x : Reg) : (c.pendG x).bq = c.bq := rfl
@[simp] theorem Ctx.pendG_audw (c : Ctx) (x : Reg) : (c.pendG x).audw = c.audw := rfl
@[simp] theorem Ctx.pendG_wait (c : Ctx) (x : Reg) : (c.pendG x).wait = c.wait := rfl
@[simp] theorem Ctx.pendG_bubbled (c : Ctx) (x : Reg) : (c.pendG x).bubbled = c.bubbled := rfl
@[simp] theorem Ctx.pendG_inHand (c : Ctx) (x : Reg) : (c.pendG x).inHand = c.inHand := rfl
@[simp] theorem Ctx.pendG_att (c : Ctx) (x : Reg) : (c.pendG x).att = c.att := rfl
@[simp] theorem Ctx.pendG_consumed (c : Ctx) (x : Reg) : (c.pendG x).consumed = c.consumed := rfl
@[simp] theorem Ctx.pendG_entry (c : Ctx) (x : Reg) : (c.pendG x).entry = c.entry := rfl
@[simp] theorem Ctx.pendG_loadedAt (c : Ctx) (x : Reg) : (c.pendG x).loadedAt = c.loadedAt := rfl
@[simp] theorem Ctx.pendG_inst (c : Ctx) (x : Reg) : (c.pendG x).inst = c.inst := rfl
@[simp] theorem Ctx.pendG_notBefore (c : Ctx) (x : Reg) : (c.pendG x).notBefore = c.notBefore := rfl

/-! ## `Ctx.setV` -/

@[simp] theorem Ctx.setV_live (c : Ctx) (x : Reg) (m : BitVec 16) (v : VWord) : (c.setV x m v).live = c.live := rfl
@[simp] theorem Ctx.setV_core (c : Ctx) (x : Reg) (m : BitVec 16) (v : VWord) : (c.setV x m v).core = c.core := rfl
@[simp] theorem Ctx.setV_slot (c : Ctx) (x : Reg) (m : BitVec 16) (v : VWord) : (c.setV x m v).slot = c.slot := rfl
@[simp] theorem Ctx.setV_cid (c : Ctx) (x : Reg) (m : BitVec 16) (v : VWord) : (c.setV x m v).cid = c.cid := rfl
@[simp] theorem Ctx.setV_pc (c : Ctx) (x : Reg) (m : BitVec 16) (v : VWord) : (c.setV x m v).pc = c.pc := rfl
@[simp] theorem Ctx.setV_npc (c : Ctx) (x : Reg) (m : BitVec 16) (v : VWord) : (c.setV x m v).npc = c.npc := rfl
@[simp] theorem Ctx.setV_g (c : Ctx) (x : Reg) (m : BitVec 16) (v : VWord) : (c.setV x m v).g = c.g := rfl
@[simp] theorem Ctx.setV_gFull (c : Ctx) (x : Reg) (m : BitVec 16) (v : VWord) : (c.setV x m v).gFull = c.gFull := rfl
@[simp] theorem Ctx.setV_gPend (c : Ctx) (x : Reg) (m : BitVec 16) (v : VWord) : (c.setV x m v).gPend = c.gPend := rfl
@[simp] theorem Ctx.setV_gPoison (c : Ctx) (x : Reg) (m : BitVec 16) (v : VWord) : (c.setV x m v).gPoison = c.gPoison := rfl
@[simp] theorem Ctx.setV_v (c : Ctx) (x : Reg) (m : BitVec 16) (v : VWord) : (c.setV x m v).v = c.v.set (x.toNat % 32) (blend m v (c.v[x.toNat % 32]'(Nat.mod_lt _ (by decide)))) (Nat.mod_lt _ (by decide)) := rfl
@[simp] theorem Ctx.setV_vFull (c : Ctx) (x : Reg) (m : BitVec 16) (v : VWord) : (c.setV x m v).vFull = c.vFull ||| (1#32 <<< x.toNat) := rfl
@[simp] theorem Ctx.setV_vPend (c : Ctx) (x : Reg) (m : BitVec 16) (v : VWord) : (c.setV x m v).vPend = c.vPend &&& ~~~(1#32 <<< x.toNat) := rfl
@[simp] theorem Ctx.setV_vPoison (c : Ctx) (x : Reg) (m : BitVec 16) (v : VWord) : (c.setV x m v).vPoison = if m = BitVec.allOnes 16 then c.vPoison &&& ~~~(1#32 <<< x.toNat) else c.vPoison := rfl
@[simp] theorem Ctx.setV_k (c : Ctx) (x : Reg) (m : BitVec 16) (v : VWord) : (c.setV x m v).k = c.k := rfl
@[simp] theorem Ctx.setV_kPoison (c : Ctx) (x : Reg) (m : BitVec 16) (v : VWord) : (c.setV x m v).kPoison = c.kPoison := rfl
@[simp] theorem Ctx.setV_ld (c : Ctx) (x : Reg) (m : BitVec 16) (v : VWord) : (c.setV x m v).ld = c.ld := rfl
@[simp] theorem Ctx.setV_st (c : Ctx) (x : Reg) (m : BitVec 16) (v : VWord) : (c.setV x m v).st = c.st := rfl
@[simp] theorem Ctx.setV_cp (c : Ctx) (x : Reg) (m : BitVec 16) (v : VWord) : (c.setV x m v).cp = c.cp := rfl
@[simp] theorem Ctx.setV_tl (c : Ctx) (x : Reg) (m : BitVec 16) (v : VWord) : (c.setV x m v).tl = c.tl := rfl
@[simp] theorem Ctx.setV_cseq (c : Ctx) (x : Reg) (m : BitVec 16) (v : VWord) : (c.setV x m v).cseq = c.cseq := rfl
@[simp] theorem Ctx.setV_issues (c : Ctx) (x : Reg) (m : BitVec 16) (v : VWord) : (c.setV x m v).issues = c.issues := rfl
@[simp] theorem Ctx.setV_fcs (c : Ctx) (x : Reg) (m : BitVec 16) (v : VWord) : (c.setV x m v).fcs = c.fcs := rfl
@[simp] theorem Ctx.setV_ctrs (c : Ctx) (x : Reg) (m : BitVec 16) (v : VWord) : (c.setV x m v).ctrs = c.ctrs := rfl
@[simp] theorem Ctx.setV_tenid (c : Ctx) (x : Reg) (m : BitVec 16) (v : VWord) : (c.setV x m v).tenid = c.tenid := rfl
@[simp] theorem Ctx.setV_ctxtag (c : Ctx) (x : Reg) (m : BitVec 16) (v : VWord) : (c.setV x m v).ctxtag = c.ctxtag := rfl
@[simp] theorem Ctx.setV_ptag (c : Ctx) (x : Reg) (m : BitVec 16) (v : VWord) : (c.setV x m v).ptag = c.ptag := rfl
@[simp] theorem Ctx.setV_key (c : Ctx) (x : Reg) (m : BitVec 16) (v : VWord) : (c.setV x m v).key = c.key := rfl
@[simp] theorem Ctx.setV_rcb (c : Ctx) (x : Reg) (m : BitVec 16) (v : VWord) : (c.setV x m v).rcb = c.rcb := rfl
@[simp] theorem Ctx.setV_eff (c : Ctx) (x : Reg) (m : BitVec 16) (v : VWord) : (c.setV x m v).eff = c.eff := rfl
@[simp] theorem Ctx.setV_save (c : Ctx) (x : Reg) (m : BitVec 16) (v : VWord) : (c.setV x m v).save = c.save := rfl
@[simp] theorem Ctx.setV_gang (c : Ctx) (x : Reg) (m : BitVec 16) (v : VWord) : (c.setV x m v).gang = c.gang := rfl
@[simp] theorem Ctx.setV_anchorCore (c : Ctx) (x : Reg) (m : BitVec 16) (v : VWord) : (c.setV x m v).anchorCore = c.anchorCore := rfl
@[simp] theorem Ctx.setV_anchorSlot (c : Ctx) (x : Reg) (m : BitVec 16) (v : VWord) : (c.setV x m v).anchorSlot = c.anchorSlot := rfl
@[simp] theorem Ctx.setV_anchorMode (c : Ctx) (x : Reg) (m : BitVec 16) (v : VWord) : (c.setV x m v).anchorMode = c.anchorMode := rfl
@[simp] theorem Ctx.setV_streams (c : Ctx) (x : Reg) (m : BitVec 16) (v : VWord) : (c.setV x m v).streams = c.streams := rfl
@[simp] theorem Ctx.setV_bq (c : Ctx) (x : Reg) (m : BitVec 16) (v : VWord) : (c.setV x m v).bq = c.bq := rfl
@[simp] theorem Ctx.setV_audw (c : Ctx) (x : Reg) (m : BitVec 16) (v : VWord) : (c.setV x m v).audw = c.audw := rfl
@[simp] theorem Ctx.setV_wait (c : Ctx) (x : Reg) (m : BitVec 16) (v : VWord) : (c.setV x m v).wait = c.wait := rfl
@[simp] theorem Ctx.setV_bubbled (c : Ctx) (x : Reg) (m : BitVec 16) (v : VWord) : (c.setV x m v).bubbled = c.bubbled := rfl
@[simp] theorem Ctx.setV_inHand (c : Ctx) (x : Reg) (m : BitVec 16) (v : VWord) : (c.setV x m v).inHand = c.inHand := rfl
@[simp] theorem Ctx.setV_att (c : Ctx) (x : Reg) (m : BitVec 16) (v : VWord) : (c.setV x m v).att = c.att := rfl
@[simp] theorem Ctx.setV_consumed (c : Ctx) (x : Reg) (m : BitVec 16) (v : VWord) : (c.setV x m v).consumed = c.consumed := rfl
@[simp] theorem Ctx.setV_entry (c : Ctx) (x : Reg) (m : BitVec 16) (v : VWord) : (c.setV x m v).entry = c.entry := rfl
@[simp] theorem Ctx.setV_loadedAt (c : Ctx) (x : Reg) (m : BitVec 16) (v : VWord) : (c.setV x m v).loadedAt = c.loadedAt := rfl
@[simp] theorem Ctx.setV_inst (c : Ctx) (x : Reg) (m : BitVec 16) (v : VWord) : (c.setV x m v).inst = c.inst := rfl
@[simp] theorem Ctx.setV_notBefore (c : Ctx) (x : Reg) (m : BitVec 16) (v : VWord) : (c.setV x m v).notBefore = c.notBefore := rfl

/-! ## `Ctx.pendV` -/

@[simp] theorem Ctx.pendV_live (c : Ctx) (x : Reg) : (c.pendV x).live = c.live := rfl
@[simp] theorem Ctx.pendV_core (c : Ctx) (x : Reg) : (c.pendV x).core = c.core := rfl
@[simp] theorem Ctx.pendV_slot (c : Ctx) (x : Reg) : (c.pendV x).slot = c.slot := rfl
@[simp] theorem Ctx.pendV_cid (c : Ctx) (x : Reg) : (c.pendV x).cid = c.cid := rfl
@[simp] theorem Ctx.pendV_pc (c : Ctx) (x : Reg) : (c.pendV x).pc = c.pc := rfl
@[simp] theorem Ctx.pendV_npc (c : Ctx) (x : Reg) : (c.pendV x).npc = c.npc := rfl
@[simp] theorem Ctx.pendV_g (c : Ctx) (x : Reg) : (c.pendV x).g = c.g := rfl
@[simp] theorem Ctx.pendV_gFull (c : Ctx) (x : Reg) : (c.pendV x).gFull = c.gFull := rfl
@[simp] theorem Ctx.pendV_gPend (c : Ctx) (x : Reg) : (c.pendV x).gPend = c.gPend := rfl
@[simp] theorem Ctx.pendV_gPoison (c : Ctx) (x : Reg) : (c.pendV x).gPoison = c.gPoison := rfl
@[simp] theorem Ctx.pendV_v (c : Ctx) (x : Reg) : (c.pendV x).v = c.v := rfl
@[simp] theorem Ctx.pendV_vFull (c : Ctx) (x : Reg) : (c.pendV x).vFull = c.vFull &&& ~~~(1#32 <<< x.toNat) := rfl
@[simp] theorem Ctx.pendV_vPend (c : Ctx) (x : Reg) : (c.pendV x).vPend = c.vPend ||| (1#32 <<< x.toNat) := rfl
@[simp] theorem Ctx.pendV_vPoison (c : Ctx) (x : Reg) : (c.pendV x).vPoison = c.vPoison := rfl
@[simp] theorem Ctx.pendV_k (c : Ctx) (x : Reg) : (c.pendV x).k = c.k := rfl
@[simp] theorem Ctx.pendV_kPoison (c : Ctx) (x : Reg) : (c.pendV x).kPoison = c.kPoison := rfl
@[simp] theorem Ctx.pendV_ld (c : Ctx) (x : Reg) : (c.pendV x).ld = c.ld := rfl
@[simp] theorem Ctx.pendV_st (c : Ctx) (x : Reg) : (c.pendV x).st = c.st := rfl
@[simp] theorem Ctx.pendV_cp (c : Ctx) (x : Reg) : (c.pendV x).cp = c.cp := rfl
@[simp] theorem Ctx.pendV_tl (c : Ctx) (x : Reg) : (c.pendV x).tl = c.tl := rfl
@[simp] theorem Ctx.pendV_cseq (c : Ctx) (x : Reg) : (c.pendV x).cseq = c.cseq := rfl
@[simp] theorem Ctx.pendV_issues (c : Ctx) (x : Reg) : (c.pendV x).issues = c.issues := rfl
@[simp] theorem Ctx.pendV_fcs (c : Ctx) (x : Reg) : (c.pendV x).fcs = c.fcs := rfl
@[simp] theorem Ctx.pendV_ctrs (c : Ctx) (x : Reg) : (c.pendV x).ctrs = c.ctrs := rfl
@[simp] theorem Ctx.pendV_tenid (c : Ctx) (x : Reg) : (c.pendV x).tenid = c.tenid := rfl
@[simp] theorem Ctx.pendV_ctxtag (c : Ctx) (x : Reg) : (c.pendV x).ctxtag = c.ctxtag := rfl
@[simp] theorem Ctx.pendV_ptag (c : Ctx) (x : Reg) : (c.pendV x).ptag = c.ptag := rfl
@[simp] theorem Ctx.pendV_key (c : Ctx) (x : Reg) : (c.pendV x).key = c.key := rfl
@[simp] theorem Ctx.pendV_rcb (c : Ctx) (x : Reg) : (c.pendV x).rcb = c.rcb := rfl
@[simp] theorem Ctx.pendV_eff (c : Ctx) (x : Reg) : (c.pendV x).eff = c.eff := rfl
@[simp] theorem Ctx.pendV_save (c : Ctx) (x : Reg) : (c.pendV x).save = c.save := rfl
@[simp] theorem Ctx.pendV_gang (c : Ctx) (x : Reg) : (c.pendV x).gang = c.gang := rfl
@[simp] theorem Ctx.pendV_anchorCore (c : Ctx) (x : Reg) : (c.pendV x).anchorCore = c.anchorCore := rfl
@[simp] theorem Ctx.pendV_anchorSlot (c : Ctx) (x : Reg) : (c.pendV x).anchorSlot = c.anchorSlot := rfl
@[simp] theorem Ctx.pendV_anchorMode (c : Ctx) (x : Reg) : (c.pendV x).anchorMode = c.anchorMode := rfl
@[simp] theorem Ctx.pendV_streams (c : Ctx) (x : Reg) : (c.pendV x).streams = c.streams := rfl
@[simp] theorem Ctx.pendV_bq (c : Ctx) (x : Reg) : (c.pendV x).bq = c.bq := rfl
@[simp] theorem Ctx.pendV_audw (c : Ctx) (x : Reg) : (c.pendV x).audw = c.audw := rfl
@[simp] theorem Ctx.pendV_wait (c : Ctx) (x : Reg) : (c.pendV x).wait = c.wait := rfl
@[simp] theorem Ctx.pendV_bubbled (c : Ctx) (x : Reg) : (c.pendV x).bubbled = c.bubbled := rfl
@[simp] theorem Ctx.pendV_inHand (c : Ctx) (x : Reg) : (c.pendV x).inHand = c.inHand := rfl
@[simp] theorem Ctx.pendV_att (c : Ctx) (x : Reg) : (c.pendV x).att = c.att := rfl
@[simp] theorem Ctx.pendV_consumed (c : Ctx) (x : Reg) : (c.pendV x).consumed = c.consumed := rfl
@[simp] theorem Ctx.pendV_entry (c : Ctx) (x : Reg) : (c.pendV x).entry = c.entry := rfl
@[simp] theorem Ctx.pendV_loadedAt (c : Ctx) (x : Reg) : (c.pendV x).loadedAt = c.loadedAt := rfl
@[simp] theorem Ctx.pendV_inst (c : Ctx) (x : Reg) : (c.pendV x).inst = c.inst := rfl
@[simp] theorem Ctx.pendV_notBefore (c : Ctx) (x : Reg) : (c.pendV x).notBefore = c.notBefore := rfl

end Sys2Proof.Machine
end

