-- ==== Sys2Proof/Tests/Slice0.lean ====
section
/-!
SUPPORT. Tests of the model on fixed values: ill-formed terms that the check refuses, words that the manual's encodings give, single steps
whose results the manual gives, and for each statement a state and operands that meet what it asks.
-/

namespace Sys2Proof.Tests

open Sys2Proof Sys2Proof.Machine

/-! ## Small states -/

/-- A context of tenant 1 in a slot of a core, with every register full. -/
def ctx (core slot : Nat) : Ctx := { Ctx.fresh with live := true, core := core, slot := slot, cid := 1, tenid := 1, ctxtag := 1, anchorCore := core, anchorSlot := slot }

/-- The machine after reset with a context in slot 0 of core 0 that holds these values in its `g` registers. -/
def wg (l : List (Nat × Word)) : State :=
  { State.reset with me := { ctx 0 0 with g := l.foldl (fun v p => if h : p.1 < 64 then v.set p.1 p.2 else v) Ctx.fresh.g } }

theorem wg_anchor (l : List (Nat × Word)) : (wg l).atAnchor := ⟨rfl, rfl⟩

/-- A two-source instruction on g4 and g5 into g3. -/
def i345 : IntBin := { d := 3, s := 4, src := .reg 5, q := Pxs.none }

/-! ## Ill-formed terms, and words that are refused -/

/-- Scalar operands that no encoding has: `rb` as a destination, a mask, a fifth prefix, no immediate word, high registers without PXR. -/
theorem test_illFormed_scalar :
    (Instr.add { i345 with d := 61 }).wf = false ∧ (Instr.add { i345 with d := 62 }).wf = false ∧
    (Instr.add { i345 with q := { Pxs.none with mask := 1 } }).wf = false ∧ (Instr.add { i345 with d := 16, src := .two }).wf = false ∧
    (Instr.add { i345 with src := .imm [] }).wf = false ∧ (Instr.add { i345 with src := .imm [0, 0, 0, 0, 0] }).wf = false ∧
    (Instr.add { i345 with d := 16, src := .imm [0, 0, 0, 0] }).wf = false ∧ (Instr.cmp .eq true { i345 with src := .imm [0, 0, 0, 0] }).wf = false ∧
    (Instr.mov { d := 61, src := .reg 4 Pxs.none }).wf = false ∧ (Instr.mov { d := 3, src := .imm [] }).wf = false ∧
    (Instr.mov { d := 3, src := .reg 4 { Pxs.none with mask := 1 } }).wf = false ∧ (Instr.movImm { d := 3, i := 0, p := [0, 0, 0, 0, 0] }).wf = false ∧
    (Instr.addImm { d := 62, i := 0, p := [] }).wf = false ∧ (Instr.sext { w := .w8, d := 61, s := 4, q := Pxs.none }).wf = false ∧
    (Instr.extb { d := 3, s := 4, pos := 0, wid := 0, q := Pxs.none }).wf = false ∧
    (Instr.extb { d := 3, s := 4, pos := 32, wid := 33, q := Pxs.none }).wf = false ∧
    (Instr.lea { d := 61, s := 4, t := 5, f := 0, p := [] }).wf = false ∧ (Instr.bnd 3 4 (.imm [0])).wf = false ∧ (Instr.bnd 3 4 (.imm [])).wf = false ∧
    (Instr.bcmp .eq 3 4 []).wf = false ∧ (Instr.br 0 [0, 0, 0, 0, 0]).wf = false ∧ (Instr.bc .z 16 0 [0, 0, 0, 0]).wf = false ∧
    (Instr.fadd { dbl := false, d := 3, s := 16, src := none, m := .plain }).wf = false ∧ (Instr.fcvt (.ns .f32 .f16) 3 4 .plain).wf = false ∧
    (Instr.fma false 61 4 5 .plain).wf = false := by decide

/-- Operands of the other families that no encoding has. -/
theorem test_illFormed_other :
    (Instr.ld { d := 61, b := 4, t := 0, w := 3, p := [] } { sx := false, fresh := false, acq := false }).wf = false ∧
    (Instr.ld { d := 3, b := 4, t := 0, w := 3, p := [] } { sx := true, fresh := false, acq := false }).wf = false ∧
    (Instr.st { d := 3, b := 4, t := 5, w := 3, p := [0, 0, 0, 0] } false).wf = false ∧ (Instr.feq 61 4).wf = false ∧ (Instr.tevict 62 4).wf = false ∧
    (Instr.crd 61 0).wf = false ∧ (Instr.amo .fadd .n32 .relaxed 3 4 5).wf = false ∧ (Instr.amo .add .f32 .relaxed 3 4 5).wf = false ∧
    (Instr.amo .jdec .n64 .relaxed 3 4 5).wf = false ∧ (Instr.rupd .add .n64 .acq 4 5).wf = false ∧ (Instr.cas true .relaxed 61 4 5).wf = false ∧
    (Instr.send 57 10 0).wf = false ∧ (Instr.send 57 10 9).wf = false ∧ (Instr.send 57 54 3).wf = false ∧ (Instr.send 60 4 5).wf = false ∧
    (Instr.send 5 6 56).wf = false ∧ (Instr.qbind 55 4).wf = false ∧ (Instr.qstat 4 61).wf = false ∧ (Instr.hbar 61 4).wf = false ∧
    (Instr.aspill 13 4).wf = false ∧ (Instr.vmov { ty := .f32, d := 32, s := 4, q := Pxs.none }).wf = false ∧
    (Instr.vmov { ty := .f32, d := 3, s := 4, q := { Pxs.none with sel := .byte 0 } }).wf = false ∧
    (Instr.vadd true { ty := .f32, d := 3, s := 4, src := .reg 5, q := Pxs.none }).wf = false ∧
    (Instr.vadd false { ty := .f32, d := 3, s := 4, src := .imm [1], q := Pxs.none }).wf = false ∧
    (Instr.vshl { ty := .f16x2, d := 3, s := 4, src := .reg 5, q := Pxs.none }).wf = false ∧
    (Instr.vcmp .eq { ty := .f32, d := 0, s := 4, src := .reg 5, q := Pxs.none }).wf = false ∧
    (Instr.vcmp .eq { ty := .f32, d := 8, s := 4, src := .reg 5, q := Pxs.none }).wf = false ∧
    (Instr.vperm { ty := .s32, d := 3, s := 4, src := .imm [16], q := Pxs.none }).wf = false ∧
    (Instr.vred .add { ty := .s8x4, d := 3, s := 4, q := Pxs.none }).wf = false ∧ (Instr.vrcp { ty := .s32, d := 3, s := 4, q := Pxs.none }).wf = false ∧
    (Instr.vcvt .f32 { ty := .f32, d := 3, s := 4, q := Pxs.none }).wf = false ∧ (Instr.vcvt .s8x4 { ty := .f32, d := 3, s := 4, q := Pxs.none }).wf = false ∧
    (Instr.vunpk .bf16 2 3 4 Pxs.none).wf = false ∧ (Instr.vqnt .zx8 { d := 3, s := 4, t := 5, q := { Pxs.none with mask := 1 } }).wf = false ∧
    (Instr.vldx .b4 true false 0 3 4 5).wf = false ∧ (Instr.kop .and 0 1 none).wf = false ∧ (Instr.klow 0 4).wf = false ∧
    (Instr.mmeta .c128 1 4).wf = false ∧ (Instr.mqst 3 9).wf = false ∧ (Instr.mmas 0 1 3 2).wf = false ∧ (Instr.amov 32 0 0 false).wf = false ∧
    (Instr.cpy true false 56 4).wf = false ∧ (Instr.cpy true false 3 52).wf = false ∧ (Instr.cpyc 3 0).wf = false := by decide

/-- The decoder refuses words with this reason at this index. -/
def refuses (ws : List IWord) (code idx : Nat) : Bool :=
  match decodeWords ws with
  | .ok _ => false
  | .error v => v.code == code && v.idx == idx

/-- R40: one word or chain for each reason that the front end finds, 0x01 to 0x0D; the sixth is the manual's example for 0x08. -/
theorem test_decode_refuses :
    refuses [0xFFFF] 1 0 = true ∧ refuses [0x7C00] 2 0 = true ∧ refuses [0xF940, 0x0800] 3 0 = true ∧ refuses [0x10D3] 4 0 = true ∧
    refuses [0x5C28] 5 0 = true ∧ refuses [0xF000, 0xF000, 0xF000, 0xF000, 0xF000, 0x3401] 8 4 = true ∧ refuses [0x0040] 6 0 = true ∧
    refuses [0xF705, 0x0B50] 7 1 = true ∧ refuses [0xF405, 0xF405, 0x08D0] 9 1 = true ∧ refuses [0xF001, 0x20D0] 10 0 = true ∧
    refuses [0xF405, 0xF001, 0x08D0] 11 2 = true ∧ refuses [0xF001] 12 1 = true ∧ refuses [0xF001, 0x28D0] 13 1 = true := by decide

/-! ## Words of the manual's encodings -/

/-- The decoder reads an instruction from the whole of its words. -/
def reads (ws : List IWord) (i : Instr) : Bool :=
  match decodeWords ws with
  | .ok (j, n) => j == i && n == ws.length
  | .error _ => false

/-- R36, R165-R172: the two-source and unary integer instructions; g3 := g4 op g5. -/
theorem test_decode_integer :
    reads [0xF405, 0x08D0] (.add i345) = true ∧
    reads [0xF405, 0x08D1] (.sub i345) = true ∧
    reads [0xF405, 0x08D2] (.and i345) = true ∧
    reads [0xF405, 0x08D3] (.or i345) = true ∧
    reads [0xF405, 0x0CD0] (.xor i345) = true ∧
    reads [0xF405, 0x0CD1] (.andn i345) = true ∧
    reads [0xF405, 0x0CD2] (.min i345) = true ∧
    reads [0xF405, 0x0CD3] (.max i345) = true ∧
    reads [0xF405, 0x10D0] (.minn i345) = true ∧
    reads [0xF405, 0x10D1] (.maxn i345) = true ∧
    reads [0xF405, 0x10D2] (.sel i345) = true ∧
    reads [0xF405, 0x14D0] (.shl i345) = true ∧
    reads [0xF405, 0x14D1] (.shra i345) = true ∧
    reads [0xF405, 0x14D2] (.shrl i345) = true ∧
    reads [0xF405, 0x14D3] (.rotl i345) = true ∧
    reads [0xF405, 0x18D0] (.mul i345) = true ∧
    reads [0xF405, 0x18D1] (.mulh i345) = true ∧
    reads [0xF405, 0x18D2] (.mulhn i345) = true ∧
    reads [0xF405, 0x1CD0] (.div i345) = true ∧
    reads [0xF405, 0x1CD1] (.divn i345) = true ∧
    reads [0xF405, 0x1CD2] (.rem i345) = true ∧
    reads [0xF405, 0x1CD3] (.remn i345) = true ∧
    reads [0x04D0] (.mov { d := 3, src := .reg 4 Pxs.none }) = true ∧
    reads [0x04D1] (.clz { d := 3, src := .reg 4 Pxs.none }) = true ∧
    reads [0x04D2] (.ctz { d := 3, src := .reg 4 Pxs.none }) = true ∧
    reads [0x04D3] (.popc { d := 3, src := .reg 4 Pxs.none }) = true ∧
    reads [0x0000] (.nop) = true := by decide

/-- R33, R35, R170-R175: extension, fields, compare, immediates, LEA and BND. -/
theorem test_decode_fields :
    reads [0x20D0] (.sext { w := .w8, d := 3, s := 4, q := Pxs.none }) = true ∧
    reads [0x20D1] (.sext { w := .w16, d := 3, s := 4, q := Pxs.none }) = true ∧
    reads [0x20D2] (.sext { w := .w32, d := 3, s := 4, q := Pxs.none }) = true ∧
    reads [0x24D1] (.zext { w := .w16, d := 3, s := 4, q := Pxs.none }) = true ∧
    reads [0xF405, 0x2CD0] (.cmp .eq false i345) = true ∧
    reads [0xF405, 0x2CD1] (.cmp .lt false i345) = true ∧
    reads [0xF405, 0x2CD2] (.cmp .ltn false i345) = true ∧
    reads [0xF405, 0x2CD3] (.cmp .le false i345) = true ∧
    reads [0xF801, 0xF405, 0x2CD1] (.cmp .lt true i345) = true ∧
    reads [0xF000, 0xF044, 0x2950] (.extb { d := 5, s := 4, pos := 4, wid := 1, q := Pxs.none }) = true ∧
    reads [0xF000, 0xF148, 0x28D1] (.insb { d := 3, s := 4, pos := 8, wid := 5, q := Pxs.none }) = true ∧
    reads [0x30FF] (.addImm { d := 3, i := 0x3F, p := [] }) = true ∧
    reads [0xF500, 0xF002, 0x30C1] (.addImm { d := 19, i := 1, p := [2] }) = true ∧
    reads [0x34BF] (.movImm { d := 2, i := 0x3F, p := [] }) = true ∧
    reads [0xF40A, 0xF020, 0x3A27] (.lea { d := 8, s := 9, t := 10, f := 3, p := [32] }) = true ∧
    reads [0x3D57] (.bnd 5 5 (.size 3)) = true ∧
    reads [0xF064, 0x3D54] (.bnd 5 5 (.imm [100])) = true ∧
    reads [0xF3FF, 0x04C0] (.mov { d := 3, src := .imm [0x3FF] }) = true ∧
    reads [0xFC20, 0xF001, 0xF002, 0x08D0] (.add { d := 3, s := 4, src := .imm [1, 2], q := { mask := 0, smod := .neg, sel := .all } }) = true ∧
    reads [0xFC10, 0x08D0] (.add { d := 3, s := 4, src := .two, q := { mask := 0, smod := .sync, sel := .all } }) = true := by decide

/-- R37, R118, R125-R138: the memory instructions, with their modifiers. -/
theorem test_decode_memory :
    reads [0xF801, 0xF6C7, 0xF018, 0x4236] (.ld { d := 40, b := 61, t := 7, w := 2, p := [24] } { sx := true, fresh := false, acq := false }) = true ∧
    reads [0xF806, 0xF405, 0xF008, 0x40D2] (.ld { d := 3, b := 4, t := 5, w := 2, p := [8] } { sx := false, fresh := true, acq := true }) = true ∧
    reads [0xF808, 0xF405, 0xF008, 0x44D2] (.st { d := 3, b := 4, t := 5, w := 2, p := [8] } true) = true ∧
    reads [0xF405, 0xF008, 0x44D2] (.st { d := 3, b := 4, t := 5, w := 2, p := [8] } false) = true ∧
    reads [0xF405, 0xF008, 0x48D2] (.ldw { d := 3, b := 4, t := 5, w := 2, p := [8] } { sx := false, fresh := false, acq := false }) = true ∧
    reads [0xF405, 0xF008, 0x4CD2] (.ldt { d := 3, b := 4, t := 5, w := 2, p := [8] } { sx := false, fresh := false, acq := false }) = true ∧
    reads [0xF808, 0xF405, 0xF008, 0x50D2] (.stf { d := 3, b := 4, t := 5, w := 2, p := [8] } true) = true ∧
    reads [0x54D0] (.femarkEmpty 3 4) = true ∧
    reads [0x54D1] (.femarkFull 3 4) = true ∧
    reads [0x54D2] (.feq 3 4) = true ∧
    reads [0x5810] (.pftL1 4) = true ∧
    reads [0x5811] (.pftL2 4) = true ∧
    reads [0x5C04] (.fence .acq .device) = true ∧
    reads [0x5C0C] (.fence .rel .device) = true ∧
    reads [0x5C14] (.fence .acqrel .device) = true ∧
    reads [0x5C1C] (.fence .full .device) = true ∧
    reads [0x5C24] (.fence .engine .device) = true ∧
    reads [0x5C1D] (.fence .full .system) = true ∧
    reads [0xF048, 0x6034] (.waitc 1 2 3 4) = true ∧
    reads [0x64D0] (.tadd .s32 3 4) = true ∧
    reads [0x64D1] (.tadd .s64 3 4) = true ∧
    reads [0x64D2] (.tadd .f32 3 4) = true ∧
    reads [0x68D0] (.tmax .s32 3 4) = true ∧
    reads [0x6CD0] (.tmin .s32 3 4) = true ∧
    reads [0x68D1] (.tmax .n32 3 4) = true ∧
    reads [0x6CD1] (.tmin .n32 3 4) = true ∧
    reads [0x68D2] (.tmax .f32 3 4) = true ∧
    reads [0x6CD2] (.tmin .f32 3 4) = true ∧
    reads [0x68D3] (.tmax .s64 3 4) = true ∧
    reads [0x6CD3] (.tmin .s64 3 4) = true ∧
    reads [0x70D0] (.tor 3 4) = true ∧
    reads [0x70D1] (.txor 3 4) = true ∧
    reads [0x70D2] (.tand 3 4) = true ∧
    reads [0x7410] (.tpin 4) = true ∧
    reads [0x7411] (.tunpin 4) = true ∧
    reads [0x7412] (.tfetch 4) = true ∧
    reads [0x74D3] (.tevict 3 4) = true ∧
    reads [0x78D0] (.tstat 3 4) = true ∧
    reads [0x78D1] (.tsync 3 4) = true ∧
    reads [0x78D2] (.cinv 3 4) = true := by decide

/-- R30, R176-R186: branches and control registers. -/
theorem test_decode_control :
    reads [0x83FF] (.br 0x3FF []) = true ∧
    reads [0xF002, 0x8401] (.call 1 [2]) = true ∧
    reads [0x8946] (.bc .z 5 6 []) = true ∧
    reads [0x8946] (.bc .z 5 6 []) = true ∧
    reads [0x8956] (.bc .nz 5 6 []) = true ∧
    reads [0x8966] (.bc .lz 5 6 []) = true ∧
    reads [0x8976] (.bc .gez 5 6 []) = true ∧
    reads [0xF007, 0x8CD0] (.bcmp .eq 3 4 [7]) = true ∧
    reads [0xF007, 0x8CD1] (.bcmp .ne 3 4 [7]) = true ∧
    reads [0xF007, 0x8CD2] (.bcmp .lt 3 4 [7]) = true ∧
    reads [0xF007, 0x8CD3] (.bcmp .ltn 3 4 [7]) = true ∧
    reads [0x9010] (.jmp 4) = true ∧
    reads [0x9011] (.callr 4) = true ∧
    reads [0x9002] (.ret) = true ∧
    reads [0x97FD] (.bqb true 0x1FD []) = true ∧
    reads [0x9402] (.bqb false 2 []) = true ∧
    reads [0x9920] (.crd 4 0x020) = true ∧
    reads [0x9D85] (.cwr 6 0x005) = true ∧
    reads [0xF001, 0x9C8B] (.cwr 2 0x04B) = true := by decide

/-- R37, R264-R275: atomics, migration, messages and huddle barriers. -/
theorem test_decode_messages :
    reads [0xF803, 0xF405, 0xA0D1] (.amo .add .n64 .acqrel 3 4 5) = true ∧
    reads [0xF807, 0xF405, 0xA0D1] (.amo .and .n64 .acqrel 3 4 5) = true ∧
    reads [0xF80B, 0xF405, 0xA0D1] (.amo .or .n64 .acqrel 3 4 5) = true ∧
    reads [0xF80F, 0xF405, 0xA0D1] (.amo .xor .n64 .acqrel 3 4 5) = true ∧
    reads [0xF813, 0xF405, 0xA0D1] (.amo .swap .n64 .acqrel 3 4 5) = true ∧
    reads [0xF817, 0xF405, 0xA0D1] (.amo .min .n64 .acqrel 3 4 5) = true ∧
    reads [0xF81B, 0xF405, 0xA0D1] (.amo .max .n64 .acqrel 3 4 5) = true ∧
    reads [0xF81F, 0xF405, 0xA0D1] (.amo .minn .n64 .acqrel 3 4 5) = true ∧
    reads [0xF823, 0xF405, 0xA0D1] (.amo .maxn .n64 .acqrel 3 4 5) = true ∧
    reads [0xF827, 0xF405, 0xA0D2] (.amo .fadd .f32 .acqrel 3 4 5) = true ∧
    reads [0xF82B, 0xF405, 0xA0D2] (.amo .fmin .f32 .acqrel 3 4 5) = true ∧
    reads [0xF82F, 0xF405, 0xA0D2] (.amo .fmax .f32 .acqrel 3 4 5) = true ∧
    reads [0xF833, 0xA0D1] (.amo .jdec .n64 .acqrel 3 4 0) = true ∧
    reads [0xA0D0] (.amo .add .n32 .relaxed 3 4 0) = true ∧
    reads [0xF811, 0xF405, 0xA0D3] (.amo .swap .f64 .acq 3 4 5) = true ∧
    reads [0xF405, 0xA4D0] (.cas false .relaxed 3 4 5) = true ∧
    reads [0xF802, 0xF405, 0xA4D1] (.cas true .rel 3 4 5) = true ∧
    reads [0xF81A, 0xF405, 0xA811] (.rupd .max .n64 .rel 4 5) = true ∧
    reads [0xAE69] (.spawn .n4 9 10) = true ∧
    reads [0xACD3] (.spawn .n16 3 4) = true ∧
    reads [0xF405, 0xB010] (.migr 4 5) = true ∧
    reads [0xB011] (.migrHome 4) = true ∧
    reads [0xB002] (.migrPivot) = true ∧
    reads [0xB003] (.migrBack) = true ∧
    reads [0xF704, 0xB668] (.send 57 10 4) = true ∧
    reads [0xF409, 0xB558] (.send 5 6 9) = true ∧
    reads [0xF700, 0xB631] (.qbind 56 12) = true ∧
    reads [0xF4C0, 0xB522] (.qstat 4 56) = true ∧
    reads [0xB90C] (.hbar 4 3) = true ∧
    reads [0xB80D] (.hwait 3) = true ∧
    reads [0xB8D2] (.hstat 3 4) = true := by decide

/-- R287-R310: JOIN, halting, traps, and contexts. -/
theorem test_decode_system :
    reads [0xC005] (.join 5 []) = true ∧
    reads [0xC400] (.detach) = true ∧
    reads [0xC411] (.waitw 4) = true ∧
    reads [0xC402] (.halt) = true ∧
    reads [0xF801, 0xC416] (.haltRetain 5) = true ∧
    reads [0xC41F] (.trap 7) = true ∧
    reads [0xC8D0] (.rett 3 4) = true ∧
    reads [0xC811] (.sysc 4) = true ∧
    reads [0xC8D2] (.ctxs 3 4) = true ∧
    reads [0xC8D3] (.ctxl 3 4) = true ∧
    reads [0xCC10] (.aown 4) = true ∧
    reads [0xCF11] (.aspill 12 4) = true ∧
    reads [0xCCD2] (.afill 3 4) = true ∧
    reads [0xCC8F] (.slotx 2 3) = true ∧
    reads [0xD0D0] (.qdrain 3 4) = true ∧
    reads [0xD0D1] (.audw 3 4) = true := by decide

/-- R38, R195-R208: the lane instructions. -/
theorem test_decode_vector :
    reads [0xF858, 0x00D0] (.vmov { ty := .s32, d := 3, s := 4, q := Pxs.none }) = true ∧
    reads [0xF840, 0x00E5] (.vbcast { ty := .f32, d := 3, src := .reg 9 Pxs.none, mask := 0 }) = true ∧
    reads [0xF858, 0xF005, 0x010A] (.vext { ty := .s32, d := 4, s := 2, lane := 5, q := Pxs.none }) = true ∧
    reads [0xF878, 0x00C3] (.viota .n8x4 3 0) = true ∧
    reads [0xF840, 0xF403, 0xFD00, 0x0448] (.vadd false { ty := .f32, d := 1, s := 2, src := .reg 3, q := { mask := 2, smod := .plain, sel := .all } }) = true ∧
    reads [0xF859, 0xF064, 0x0448] (.vadd true { ty := .s32, d := 1, s := 2, src := .imm [100], q := Pxs.none }) = true ∧
    reads [0xF868, 0xF405, 0x04D1] (.vsub false { ty := .s16x2, d := 3, s := 4, src := .reg 5, q := Pxs.none }) = true ∧
    reads [0xF871, 0xF405, 0x04D2] (.vmul true { ty := .s8x4, d := 3, s := 4, src := .reg 5, q := Pxs.none }) = true ∧
    reads [0xF840, 0xF405, 0x04D3] (.vdiv { ty := .f32, d := 3, s := 4, src := .reg 5, q := Pxs.none }) = true ∧
    reads [0xF840, 0xF405, 0x08D0] (.vfma { ty := .f32, d := 3, s := 4, t := 5, q := Pxs.none }) = true ∧
    reads [0xF840, 0xF405, 0x08D1] (.vfms { ty := .f32, d := 3, s := 4, t := 5, q := Pxs.none }) = true ∧
    reads [0xF840, 0xF405, 0x08D2] (.vfnma { ty := .f32, d := 3, s := 4, t := 5, q := Pxs.none }) = true ∧
    reads [0xF860, 0xF405, 0x0CD0] (.vmin { ty := .n32, d := 3, s := 4, src := .reg 5, q := Pxs.none }) = true ∧
    reads [0xF860, 0xF405, 0x0CD1] (.vmax { ty := .n32, d := 3, s := 4, src := .reg 5, q := Pxs.none }) = true ∧
    reads [0xF858, 0x0CD2] (.vabs false { ty := .s32, d := 3, s := 4, q := Pxs.none }) = true ∧
    reads [0xF859, 0x0CD3] (.vneg true { ty := .s32, d := 3, s := 4, q := Pxs.none }) = true ∧
    reads [0xF848, 0xF405, 0x10D0] (.vand { ty := .bf16x2, d := 3, s := 4, src := .reg 5, q := Pxs.none }) = true ∧
    reads [0xF848, 0xF405, 0x10D1] (.vor { ty := .bf16x2, d := 3, s := 4, src := .reg 5, q := Pxs.none }) = true ∧
    reads [0xF848, 0xF405, 0x10D2] (.vxor { ty := .bf16x2, d := 3, s := 4, src := .reg 5, q := Pxs.none }) = true ∧
    reads [0xF848, 0xF405, 0x10D3] (.vandn { ty := .bf16x2, d := 3, s := 4, src := .reg 5, q := Pxs.none }) = true ∧
    reads [0xF878, 0xF405, 0x14D0] (.vshl { ty := .n8x4, d := 3, s := 4, src := .reg 5, q := Pxs.none }) = true ∧
    reads [0xF878, 0xF405, 0x14D1] (.vshra { ty := .n8x4, d := 3, s := 4, src := .reg 5, q := Pxs.none }) = true ∧
    reads [0xF878, 0xF405, 0x14D2] (.vshrl { ty := .n8x4, d := 3, s := 4, src := .reg 5, q := Pxs.none }) = true ∧
    reads [0xF878, 0xF405, 0x14D3] (.vrotl { ty := .n8x4, d := 3, s := 4, src := .reg 5, q := Pxs.none }) = true ∧
    reads [0xF840, 0xF405, 0x18D0] (.vcmp .eq { ty := .f32, d := 3, s := 4, src := .reg 5, q := Pxs.none }) = true ∧
    reads [0xF840, 0xF405, 0x18D1] (.vcmp .lt { ty := .f32, d := 3, s := 4, src := .reg 5, q := Pxs.none }) = true ∧
    reads [0xF840, 0xF405, 0x18D2] (.vcmp .le { ty := .f32, d := 3, s := 4, src := .reg 5, q := Pxs.none }) = true ∧
    reads [0xF840, 0xF405, 0x18D3] (.vcmp .ne { ty := .f32, d := 3, s := 4, src := .reg 5, q := Pxs.none }) = true ∧
    reads [0xF858, 0xF405, 0x1CD0] (.vsel { ty := .s32, d := 3, s := 4, src := .reg 5, q := Pxs.none }) = true ∧
    reads [0xF858, 0xF405, 0x1CD1] (.vperm { ty := .s32, d := 3, s := 4, src := .reg 5, q := Pxs.none }) = true ∧
    reads [0xF858, 0xF405, 0xF006, 0x1CD2] (.vslide { ty := .s32, d := 3, s := 4, t := 5, n := 6, q := Pxs.none }) = true ∧
    reads [0xF840, 0x20D0] (.vred .add { ty := .f32, d := 3, s := 4, q := Pxs.none }) = true ∧
    reads [0xF840, 0x20D1] (.vred .max { ty := .f32, d := 3, s := 4, q := Pxs.none }) = true ∧
    reads [0xF840, 0x20D2] (.vred .min { ty := .f32, d := 3, s := 4, q := Pxs.none }) = true ∧
    reads [0xF840, 0x20D3] (.vred .xadd { ty := .f32, d := 3, s := 4, q := Pxs.none }) = true ∧
    reads [0xF840, 0x24D0] (.vrcp { ty := .f32, d := 3, s := 4, q := Pxs.none }) = true ∧
    reads [0xF840, 0x24D1] (.vrsq { ty := .f32, d := 3, s := 4, q := Pxs.none }) = true ∧
    reads [0xF840, 0x24D2] (.vexp2 { ty := .f32, d := 3, s := 4, q := Pxs.none }) = true ∧
    reads [0xF840, 0x24D3] (.vlog2 { ty := .f32, d := 3, s := 4, q := Pxs.none }) = true := by decide

/-- R209-R218: conversion, packing, dot products, vector memory and masks. -/
theorem test_decode_narrow :
    reads [0xF843, 0x2884] (.vcvt .s32 { ty := .f32, d := 2, s := 1, q := Pxs.none }) = true ∧
    reads [0xF840, 0xF402, 0x2985] (.vpack .bf16 { d := 6, s := 1, t := 2, q := Pxs.none }) = true ∧
    reads [0xF840, 0xF405, 0x28D1] (.vpack .bf16 { d := 3, s := 4, t := 5, q := Pxs.none }) = true ∧
    reads [0xF841, 0xF405, 0x28D1] (.vpack .f16 { d := 3, s := 4, t := 5, q := Pxs.none }) = true ∧
    reads [0xF842, 0xF405, 0x28D1] (.vpack .e4m3 { d := 3, s := 4, t := 5, q := Pxs.none }) = true ∧
    reads [0xF843, 0xF405, 0x28D1] (.vpack .e5m2 { d := 3, s := 4, t := 5, q := Pxs.none }) = true ∧
    reads [0xF844, 0xF405, 0x28D1] (.vpack .e2m1 { d := 3, s := 4, t := 5, q := Pxs.none }) = true ∧
    reads [0xF845, 0xF405, 0x28D1] (.vpack .e4m3ns { d := 3, s := 4, t := 5, q := Pxs.none }) = true ∧
    reads [0xF846, 0xF405, 0x28D1] (.vpack .e5m2ns { d := 3, s := 4, t := 5, q := Pxs.none }) = true ∧
    reads [0xF858, 0xF405, 0x28D1] (.vpack .s16 { d := 3, s := 4, t := 5, q := Pxs.none }) = true ∧
    reads [0xF859, 0xF405, 0x28D1] (.vpack .s8 { d := 3, s := 4, t := 5, q := Pxs.none }) = true ∧
    reads [0xF85A, 0xF405, 0x28D1] (.vpack .s4 { d := 3, s := 4, t := 5, q := Pxs.none }) = true ∧
    reads [0xF860, 0xF405, 0x28D1] (.vpack .n16 { d := 3, s := 4, t := 5, q := Pxs.none }) = true ∧
    reads [0xF861, 0xF405, 0x28D1] (.vpack .n8 { d := 3, s := 4, t := 5, q := Pxs.none }) = true ∧
    reads [0xF840, 0xF001, 0x28D2] (.vunpk .bf16 1 3 4 Pxs.none) = true ∧
    reads [0xF841, 0xF001, 0x28D2] (.vunpk .f16 1 3 4 Pxs.none) = true ∧
    reads [0xF842, 0xF001, 0x28D2] (.vunpk .e4m3 1 3 4 Pxs.none) = true ∧
    reads [0xF843, 0xF001, 0x28D2] (.vunpk .e5m2 1 3 4 Pxs.none) = true ∧
    reads [0xF844, 0xF001, 0x28D2] (.vunpk .e2m1 1 3 4 Pxs.none) = true ∧
    reads [0xF85D, 0xF001, 0x28D2] (.vunpk .s16 1 3 4 Pxs.none) = true ∧
    reads [0xF85E, 0xF001, 0x28D2] (.vunpk .s8 1 3 4 Pxs.none) = true ∧
    reads [0xF85F, 0xF001, 0x28D2] (.vunpk .s4 1 3 4 Pxs.none) = true ∧
    reads [0xF865, 0xF001, 0x28D2] (.vunpk .n16 1 3 4 Pxs.none) = true ∧
    reads [0xF866, 0xF001, 0x28D2] (.vunpk .n8 1 3 4 Pxs.none) = true ∧
    reads [0xF867, 0xF001, 0x28D2] (.vunpk .n4 1 3 4 Pxs.none) = true ∧
    reads [0xF840, 0xF405, 0x28D3] (.vscal { ty := .f32, d := 3, s := 4, src := .reg 5, q := Pxs.none }) = true ∧
    reads [0xF870, 0xF402, 0x2E44] (.vdot4 .s8 { d := 9, s := 1, t := 2, q := Pxs.none }) = true ∧
    reads [0xF878, 0xF405, 0x2CD0] (.vdot4 .n8 { d := 3, s := 4, t := 5, q := Pxs.none }) = true ∧
    reads [0xF840, 0xF405, 0x2CD0] (.vdot4 .e4m3 { d := 3, s := 4, t := 5, q := Pxs.none }) = true ∧
    reads [0xF841, 0xF405, 0x2CD0] (.vdot4 .e5m2 { d := 3, s := 4, t := 5, q := Pxs.none }) = true ∧
    reads [0xF870, 0xF405, 0x2CD1] (.vdot8 .s4 { d := 3, s := 4, t := 5, q := Pxs.none }) = true ∧
    reads [0xF840, 0xF405, 0x2CD1] (.vdot8 .e2m1 { d := 3, s := 4, t := 5, q := Pxs.none }) = true ∧
    reads [0xF848, 0xF405, 0x2CD2] (.vdot2 .bf16 { d := 3, s := 4, t := 5, q := Pxs.none }) = true ∧
    reads [0xF850, 0xF405, 0x2CD2] (.vdot2 .f16 { d := 3, s := 4, t := 5, q := Pxs.none }) = true ∧
    reads [0xF868, 0xF405, 0x2CD2] (.vdot2 .s16 { d := 3, s := 4, t := 5, q := Pxs.none }) = true ∧
    reads [0xF840, 0xF402, 0x2E07] (.vqnt .zx8 { d := 8, s := 1, t := 2, q := Pxs.none }) = true ∧
    reads [0xF841, 0xF405, 0x2CD3] (.vqnt .zx8e { d := 3, s := 4, t := 5, q := Pxs.none }) = true ∧
    reads [0xF842, 0xF405, 0x2CD3] (.vqnt .zx4 { d := 3, s := 4, t := 5, q := Pxs.none }) = true ∧
    reads [0xF843, 0xF405, 0x2CD3] (.vqnt .ecf8 { d := 3, s := 4, t := 5, q := Pxs.none }) = true ∧
    reads [0xF840, 0xF040, 0x3068] (.vld .w64 false 0 1 10 0 [64]) = true ∧
    reads [0xF84A, 0xF405, 0x30D1] (.vld .w32 true 2 3 4 5 []) = true ∧
    reads [0xF840, 0x3470] (.vst .w64 0 1 12 0 []) = true ∧
    reads [0xF842, 0xF405, 0x34D2] (.vst .b 2 3 4 5 []) = true ∧
    reads [0xF848, 0xF405, 0x3918] (.vldx .b4 false true 0 4 6 5) = true ∧
    reads [0xF852, 0xF405, 0x38D2] (.vldx .b1 true false 2 3 4 5) = true ∧
    reads [0xF842, 0xF405, 0x3CD1] (.vstx .b2 2 3 4 5) = true ∧
    reads [0xF840, 0xF403, 0x4048] (.kop .and 1 2 (some 3)) = true ∧
    reads [0xF840, 0xF403, 0x4049] (.kop .or 1 2 (some 3)) = true ∧
    reads [0xF840, 0xF403, 0x404A] (.kop .xor 1 2 (some 3)) = true ∧
    reads [0xF840, 0xF403, 0x404B] (.kop .andn 1 2 (some 3)) = true ∧
    reads [0xF840, 0x44D0] (.kmovToMask 3 4) = true ∧
    reads [0xF840, 0x44D1] (.kmovFromMask 3 4) = true ∧
    reads [0xF840, 0x451E] (.klow 4 7) = true ∧
    reads [0xF840, 0x44D3] (.kpop 3 4) = true := by decide

/-- R244-R256: the matrix instructions. -/
theorem test_decode_matrix :
    reads [0xF880, 0x0094] (.mcfg 2 5) = true ∧
    reads [0xF880, 0x0011] (.mfmt 4) = true ∧
    reads [0xF880, 0x00DE] (.mperm 3 7) = true ∧
    reads [0xF881, 0x01A3] (.mmeta .c64 6 8) = true ∧
    reads [0xF880, 0x00D3] (.mmeta .c32 3 4) = true ∧
    reads [0xF882, 0x0093] (.mmeta .c128 2 4) = true ∧
    reads [0xF880, 0x0428] (.mld false 0 10 0) = true ∧
    reads [0xF881, 0xF40B, 0x0468] (.mld true 1 10 11) = true ∧
    reads [0xF880, 0xF40B, 0x0529] (.mldc 4 10 11) = true ∧
    reads [0xF880, 0x0442] (.mzero 1) = true ∧
    reads [0xF880, 0x0523] (.mqst 4 8) = true ∧
    reads [0xF881, 0x0800] (.mma 0 0 1) = true ∧
    reads [0xF8B4, 0x0849] (.mmas 1 2 4 6) = true ∧
    reads [0xF881, 0x0882] (.mman 2 0 1) = true ∧
    reads [0xF880, 0x0C14] (.ast 0 5 0) = true ∧
    reads [0xF880, 0xF405, 0x0CD1] (.ald 3 4 5) = true ∧
    reads [0xF880, 0xF000, 0x0D02] (.amov 4 0 0 false) = true ∧
    reads [0xF880, 0xF025, 0x0C5F] (.amovv 1 7 5 true) = true := by decide

/-- R109-R116: the engine instructions. -/
theorem test_decode_engine :
    reads [0xF8C1, 0x00D0] (.cpy true false 3 4) = true ∧
    reads [0xF8C2, 0x00D0] (.cpy false true 3 4) = true ∧
    reads [0xF8C1, 0x00D1] (.cpyx true false 3 4) = true ∧
    reads [0xF8C2, 0x00D1] (.cpyx false true 3 4) = true ∧
    reads [0xF8C0, 0x00D2] (.cpyc 3 4) = true ∧
    reads [0xF8C3, 0x00D3] (.cfill true .empty 3 4) = true ∧
    reads [0xF8C4, 0x00D3] (.cfill false .full 3 4) = true ∧
    reads [0xF8C0, 0x04D0] (.gath 3 4) = true ∧
    reads [0xF8C0, 0x04D1] (.scat 3 4) = true ∧
    reads [0xF8C5, 0x04D2] (.echk 5 3 4) = true ∧
    reads [0xF8C0, 0x08D0] (.coll 3 4) = true ∧
    reads [0xF8C0, 0x08D1] (.cgrp 3 4) = true ∧
    reads [0xF8C0, 0x08D2] (.cabt 3 4) = true := by decide

/-- R187-R192: the scalar floating-point instructions. -/
theorem test_decode_float :
    reads [0xF900, 0xF405, 0x00D0] (.fadd { dbl := false, d := 3, s := 4, src := some 5, m := .plain }) = true ∧
    reads [0xF900, 0xF405, 0x00D3] (.fsub { dbl := true, d := 3, s := 4, src := some 5, m := .plain }) = true ∧
    reads [0xF900, 0xF405, 0x04D0] (.fmul { dbl := false, d := 3, s := 4, src := some 5, m := .plain }) = true ∧
    reads [0xF900, 0xF405, 0x04D2] (.fdiv { dbl := false, d := 3, s := 4, src := some 5, m := .plain }) = true ∧
    reads [0xF900, 0xF405, 0x0CD0] (.fmin { dbl := false, d := 3, s := 4, src := some 5, m := .plain }) = true ∧
    reads [0xF900, 0xF405, 0x0CD3] (.fmax { dbl := true, d := 3, s := 4, src := some 5, m := .plain }) = true ∧
    reads [0xF900, 0xF405, 0x08D0] (.fma false 3 4 5 .plain) = true ∧
    reads [0xF900, 0xF405, 0x08D1] (.fma true 3 4 5 .plain) = true ∧
    reads [0xF900, 0x08D3] (.fsqrt { dbl := true, d := 3, s := 4, m := .plain }) = true ∧
    reads [0xF900, 0x10D2] (.fclass { dbl := false, d := 3, s := 4, m := .plain }) = true ∧
    reads [0xF901, 0xF409, 0x11E0] (.fcmp .lt { dbl := false, d := 7, s := 8, src := some 9, m := .plain }) = true ∧
    reads [0xF900, 0xF405, 0x10D1] (.fcmp .eq { dbl := true, d := 3, s := 4, src := some 5, m := .plain }) = true ∧
    reads [0xF901, 0xF405, 0x10D1] (.fcmp .lt { dbl := true, d := 3, s := 4, src := some 5, m := .plain }) = true ∧
    reads [0xF902, 0xF405, 0x10D1] (.fcmp .le { dbl := true, d := 3, s := 4, src := some 5, m := .plain }) = true ∧
    reads [0xF903, 0xF405, 0x10D1] (.fcmp .un { dbl := true, d := 3, s := 4, src := some 5, m := .plain }) = true ∧
    reads [0xF901, 0x14D0] (.fcvt (.ff .f32 .f64) 3 4 .plain) = true ∧
    reads [0xF904, 0x14D1] (.fcvt (.ns .f32 .e4m3) 3 4 .plain) = true ∧
    reads [0xF90F, 0x14D2] (.fcvt (.fi .f64 true .n64) 3 4 .plain) = true ∧
    reads [0xF910, 0x14D3] (.fcvt (.if_ .s64 .f32) 3 4 .plain) = true := by decide


/-! ## Single steps whose results the manual gives -/

/-- `g[d]` after an instruction on these registers, with this rounding mode. -/
def gAfter (i : Instr) (l : List (Nat × Word)) (d : Fin 64) (rm : Word := 0) : Option Word :=
  match exec i ((wg l).modMe (fun c => { c with fcs := rm })) with
  | .next t => some t.me.g[d]
  | _ => none

/-- R167: sums wrap; SUB is x − y; a shift count is taken modulo 64. -/
theorem test_add_sub_shl :
    gAfter (.add i345) [(4, BitVec.allOnes 64), (5, 1)] 3 = some 0 ∧ gAfter (.sub i345) [(4, 7), (5, 9)] 3 = some 0xFFFFFFFFFFFFFFFE ∧
    gAfter (.shl i345) [(4, 1), (5, 65)] 3 = some 2 ∧ gAfter (.andn i345) [(4, 7), (5, 2)] 3 = some 5 ∧
    gAfter (.mulh i345) [(4, BitVec.allOnes 64), (5, 2)] 3 = some 0xFFFFFFFFFFFFFFFF ∧
    gAfter (.mulhn i345) [(4, BitVec.allOnes 64), (5, 2)] 3 = some 1 := by decide +kernel

/-- The table of R168. -/
theorem test_division :
    gAfter (.div i345) [(4, 7), (5, -2)] 3 = some (-3) ∧ gAfter (.rem i345) [(4, 7), (5, -2)] 3 = some 1 ∧
    gAfter (.divn i345) [(4, 7), (5, -2)] 3 = some 0 ∧ gAfter (.remn i345) [(4, 7), (5, -2)] 3 = some 7 ∧
    gAfter (.div i345) [(4, -7), (5, 2)] 3 = some (-3) ∧ gAfter (.rem i345) [(4, -7), (5, 2)] 3 = some (-1) ∧
    gAfter (.divn i345) [(4, -7), (5, 2)] 3 = some 0x7FFFFFFFFFFFFFFC ∧ gAfter (.remn i345) [(4, -7), (5, 2)] 3 = some 1 ∧
    gAfter (.div i345) [(4, 12)] 3 = some 0xFFFFFFFFFFFFFFFF ∧ gAfter (.rem i345) [(4, 12)] 3 = some 12 := by decide +kernel

/-- R171, R173, R170: extension, a field, a comparison signed and unsigned. -/
theorem test_fields_and_compare :
    gAfter (.sext { w := .w8, d := 3, s := 4, q := Pxs.none }) [(4, 0x180)] 3 = some 0xFFFFFFFFFFFFFF80 ∧
    gAfter (.clz { d := 3, src := .reg 4 Pxs.none }) [] 3 = some 64 ∧
    gAfter (.extb { d := 3, s := 4, pos := 4, wid := 4, q := Pxs.none }) [(4, 0xABC)] 3 = some 0xB ∧
    gAfter (.insb { d := 3, s := 4, pos := 8, wid := 8, q := Pxs.none }) [(3, 0xFFFFFF), (4, 0x112)] 3 = some 0xFF12FF ∧
    gAfter (.cmp .lt false i345) [(4, -1), (5, 1)] 3 = some 1 ∧ gAfter (.cmp .ltn false i345) [(4, -1), (5, 1)] 3 = some 0 ∧
    gAfter (.lea { d := 3, s := 4, t := 5, f := 3, p := [32] }) [(4, 100), (5, 2)] 3 = some 148 := by decide +kernel

/-- The worked example of one addition in four modes: 1.0 + 2^−24 in RNE, RTZ, RUP and RDN; each raises `nx`. -/
theorem test_fadd_modes :
    let i : Instr := .fadd { dbl := false, d := 3, s := 4, src := some 5, m := .plain }
    let l : List (Nat × Word) := [(4, 0x3F800000), (5, 0x33800000)]
    gAfter i l 3 0 = some 0x3F800000 ∧ gAfter i l 3 1 = some 0x3F800000 ∧ gAfter i l 3 2 = some 0x3F800001 ∧
    gAfter i l 3 3 = some 0x3F800000 := by decide +kernel

/-- A lane of the vector registers filled from a list of 32-bit lanes. -/
def lanesOf (l : List (BitVec 32)) : BitVec 512 := l.foldr (fun x v => (v <<< 32) ||| x.setWidth 512) 0

/-- The worked example of quantising one ZX8 block. -/
theorem test_vqnt_block :
    let x := lanesOf ([0x447A0000, 0xC0400000, 0x3DCCCCCD, 0] ++ List.replicate 12 0x3F800000)
    (match exec (.vqnt .zx8 { d := 8, s := 1, t := 2, q := Pxs.none }) ((wg []).modMe (fun c => { c with v := c.v.set 1 x })) with
      | .next t => t.me.v[8] == lanesOf [0x40800000, 0x000DB478, 0x28282828, 0x28282828, 0x28282828]
      | _ => false) = true := by decide +kernel

/-- R178, R180: a branch goes from the address of its first word; CALL keeps the address after its last word in `lk`. -/
theorem test_branches :
    (match exec (.call 5 []) ((wg []).modMe (fun c => { c with pc := 0x100, npc := 0x102 })) with
      | .next t => t.me.pc == 0x10A && t.me.g[63] == 0x102
      | _ => false) = true ∧
    (match exec (.br 0x3FB []) ((wg []).modMe (fun c => { c with pc := 0x100, npc := 0x102 })) with
      | .next t => t.me.pc == 0xF6
      | _ => false) = true := by decide +kernel

/-- R300, R352: TRAP leaves a record of class SOFT with `g[s]` in the queue of its core, and its slot waits for the supervisor. -/
theorem test_trap :
    (match exec (.trap 7) ((wg [(7, 0x55)]).modMe (fun c => { c with pc := 0x100, npc := 0x102 })) with
      | .next t => (match (t.core 0).trapQ with | [r] => r.cls == .soft && r.pc == 0x100 && r.addr == 0 && r.info == 0x55 && r.slot == 0 | _ => false) &&
        t.trapped t.me
      | _ => false) = true := by decide +kernel

/-! ## Witnesses: integer, branch and floating-point statements -/

theorem witness_TwoOperandIntegerResults :
    (wg [(4, 7), (5, 9)]).namesOk i345.regs ∧ intOperands i345 false (wg [(4, 7), (5, 9)]) = .ok ((7, 9), wg [(4, 7), (5, 9)]) ∧
    intOperands i345 true (wg [(4, 7), (5, 9)]) = .ok ((7, 9), wg [(4, 7), (5, 9)]) := ⟨Or.inl rfl, rfl, rfl⟩

/-- A divisor of zero, the quotient that overflows, and an ordinary division, signed and unsigned. -/
theorem witness_IntegerDivision :
    (wg []).namesOk i345.regs ∧ intOperands i345 true (wg [(4, 7)]) = .ok ((7, 0), wg [(4, 7)]) ∧
    intOperands i345 true (wg [(4, 0x8000000000000000), (5, BitVec.allOnes 64)]) =
      .ok ((0x8000000000000000, BitVec.allOnes 64), wg [(4, 0x8000000000000000), (5, BitVec.allOnes 64)]) ∧
    intOperands i345 true (wg [(4, 7), (5, 1)]) = .ok ((7, 1), wg [(4, 7), (5, 1)]) ∧
    intOperands i345 false (wg [(4, 7)]) = .ok ((7, 0), wg [(4, 7)]) ∧
    intOperands i345 false (wg [(4, 7), (5, 1)]) = .ok ((7, 1), wg [(4, 7), (5, 1)]) := ⟨Or.inl rfl, rfl, rfl, rfl, rfl, rfl⟩

theorem witness_SelectAndCompare :
    (wg [(4, 7), (5, 9)]).namesOk i345.regs ∧ readS 4 Pxs.none false (wg [(4, 7), (5, 9)]) = .ok (7, wg [(4, 7), (5, 9)]) ∧
    readG 5 (wg [(4, 7), (5, 9)]) = .ok (9, wg [(4, 7), (5, 9)]) ∧ readG 3 (wg [(4, 7), (5, 9)]) = .ok (0, wg [(4, 7), (5, 9)]) ∧
    immS [1] 0 0 = 1 ∧ intOperands i345 false (wg [(4, 7), (5, 9)]) = .ok ((7, 9), wg [(4, 7), (5, 9)]) ∧
    intOperands i345 true (wg [(4, 7), (5, 9)]) = .ok ((7, 9), wg [(4, 7), (5, 9)]) := ⟨Or.inl rfl, rfl, rfl, rfl, rfl, rfl, rfl⟩

/-- BND at the last address that lies inside a region of 64 bytes, one byte below the region, and one byte past its end. -/
theorem witness_UnaryFieldAndAddressResults :
    let b (a : Word) := wg [(4, a), (61, 64), (62, 128)]
    unOperand (.reg 4 Pxs.none) (wg [(4, 7)]) = .ok (7, wg [(4, 7)]) ∧ unOperand (.imm [1]) (wg []) = .ok (1, wg []) ∧
    (wg []).namesOk [3, 4] ∧ readS 4 Pxs.none true (wg [(4, 7)]) = .ok (7, wg [(4, 7)]) ∧
    readS 4 Pxs.none false (wg [(4, 7)]) = .ok (7, wg [(4, 7)]) ∧ readG 3 (wg [(3, 7)]) = .ok (7, wg [(3, 7)]) ∧
    (wg []).namesOk [3, 4, 5] ∧ readG 4 (wg [(4, 7)]) = .ok (7, wg [(4, 7)]) ∧ readG 5 (wg [(4, 7)]) = .ok (0, wg [(4, 7)]) ∧
    readG 4 (b 112) = .ok (112, b 112) ∧ readG 61 (b 112) = .ok (64, b 112) ∧ readG 62 (b 112) = .ok (128, b 112) ∧
    64 ≤ 112 ∧ 112 + bndLen (.size 2) ≤ 128 ∧ readG 4 (b 63) = .ok (63, b 63) ∧ readG 61 (b 63) = .ok (64, b 63) ∧
    readG 62 (b 63) = .ok (128, b 63) ∧ 63 < 64 ∧ readG 4 (b 113) = .ok (113, b 113) ∧ readG 61 (b 113) = .ok (64, b 113) ∧
    readG 62 (b 113) = .ok (128, b 113) ∧ 128 < 113 + bndLen (.size 2) := by
  and_intros <;> first | exact Or.inl rfl | rfl | decide

/-- The last even target of 56 bits, an odd one, and the first beyond 56 bits. -/
theorem witness_BranchTargets :
    writeG 63 2 (wg []) = .ok ((), (wg []).modMe (fun c => c.setG 63 2)) ∧ (wg []).namesOk [4] ∧
    readG 4 (wg [(4, 7)]) = .ok (7, wg [(4, 7)]) ∧ (wg []).namesOk [3, 4] ∧ readG 3 (wg [(4, 7)]) = .ok (0, wg [(4, 7)]) ∧
    (0xFFFFFFFFFFFFFE#64).getLsbD 0 = false ∧ (0xFFFFFFFFFFFFFE#64).toNat < 2 ^ 56 ∧ (7#64).getLsbD 0 = true ∧
    2 ^ 56 ≤ (0x100000000000000#64).toNat ∧ readG 63 (wg [(63, 8)]) = .ok (8, wg [(63, 8)]) ∧
    readG 60 ((wg []).modMe (fun c => { c with bq := { c.bq with q := [true] } })) =
      .ok (1, ((wg []).modMe (fun c => { c with bq := { c.bq with q := [true] } })).modMe (fun c => { c with bq := { c.bq with q := [] } })) := by
  and_intros <;> first | decide +kernel | rfl | exact Or.inl rfl

theorem witness_ScalarFloatResults :
    (wg []).namesOk [3, 4, 5] ∧ fltOperands { dbl := true, d := 3, s := 4, src := some 5, m := .plain } (wg [(4, 7), (5, 9)]) =
      .ok ((7, 9), wg [(4, 7), (5, 9)]) ∧
    readF true 4 .plain (wg [(4, 7)]) = .ok (7, wg [(4, 7)]) ∧ readG 5 (wg [(4, 7)]) = .ok (0, wg [(4, 7)]) ∧
    readG 3 (wg [(4, 7)]) = .ok (0, wg [(4, 7)]) ∧ (wg []).namesOk [3, 4] ∧ readG 4 (wg [(4, 7)]) = .ok (7, wg [(4, 7)]) ∧
    writeG 3 (cvt (.if_ .s64 .f64) .rne .plain 7).1 (wg []) = .ok ((), (wg []).modMe (fun c => c.setG 3 (cvt (.if_ .s64 .f64) .rne .plain 7).1)) :=
  ⟨Or.inl rfl, rfl, rfl, rfl, rfl, Or.inl rfl, rfl, rfl⟩

/-! ## Witnesses: vector statements -/

/-- Vector instructions of three shapes on the registers 1, 2 and 3. -/
def vb (ty : VTy) : VBin := { ty := ty, d := 1, s := 2, src := .reg 3, q := Pxs.none }
def vu (ty : VTy) : VUn := { ty := ty, d := 1, s := 2, q := Pxs.none }

/-- A qualified read of a vector register of every element type meets what the statements of lane instructions ask. -/
theorem readVS_ok (ty : VTy) : ∃ x, readVS ty 2 Pxs.none (wg []) = .ok (x, wg []) := ⟨_, rfl⟩
theorem vecOperands_ok (ty : VTy) : ∃ p, vecOperands (vb ty) (wg []) = .ok (p, wg []) := by
  obtain ⟨x, hx⟩ := readVS_ok ty
  refine ⟨(x, 0), ?_⟩
  show (readVS ty 2 Pxs.none >>= fun x => readV 3 >>= fun y => (pure (x, y) : Op _)) (wg []) = _
  rw [op_bind_ok hx, op_bind_ok (show readV 3 (wg []) = .ok (0, wg []) from rfl)]
  rfl

/-- A floating type, a signed and an unsigned integer type. -/
theorem witness_VectorArithmeticResults :
    (wg []).atAnchor ∧ (∃ p, vecOperands (vb .f32) (wg []) = .ok (p, wg [])) ∧ readK 0 (wg []) = .ok (BitVec.allOnes 16, wg []) ∧
    VTy.isFloat .f32 = true ∧ (∃ p, vecOperands (vb .s32) (wg []) = .ok (p, wg [])) ∧ VTy.isFloat .s32 = false ∧
    (∃ x, readVS .f32 2 Pxs.none (wg []) = .ok (x, wg [])) ∧ (∃ x, readVS .n8x4 2 Pxs.none (wg []) = .ok (x, wg [])) ∧
    VTy.isFloat .n8x4 = false ∧ VTy.isSigned .n8x4 = false ∧ (∃ x, readVS .s32 2 Pxs.none (wg []) = .ok (x, wg [])) ∧
    VTy.isSigned .s32 = true ∧ readV 3 (wg []) = .ok (0, wg []) ∧ readV 1 (wg []) = .ok (0, wg []) :=
  ⟨⟨rfl, rfl⟩, vecOperands_ok _, rfl, rfl, vecOperands_ok _, rfl, readVS_ok _, readVS_ok _, rfl, rfl, readVS_ok _, rfl, rfl, rfl⟩

theorem witness_VectorLaneMovementAndReduction :
    (wg []).atAnchor ∧ readK 0 (wg []) = .ok (BitVec.allOnes 16, wg []) ∧ readG 4 (wg [(4, 7)]) = .ok (7, wg [(4, 7)]) ∧
    readK 0 (wg [(4, 7)]) = .ok (BitVec.allOnes 16, wg [(4, 7)]) ∧ (∃ x, readVS .f32 2 Pxs.none (wg []) = .ok (x, wg [])) ∧
    readV 3 (wg []) = .ok (0, wg []) ∧ readV 1 (wg []) = .ok (0, wg []) ∧ (∃ p, vecOperands (vb .s32) (wg []) = .ok (p, wg [])) ∧
    (∀ p, (vb .s32).src ≠ .imm p) ∧ (∃ x, readVS .s32 2 Pxs.none (wg []) = .ok (x, wg [])) ∧ VTy.isFloat .f32 = true ∧ (vu .n32).ty = .n32 ∧
    (∃ x, readVS .n32 2 Pxs.none (wg []) = .ok (x, wg [])) :=
  ⟨⟨rfl, rfl⟩, rfl, rfl, rfl, readVS_ok _, rfl, rfl, vecOperands_ok _, fun _ h => (by cases h), readVS_ok _, rfl, rfl, readVS_ok _⟩

/-- Each source type that a form of these instructions reads. -/
theorem witness_VectorPackDotAndQuantise :
    (wg []).atAnchor ∧ (∀ ty : VTy, ∃ x, readVS ty 2 Pxs.none (wg []) = .ok (x, wg [])) ∧ readV 3 (wg []) = .ok (0, wg []) ∧
    readK 0 (wg []) = .ok (BitVec.allOnes 16, wg []) ∧ readV 1 (wg []) = .ok (0, wg []) := ⟨⟨rfl, rfl⟩, readVS_ok, rfl, rfl, rfl⟩

theorem witness_MaskResults :
    (wg [(4, 16)]).atAnchor ∧ readK 1 (wg [(4, 16)]) = .ok (BitVec.allOnes 16, wg [(4, 16)]) ∧
    readK 2 (wg [(4, 16)]) = .ok (BitVec.allOnes 16, wg [(4, 16)]) ∧ readG 4 (wg [(4, 16)]) = .ok (16, wg [(4, 16)]) :=
  ⟨⟨rfl, rfl⟩, rfl, rfl, rfl⟩

/-! ## Witnesses: memory statements -/

/-- An 8-byte access with base g4 and data register g3. -/
def m8 : MemOp := { d := 3, b := 4, t := 0, w := 3, p := [] }
/-- Partition 0 owns channel 0. -/
def own (s : State) : State := { s with chans := [(0, { ChanSt.reset with own := true })] }
/-- Core 0 holds a copy of line 0. -/
def withL1 (s : State) : State :=
  { s with cores := [(0, { CoreSt.reset with l1 := [{ line := 0, data := List.replicate 128 0, ptag := 0, key := 0, filled := 0 }] })] }

/-- A load that misses, plain and `.acq`, one that hits, and a store; and a releasing store with nothing under way. -/
theorem witness_MainMemoryAccessIssues :
    (wg []).namesOk [3, 4, 0] ∧ memEa m8 (wg [(4, 64)]) = .ok (64, wg [(4, 64)]) ∧ 64 % m8.size = 0 ∧
    regionOf (wg [(4, 64)]).part 64 = .main ∧ (wg [(4, 64)]).me.allows 64 m8.size rightsLd = true ∧ (wg [(4, 64)]).me.ld < 63 ∧
    freeG 3 (wg [(4, 64)]) = .ok ((), wg [(4, 64)]) ∧ (wg [(4, 64)]).l1Find 0 0 0 0 = none ∧
    ((withL1 (wg [(4, 64)])).l1Find 0 0 0 0).isSome = true ∧ (withL1 (wg [(4, 64)])).sliceQ = [] ∧ memEa m8 (withL1 (wg [(4, 64)])) = .ok (64, withL1 (wg [(4, 64)])) ∧
    (wg [(4, 64)]).me.allows 64 m8.size rightsSt = true ∧ (wg [(4, 64)]).me.ld = 0 ∧ (wg [(4, 64)]).me.st = 0 ∧
    readG 3 (wg [(4, 64)]) = .ok (0, wg [(4, 64)]) := by
  and_intros <;> first | decide +kernel | rfl | exact Or.inl rfl

/-- The vault window and a register of control space. -/
theorem witness_TileAndControlAccessCompletes :
    memEa m8 (wg [(4, 0x01000000000000)]) = .ok (0x01000000000000, wg [(4, 0x01000000000000)]) ∧ 0x01000000000000 % m8.size = 0 ∧
    regionOf .x4 0x01000000000000 = .vault 0 0 ∧ regionWhy (.vault 0 0) true = none ∧ Region.vault 0 0 ≠ .main ∧
    roomG 3 (wg [(4, 0x01000000000000)]) = .ok ((), wg [(4, 0x01000000000000)]) ∧
    (∃ b, tileBytes (wg []) (.vault 0 0) 0 0x01000000000000 8 (wg []) = .ok (b, wg [])) ∧
    (∃ u, tileWrite (wg []) (.vault 0 0) 1 0x01000000000000 (fun b => storeUpds ((List.range 8).map (b + ·) |>.zip (toBytes 8 5))) (wg []) = .ok ((), u)) ∧
    memEa m8 (wg [(4, 0xFE000000500000)]) = .ok (0xFE000000500000, wg [(4, 0xFE000000500000)]) ∧
    regionOf .x4 0xFE000000500000 = .control 0x500000 ∧ regionWhy (.control 0x500000) true = none ∧ (Region.control 0x500000) ≠ .main := by
  and_intros <;> first | decide +kernel | rfl | exact Or.inl rfl | exact ⟨_, rfl⟩

/-- An odd address; the first malformed address, one in a host window, and one in control space. -/
theorem witness_MemoryAccessTraps :
    memEa m8 (wg [(4, 65)]) = .ok (65, wg [(4, 65)]) ∧ 65 % m8.size ≠ 0 ∧
    memEa m8 (wg [(4, 0x10000000000)]) = .ok (0x10000000000, wg [(4, 0x10000000000)]) ∧ 0x10000000000 % m8.size = 0 ∧
    regionWhy (regionOf .x4 0x10000000000) true = some 1 ∧ regionWhy (regionOf .x4 0x10000000000000) true = some 2 ∧
    regionWhy (regionOf .x4 0x10000000000) false = some 1 ∧ regionWhy (regionOf .x4 0xFE000000000000) false = some 6 := by
  and_intros <;> first | decide +kernel | rfl

/-- A location of main memory that is full, for LDW and LDT, and one that is empty, for STF; FEQ of it. -/
theorem witness_FullEmptyInstructionsComplete :
    let s := own (wg [(4, 64)])
    let e := { s with empties := [4] }
    memEa m8 s = .ok (64, s) ∧ regionWhy (regionOf s.part 64) false = none ∧
    s.me.allows 64 8 { rightsLd with fe := true } = true ∧ roomG 3 s = .ok ((), s) ∧
    (∃ y u, locOp s (regionOf s.part 64) (s.homeReq (.ldw 3 false false) 64 8 2 []) s = .ok (y, u)) ∧
    (∃ y u, locOp s (regionOf s.part 64) (s.homeReq (.ldt 3 false false) 64 8 3 []) s = .ok (y, u)) ∧
    s.me.allows 64 8 { rightsSt with fe := true } = true ∧
    (∃ y u, locOp e (regionOf e.part 64) (e.homeReq (.stf 0) 64 8 4 []) e = .ok (y, u)) ∧
    (∃ y u, locOp s (regionOf s.part 64) (s.homeReq (.feq 3) 64 16 6 []) s = .ok (y, u)) := by
  and_intros <;> first | rfl | decide | exact ⟨_, _, rfl⟩

/-- A request that its home can perform now, on a full and on an empty granule, and a location that is not poisoned. -/
theorem witness_LocationOperationsAtTheHome :
    let s := own (wg [])
    let r := s.homeReq (.ldw 3 false false) 64 8 2 []
    let w := s.homeReq (.stf 0) 64 8 4 []
    let h := (s.l1Kills r).homeReady r.addr r.op.changes
    let k := (s.l1Kills w).homeReady w.addr w.op.changes
    s.isPoison 64 = false ∧ s.noSnap = true ∧ s.routeClear r.core r.addr = true ∧ s.refused46 r.ptag r.addr = false ∧ r.op.changes = false ∧
    w.op.changes = true ∧ s.sealedAt w.addr w.span = false ∧ h.1 = true ∧ r.op.traps = true ∧ h.2.isPoison r.addr = false ∧
    r.op.ready (h.2.isFull (r.addr / 16)) = true ∧ k.1 = true ∧ w.op.ready (k.2.isFull (w.addr / 16)) = false := by decide +kernel

/-- A FEMARK of a whole page of main memory, and of the vault window; fences and waits at the bounds of their counters; each form of CINV. -/
theorem witness_MarksFencesAndCacheControl :
    let s := wg [(3, 256), (4, 0)]
    (wg []).namesOk [3, 4] ∧ readG 4 s = .ok (0, s) ∧ readG 3 s = .ok (256, s) ∧ 0 % 4096 + 16 * (256#64).toNat ≤ 4096 ∧
    regionOf s.part 0 = .main ∧ s.me.allows 0 (16 * 256) { rightsSt with fe := true } = true ∧ s.me.st + (femarkLines 0 256).length ≤ 63 ∧
    regionOf s.part 0x01000000000000 = .vault 0 0 ∧
    (∃ t, tileWrite s (.vault 0 0) 5 0x01000000000000 (fun b => (List.range 1).map (fun j =>
      { gran := b / 16 + j, ty := tyNone, op := opEmpty, mask := 0, data := 0 })) s = .ok ((), t)) ∧
    (FenceScope.device ≠ .slot ∧ s.me.ld = 0 ∧ s.me.st = 0 ∧ s.me.tl = 0 ∧ s.me.cp = 0) ∧ s.me.ld ≤ (0#4).toNat ∧
    ((0#4) ≠ 15 ∧ (0#4).toNat < (s.modMe (fun c => { c with ld := 1 })).me.ld) ∧ readG 0 s = .ok (0, s) := by
  and_intros <;> first | decide +kernel | rfl | exact Or.inl rfl | exact ⟨_, rfl⟩

/-- `k1` enables lane 0 only. -/
def oneMask : State := (wg [(4, 64)]).modMe (fun c => { c with k := c.k.set 1 1 })

/-- Vector accesses of main memory, missing and hitting, of the vault window and of control space, and their lanes. -/
theorem witness_VectorMemoryAccessIssues :
    let s := wg [(4, 64)]
    let t := wg [(4, 0x01000000000000)]
    let k := wg [(4, 0xFE000000500000)]
    s.atAnchor ∧ vecEa .w64 4 0 [] s = .ok (64, s) ∧ 64 % VldW.size .w64 = 0 ∧ readK 0 s = .ok (BitVec.allOnes 16, s) ∧
    regionOf s.part 64 = .main ∧ s.me.allows 64 64 rightsLd = true ∧ s.me.ld < 63 ∧ s.me.vPend.getLsbD 1 = false ∧
    s.l1Find 0 0 0 0 = none ∧ ((withL1 s).l1Find 0 0 0 0).isSome = true ∧ vecEa .w64 4 0 [] k = .ok (0xFE000000500000, k) ∧
    regionOf k.part 0xFE000000500000 = .control 0x500000 ∧ vecEa .w64 4 0 [] t = .ok (0x01000000000000, t) ∧
    (withL1 s).sliceQ.any (fun r => r.cid == (withL1 s).me.cid && r.addr / 128 == 0) = false ∧
    (∃ y, tileBytes t (.vault 0 0) 10 0x01000000000000 64 t = .ok (y, t)) ∧ readV 1 s = .ok (0, s) ∧
    (∃ u, tileWrite t (.vault 0 0) 11 0x01000000000000 (fun o => storeUpds ((vstBytes .w64 1 0).map (fun y => (o + y.1, y.2)))) t = .ok ((), u)) ∧ s.me.allows 64 64 rightsSt = true ∧
    s.me.st < 63 ∧ readG 4 s = .ok (64, s) ∧ readV 3 s = .ok (0, s) ∧
    laneChecks 4 12 rightsLd [(0, 64)] s = .ok ((), s) ∧ lanesMain 12 [(0, 64)] s = .ok (true, s) ∧
    laneChecks 4 12 rightsLd [(0, 0x01000000000000)] t = .ok ((), t) ∧ lanesMain 12 [(0, 0x01000000000000)] t = .ok (false, t) ∧
    (lanesRead t 4 false [(0, 0x01000000000000)] t).isOk = true ∧ laneChecks 4 13 rightsSt [(0, 64)] s = .ok ((), s) ∧
    lanesMain 13 [(0, 64)] s = .ok (true, s) ∧ lanesMain 13 [(0, 0x01000000000000)] t = .ok (false, t) ∧
    (lanesWrite t 4 0 [(0, 0x01000000000000)] t).isOk = true ∧ laneAddrs 64 0 1 = [(0, 64)] ∧
    readK 1 oneMask = .ok (oneMask.me.k[1], oneMask) ∧ oneMask.me.k[1] = 1 := by
  and_intros <;> first | decide +kernel | rfl | exact Or.inl rfl | exact ⟨_, rfl⟩

/-! ## Witnesses: tiles, atomics and threads -/

/-- Partition 0 owns squad 0, whose tile 0 belongs to tenant 1 and has this state and pin count. -/
def tile (st : TileSt) (pins : Nat) (s : State) : State :=
  { s with parts := [(0, { PartSt.reset with pstate := .active })],
           squads := [(0, { SquadSt.reset with tiles := [(0, { TileEnt.reset with st := st, owner := 1, pins := pins })] })] }

/-- Tile 0 in each of its states, and one of another tenant. -/
theorem witness_TileUpdates :
    let s (st : TileSt) := tile st 0 (wg [(4, 0x02000000000000)])
    let u : Upd := { gran := 255, ty := tyNone, op := opOr, mask := 0xFF, data := 5 }
    (s .resident).atAnchor ∧ (s .resident).inv = true ∧ readG 4 (s .resident) = .ok (0x02000000000000, s .resident) ∧
    regionOf .x4 0x02000000000000 = .tile 0 0 0 ∧ readG 3 (s .resident) = .ok (0, s .resident) ∧ 0x02000000000000 % 8 = 0 ∧
    (tileWrite (s .resident) (.tile 0 0 0) 7 0x02000000000000 (fun _ => [u]) (s .resident)).isOk = true ∧ u.gran < 256 ∧
    (wg []).tileRefused 0 1 0 0 = some 3 ∧ (s .resident).tileRefused 0 1 0 0 = none ∧ (s .resident).tileClear 0 0 = true ∧
    (((s .resident).squad 0).tile 0).st = .resident ∧ u.op ≠ opFill ∧ u.op ≠ opEmpty ∧ (((s .absent).squad 0).tile 0).st = .absent ∧
    ((s .absent).append? 0 0 [u]).isSome = true ∧ (((s .leaving).squad 0).tile 0).st = .leaving := by
  and_intros <;> first | decide +kernel | rfl

/-- The lowest and the highest pin count from which each instruction runs. -/
theorem witness_TileResidencyControl :
    let s (st : TileSt) (p : Nat) := tile st p (wg [(4, 0x02000000000000)])
    (s .resident 0).atAnchor ∧ readG 4 (s .resident 0) = .ok (0x02000000000000, s .resident 0) ∧ regionOf .x4 0x02000000000000 = .tile 0 0 0 ∧
    (s .resident 0).tileRefused 0 1 0 0 = none ∧ (s .resident 0).tileClear 0 0 = true ∧ TileSt.resident ≠ .leaving ∧
    (((s .resident 254).squad 0).tile 0).pins < 255 ∧ ((s .resident 254).squad 0).pinnedTiles < 1016 ∧ (s .resident 0).me.tl < 63 ∧
    0 < (((s .resident 1).squad 0).tile 0).pins ∧ (((s .resident 0).squad 0).tile 0).pins = 0 ∧
    (((s .resident 0).squad 0).tile 0).st = .resident ∧ (s .resident 0).held 0 0 = false ∧ (((s .absent 0).squad 0).tile 0).st = .absent ∧
    (((s .arriving 0).squad 0).tile 0).st = .arriving ∧ (((s .absent 0).squad 0).tile 0).st ≠ .resident ∧
    (s .resident 1).held 0 0 = true ∧ roomG 3 (s .absent 0) = .ok ((), s .absent 0) := by
  and_intros <;> first | decide +kernel | rfl

/-- The context in its turn stands on core `c`. -/
def onCore (c : Nat) (s : State) : State := s.modMe (fun m => { m with core := c })

/-- A thread on the home core of its address, one on a pivot core, and one on a barrel core, which moves or waits. -/
theorem witness_Atomics :
    let s := own (onCore 4096 (wg [(4, 64), (5, 7)]))
    let b := own (wg [(4, 64), (5, 7)])
    s.namesOk [3, 4, 5] ∧ atomicAt 4 8 s = .ok (64, s) ∧ standAt s 64 s = .ok ((), s) ∧ readG 5 s = .ok (7, s) ∧ readG 3 s = .ok (0, s) ∧
    s.me.ld = 0 ∧ s.me.st = 0 ∧ (locOp s (regionOf s.part 64) (s.homeReq (.amo .add .n64 true 3 7) 64 8 15 []) s).isOk = true ∧
    (locOp s (regionOf s.part 64) (s.homeReq (.cas true true 3 0 7) 64 8 15 []) s).isOk = true ∧ s.unitOf 64 = some 0 ∧
    (∃ t, writeG 3 5 s = .ok ((), t)) ∧ regionOf s.part 64 = .main ∧ s.me.core = 4096 + s.chanOf 64 ∧ s.part.isPivot 4608 = true ∧
    b.me.core ≠ 4096 + b.chanOf 64 ∧ b.part.isPivot b.me.core = false ∧ b.me.audited = false ∧ b.me.quiet = true ∧
    (b.modMe (fun c => { c with ld := 1 })).me.quiet = false := by
  and_intros <;> first | decide +kernel | rfl | exact Or.inl rfl | exact ⟨_, rfl⟩

/-- A thread at the home core and away from it, on a pivot core, at its anchor and away; selectors of the own core and of another. -/
theorem witness_MigrationAndSpawn :
    let b := own (wg [(4, 64), (3, 0x40)])
    let h := onCore 4096 b
    let a := b.modMe (fun c => { c with anchorMode := .away })
    b.namesOk [4] ∧ readG 4 b = .ok (64, b) ∧ regionOf b.part (64 % 2 ^ 56) = .main ∧ b.me.audited = false ∧
    h.me.core = 4096 + h.chanOf 64 ∧ b.me.core ≠ 4096 + b.chanOf 64 ∧ b.me.quiet = true ∧ b.namesOk [4, 5] ∧
    readG 4 (wg []) = .ok (0, wg []) ∧ selector false 0 (readG 5) (wg []) = .ok ((0, some 0, 0), wg []) ∧
    selector false 1 (readG 5) (wg []) = .ok ((1, some 0, 1), wg []) ∧ b.part.isPivot b.me.core = false ∧
    (onCore 4608 b).part.isPivot (onCore 4608 b).me.core = true ∧ b.me.anchorMode = .here ∧ b.me.isAway = false ∧ a.me.isAway = true ∧
    a.me.quiet = true ∧ readG 3 b = .ok (0x40, b) ∧ readArgs 1 (spawnArgs .n2) b = .ok ([0, 0], b) ∧
    selector true 1 (pure 0) b = .ok ((1, some 0, 1), b) ∧ b.me.ld = 0 ∧ b.me.st = 0 := by
  and_intros <;> first | decide +kernel | rfl | exact Or.inl rfl

/-! ## Witnesses: the units of memory -/

/-- A request of the context to slice 0, its reply and its acknowledgement. -/
def sreq (op : SliceOp) : SliceReq :=
  { slice := 0, core := 0, cid := 1, op := op, addr := 64, size := 8, key := 0, ptag := 0, tenid := 1, code := 0, pc := 0, fill := false, tag := 0,
    acq := none, seq := 0, quiet := false }
def lrep : LoadRep := { cid := 1, val := .g 3 7, addr := 64, code := 0, pc := 0, tag := 0, acq := none }
def srep : StoreRep := { cid := 1, fail := none, addr := 64, code := 1, pc := 0, tag := 0, each := false }

/-- A load and a store that head their slice's queue; a line that the slice holds dirty under the key slot of the request and under another. -/
theorem witness_SliceRequestsAndReplies :
    let s := { (wg []) with loads := [lrep], acks := [srep] }
    let q (op : SliceOp) := { (own (wg [])) with sliceQ := [sreq op] }
    let o := { (own (wg [])) with l2 := [(4, { data := 0, key := none, full := true, poison := false })], keys := [(4, 1)] }
    let l := q (.load 3 false)
    let w := q (.store 5 false)
    let z (t : State) : State := { t with sliceQ := [] }
    s.inv = true ∧ s.noEnding = true ∧ s.byCid 1 = some s.me ∧ s.me.cid = 1 ∧
    takeFirst (fun (x : LoadRep) => x.cid == 1) s.loads = some (lrep, []) ∧
    isPort 3 = false ∧ lrep.acq = none ∧ takeFirst (fun (x : StoreRep) => x.cid == 1) s.acks = some (srep, []) ∧ srep.fail = none ∧
    srep.tag = 0 ∧ l.memOk = true ∧
    l.pick ((headsOf SliceReq.core (l.sliceQ.filter (fun q => q.slice == 0))).filter (fun q => !l.homeBefore q)) =
      some (sreq (.load 3 false), l) ∧
    ((z l).slicePerform (sreq (.load 3 false))).isSome = true ∧ ((z l).slicePerform (sreq (.load 3 false))).any (fun t => t.evicted == []) = true ∧
    l.refused46 0 64 = false ∧ l.l2Other 0 0 = false ∧ l.isPoison 64 = false ∧ w.sealedAt 64 8 = false ∧ w.spillBlockAt 0 = false ∧
    w.noSnap = true ∧ o.refused46 0 64 = false ∧ o.l2Other 0 0 = true ∧ (o.homeReady 64 true).1 = true ∧ (wg []).refused46 0 64 = true ∧
    (sreq (.store 5 false)).quiet = false := by decide +kernel

/-- A store in a sealed range. -/
theorem witness_SliceRequestsAndReplies_sealed :
    let s := { (own (wg [])) with
      sealU := { (SealUnit.reset 0) with tab := [(0, { SealEnt.reset with base := 0, len := 128, flen := 64, st := .live, tenant := 1 })] } }
    s.refused46 0 64 = false ∧ s.sealedAt 64 8 = true := by decide +kernel

/-- Requests to home core 0: a FEMARK, and a RUPD to the vault window of squad 0. -/
def hreq (op : HomeOp) (a : Nat) : HomeReq :=
  { core := 0, cid := 1, op := op, addr := a, size := 8, key := 0, ptag := 0, tenid := 1, code := 5, pc := 0, npc := 2, seq := 0, pops := [],
    tag := 0, ea := a, quiet := false, wasFull := false }

theorem witness_HomeUnitsTakeRequests :
    let r := hreq (.femark 1 false) 64
    let s := own { (wg []) with chans := [] }
    let h := { s with chans := [(0, { ChanSt.reset with own := true, hq := [r] })] }
    let u := hreq (.rupd .add .n64 5) 0x01000000000000
    let t := { (wg []) with rupds := [(4096, u)] }
    let j := { (wg []).modMe (fun c => { c with wait := .rejected }) with rejected := [r], withdrawn := [1] }
    h.pick (headsOf HomeReq.core ((h.chan 0).hq.filter (fun q => (h.chan 0).copying != some (h.pageOf q.addr) && !h.sliceBefore 0 q))) =
      some (r, h) ∧
    ((h.modChan 0 (fun c => { c with hq := [] })).homeTake r).isSome = true ∧
    ((h.modChan 0 (fun c => { c with hq := [] })).homeTake r).any (fun w => w.evicted == []) = true ∧
    (wg []).refused46 r.ptag r.addr = true ∧ r.op.counted = true ∧ r.quiet = false ∧
    s.refused46 r.ptag r.addr = false ∧ s.sealedAt r.addr r.span = false ∧ (s.homeReady r.addr r.op.changes).1 = true ∧
    t.pick (headsOf (fun (p : Nat × HomeReq) => p.2.core) (t.rupds.filter (fun p => p.1 == 4096 + 0))) = some ((4096 + 0, u), t) ∧
    ({ t with rupds := [] }.rupdTile u).2 = true ∧ j.byCid 1 = some j.me ∧ j.me.wait = .rejected ∧
    j.rejected.any (fun r => r.cid == 1) = true ∧ j.withdrawn.contains 1 = true ∧ j.areaOf 1 = none := by decide +kernel

/-- A channel with its snapshot in this state, and a page being copied. -/
def snapped (st : SnapSt) (p : Option Nat) : State := { (wg []) with chans := [(0, { ChanSt.reset with snap := st, copying := p })] }

/-- A page whose copy is kept, and pages inside and outside the snapshot area with room for copies and without. -/
theorem witness_SnapshotAndCacheSteps :
    let k (a n : Nat) (b : List Nat) := { (wg []) with
      chans := [(0, { ChanSt.reset with snap := .active, abase := a, alen := n, ncopies := 1, bitmap := b, copies := [(0, [(0, { data := 0, key := none, full := true, poison := false }, true, false)])] })] }
    ((snapped .off none).chan 0).snap = .off ∧ ((snapped .active none).chan 0).snap ≠ .off ∧ ((snapped .armed none).chan 0).snap = .armed ∧
    ((snapped .armed none).chan 0).snapt.toNat ≤ (snapped .armed none).clk ∧ (snapped .armed none).memOk = true ∧
    ((snapped .active (some 0)).chan 0).copying = some 0 ∧
    ((snapped .off none).chan 0).bitmap.contains 0 = false ∧ ((k 8 4 [0]).chan 0).bitmap.contains 0 = true ∧
    (wg []).part.isBarrel 4095 = true ∧ (wg []).part.isBarrel 4096 = false ∧ 511 < (wg []).part.squads ∧ 4 ≤ (4#64).toNat % 128 ∧
    (64#64).toNat % 128 ≤ 64 ∧ (wg []).chanOf 64 = 0 ∧ (wg []).pageOf 64 = 0 ∧ 0 < ((k 8 4 []).chan 0).abase ∧ ((k 0 0 []).chan 0).alen = 0 ∧
    ((k 8 4 []).chan 0).copying ≠ some 0 ∧ ((k 8 4 []).chan 0).bitmap.contains 0 = false ∧
    ((k 8 4 []).chan 0).ncopies + 1 < ((k 8 4 []).chan 0).alen ∧ ((k 8 4 []).chan 0).copying = none ∧
    ((k 8 2 []).chan 0).alen ≤ ((k 8 2 []).chan 0).ncopies + 1 := by decide +kernel

/-- Tile 0 of squad 0 with a frame claimed. -/
def framed (st : TileSt) : State := (tile st 0 (own (wg []))).modTile 0 0 (fun e => { e with framed := true })

theorem witness_TileUnitSteps :
    let w (st : TileSt) := (tile st 0 (wg [])).modMe (fun c => { c with wait := .tile 0 0 })
    (((wg []).squad 0).tile 0).st = .absent ∧ (((wg []).squad 0).tile 0).log = [] ∧ (((wg []).squad 0).tile 0).pins = 0 ∧
    (((tile .resident 1 (wg [])).squad 0).tile 0).st ≠ .absent ∧ (((tile .absent 1 (wg [])).squad 0).tile 0).pins ≠ 0 ∧
    (w .resident).at? 0 0 = some (w .resident).me ∧ (w .resident).me.wait = .tile 0 0 ∧ (((w .absent).squad 0).tile 0).st = .absent ∧
    (((w .arriving).squad 0).tile 0).st = .arriving ∧ (((w .leaving).squad 0).tile 0).st = .leaving ∧
    (((framed .arriving).squad 0).tile 0).st = .arriving ∧ (((framed .arriving).squad 0).tile 0).framed = true ∧
    ((framed .arriving).linesReady ((framed .arriving).backing 0 0) false 32).isSome = true ∧
    (((framed .leaving).squad 0).tile 0).st = .leaving ∧ ((framed .leaving).linesReady ((framed .leaving).backing 0 0) true 32).isSome = true := by
  decide +kernel

/-! ## Witnesses: streams, fills and barriers -/

/-- Stream 0 of the context with these halves. -/
def withStream (o : OutHalf) (i : InHalf) (s : State) : State := s.modMe (fun c => { c with streams := c.streams.set 0 { out := o, inn := i } })
def outHalf (allow : Nat) : OutHalf := { bound := true, core := 1, slot := 0, pstrm := 0, allow := allow, wlim := 1 }
def innHalf (ms : List Msg) : InHalf := { bound := true, allow := 4, wlim := 8, granted := 12, msgs := ms }

/-- A message of one word and of two on a half whose limit is one, with and without allowance; fills to a core of the part and to none;
descriptors of each kind. -/
theorem witness_StreamInstructions :
    let s := withStream (outHalf 1) (innHalf []) (wg [(4, 7), (5, 9)])
    (Instr.send 56 4 1).wf = true ∧ (Instr.send 56 4 2).wf = true ∧ isPort 56 = true ∧ readRun 4 1 s = .ok ([7], s) ∧
    readRun 4 2 s = .ok ([7, 9], s) ∧ s.atAnchor ∧ (wg []).me.streams[portOf 56].out.bound = false ∧ s.me.streams[portOf 56].out.bound = true ∧
    s.me.streams[portOf 56].out.wlim < [7, 9].length ∧ [7].length ≤ s.me.streams[portOf 56].out.wlim ∧ s.me.streams[portOf 56].out.allow ≠ 0 ∧
    (withStream (outHalf 0) (innHalf []) (wg [])).me.streams[portOf 56].out.allow = 0 ∧
    (Instr.send 5 4 6).wf = true ∧ isPort 5 = false ∧ readG 4 s = .ok (7, s) ∧ readG 5 s = .ok (9, s) ∧ fld 9 63 20 = 0 ∧ fld 9 19 16 ≠ 15 ∧
    s.part.hasCore (fld 9 15 0) = true ∧ s.part.hasCore (fld 0xFFFF 15 0) = false ∧ s.me.st < 63 ∧
    (Instr.qbind 56 4).wf = true ∧ (Instr.qbind 60 4).wf = true ∧ badBind true 0 0x8000000000000000 = true ∧ badBind true 0 0x400002 = false ∧
    fld 0x400002 3 0 = 2 ∧ badBind true 0 0 = false ∧ fld 0 3 0 = 0 ∧ badBind true 0 1 = false ∧ fld 1 3 0 = 1 ∧ badBind false 0 0 = false ∧
    badBind false 0 0x400002 = false ∧ fld 0x400002 3 0 = 2 ∧ badBind false 0 1 = false ∧ (Instr.qstat 4 56).wf = true ∧ (Instr.qstat 4 60).wf = true ∧
    wordsIn s.me.streams[portOf 56].inn.msgs < 2 ^ 13 ∧ s.me.streams[portOf 56].inn.msgs.length < 32 ∧ s.me.streams[portOf 56].out.allow < 16 ∧
    s.me.bq.q.length < 32 ∧ fld 1 31 28 = 0 ∧ s.at? s.me.core 0 = some s.me ∧ s.at? s.me.core 1 = none := by
  and_intros <;> first | decide +kernel | rfl

/-- Messages under way to slot 0 of core 0: on stream 0, to g3, a bind request and its replies, and a unit of allowance. -/
def smsg : StreamMsg := { core := 0, slot := 0, k := 0, msg := { core := 1, slot := 0, strm := 0, words := [7] }, tenid := 1, sender := 2, pc := 0 }
def fmsg : FillMsg := { core := 0, slot := 0, x := 3, val := 7, sender := 2, fromCore := 1, fromSlot := 0, tenid := 1, addr := 0, pc := 0 }
def bmsg (r : Option (Nat × Nat × Nat)) : BindMsg :=
  { cid := 1, k := 0, core := 0, slot := 0, pstrm := 0, tenid := 1, pc := 0, npc := 2, reply := r, seq := 4, pops := [] }

/-- A message to a bound half, to an unbound one, and to a slot of another tenant; a fill whose register is free, one whose register is full,
and one to another tenant; a unit of allowance. -/
theorem witness_StreamFillAndAllowanceArrivals :
    let b := withStream (outHalf 1) (innHalf []) (wg [])
    let s := { b.modMe (fun c => { c with gFull := c.gFull &&& ~~~8#64 }) with streamQ := [smsg], fills := [fmsg], allowances := [(0, 0, 0)] }
    let o := { (wg []) with streamQ := [smsg], fills := [fmsg] }
    let x := { s.modMe (fun c => { c with tenid := 2 }) with fills := [fmsg] }
    s.at? 0 0 = some s.me ∧ takeFirst (fun (q : StreamMsg) => q.core == 0 && q.slot == 0 && q.k == 0) s.streamQ = some (smsg, []) ∧
    (0 : Fin 4).val = 0 % 4 ∧ (s.core 0).diverted = false ∧ s.me.core = 0 ∧ s.me.slot = 0 ∧ s.me.tenid = smsg.tenid ∧
    s.me.streams[0].inn.bound = true ∧ o.me.streams[0].inn.bound = false ∧ x.at? 0 0 = some x.me ∧ x.me.tenid ≠ smsg.tenid ∧
    x.savedAt 0 0 smsg.tenid = none ∧
    takeFirst (fun (q : FillMsg) => q.core == 0 && q.slot == 0 && s.fillReady q) s.fills = some (fmsg, []) ∧ s.me.tenid = fmsg.tenid ∧
    takeFirst (fun (q : FillMsg) => q.core == 0 && q.slot == 0 && x.fillReady q) x.fills = some (fmsg, []) ∧ x.me.tenid ≠ fmsg.tenid ∧
    x.savedAt 0 0 fmsg.tenid = none ∧ takeFirst (fun (q : FillMsg) => q.core == 0 && q.slot == 0 && o.fillReady q) o.fills = none ∧
    s.me.cid ≠ 0 ∧ takeFirst (fun (p : Nat × Nat × Nat) => p == (0, 0, 0)) s.allowances = some ((0, 0, 0), []) := by decide +kernel

/-- A bind request at 12 of 16 slots is granted, one at 13 is refused, and one to an unbound half; a reply that binds and one that refuses. -/
theorem witness_BindRequestsAndReplies :
    let a (g : Nat) := { withStream (outHalf 1) { innHalf [] with granted := g } (wg []) with binds := [bmsg none] }
    let o := { (wg []) with binds := [bmsg none] }
    let b (r : Nat × Nat × Nat) := { (wg []).modMe (fun c => { c with wait := .bind 4 }) with binds := [bmsg (some r)] }
    List.find? (fun (q : BindMsg) => q.cid == 1 && q.reply.isNone) (a 12).binds = some (bmsg none) ∧ (bmsg none).cid = 1 ∧
    (0 : Fin 4).val = (bmsg none).pstrm % 4 ∧ (a 12).at? 0 0 = some (a 12).me ∧ (a 12).me.core = 0 ∧ (a 12).me.slot = 0 ∧
    (a 12).me.tenid = (bmsg none).tenid ∧ (a 12).me.streams[0].inn.bound = true ∧
    (a 12).me.streams[0].inn.granted + (a 12).me.streams[0].inn.allow ≤ 16 ∧
    16 < (a 13).me.streams[0].inn.granted + (a 13).me.streams[0].inn.allow ∧ o.at? 0 0 = some o.me ∧ o.me.streams[0].inn.bound = false ∧
    (b (4, 8, 0)).inv = true ∧ (b (4, 8, 0)).byCid 1 = some (b (4, 8, 0)).me ∧ (b (4, 8, 0)).me.cid = 1 ∧
    takeFirst (fun (q : BindMsg) => q.cid == 1 && q.reply.isSome) (b (4, 8, 0)).binds = some (bmsg (some (4, 8, 0)), []) ∧
    (b (4, 8, 0)).me.wait = .bind (bmsg none).seq ∧
    takeFirst (fun (q : BindMsg) => q.cid == 1 && q.reply.isSome) (b (0, 0, 3)).binds = some (bmsg (some (0, 0, 2 + 1)), []) ∧
    (b (0, 0, 3)).me.slot ≠ 15 ∧ ((b (0, 0, 3)).core 0).trapQ = [] := by decide +kernel

/-- Barrier 0 of squad 0 with this mask and this lead of core 0. -/
def barred (m : BitVec 8) (l : BitVec 2) : State :=
  { (wg [(4, 0x300)]) with
    squads := [(0, { SquadSt.reset with bars := [(0, { mask := m, c := 0, leads := Barrier.reset.leads.set 0 l })] })] }

/-- A mask without the core, a busy barrier of another mask, a lead of 3 and one of 2; a phase complete and one that is the next. -/
theorem witness_HuddleBarriers :
    (barred 3 0).atAnchor ∧ readG 4 (barred 3 0) = .ok (0x300, barred 3 0) ∧ fld 0x300 63 16 = 0 ∧ fld 0x300 7 3 = 0 ∧
    (BitVec.extractLsb' 8 8 0x300#64).getLsbD 0 = true ∧ (BitVec.extractLsb' 8 8 0x200#64).getLsbD 0 = false ∧
    (∃ i, i < 8 ∧ ((barred 1 1).barrier 0 0).lead i ≠ 0) ∧ ((barred 1 1).barrier 0 0).mask ≠ 3 ∧ ((barred 3 3).barrier 0 0).lead 0 = 3 ∧
    ((barred 3 3).barrier 0 0).mask = 3 ∧ ((barred 3 2).barrier 0 0).lead 0 ≠ 3 ∧ (∀ i, i < 8 → ((barred 3 0).barrier 0 0).lead i = 0) ∧
    (∃ t, writeG 3 0 (barred 3 0) = .ok ((), t)) ∧ fld 0 63 32 = 0 ∧ fld 0 15 3 = 0 ∧
    2 ^ 15 ≤ (((barred 3 0).barrier 0 0).c - 1 - BitVec.extractLsb' 16 16 0#64).toNat ∧
    (((barred 3 0).barrier 0 0).c - 1 - BitVec.extractLsb' 16 16 0xFFFF0000#64).toNat < 2 ^ 15 ∧ fld 0 63 3 = 0 := by
  and_intros <;> first | decide +kernel | rfl | exact Or.inl rfl | exact ⟨_, rfl⟩

/-! ## Witnesses: control flow, traps and system calls -/

/-- A member of gang 1 whose stream is in this state. -/
def ganged (st : FeState) : State :=
  { (wg []).modMe (fun c => { c with gang := 1 }) with squads := [(0, { SquadSt.reset with fe := [(0, { FeStream.reset with st := st })] })] }

/-- Ring 0 of squad 0, of tenant 1 and slot 0, holding no task. -/
def ringed (s : State) : State :=
  { s with squads := [(0, { SquadSt.reset with rings := [(0, { TaskRing.reset with srcfg := 0x0001000000000000 })] })] }

/-- The record of a trap of slot `sl` in the queue of core 0. -/
def trec (sl cid : Nat) : TrapRec :=
  { cls := .soft, slot := sl, cid := cid, away := false, pc := 0, addr := 0, info := 0, late := false, fetch := false, next := 2,
    cyc := 0 }
/-- The supervisor of core 0 with these records in its queue. -/
def supervisor (q : List TrapRec) : State :=
  { (wg []).modMe (fun c => { c with slot := 15, tenid := 0, cid := 9 }) with cores := [(0, { CoreSt.reset with trapQ := q })] }

/-- The three states of a stream at a JOIN of its address and of another; a ring of no tenant and of the context; slots 0 and 15. -/
theorem witness_JoinWaitAndHalt :
    let h := wg [(4, 0)]
    (wg []).hasStream (wg []).me = false ∧ (ganged .run).hasStream (ganged .run).me = true ∧ ((ganged .run).stream 0 0).st = .run ∧
    ((ganged .idle).stream 0 0).st = .idle ∧ ((ganged (.joinWait 4)).stream 0 0).st = .joinWait 4 ∧ (2#64) ≠ 4 ∧
    (wg []).atAnchor ∧ readG 4 (wg []) = .ok (0, wg []) ∧ fld 0 63 4 = 0 ∧ fld 16 63 4 ≠ 0 ∧ ((ringed h).modMe (fun c => { c with st := 1 })).me.quiet = false ∧ ((wg []).ring 0 0).tenant = 0 ∧ ((ringed h).ring 0 0).tenant ≠ 0 ∧
    ((ringed h).ring 0 0).tenant = (ringed h).me.tenid ∧ ((ringed h).ring 0 0).sidx = (ringed h).me.slot ∧ (ringed h).me.quiet = true ∧
    (wg []).me.slot ≠ 15 ∧ (wg []).me.ld = 0 ∧ (wg []).me.st = 0 ∧ (wg []).me.live = true ∧ (wg []).me.anchorMode ≠ .away ∧
    (wg []).inst? (wg []).me.inst = none ∧ (wg []).slots.find? (slotKey 0 0) = none ∧ (h.modMe (fun c => { c with ld := 1 })).me.ld ≠ 0 ∧
    (supervisor []).me.slot = 15 ∧ ((supervisor []).core 0).hasRecord = false ∧ ((supervisor [trec 0 1]).core 0).hasRecord = true ∧
    (wg []).namesOk [4] ∧ (wg []).part.isBarrel 0 = true ∧ (wg []).validRcb 0x10000000000 1 = false ∧ (wg []).part.isBarrel 4096 = false ∧
    ({ h.modMe (fun c => { c with tenid := 0 }) with keys := (List.range 16).map (fun i => (i, 0)) } : State).validRcb 0 0 = true := by
  and_intros <;> first | decide +kernel | rfl | exact Or.inl rfl

/-- A slot whose core holds no record of it, and one whose core holds one. -/
theorem witness_TakingATrap :
    let s := (wg []).modCore 0 (fun k => { k with trapQ := [trec 0 1] })
    (wg []).me.live = true ∧ (wg []).me.slot ≠ 15 ∧ (∀ x ∈ ((wg []).core 0).trapQ, x.slot ≠ 0) ∧ ∃ x ∈ (s.core 0).trapQ, x.slot = s.me.slot := by
  decide

theorem witness_SupervisorFault : (supervisor []).me.live = true ∧ (supervisor []).me.slot = 15 := by decide

/-- Text of an entry in this state, and the supervisor with a record of slot 0 whose context is loaded. -/
def sealedText (st : SealSt) : State :=
  { (wg []) with sealU := { (SealUnit.reset 0) with tab := [(0, { SealEnt.reset with base := 0, len := 256, flen := 32, st := st, tenant := 1 })] } }
def served : State := { (supervisor [trec 0 1]) with slots := [(0, ctx 0 0)] }

/-- The record of a slot whose context is loaded; the core records of preemption and of a spill queue; text that is revoked, an odd address,
and an address beyond 56 bits. -/
theorem witness_TrapInstructionsAndReturn :
    let p := ((wg []).modCore 0 (fun k => { k with preempt := some (trec 15 0) })).core 0
    let q := ((wg []).modCore 0 (fun k => { k with spill := some (trec 15 0) })).core 0
    (wg []).namesOk [3, 4] ∧ (wg []).namesOk [4] ∧ readG 4 (wg []) = .ok (0, wg []) ∧ (wg []).fetchEnt 1 0 = none ∧ (wg []).revokedEnt 1 0 = none ∧
    (wg []).me.pc.getLsbD 0 = false ∧ ((wg []).modMe (fun c => { c with pc := 1 })).me.pc.getLsbD 0 = true ∧
    (sealedText .revoked).fetchEnt 1 0 = none ∧ ((sealedText .revoked).revokedEnt 1 0).isSome = true ∧ fld 1 1 0 = 1 ∧
    readG 3 (wg []) = .ok (0, wg []) ∧ fld 4 63 2 ≠ 0 ∧ ((supervisor []).core 0).hasRecord = false ∧ (1#64).getLsbD 0 = true ∧
    fld 0x100000000000000 63 56 ≠ 0 ∧ p.preempt.isSome = true ∧ q.preempt = none ∧ q.spill.isSome = true ∧
    (supervisor []).me.live = true ∧ (supervisor []).me.slot = 15 ∧ (served.core 0).preempt = none ∧ (served.core 0).spill = none ∧
    (served.core 0).trapQ = trec 0 1 :: [] ∧ fld 3 63 2 = 0 ∧ fld 3 1 0 ≠ 2 ∧ (8#64).getLsbD 0 = false ∧ fld 8 63 56 = 0 ∧
    served.at? 0 0 = some (ctx 0 0) ∧ (ctx 0 0).cid = (trec 0 1).cid ∧ (∀ h ∈ (served.core 0).held, h.slot ≠ (trec 0 1).slot) ∧
    (∀ y ∈ ((wg []).core 0).trapQ, y.slot ≠ 0) ∧ (ctx 0 0).wait = .none ∧ (trec 0 1).slot ≠ served.me.slot := by
  and_intros <;> first | decide +kernel | rfl | exact Or.inl rfl

/-- A request of service `n` with first argument `a` in the ring of partition 0, whose context waits for the answer. -/
def asked (n : Nat) (a : Word) (xlen : Nat) : State :=
  { (wg []).modMe (fun c => { c with wait := .syscReply }) with
    parts := [(0, { PartSt.reset with sys := [{ svc := n, args := [a], cid := 1, tenid := 1, ctxtag := 1, npc := 2, xtab := 0, xlen := xlen }] })] }

/-- A ring with room and without, a call that has waited 1 ms, and a request of each service at the bounds of its argument. -/
theorem witness_SystemCalls :
    let r (n : Nat) := { (wg [(4, 1)]) with parts := [(0, { PartSt.reset with sysLsize := n })] }
    let b := { (wg [(4, 1)]).modMe (fun c => { c with wait := .syscRoom 0 [] }) with clk := 1000000 }
    (wg []).namesOk [4] ∧ readG 4 (r 4) = .ok (1, r 4) ∧ fld 1 63 16 = 0 ∧ readArgs 1 6 (r 4) = .ok ([0, 0, 0, 1, 0, 0], r 4) ∧ (r 4).me.ld = 0 ∧
    (r 4).me.st = 0 ∧ ((r 4).partn 0).sysRoom = true ∧ ((r 0).partn 0).sysRoom = false ∧ (r 0).me.wait = .none ∧
    readG 4 b = .ok (1, b) ∧ readArgs 1 6 b = .ok ([0, 0, 0, 1, 0, 0], b) ∧
    (b.partn 0).sysRoom = false ∧ b.me.wait = .syscRoom 0 [] ∧ 0 + 1000000 ≤ b.clk ∧ b.me.gPend.getLsbD 1 = false ∧ b.me.gPend.getLsbD 2 = false ∧
    b.inv = true ∧ b.byCid 1 = some b.me ∧ (asked 1 0 0).byCid 1 = some (asked 1 0 0).me ∧ (asked 1 0 0).me.wait = .syscReply ∧
    (asked 1 0 0).pivotFree = true ∧ ((asked 1 0 0).partn 0).sys ≠ [] ∧
    2048 ≤ (2048#64).toNat ∧ (2047#64).toNat < 2048 ∧ 1024 ≤ (1024#64).toNat ∧ (32#64).toNat / 32 ≠ 0 ∧ (31#64).toNat < 1024 ∧ (31#64).toNat / 32 = 0 ∧
    (4 : Nat) < 5 := by
  and_intros <;> first | decide +kernel | rfl | exact Or.inl rfl

/-- EXTQ of an index outside its table, of an entry that is no extent, and of one that names main memory of a channel which the partition
owns or does not. -/
theorem witness_SystemCalls_extq :
    1 ≤ (1#64).toNat ∧ (0#64).toNat < 1 ∧ extentOf [0, 0, 0, 0] = none ∧ (extentOf [64, 128, 0x80000001, 0]).isSome = true ∧
    (extentOf [64, 128, 0x80000001, 0]).any (fun e => e.node == 0 && regionOf .x4 e.base == .main) = true ∧
    (wg []).refused46 0 64 = true ∧ (own (wg [])).refused46 0 64 = false := by decide +kernel

/-! ## Witnesses: contexts, control registers, the front end, arrivals and owner state -/

/-- The machine with g4 = 4096 and g3 = `k`, whose bytes 4096 to 8191 stand under key slot 0 and hold these values; slot 1 of core 0 is taken
where `two` is set. -/
def area (k : Word) (two : Bool) (m : List Host.Cell) : State :=
  { (wg [(4, 4096), (3, k)]) with
    mem := m, keys := (List.range 256).map (fun i => (256 + i, 0)),
    slots := if two then [(slotKey 0 1, { ctx 0 1 with cid := 2 })] else [] }

/-- CTXS of slot 1 and CTXL into it; both are read from g4 and g3. -/
theorem witness_ContextInstructionsComplete :
    let s := area 1 true []
    let l := area 1 false [(4096 + 0xA2F, 0x80)]
    s.namesOk [3, 4] ∧ readG 4 s = .ok (4096, s) ∧ readG 3 s = .ok (1, s) ∧ s.at? s.me.core 1 = some { ctx 0 1 with cid := 2 } ∧
    regionOf s.part 4096 = .main ∧ s.sealedAt 4096 areaBytes = false ∧
    s.savedForm { ctx 0 1 with cid := 2 } = some ({ ctx 0 1 with cid := 2 }, { ctx 0 1 with cid := 2 }) ∧ ((own s).linesGate 4096 24).1 = true ∧
    (s.spillWords { ctx 0 1 with cid := 2 } 0).isSome = true ∧
    readG 4 l = .ok (4096, l) ∧ readG 3 l = .ok (1, l) ∧ fld 1 3 0 = 1 ∧ l.at? l.me.core 1 = none ∧ (l.rdWord 0 (4096 + 0xA28)).getLsbD 63 = true ∧
    l.areaSpoilt 4096 = false ∧ l.areaCounts 4096 = 0 ∧ l.saved.find? 4096 = none := by
  and_intros <;> first | decide +kernel | rfl | exact Or.inl rfl

/-- The four forms of SLOTX: the words of its pair at 4096 are zero; the second is 4224; the first is 4224; both are set. -/
theorem witness_ContextInstructionsComplete_slotx :
    let z := area 1 false []
    let l := area 1 false [(4104, 0x80), (4105, 0x10), (4224 + 0xA2F, 0x80)]
    let o := area 1 true [(4096, 0x80), (4097, 0x10)]
    let b := area 1 true [(4096, 0x80), (4097, 0x10), (4104, 0x80), (4105, 0x10)]
    (z.rdWord 0 4096).toNat % 2 ^ 56 = 0 ∧ (z.rdWord 0 4104).toNat % 2 ^ 56 = 0 ∧ z.at? z.me.core 1 = none ∧
    z.anyPoison (linesOf (4096 / 128 * 128) (4096 % 128) 16) = false ∧ (l.rdWord 0 4096).toNat % 2 ^ 56 = 0 ∧
    (l.rdWord 0 4104).toNat % 2 ^ 56 = 4224 ∧ regionOf l.part 4224 = .main ∧ (l.rdWord 0 (4224 + 0xA28)).getLsbD 63 = true ∧
    l.areaSpoilt 4224 = false ∧ l.areaCounts 4224 = 0 ∧ (o.rdWord 0 4096).toNat % 2 ^ 56 = 4224 ∧ (o.rdWord 0 4104).toNat % 2 ^ 56 = 0 ∧
    (o.at? o.me.core 1).isSome = true ∧ o.sealedAt 4224 areaBytes = false ∧ ((own o).linesGate 4224 24).1 = true ∧
    (o.spillWords { ctx 0 1 with cid := 2 } 0).isSome = true ∧ (b.rdWord 0 4096).toNat % 2 ^ 56 = 4224 ∧
    (b.rdWord 0 4104).toNat % 2 ^ 56 = 4224 ∧ fld 1 63 4 = 0 := by
  and_intros <;> decide +kernel

/-- An empty queue that QDRAIN drains, and a slot whose windows AUDW loads. -/
theorem witness_ContextInstructionsComplete_queue :
    let s := area 0 false []
    s.anyPoison (linesOf (4096 / 128 * 128) (4096 % 128) 128) = false ∧ readyG 3 s = .ok ((), s) ∧ State.drainQueue 4096 (s.spillLen 4096) s = (s, 0) ∧
    s.spillLen 4096 = 0 ∧ s.me.wait = .none ∧ (∃ t, writeG 3 0 ((s.undivert 0 4096).modMe (fun c => { c with wait := .none })) = .ok ((), t)) ∧
    s.part.isPivot s.me.core = false ∧ readG 3 s = .ok (0, s) ∧ s.at? s.me.core (fld 0 3 0) = some s.me ∧
    s.anyPoison (linesOf (4096 / 128 * 128) (4096 % 128) 64) = false := by
  and_intros <;> first | decide +kernel | rfl | exact Or.inl rfl | exact ⟨_, rfl⟩

theorem witness_ControlRegisterInstructions :
    (wg []).namesOk [3] ∧ readG 3 (wg [(3, 5)]) = .ok (5, wg [(3, 5)]) ∧ (wg []).part.isBarrel (wg []).me.core = true ∧
    (onCore 4096 (wg [])).part.isBarrel (onCore 4096 (wg [])).me.core = false ∧ (wg []).me.slot ≠ 15 ∧
    (supervisor [trec 0 1]).me.slot = 15 ∧ ((supervisor [trec 0 1]).core 0).preempt = none ∧ ((supervisor [trec 0 1]).core 0).spill = none ∧
    ((supervisor [trec 0 1]).core 0).trapQ.head? = some (trec 0 1) ∧ 0x010 ≤ (0x014#12).toNat ∧ 0x031 ≤ (0x031#12).toNat ∧
    (0x009#12) ∉ [0x005#12, 0x008#12, 0x00B#12, 0x00C#12, 0x00D#12, 0x030#12] ∧ 3 ≤ fld 3 3 0 ∧ fld 2 3 0 = 2 ∧ fld 2 23 16 < (wg []).part.links ∧
    fld 0 3 0 = 0 ∧ fld 0x100000001 3 0 = 1 ∧ fld 0x100000001 47 32 ≠ 0 ∧ (wg []).part.links ≤ fld 0xFF0000 23 16 := by
  and_intros <;> first | decide +kernel | rfl | exact Or.inl rfl

/-- Stream 0 of squad 0 with these fields, and the context attached to it or detached. -/
def streaming (f : FeStream) (att : Bool) (s : State) : State :=
  { s.modMe (fun c => { c with gang := 1, att := att }) with squads := [(0, { SquadSt.reset with fe := [(0, f)] })] }

/-- A stream that decodes, is held, and is full; the private path free and busy; a drift stall of 1,024 cycles with an idle member 32 records
behind its leader; a JOIN at its limit. -/
theorem witness_FrontEndSteps :
    let r := streaming { FeStream.reset with st := .run } true (wg [])
    let h := streaming { FeStream.reset with st := .run, held := true } true (wg [])
    let f := streaming { FeStream.reset with st := .run, decoded := 32 } true (wg [])
    let p := { (wg []) with squads := [(0, { SquadSt.reset with pfFree := 4 })] }
    let d (t : Nat) := { (streaming { FeStream.reset with st := .run, decoded := 32, stallSince := some t } true (wg [])) with cyc := 1024 }
    let b := { (d 0).modMe Ctx.bubble with slots := [(slotKey 1 0, { ctx 1 0 with cid := 2, gang := 1, att := true, consumed := 32 })] }
    let j (t : Nat) := { (streaming { FeStream.reset with st := .run } false (wg [])).modMe (fun c => { c with wait := .joinWait 8 t }) with cyc := 65536 }
    (r.stream 0 0).st = .run ∧ r.attached 0 0 = r.me :: [] ∧ (r.stream 0 0).held = false ∧ r.buffered 0 0 < 32 ∧ (h.stream 0 0).held = true ∧
    32 ≤ f.buffered 0 0 ∧ (wg []).privateNext 0 = some (wg []).me ∧ ((wg []).squad 0).pfFree ≤ (wg []).cyc ∧ (wg []).me.live = true ∧
    p.privateNext 0 = some p.me ∧ p.cyc < (p.squad 0).pfFree ∧ (r.stream 0 0).stallSince = none ∧ ((d 0).stream 0 0).stallSince = some 0 ∧
    0 + 1024 ≤ (d 0).cyc ∧ ((d 1).stream 0 0).stallSince = some 1 ∧ (d 1).cyc < 1 + 1024 ∧ b.me ∈ b.attached 0 0 ∧ b.at? 0 0 = some b.me ∧
    b.lag b.me = 32 ∧ (b.me.bubbled || b.me.asleep || b.trapped b.me) = true ∧ (j 0).at? 0 0 = some (j 0).me ∧
    (j 0).me.wait = .joinWait 8 0 ∧ 0 + 65536 ≤ (j 0).cyc ∧ ((j 0).stream 0 0).st = .run ∧ (j 1).me.wait = .joinWait 8 1 ∧ (j 1).cyc < 1 + 65536 := by
  decide +kernel

/-- A ring of one entry at address 64 with a task, for which the context waits; and a core that holds its retention. -/
def tasked : State :=
  { (wg []).modMe (fun c => { c with wait := .serve 0 0 [] }) with
    squads := [(0, { SquadSt.reset with rings := [(0, { TaskRing.reset with srcfg := 0x0001000000000001, tail := 1, waiters := [1] })] })] }

theorem witness_FrontEndSteps_serve :
    ((wg []).ring 0 0).tenant.toNat ≠ 1 ∧ (tasked.ring 0 0).tenant.toNat = 1 ∧ (tasked.ring 0 0).waiters = 1 :: [] ∧
    (tasked.ring 0 0).head ≠ (tasked.ring 0 0).tail ∧ tasked.byCid 1 = some tasked.me ∧ tasked.me.cid = 1 ∧ tasked.me.wait = .serve 0 0 [] ∧
    fld (tasked.ring 0 0).srcfg 33 0 * 64 + (tasked.ring 0 0).head.toNat % 2 ^ fld (tasked.ring 0 0).srcfg 43 40 * 64 = 64 ∧
    (own tasked).refused46 tasked.me.ptag 64 = false ∧ tasked.isPoison 64 = false ∧ ((wg []).core 0).retain = none ∧
    (((wg []).modCore 0 (fun k => { k with retain := some 1 })).core 0).retain ≠ none ∧ (tasked.ring 0 0).tenant.toNat ≠ 0 := by decide +kernel

/-- The message of a thread of cid 2 from core 1 to slot 1 of core 0. -/
def tmsg : ThreadMsg :=
  { ctx := { ctx 1 1 with cid := 2, anchorMode := .away, anchorCore := 1, anchorSlot := 1 }, core := 0, slot := some 1, fromCore := 1, fromSlot := 1,
    dest := 0, parent := none, back := false, code := 1, pc := 0, rejected := false, pops := [] }

/-- A pre-emption message answered in time and not; a thread that is let in and one that is refused; back-pressure of 8,191 and of 8,192 cycles. -/
theorem witness_PreemptionAndArrival :
    let s := { (wg []) with threads := [tmsg], parts := [(0, { PartSt.reset with pstate := .active })] }
    let x := { (wg []) with threads := [{ tmsg with ctx := { tmsg.ctx with ptag := 1 } }] }
    let b (t : Nat) := { ((wg []).modCore 0 (fun k => { k with spqa := 4096, pressed := some 0 })) with cyc := t }
    let p (t : Nat) (f : Bool) := (({ (wg []) with clk := 100000, empties := if f then [] else [15] } : State).modCore 0 (fun k => { k with
      preemptAt := some (t, 15, false), supFault := some 0 }))
    s.part.hasCore 0 = true ∧ s.preemptDone 0 = true ∧ regionOf s.part 128 = .main ∧ s.noSnap = true ∧
    ((p 0 true).core 0).preemptAt = some (0, 15, false) ∧ (p 0 true).isFull 15 = true ∧ ((p 1 false).core 0).preemptAt = some (1, 15, false) ∧
    (p 1 false).clk < 1 + 100000 ∧ ((p 0 false).core 0).preemptAt = some (0, 15, false) ∧ 0 + 100000 ≤ (p 0 false).clk ∧
    (p 0 false).isFull 15 = false ∧ ((p 0 false).core 0).supFault = some 0 ∧ (p 0 false).clk < 0 + 1000000 ∧
    List.find? (fun (q : ThreadMsg) => q.core == 0 && !q.rejected) s.threads = some tmsg ∧ s.threads.filter (fun q => q != tmsg) = [] ∧
    s.ingress 0 tmsg.ctx.ptag = true ∧ s.homeRoom tmsg = true ∧ (s.core 0).diverted = false ∧ tmsg.parent = none ∧
    tmsg.ctx.anchorMode = .away ∧ tmsg.ctx.anchorCore ≠ 0 ∧ ({ s with threads := [] } : State).slotFree 0 1 = true ∧ s.me.slot ≠ 1 ∧
    tmsg.ctx.live = true ∧
    List.find? (fun (q : ThreadMsg) => q.core == 0 && !q.rejected) x.threads = some { tmsg with ctx := { tmsg.ctx with ptag := 1 } } ∧
    x.ingress 0 1 = false ∧ ((wg []).core 0).pressed = none ∧ ((b 8191).core 0).pressed = some 0 ∧ (b 8191).cyc < 0 + 8192 ∧
    0 + 8192 ≤ (b 8192).cyc ∧ ((b 8192).core 0).diverted = false ∧ ((b 8192).core 0).spqa.toNat % 2 ^ 56 ≠ 0 := by decide +kernel

/-- AOWN of tag 1; ASPILL of a tile register and AFILL of the factors at 4096. -/
theorem witness_OwnerStateInstructions :
    let s := own (area 0 false [])
    s.part.isBarrel s.me.core = true ∧ s.namesOk [4] ∧ (1#64) &&& ~~~0x10FFFF#64 = 0 ∧ (s.core s.me.core).mq = [] ∧
    (1#64).extractLsb' 0 16 ≠ (s.core 0).ownTag ∧ (0x100000#64).getLsbD 20 = true ∧ (0x100000#64).extractLsb' 0 16 = (s.core 0).ownTag ∧
    readG 4 s = .ok (4096, s) ∧ s.sealedAt 4096 4096 = false ∧ (s.linesGate 4096 32).1 = true ∧ (s.linesGate 4096 32).2.memOk = true ∧
    s.noSnap = true ∧ ((s.core 0).mx.poisonOf 4) = [] ∧ ((s.core 0).mx.fill 12 (s.rdMain 0 4096 16)).isSome = true ∧
    s.anyPoison (linesOf (4096 / 128 * 128) (4096 % 128) 16) = false := by
  and_intros <;> first | decide +kernel | rfl | exact Or.inl rfl

/-! ## Witnesses: the matrix unit, the engines and the fabric -/

/-- The vault window of squad 0, which is local to its cores. -/
def vault0 : Word := 0x01000000000000

/-- Core 0 as changed. -/
def onCore0 (f : CoreSt → CoreSt) (s : State) : State := { s with cores := [(0, f CoreSt.reset)] }

/-- A command of cid 1, and a core whose queue holds it. -/
def mcmd (op : MOp) : MCmd :=
  { op := op, cid := 1, tenid := 1, ptag := 0, pc := 0, issued := 0, sb := none, counted := false, tab := ([], 0), holds := [] }
def queued (op : MOp) (run : Bool) : State := onCore0 (fun k => { k with mq := [mcmd op], mrun := run }) (wg [])

/-- Each register operand, an address at the least alignment, the shortest and the longest stream of MLDC, and another owner. -/
theorem witness_MatrixInstructionsIssue :
    let w := wg [(4, 0)]
    let a := wg [(4, vault0), (5, 128)]
    let o := onCore0 (fun k => { k with aown := 0x100000 }) (wg [])
    w.atAnchor ∧ readG 4 w = .ok (0, w) ∧ w.matrixRoom false ∧ mcfgLegal 0 = true ∧ fld 0 63 32 = 0 ∧ fcLegal 0 = true ∧
    a.atAnchor ∧ readG 4 a = .ok (vault0, a) ∧ readG 5 a = .ok (128, a) ∧ fld 128 63 20 = 0 ∧ vault0.toNat % 2 ^ 56 % 16 = 0 ∧
    a.isLocal (a.me.core / 8) (vault0.toNat % 2 ^ 56) = true ∧ a.matrixRoom true ∧ (128#64).toNat % 16 = 0 ∧ (2560#64).toNat ≤ 5120 ∧
    2560 < (5120#64).toNat ∧ (2#3).getLsbD 0 = false ∧ w.me.gPend.getLsbD 3 = false ∧ w.me.vPend.getLsbD 3 = false ∧
    readV 3 w = .ok (0, w) ∧ (o.core 0).ownValid = true ∧ (o.core 0).ownTag ≠ o.me.ctxtag ∧
    16 ≤ ((onCore0 (fun k => { k with mq := List.replicate 16 (mcmd (.mzero 0)) }) (wg [])).core 0).mq.length := by
  and_intros <;> first | decide +kernel | rfl


/-- An LG9-C2 in cycle `t` whose squad 0 has `mgate` = `n`, with its sub-arrays gated, or waking. -/
def gating (c w : Bool) (n t : Nat) : State :=
  let q := { SquadSt.reset with mgate := BitVec.ofNat 64 n, mIdle := 0, gated := c, waking := w }
  { State.reset with cyc := t, part := .c2, squads := [(0, q)] }

/-- Registers 0 and 1 hold 32 rows of 32 BF16 elements. -/
def dense : MxState :=
  let c : MCfg := { pair := false, enc := false, scl := false, ew := 2, cols := 32, rows := 32 }
  (MxState.zero.modReg 0 (fun t => { t with cfg := c })).modReg 1 (fun t => { t with cfg := c })

theorem witness_MatrixUnitSteps :
    let g := gating
    (((queued (.mzero 0) false).countDeferred 0).pickHead 0).1.isSome = true ∧ (((queued (.mzero 0) false).squad 0)).gated = false ∧
    ((queued (.mma 0 0 1) true).core 0).mrun = true ∧ (queued (.mma 0 0 1) true).matrixSpoilt 0 (mcmd (.mma 0 0 1)) = false ∧
    (queued (.mma 0 0 1) true).saved = [] ∧ (dense.mma true 0 0 1).toOption.isSome = true ∧ (dense.mma false 0 0 1).toOption.isSome = true ∧ ((queued (.mzero 0) false).core 0).mrun = false ∧
    (g false false 2048 2048).part = .c2 ∧ fld ((g false false 2048 2048).squad 0).mgate 15 0 ≠ 0 ∧ (g false false 2048 2048).queuesEmpty 0 = true ∧
    ((g false false 2048 2048).squad 0).mIdle + fld ((g false false 2048 2048).squad 0).mgate 15 0 ≤ (g false false 2048 2048).cyc ∧
    (g false false 2048 2047).cyc < ((g false false 2048 2047).squad 0).mIdle + fld ((g false false 2048 2047).squad 0).mgate 15 0 ∧
    fld ((g false false 0 2048).squad 0).mgate 15 0 = 0 ∧ (queued (.mzero 0) false).queuesEmpty 0 = false ∧
    ((g true true 2048 96).squad 0).gated = true ∧ ((g true true 2048 96).squad 0).waking = true ∧
    ((g true true 2048 96).squad 0).mIdle + 96 ≤ (g true true 2048 96).cyc ∧ ((g true false 2048 96).squad 0).waking = false ∧
    (g true true 2048 95).cyc < ((g true true 2048 95).squad 0).mIdle + 96 ∧ (wg []).clk / 10000 ≤ ((wg []).squad 0).mperiod ∧
    ((wg []).squad 0).mperiod < ({ (wg []) with clk := 10000 } : State).clk / 10000 ∧ (mcmd (.mma 0 0 1)).holds = [] ∧
    (queued (.mzero 0) true).matrixSpoilt 0 (mcmd (.mzero 0)) = false ∧ (queued (.mfmt 0) true).matrixSpoilt 0 (mcmd (.mfmt 0)) = false ∧
    ((queued (.mzero 0) false).core 0).mq = mcmd (.mzero 0) :: [] := by decide +kernel

/-- Descriptors in g8 and the registers after it: without a completion address, and with one in main memory; the operation of each form. -/
theorem witness_EngineCommandsIssue :
    let s := wg [(8, 0)]
    let c := own (wg [(8, 64)])
    s.part = .x4 ∧ ({ s with part := .c2 } : State).part = .c2 ∧ s.atAnchor ∧ readDesc 8 0 EngOp.cpyc.count s = .ok ([0, 0, 0, 0], s) ∧
    s.sbUsed (s.me.core / 8) < 64 ∧ s.me.cp < 63 ∧ s.me.gPend.getLsbD 3 = false ∧ readDesc 8 0 EngOp.cpyc.count c = .ok ([64, 0, 0, 0], c) ∧
    regionOf c.part 64 = .main ∧ c.refused46 c.me.ptag 64 = false ∧ c.me.allows 64 16 rightsSt = true ∧ c.me.st < 63 := by
  and_intros <;> first | decide +kernel | rfl

/-- Command 5 of squad 0. -/
def ecmd (op : EngOp) (desc : List Word) (st : EngSt) : Cmd :=
  { Cmd.blank with id := 5, op := op, desc := desc, cseq := 1, cid := 1, tenid := 1, ctxtag := 1, d := 3, st := st }
def commanded (c : Cmd) (s : State) : State := { s with squads := [(0, { SquadSt.reset with cmds := [c] })] }

/-- CPYC of the greatest length and of a greater one, a copy from poisoned local memory, a command that completes, and an extent entry
that no command uses. -/
theorem witness_EngineAndExtentSteps :
    let q (w : List Word) (st : EngSt) := commanded (ecmd .cpyc w st) (wg [])
    let l : List Word := [0, 0, 0, 0x4000001]
    (q l .accepted).cmd? 5 = some (ecmd .cpyc l .accepted) ∧ (q l .accepted).blocked 0 5 = false ∧ 2 ^ 26 < (ecmd .cpyc l .accepted).w 3 ∧
    (ecmd .cpyc [0, vault0, vault0, 64] .accepted).w 3 ≤ 2 ^ 26 ∧
    (q [0, vault0, vault0, 64] .accepted).localFail (ecmd .cpyc [0, vault0, vault0, 64] .accepted) = none ∧
    (ecmd .coll [] .accepted).op = .coll ∧ (EngOp.cpyc).engine ≠ 2 ∧ (∀ wr, EngOp.cpyc ≠ .matrix wr) ∧
    (q [] .running).localReady (ecmd .cpyc [] .running) = (true, q [] .running) ∧ (ecmd .cpyc [] .running).ext = none ∧
    (q [] .completing).femarkDone (ecmd .cpyc [] .completing) = true ∧ (ecmd .cpyc [] .completing).ca = 0 ∧
    (ecmd .cpyc [] .completing).orphan = false ∧ (ecmd .cpyc [] .completing).status = 0 ∧ (ecmd .cpyc [] .completing).holds = [] ∧
    (q [] .completing).byCid 1 = some (q [] .completing).me ∧ (ecmd .cpyc [] .completing).xent ≠ some 0 ∧ (q [] .running).compacts = [] := by
  and_intros <;> first | decide +kernel

/-- A copy of 64 bytes within a vault: its accesses are all performed; one of them fails, as its first line is poisoned; and those of a copy
from main memory, of an extent at 0, wait while the page of the line is copied for a snapshot. -/
theorem witness_EngineAndExtentSteps_transfer :
    let c := ecmd .cpyc [0, vault0 + 256, vault0, 64] .running
    let g := { (ecmd (.cpy true false) [0, vault0, 0, 0, 64] .running) with ext := some { base := 0, len := 4096, gen := 0, rights := 7, key := 0, node := 0 } }
    let s := commanded c (wg [])
    let p := { s with poison := [vault0.toNat / 16] }
    let w := { (commanded g (wg [])) with chans := [(0, { ChanSt.reset with own := true, copying := some 0 })] }
    s.localReady c = (true, s) ∧
    (match runData 5 none c.steps s with | .all t => t.cmd? 5 != none | _ => false) = true ∧
    (match runData 5 none c.steps p with | .fail t _ _ _ => t.cmd? 5 != none | _ => false) = true ∧
    (match runData 5 none g.steps w with | .wait _ => true | _ => false) = true := by decide +kernel

/-- A packet from device 2 to this device, number 1, in partition 0. -/
def pkt (kind gen : Nat) : Packet :=
  { via := 0, src := 2, dst := 1, kind := kind, part := 0, pseq := 7, group := 3, gen := BitVec.ofNat 16 gen, key := 1, addr := 64, rank := 1, operand := 0,
    params := 0, data := [1, 2, 3, 4] }
def fabric (g : Group) (s : State) : State :=
  { s with fab := { Fabric.reset with node := 1, lpmap := [(64, 128)], groups := [(3, g)] }, keySlots := [(1, 0)] }
/-- A group of three devices that forms in generation 2. -/
def forming : Group := { Group.reset with gen := 2, st := .forming, members := 3, nodes := [1, 2, 3], begun := true, joined := [0], cmd := some 5 }

theorem witness_CollectivePackets :
    let s := fabric forming (wg [])
    let r : CollRun := { id := 5, idx := 0, step := 1, got := false, acked := false, owed := 0, t0 := 0, x := [], acc := [], res := [] }
    let w (k : CollRun) := { (fabric { forming with st := .formed, colls := [k] } (commanded (ecmd .coll [0, 3] .running) (wg []))) with
      fab := { Fabric.reset with groups := [(3, { forming with st := .formed, colls := [k] })] } }
    (pkt 7 2).dst = s.fab.node ∧ s.fab.node ≠ 0 ∧ (pkt 7 2).kind ≤ 9 ∧ s.paired 2 0 = some 0 ∧ s.group 0 3 = forming ∧
    genBelow (pkt 7 1).gen forming.gen = true ∧ genBelow (pkt 7 2).gen forming.gen = false ∧ (pkt 7 2).gen = forming.gen ∧
    List.find? (fun j => forming.node j == 2) (List.range 3) = some 1 ∧ (pkt 7 2).operand = forming.lcrc ∧ s.clk < forming.t0 + forming.deadline ∧
    forming.joined.contains 2 = false ∧ forming.colls = [] ∧ forming.cmd = some 5 ∧
    forming.t0 + forming.deadline ≤ ({ s with clk := 2000000 } : State).clk ∧ (w r).cmd? 5 = some (ecmd .coll [0, 3] .running) ∧
    (ecmd .coll [0, 3] .running).w 1 % 256 = 3 ∧ ((w r).group 0 3).run? 5 = some r ∧ r.step ≠ 0 ∧ r.owed = 0 ∧ (r.got && r.acked) = false ∧
    r.t0 + ((w r).group 0 3).deadline ≤ ({ (w r) with clk := 2000000 } : State).clk ∧ ((w { r with step := 0 }).group 0 3).run? 5 = some { r with step := 0 } :=
  by decide +kernel

/-- Port 0 in a state. -/
def linked (st : LinkState) (s : State) : State := { s with fab := { Fabric.reset with links := [(0, { Link.reset with st := st })] } }

/-- A write, a read and an ATOMIC of device 2 at address 64 under its key slot, performed before and not; refused for another key slot.
Flits in order of each kind, one out of order and one whose CRC fails. -/
theorem witness_LinksAndPackets :
    let s := own (fabric forming (wg []))
    let f (n : BitVec 12) (k : BitVec 4) : Flit := withCrc { lseq := n, lkind := k, credit := 0, pay := ((packetFlits (pkt 1 0)).headD (1, [])).2, crc := 0 }
    let u := linked .up (wg [])
    let x (e : Extent) := { (linked .up (commanded { (ecmd (.cpy true false) [] .running) with ext := some e } (wg []))) with clk := 2000000 }
    let far : Extent := { base := 0, len := 4096, gen := 0, rights := 7, key := 1, node := 2 }
    0 < (wg []).part.links ∧ ((linked .training (wg [])).link 0).st = .training ∧ (u.link 0).st = .up ∧
    ((wg []).link 0).st = .down ∧ (wg []).fab.groups = [] ∧ flitOk (f 0 1) = true ∧ (f 0 1).lseq = (u.link 0).rx ∧ (f 0 1).lkind = 1 ∧
    (packetOf 0 [(f 0 1).pay]).isSome = true ∧ flitOk (f 0 2) = true ∧ (f 0 2).lkind = 2 ∧ flitOk (f 0 3) = true ∧ (f 0 3).lkind = 3 ∧
    flitOk { (f 0 1) with credit := 1 } = false ∧ (f 1 1).lseq ≠ (u.link 0).rx ∧
    (pkt 1 0).dst = s.fab.node ∧ s.paired 2 0 = some 0 ∧ s.seen (pkt 1 0) = false ∧ s.requestFails (some 0) (pkt 1 0) 4 true = none ∧
    ((s.takeUp (pkt 1 0)).farReady (remoteCmd 0) true (linesIn 64 4)).1 = true ∧ (s.takeUp (pkt 1 0)).behind (pkt 1 0) = false ∧
    (s.requestFails (some 0) { (pkt 1 0) with key := 2 } 4 true).isSome = true ∧
    ({ s with fab := { s.fab with pseqRx := [(2, 7)] } } : State).seen (pkt 1 0) = true ∧
    s.requestFails (some 0) (pkt 1 0) 1 false = none ∧ ((s.takeUp (pkt 1 0)).farReady (remoteCmd 0) false (linesIn 64 1)).1 = true ∧
    (s.requestFails (some 0) { (pkt 1 0) with key := 2 } 1 false).isSome = true ∧
    List.find? (fun (x : BitVec 32 × BitVec 32) => x.1 == 7)
      (({ s with fab := { s.fab with cache := [(2, [(7, 9)])] } } : State).replies 2) = some (7, 9) ∧
    (s.replies 2).length < 256 ∧ (64 : Nat) % 4 = 0 ∧ s.waiter (pkt 2 0) = none ∧
    ({ s with fab := { s.fab with unanswered := [{ (pkt 3 0) with dst := 2, pseq := 64 }] } } : State).fab.unanswered.any
      (fun x => x.dst == (pkt 4 0).src && x.pseq == BitVec.ofNat 32 (pkt 4 0).addr) = true ∧
    (x far).cmd? 5 = some { (ecmd (.cpy true false) [] .running) with ext := some far } ∧
    far.node ≠ 0 ∧ (ecmd (.cpy true false) [] .running).made = false ∧ (ecmd (.cpy true false) [] .running).pend = [] ∧
    (EngOp.cpy true false).writesFar = true ∧ 0 + (x far).fab.ldead * 1000 ≤ (x far).clk ∧
    (wg []).clk < 0 + (wg []).fab.ldead * 1000 ∧ (wg []).clk / 10000 ≤ (wg []).period ∧
    (wg []).period < ({ (wg []) with clk := 10000 } : State).clk / 10000 ∧ s.senders = [] ∧ (wg []).senders = [] ∧
    (wg []).slots = [] ∧ (wg []).me.live = true ∧ ((wg []).modMe (fun c => { c with rcb := 4096 })).me.rcb ≠ 0 := by
  decide +kernel

/-- The ATOMIC of a granule under key slot 1 is performed. -/
theorem witness_LinksAndPackets_atomic :
    let s := { (own (fabric forming (wg []))) with keys := (List.range 16).map (fun i => (i, 1)) }
    (s.remoteAdd (pkt 3 0)).2.isSome = true := by decide +kernel

/-! ## Witnesses: errors, interrupts, the host, queues, plays, seals, partitions and resets -/

/-- An interrupt entry 0 in this state with this `irte`. -/
def irqd (st : IrqSt) (v : Word) : State := { (wg []) with irqs := [(0, { irte := v, events := 0, st := st, t0 := 0 })], clk := 20000 }
/-- The semaphore held by an agent since time 0 for 10 s. -/
def sema (h : BitVec 2) (s : State) : State := { s with sema := { lease := 10000, holder := h, busy := true, rej := 0, t0 := 0 } }

theorem witness_ErrorsInterruptsAndSemaphore :
    (wg []).at? 0 0 = some (wg []).me ∧ (0 : Nat) < 55 ∧ ((wg []).irq 0).st = .idle ∧ ((irqd .idle 4).irq 0).irte.getLsbD 2 = true ∧
    ((irqd .idle 4).irq 0).irte.extractLsb' 0 2 = 0 ∧ ((irqd .idle 5).irq 0).irte.extractLsb' 0 2 = 1 ∧
    ((irqd .idle 6).irq 0).irte.extractLsb' 0 2 = 2 ∧ ((irqd .devWait 0).irq 0).st = .devWait ∧
    ((irqd .devWait 0).irq 0).t0 + 20000 ≤ (irqd .devWait 0).clk ∧ ({ (irqd .devWait 0) with clk := 19999 } : State).clk < ((irqd .devWait 0).irq 0).t0 + 20000 ∧ ((irqd .device 0).irq 0).st = .device ∧
    (wg []).sema.busy = false ∧ (1#2) ≠ 0 ∧ (sema 1 (wg [])).holds 1 = true ∧ (sema 1 (wg [])).sema.busy = true ∧ (wg []).holds 1 = false ∧
    (sema 1 (wg [])).sema.t0 + (sema 1 (wg [])).sema.lease * 1000000 ≤ ({ (sema 1 (wg [])) with clk := 10000000000 } : State).clk ∧
    (wg []).clk < (sema 1 (wg [])).sema.t0 + (sema 1 (wg [])).sema.lease * 1000000 := by decide +kernel

/-- Partition 0, ACTIVE with its function enabled and window 0 open over the first 4,096 bytes; its memory stands under key slot 0. -/
def windowed (s : State) : State :=
  { (own s) with
    parts := [(0, { PartSt.reset with pstate := .active, vf := true, wins := [(0, { w0 := 0, w1 := 0x8018000000001000, w2 := 0 })] })],
    keys := (List.range 256).map (fun i => (i, 0)), boot := { State.reset.boot with step := 5 } }
def interfaced (t : TdiSt) : State := { State.reset with parts := [(0, { PartSt.reset with tdi := t })] }

/-- A window that is open over its first 4,096 bytes, at its last byte and one beyond; an empty range and one of the partition's own. -/
theorem witness_HostPortsAndInterfaces :
    let s := windowed (wg [])
    let d := s.winAt 0 0 0
    let h := sema 3 s
    let c := (State.reset.winAt 0 0 0).w1
    (sema 1 (wg [])).holds 1 = true ∧ (wg []).holds 1 = false ∧ h.holds 3 = true ∧ (wg []).holds 3 = false ∧ h.locked 0 = false ∧
    fld 0 47 0 = 0 ∧ h.partHolds 0 (fld 0 55 0) (fld 0x80000000 47 0) = true ∧ (interfaced .locked).locked 0 = true ∧ 5 ≤ s.boot.step ∧
    (s.partn 0).vf = true ∧ s.dieOf (s.chanOf ((fld d.w2 55 0 + 4095 % 2 ^ 40) % 2 ^ 56)) = 0 ∧ (4095 : Nat) / 2 ^ 40 = 0 ∧
    (s.partn 0).wins.getD HostWin.reset 0 = d ∧
    d.w1.getLsbD 63 = true ∧ 4095 % 2 ^ 40 < fld d.w1 47 0 ∧ d.w1.getLsbD 51 = true ∧ d.w1.getLsbD 52 = true ∧
    s.classAFails 0 ((fld d.w2 55 0 + 4095 % 2 ^ 40) % 2 ^ 56) 1 false = false ∧ s.classAFails 0 ((fld d.w2 55 0 + 4095 % 2 ^ 40) % 2 ^ 56) 1 true = false ∧
    s.memOk = true ∧ s.noSnap = true ∧ s.cores = [] ∧ fld d.w1 47 0 ≤ 4096 % 2 ^ 40 ∧ c.getLsbD 63 = false ∧ c.getLsbD 51 = false ∧
    c.getLsbD 52 = false ∧ ((interfaced .unlocked).partn 0).tdi = .unlocked ∧ ((interfaced .locked).partn 0).tdi = .locked ∧
    ((interfaced .run).partn 0).tdi ≠ .unlocked ∧ ((interfaced .run).partn 0).tdi ≠ .locked := by decide +kernel

/-- No line holds a spill control block while no core and no partition has one. -/
theorem witness_HostPortsAndInterfaces_spill :
    ∀ l, ({ (windowed (wg [])) with parts := [] } : State).spillBlockAt l = false := by
  intro l
  simp [State.spillBlockAt, windowed, own, wg, State.reset]

/-- A queue control block with an 16-entry ring at 2,048, and a queue in partition 0 with this working copy. -/
def block0 : Qcb :=
  { rbase := 2048, cbase := 3072, lsize := 4, prio := 0, st := .active, npe := false, pend := false, hslot := 0, mapped := true, tenant := 0, irq := 0,
    inot := false, rcb := 0, tail := 1, accept := 0, retire := 0, chead := 0, nseq := 0, since := 0, npeend := 0, erec := 0, mappedAt := 0, cmds := [] }
def queue (x : Qcb) (s : State) : State :=
  let w := windowed s
  { w with
    mem := [(1040, 4)],
    parts := [(0, { PartSt.reset with pstate := .active, vf := true, qtab := [(0, 0x8000000000000400)], qs := [(0, x)] })] }
def qcmd (op : Nat) : QCmd := { op := op, seq := 0, arg := 64, done := false, dup := false, status := 0, inst := 0 }

theorem witness_UserQueues :
    let q (x : Qcb) := queue x (wg [])
    let c (l : List QCmd) : Qcb := { block0 with accept := 1, nseq := 1, cmds := l }
    let l := tile .leaving 0 (wg [])
    let n := { (q block0) with mem := [(1040, 4), (2056, 1)] }
    block0.mapped = true ∧ (((q block0).putQ 0 0 block0).writeBlock 0 1024 block0).isSome = true ∧ (q block0).qcbAt 0 0 = some 1024 ∧
    (interfaced .locked).locked 0 = true ∧ (wg []).locked 0 = false ∧ (wg []).readQ 0 0 = none ∧ ((wg []).partn 0).qs.find? 0 = none ∧
    (q block0).locked 0 = false ∧ (q block0).readQ 0 0 = some block0 ∧
    (q block0).loadQ 0 0 = some block0 ∧ (q { block0 with accept := 1 }).loadQ 0 0 = some { block0 with accept := 1 } ∧
    5 ≤ (q block0).boot.step ∧ ((q block0).partn 0).vf = true ∧ (q { block0 with st := .error }).loadQ 0 0 = some { block0 with st := .error } ∧
    ((16 : BitVec 32) - block0.accept).toNat + (block0.accept - block0.retire).toNat ≤ 2 ^ block0.lsize ∧
    2 ^ block0.lsize < ((17 : BitVec 32) - block0.accept).toNat + (block0.accept - block0.retire).toNat ∧
    ((q block0).partn 0).pstate = .active ∧ block0.st = .active ∧ block0.accept ≠ block0.tail ∧
    (block0.accept - block0.retire).toNat < 2 ^ block0.lsize ∧ (q block0).ringEntry 0 block0 block0.accept = some [0, 0, 0, 0, 0, 0, 0, 0] ∧
    badEntry [0, 0, 0, 0, 0, 0, 0, 0] = false ∧ (0 : Word).toNat < ({ block0 with nseq := 1 } : Qcb).nseq.toNat ∧
    n.loadQ 0 0 = some block0 ∧ n.ringEntry 0 block0 block0.accept = some [0, 1, 0, 0, 0, 0, 0, 0] ∧ block0.nseq.toNat < (1 : Word).toNat ∧
    (q (c [qcmd 0])).loadQ 0 0 = some (c [qcmd 0]) ∧ (c [qcmd 0]).waiting 0 = some (qcmd 0) ∧ (c [qcmd 1]).waiting 1 = some (qcmd 1) ∧
    (c [qcmd 2]).waiting 2 = some (qcmd 2) ∧ ({ block0 with npe := true } : Qcb).npeend ≤ (wg []).clk ∧ block0.npe = false ∧
    ((q (c [qcmd 3])).signalGranule 0 0 64).1 = true ∧ (((q (c [qcmd 3])).signalGranule 0 0 64).2.loadQ 0 0).isSome = true ∧
    (l.signalGranule 0 1 0x02000000000000).1 = false ∧ block0.inot = false ∧
    ((c [{ (qcmd 0) with done := true }]).retire - block0.chead).toNat ≠ 2 ^ 4 ∧
    ((q block0).fwWrite 0 ((q block0).rcbEff 0).key 3072 [0, 64, 0, 0]).isSome = true := by decide +kernel

/-- The bounds of a mapping: no queue is pending, one that ages, and one whose slice has elapsed; an unmapped queue, whose doorbell makes it pending. -/
theorem witness_UserQueues_mapping :
    let s := { (queue block0 (wg [])) with mem := [(1040, 4), (1041, 0x80)], parts := [(0, { PartSt.reset with qtab := [(0, 0x8000000000000400)] })] }
    let u := { s with mem := [(1040, 4)] }
    (wg []).firstPending 0 = none ∧ (s.loadQ 0 0).any (fun x => x.pend && !x.mapped && decide (x.since + 0 ≤ s.clk)) = true ∧
    (u.loadQ 0 0).any (fun x => !x.mapped && x.st != .error && x.accept == x.retire && x.accept != 1) = true ∧
    block0.mappedAt + ((queue block0 (wg [])).partn 0).slice ≤ ({ (queue block0 (wg [])) with clk := 2 ^ 64 } : State).clk := by decide +kernel

/-- A play instance with no wait, and with one for granule 64. -/
def inst1 : PlayInst :=
  { n := 1, acc := 1, relT := 0, part := 0, rcb := 0, t := 1000, period := 0, window := 1000, policy := 0, patience := 0, waits := [], lrec := 0, drec := 0, stages := [], k := 0,
    elig := none, late := false, released := false, dropped := false, alive := 0, drain := [], drainAt := none, byQueue := none, cells := [], left := 0,
    spawned := true, prio := 0 }
def kicked (i : PlayInst) (t : Nat) : State := { (wg []) with kick := { State.reset.kick with insts := [i] }, clk := t, empties := [4] }

theorem witness_KickoffSteps :
    (kicked inst1 999).inst? 1 = some inst1 ∧ (kicked inst1 999).clk < inst1.t ∧ inst1.t ≤ (kicked inst1 1000).clk ∧ inst1.elig = none ∧
    inst1.period = 0 ∧ inst1.waits.all (kicked inst1 1000).objectFull = true ∧
    ({ inst1 with waits := [64] } : PlayInst).waits.all (kicked inst1 1000).objectFull = false ∧
    (kicked inst1 2000).missed inst1 = false ∧ (kicked inst1 2001).missed inst1 = true ∧ inst1.dropped = false ∧ inst1.released = false ∧
    ({ inst1 with elig := some 0 } : PlayInst).waiting = true ∧ ({ inst1 with cells := [[(0, 1)]], left := 1 } : PlayInst).waiting = false ∧
    (([[(0, 1)]] : List (List (Nat × Nat))).getD (1 - 1) []).any (fun x => ((kicked inst1 0).at? x.1 x.2).isSome) = false ∧
    inst1.t + inst1.window ≤ (kicked inst1 2000).clk ∧ (kicked inst1 1999).clk < inst1.t + inst1.window ∧ inst1.policy = 0 ∧
    ((wg []).partn 0).pstate ≠ .active ∧ ((windowed State.reset).partn 0).pstate = .active ∧
    ((windowed State.reset).partn 0).slices < 2 ^ 64 / Nat.max ((windowed State.reset).partn 0).slice 1 ∧ (windowed State.reset).ctxs = [] ∧
    (windowed State.reset).kick.outs = [] ∧ (windowed State.reset).kick.insts = [] := by decide +kernel

/-- A gang stage of an image of one slot a core that waits in a partition of squad 0, long enough for its patience, and one that drains, before and after its launch window. -/
theorem witness_KickoffSteps_drain :
    let g : StageEnt := { image := 0, count := 8, gang := true, port := 0, allow := 0, wlim := 0, srcb := 0, arg := 0 }
    let i : PlayInst := { inst1 with elig := some 1000, patience := 1, stages := [g] }
    let p (i : PlayInst) (t : Nat) := { (kicked i t) with
      parts := [(0, { PartSt.reset with pstate := .active })], me := Ctx.fresh, keys := (List.range 512).map (fun i => (i, 0)), mem := [(24, 1)],
      sealU := { (SealUnit.reset 0) with tab := [(0, { SealEnt.reset with base := 0, len := 128, flen := 64, st := .live, tenant := 1 })] } }
    let d : PlayInst := { inst1 with elig := some 1000, drain := [0], drainAt := some 0, window := 1000000 }
    (p i 2000).impatient i = true ∧ (p i 1999).impatient i = false ∧ (∀ j ∈ (p i 2000).kick.insts, j.part = i.part → j.drain = []) ∧
    (p i 2000).drainSet i ≠ [] ∧
    ((p i 2000).waiters 0).findSome? (fun w => match w with | .inst j => if (p i 2000).impatient j then some j.n else none | .ctx _ _ _ => none) = some 1 ∧
    List.find? (fun (i : PlayInst) => i.part == 0 && !i.drain.isEmpty) (p d 0).kick.insts = some d ∧
    (p d 999999).clk < d.drainAt.getD 0 + 1000 * fld ((p d 0).partn 0).kcfg 47 32 ∧
    d.drainAt.getD 0 + 1000 * fld ((p d 0).partn 0).kcfg 47 32 ≤ (p d 1000000).clk ∧
    (p d 1000000).ctxs = [] ∧ (p d 1000000).saved = [] ∧ ((p d 1000000).fitIn true d.stages ((p d 1000000).freeCells 0 1)).isSome = true ∧
    d.waiting = true ∧ (p d 1000000).missed d = false ∧ (p d 1001001).missed d = true ∧ (p d 1000000).underCap 0 d.rcb d.need = true := by
  and_intros <;> first | decide +kernel

/-- A range of one line for tenant 1 with its table at 0, described at 256; entry 0 in a state; and an entry whose seal is not that of its range. -/
def described : State := { (windowed State.reset) with mem := [(257, 16), (264, 128), (272, 64), (280, 1)] }
def sealing (st : SealSt) : State :=
  { State.reset with
    keys := (List.range 512).map (fun i => (i, 0)),
    sealU := { (SealUnit.reset 0) with tab := [(0, { SealEnt.reset with base := 4096, len := 128, flen := 64, st := st, tenant := 1 })] } }

theorem witness_SealUnitSteps :
    let e := (described.sealDesc 256).getD SealEnt.reset
    described.sealU.busy = false ∧ (described.sealDesc 256).isSome = true ∧ described.sealDesc 8 = none ∧ (described.sealEnt 4095).st = .free ∧
    (sealing .live).sealEnt 0 ≠ SealEnt.reset ∧ described.sealU.isBarred e.tgen = false ∧
    ({ described with sealU := { described.sealU with barred := [0] } } : State).sealU.isBarred e.tgen = true ∧
    described.sealOverlap e = false ∧ (sealing .live).sealOverlap e = true ∧ described.sealHomes e = true ∧
    described.sealHomes { e with base := 0x01000000000000 } = false ∧ ((sealing .sealing).sealEnt 0).st = .sealing ∧ ((sealing .live).sealEnt 0).st = .live ∧
    ((sealing .revoking).sealEnt 0).st = .revoking ∧ ((sealing .revoked).sealEnt 0).st = .revoked ∧ ((sealing .live).sealEnt 0).st ≠ .sealing ∧
    described.sealU.isBarred 5 = false ∧ described.clk / 86400000000000 ≤ described.sealU.days ∧
    described.sealU.days < 86400000000000 / 86400000000000 ∧ (described.sealU.tab = []) ∧ described.noSnap = true ∧ described.compacts = [] ∧
    (sealing .sealing).reachOk ((sealing .sealing).sealEnt 0) = true ∧ ((sealing .sealing).sealEnt 0).sup = false := by decide +kernel

/-- A reach set of one entry, for which the tenant's table has no extent. -/
theorem witness_SealUnitSteps_reach :
    let s := { (sealing .sealing) with mem := [(4184, 8)] }
    (s.sealEnt 0).st = .sealing ∧ (s.sealEnt 0).sup = false ∧ s.reachOk (s.sealEnt 0) = false := by decide +kernel

/-- A LIVE entry that keeps another value than the seal of its range. -/
theorem witness_SealUnitSteps_recheck :
    ∃ e : SealEnt, e.st = .live ∧ (sealing .live).sealOf e ≠ e.digest := by
  refine ⟨{ SealEnt.reset with st := .live, digest := (sealing .live).sealOf SealEnt.reset + 1 }, rfl, ?_⟩
  change (sealing .live).sealOf SealEnt.reset ≠ (sealing .live).sealOf SealEnt.reset + 1
  intro h
  have h1 := congrArg (fun x => x - (sealing .live).sealOf SealEnt.reset) h
  simp at h1

/-- Partition states and the bounds of the ranges. Whether an image verifies rests on its signature, which no state decides (log 4): here
is an image that does not, for its size alone. A tree whose root is one node of zeros is none. -/
theorem witness_PartitionsResetsAndPower :
    let f := sema 3 State.reset
    let d := { State.reset with parts := [(0, { PartSt.reset with pstate := .draining })] }
    let r := { f with parts := [(0, { PartSt.reset with prcb := 4096 })], keys := (List.range 512).map (fun i => (i, 0)) }
    f.holds 3 = true ∧ (f.partn 0).pstate = .free ∧ rangeOk (fld 511 11 0) (fld 511 15 12) f.part.squads = true ∧
    f.claimedBy 0 PartSt.chanRange 511 512 = false ∧ f.rcbTreeOk 0 = true ∧ (r.partn 0).pstate = .free ∧ r.rcbTreeOk 0 = false ∧
    ((windowed State.reset).partn 0).pstate ≠ .free ∧
    ((windowed State.reset).partn 0).pstate = .active ∧
    ((windowed State.reset).partn 0).qtab = [] ∧ (windowed State.reset).ctxs = [] ∧ State.reset.holds 3 = false ∧ State.reset.holds 1 = false ∧
    (State.reset.partn 0).pstate ≠ .draining ∧ (d.partn 0).pstate = .draining ∧ (d.partLoaded 0).isEmpty = true ∧ d.queuesIdle 0 = true ∧
    d.squadsIdle 0 = true ∧ State.reset.l2 = [] ∧ State.reset.msc = [] ∧ State.reset.boot.recovery = false ∧ State.reset.boot.step = 0 ∧
    f.imageOk [] = false ∧ ({ State.reset with boot := { State.reset.boot with image := [0] } } : State).bootVerified = false ∧
    State.reset.part.watts < State.reset.part.watts + 1 ∧ ({ State.reset with servo := { State.reset.servo with run := true } } : State).servo.run = true ∧
    511 < State.reset.part.squads ∧ f.chanUsed 511 = false := by decide +kernel

/-! ## Witnesses: the whole machine -/

/-- The machine right after reset with the words of `crd g4, 0x020` where it fetches. -/
def fetching : State := State.reset.withFetchWord 16 0x9920

theorem witness_StepKeepsInv :
    State.reset.inv = true ∧ (∃ t, step State.reset = .next t) ∧ fetching.inv = true ∧ (∃ t, step fetching = .next t) :=
  ⟨by decide, ⟨_, rfl⟩, by decide +kernel, ⟨_, rfl⟩⟩

theorem witness_StepStopsOnlyWhenTripped :
    State.reset.boot.tripped = false ∧ ({ State.reset with agenda := [.powerOnReset] } : State).agenda ≠ [] ∧ State.reset.agenda = [] ∧
    ({ State.reset with boot := { State.reset.boot with tripped := true } } : State).boot.tripped = true := by decide

/-- A slot whose turn it is, with text of a LIVE entry at its pc; a detached slot whose front end has nothing for it, and one with an instruction in
hand; and a move on the agenda. -/
theorem witness_StepRunsDecoded :
    let d := (wg []).modMe (fun c => { c with att := false, inHand := none })
    let h := (wg []).modMe (fun c => { c with att := false, inHand := some 0 })
    fetching.agenda = [] ∧ fetching.boot.tripped = false ∧ fetching.me.live = true ∧ fetching.parked = false ∧
    (∃ t, fetching.feGate fetching.me = some t ∧ t.fetch t.me = .instr (.crd 4 0x020) 1) ∧
    (∃ e, fetching.fetchEnt fetching.me.tenid fetching.me.pc.toNat = some e ∧
      decodeWords (fetching.words fetching.me.pc.toNat 8 (e.base + e.flen - fetching.me.pc.toNat)) = .ok (.crd 4 0x020, 1)) ∧
    fetching.me.pc.getLsbD 0 = false ∧ d.agenda = [] ∧ d.boot.tripped = false ∧ d.me.live = true ∧ d.parked = false ∧ d.me.att = false ∧
    d.feGate d.me = none ∧ h.feGate h.me = some h ∧
    ({ State.reset with agenda := [.powerOnReset] } : State).agenda = .powerOnReset :: [] ∧ isMove .powerOnReset = true ∧
    ({ State.reset with agenda := [.halt] } : State).agenda = .halt :: [] ∧ isMove .halt = false := by
  and_intros <;> first | decide +kernel | rfl | exact ⟨_, rfl, rfl⟩

theorem witness_DecodeOfEncode : (Instr.add i345).wf = true ∧ encode (.add i345) = some [0xF405, 0x08D0] := by decide

/-- g4 is empty, g5 pending, g6 poisoned; `in0` and `out0` are unbound, `in1` and `out1` bound, the queues of `in2` and `bq` hold something. -/
theorem witness_RegisterAccess :
    let s := (wg []).modMe (fun c => { c with
      gFull := ~~~0x10#64, gPend := 0x20#64, gPoison := 0x40#64,
      streams := ((c.streams.set 1 { StreamSt.unbound with
        inn := { StreamSt.unbound.inn with bound := true }, out := { StreamSt.unbound.out with bound := true, wlim := 1, allow := 1 } }).set 2
        { StreamSt.unbound with
          inn := { StreamSt.unbound.inn with bound := true, msgs := [{ words := [7], core := 0, slot := 0, strm := 0 }] },
          out := { StreamSt.unbound.out with bound := true, wlim := 1 } }),
      bq := { c.bq with q := [true] } })
    isPort 4 = false ∧ alwaysFull 4 = false ∧ s.me.gFull.getLsbD 4 = false ∧ s.me.gFull.getLsbD 6 = true ∧ s.me.gPoison.getLsbD 6 = true ∧
    s.me.gPoison.getLsbD 4 = false ∧ alwaysFull 62 = true ∧ s.me.gPend.getLsbD 5 = true ∧ s.me.gPend.getLsbD 4 = false ∧ s.me.live = true ∧
    s.me.streams[0].inn.bound = false ∧ s.me.streams[1].inn.bound = true ∧ s.me.streams[1].inn.msgs = [] ∧
    s.me.streams[2].inn.msgs = [{ words := [7], core := 0, slot := 0, strm := 0 }] ∧ s.me.streams[0].out.bound = false ∧
    s.me.streams[1].out.bound = true ∧ 1 ≤ s.me.streams[1].out.wlim ∧ s.me.streams[1].out.allow ≠ 0 ∧ s.me.streams[2].out.bound = true ∧
    s.me.streams[2].out.allow = 0 ∧ (wg []).me.bq.q = [] ∧ s.me.bq.q = true :: [] ∧ s.me.bq.bound = false ∧ s.me.bq.q.length < 16 ∧
    16 ≤ (List.replicate 16 true).length := by decide +kernel

theorem witness_FrameOfRegisterInstructions :
    (namesOf (.add i345)).isSome = true ∧ (Instr.add i345).wf = true ∧ (wg []).me.live = true ∧ (wg []).me.slot ≠ 15 ∧ (wg []).slotsOk = true ∧
    (∃ t, exec (.add i345) (wg []) = .next t) := by
  and_intros <;> first | decide +kernel | rfl | exact Or.inl rfl | exact ⟨_, rfl⟩

end Sys2Proof.Tests
end

section
/-!
PROOFS. Every step keeps the invariant (O53): both memories have their canonical form, and each place has one slot.

`Wf` is the invariant with its parts named. Each function of the model that makes a state from a state has one lemma, under the function's name,
which says that it keeps `Wf`; the lemma of a function is made from those of the functions that it calls, in the model's order. Only a few
functions write the fields that `Wf` speaks of: the byte writes of the two memories, `State.place`, `State.vacate`, and the exchange of the
context in hand with the slot table (`State.seek`, `State.rotate`).
-/

namespace Sys2Proof.Machine

/-! ## What the invariant says, and the writes of the three fields that it speaks of -/

/-- What `State.inv` says of a state, as a structure whose parts have names. -/
structure Wf (s : State) : Prop where
  mem : memWf s.mem = true
  hostMem : memWf s.hostMem = true
  sorted : Tbl.sorted s.slots = true
  keyed : s.slots.all (fun p => p.1 == slotKey p.2.core p.2.slot) = true

theorem wf_iff_inv {s : State} : Wf s ↔ s.inv = true := by
  simp only [State.inv, State.memOk, State.slotsOk, Bool.and_eq_true]
  exact ⟨fun h => ⟨⟨h.mem, h.hostMem⟩, h.sorted, h.keyed⟩, fun ⟨⟨a, b⟩, c, d⟩ => ⟨a, b, c, d⟩⟩

variable {s t : State}

/-- Of a state's fields, the invariant speaks of the two memories and the slots alone: every other field may change. -/
theorem Wf.upd (h : Wf s)
    {part cyc clk sub period cursor me keys empties poison l2 msc evicted sliceQ loads acks rupds rejected withdrawn threads streamQ
      fills binds allowances spillQ fullWaits saved cores squads chans parts fij fijBy keySlots sealU fab irqs msix signals hostReads
      fwReads snapReads reports sema kick boot servo fwFaults svcDrops wcache invalidating compacts nextCid nextCmd nextReq agenda
      oracle fresh} :
    Wf { s with
      part, cyc, clk, sub, period, cursor, me, keys, empties, poison, l2, msc, evicted, sliceQ, loads, acks, rupds, rejected, withdrawn,
      threads, streamQ, fills, binds, allowances, spillQ, fullWaits, saved, cores, squads, chans, parts, fij, fijBy, keySlots, sealU,
      fab, irqs, msix, signals, hostReads, fwReads, snapReads, reports, sema, kick, boot, servo, fwFaults, svcDrops, wcache,
      invalidating, compacts, nextCid, nextCmd, nextReq, agenda, oracle, fresh } :=
  ⟨h.mem, h.hostMem, h.sorted, h.keyed⟩

theorem Wf.withMem (h : Wf s) {m : List Host.Cell} (hm : memWf m = true) : Wf { s with mem := m } :=
  ⟨hm, h.hostMem, h.sorted, h.keyed⟩

theorem Wf.withHostMem (h : Wf s) {m : List Host.Cell} (hm : memWf m = true) : Wf { s with hostMem := m } :=
  ⟨h.mem, hm, h.sorted, h.keyed⟩

/-- Bytes written to device memory, with the metadata of their granules. -/
theorem Wf.bytes (h : Wf s) {a : Nat} {b : List Byte} {k : Tbl Nat} {e p : List Nat} :
    Wf { s with mem := wrBytes s.mem a b, keys := k, empties := e, poison := p } :=
  (h.withMem (memWf_wrBytes a b h.mem)).upd

/-- A context put into the table of slots under the key of its place. -/
theorem Wf.putSlot (h : Wf s) {c : Ctx} {k : Nat} (hk : k = slotKey c.core c.slot) : Wf { s with slots := s.slots.put k c } :=
  ⟨h.mem, h.hostMem, Tbl.sorted_put _ _ h.sorted, Tbl.all_put h.keyed (by simp [hk])⟩

theorem Wf.eraseSlot (h : Wf s) {k : Nat} : Wf { s with slots := s.slots.erase k } :=
  ⟨h.mem, h.hostMem, Tbl.sorted_erase _ h.sorted, Tbl.all_erase _ h.keyed⟩

/-! ## Choices and repetition -/

theorem Wf.ite {c : Prop} [Decidable c] (hs : Wf s) (ht : Wf t) : Wf (if c then s else t) := by
  split
  · exact hs
  · exact ht

theorem Wf.ite_snd {α : Type} {c : Prop} [Decidable c] {x y : α × State} (hx : Wf x.2) (hy : Wf y.2) : Wf (if c then x else y).2 := by
  split
  · exact hx
  · exact hy

theorem Wf.foldl {α : Type} {f : State → α → State} {l : List α} (h : Wf s) (hf : ∀ t a, Wf t → Wf (f t a)) : Wf (l.foldl f s) :=
  List.foldlRecOn l f h fun t ht a _ => hf t a ht

theorem Wf.rotationFoldl {α : Type} {f : Rotation → α → Rotation} {l : List α} {r : Rotation} (h : Wf r.s)
    (hf : ∀ t a, Wf t.s → Wf (f t a).s) : Wf (l.foldl f r).s :=
  List.foldlRecOn l f (motive := fun t => Wf t.s) h fun t ht a _ => hf t a ht

theorem Wf.getD {o : Option State} (ho : ∀ t ∈ o, Wf t) (h : Wf s) : Wf (o.getD s) := by
  cases o with
  | none => exact h
  | some t => exact ho t rfl

theorem forall_mem_none {α : Type} {p : α → Prop} : ∀ z ∈ (none : Option α), p z := fun _ e => nomatch e

theorem forall_mem_some {α : Type} {p : α → Prop} {a : α} (h : p a) : ∀ z ∈ some a, p z := fun _ e => Option.some.inj e ▸ h

theorem forall_mem_map {α β : Type} {p : α → Prop} {q : β → Prop} {o : Option α} {f : α → β} (ho : ∀ z ∈ o, p z)
    (hf : ∀ z, p z → q (f z)) : ∀ z ∈ o.map f, q z := by
  cases o with
  | none => exact forall_mem_none
  | some a => exact forall_mem_some (hf a (ho a rfl))

theorem forall_mem_bind {α β : Type} {p : α → Prop} {q : β → Prop} {o : Option α} {f : α → Option β} (ho : ∀ z ∈ o, p z)
    (hf : ∀ a, p a → ∀ z ∈ f a, q z) : ∀ z ∈ o.bind f, q z := by
  cases o with
  | none => exact forall_mem_none
  | some a => exact hf a (ho a rfl)

theorem forall_mem_true {α : Type} {o : Option α} : ∀ z ∈ o, True := fun _ _ => trivial

theorem forall_error_eq {α ε : Type} {p : α → Prop} {e : ε} : ∀ z, (.error e : Except ε α) = .ok z → p z := nofun

theorem forall_ok_eq {α ε : Type} {p : α → Prop} {a : α} (h : p a) : ∀ z, (.ok a : Except ε α) = .ok z → p z :=
  fun _ e => Except.ok.inj e ▸ h

theorem forall_ite_eq {α ε : Type} {p : α → Prop} {c : Prop} [Decidable c] {x y : Except ε α} (hx : ∀ z, x = .ok z → p z)
    (hy : ∀ z, y = .ok z → p z) : ∀ z, (if c then x else y) = .ok z → p z := by
  split
  · exact hx
  · exact hy

theorem Wf.of_snd_eq {α : Type} {x : α × State} {a : α} (h : Wf x.2) (e : x = (a, s)) : Wf s := by
  subst e; exact h

/-! ## Answers that carry a state -/

def Res.Wf : Res → Prop
  | .next t => Machine.Wf t
  | _ => True

def TileAns.Wf : TileAns → Prop
  | .done t => Machine.Wf t
  | .hold t => Machine.Wf t

def CoAns.Wf : CoAns → Prop
  | .done t => Machine.Wf t
  | .refused => True
  | .wait t => Machine.Wf t

def Moved.Wf : Moved → Prop
  | .all t => Machine.Wf t
  | .wait t => Machine.Wf t
  | .fail t _ _ _ => Machine.Wf t

/-! ## Parts of an instruction's meaning -/

/-- What a part of a meaning ends in: every state in it is as the invariant says. -/
def Good {α : Type} : Except Stop (α × State) → Prop
  | .ok r => Wf r.2
  | .error (.go t) => Wf t
  | .error _ => True

theorem good_ok {α : Type} {a : α} (h : Wf s) : Good (.ok (a, s)) := h

theorem good_go {α : Type} (h : Wf s) : Good (.error (.go s) : Except Stop (α × State)) := h

/-- A part of a meaning that keeps the invariant. -/
def Keeps {α : Type} (m : Op α) : Prop := ∀ s, Wf s → Good (m s)

section
variable {α β : Type}

theorem Keeps.pure {a : α} : Keeps (pure a : Op α) := fun _ h => h

theorem Keeps.bind {m : Op α} {f : α → Op β} (hm : Keeps m) (hf : ∀ a, Keeps (f a)) : Keeps (m >>= f) := by
  intro s h
  have hms := hm s h
  rw [op_bind]
  split
  · next r e => rw [e] at hms; exact hf r.1 r.2 hms
  · next x e => rw [e] at hms; cases x <;> exact hms

theorem Keeps.ite {c : Prop} [Decidable c] {m n : Op α} (hm : Keeps m) (hn : Keeps n) : Keeps (if c then m else n) := by
  split
  · exact hm
  · exact hn

/-- Whoever reads the state reads one that is as the invariant says. -/
theorem Keeps.getS {f : State → Op β} (hf : ∀ s, Wf s → Keeps (f s)) : Keeps (getS >>= f) := fun s h => hf s h s h

theorem Keeps.modS {f : State → State} (hf : ∀ s, Wf s → Wf (f s)) : Keeps (modS f) := hf

theorem Keeps.goOp (h : Wf s) : Keeps (goOp s : Op α) := fun _ _ => h

theorem Keeps.parkOp : Keeps (parkOp : Op α) := fun _ _ => trivial

theorem Keeps.trapOp {c : TrapClass} {a i : Word} : Keeps (trapOp c a i : Op α) := fun _ _ => trivial

end

end Sys2Proof.Machine
end

section
/-!
PROOFS. Each function of the model keeps the invariant, one lemma a function, under a heading for each file of the model.
-/

namespace Sys2Proof.Machine

variable {s : State}

/-! ## Parts of a meaning, memory writes, the cache units and traps (`Machine/Ops`) -/

theorem keeps_parkUntil {b : Bool} : Keeps (parkUntil b) := by
  intro s hs
  dsimp only [Machine.parkUntil]
  split
  · exact hs
  · exact trivial

theorem keeps_trapIf {b : Bool} {c : TrapClass} {addr info : Word} : Keeps (trapIf b c addr info) := by
  intro s hs
  dsimp only [Machine.trapIf]
  split
  · exact trivial
  · exact hs

theorem keeps_illegalIf {b : Bool} : Keeps (illegalIf b) := by
  intro s hs
  dsimp only [Machine.illegalIf]
  split
  · exact trivial
  · exact hs

theorem Wf.modCore {c : Nat} {f : CoreSt → CoreSt} (h : Wf s) : Wf (s.modCore c f) := h.upd

theorem Wf.modSquad {q : Nat} {f : SquadSt → SquadSt} (h : Wf s) : Wf (s.modSquad q f) := h.upd

theorem Wf.modChan {c : Nat} {f : ChanSt → ChanSt} (h : Wf s) : Wf (s.modChan c f) := h.upd

theorem Wf.modPartn {p : Nat} {f : PartSt → PartSt} (h : Wf s) : Wf (s.modPartn p f) := h.upd

theorem Wf.place {c : Ctx} (h : Wf s) : Wf (s.place c) := Wf.ite h.upd (h.putSlot rfl)

/-- The context of a place stands under the key of its own core and slot. -/
theorem Wf.key_of_at? {core slot : Nat} {c : Ctx} (h : Wf s) (e : s.at? core slot = some c) :
    slotKey core slot = slotKey c.core c.slot := by
  unfold State.at? at e
  split at e
  · next hme =>
    cases e
    simp only [Bool.and_eq_true, beq_iff_eq] at hme
    obtain ⟨⟨-, hcore⟩, hslot⟩ := hme
    rw [hcore, hslot]
  · split at e
    · next b hb =>
      split at e
      · cases e
        simpa using List.all_eq_true.mp h.keyed _ (Tbl.mem_of_find? hb)
      · cases e
    · cases e

theorem Wf.vacate {core slot : Nat} (h : Wf s) : Wf (s.vacate core slot) := by
  unfold State.vacate
  split
  · exact h
  · next c e =>
    have hk := h.key_of_at? e
    exact (h.putSlot (c := c.emptied) hk).upd

theorem Wf.modMe {f : Ctx → Ctx} (h : Wf s) : Wf (s.modMe f) := h.upd

theorem Wf.modAt {core slot : Nat} {f : Ctx → Ctx} (h : Wf s) : Wf (s.modAt core slot f) := by
  dsimp only [State.modAt]
  split
  · exact h.place
  · exact h

theorem Wf.modLive {cid : Nat} {f : Ctx → Ctx} (h : Wf s) : Wf (s.modLive cid f) := by
  dsimp only [State.modLive]
  split
  · exact h.place
  · exact h

theorem Wf.choose {n : Nat} (h : Wf s) : Wf ((s.choose n).2) := by
  dsimp only [State.choose]
  split
  · exact h
  · exact h.upd

theorem Wf.rekey {key g : Nat} (h : Wf s) : Wf (s.rekey key g) := Wf.ite h h.bytes

theorem Wf.putByte {key a : Nat} {b : Byte} (h : Wf s) : Wf (s.putByte key a b) := h.rekey.withMem (memWf_wr8 _ _ h.rekey.mem)

theorem Wf.areaByte {ch o : Nat} {b : Byte} (h : Wf s) : Wf (s.areaByte ch o b) := h.putByte

theorem Wf.setBit {ch page : Nat} (h : Wf s) : Wf (s.setBit ch page) := h.modChan.areaByte

theorem Wf.putForm {g : Nat} {form : Granule} {full poison : Bool} (h : Wf s) : Wf (s.putForm g form full poison) := h.bytes

theorem Wf.copyDone {ch : Nat} (h : Wf s) : Wf (s.copyDone ch) := by
  dsimp only [State.copyDone]
  split
  · exact h
  · exact Wf.modChan (.setBit (.areaByte (.areaByte (h.foldl fun _ _ ht => ht.putForm))))

theorem Wf.snapGate {a : Nat} (h : Wf s) : Wf (s.snapGate a).2 := by
  dsimp only [State.snapGate]
  split
  · split
    · exact h
    · split
      · exact h
      · split
        · exact h
        · split
          · exact Wf.ite h h.modChan
          · dsimp only
            exact h.setBit.modChan
  · exact Wf.ite h h.setBit
  · exact h

theorem Wf.settle {a : Nat} (h : Wf s) : Wf (s.settle a) :=
  Wf.ite h.snapGate (.ite h.snapGate.copyDone.snapGate h.snapGate.copyDone.snapGate.copyDone.snapGate)

theorem Wf.leftCache {line : Nat} (h : Wf s) : Wf (s.leftCache line) := Wf.ite h.upd h

theorem Wf.mscRoom {line : Nat} (h : Wf s) : Wf (s.mscRoom line) := Wf.ite h (.ite h h.choose.settle.leftCache.upd)

theorem Wf.mscNote {g : Nat} {old : CGran} (h : Wf s) : Wf (s.mscNote g old) := by
  dsimp only [State.mscNote]
  split
  · exact h
  · exact Wf.upd (.ite h h.mscRoom)

theorem Wf.noteBits {gran : Nat} (h : Wf s) : Wf (s.noteBits gran) := Wf.ite h.mscNote h

theorem Wf.setFull {gran : Nat} {full : Bool} (h : Wf s) : Wf (s.setFull gran full) := h.noteBits.upd

theorem Wf.setPoison {a : Nat} {p : Bool} (h : Wf s) : Wf (s.setPoison a p) := h.noteBits.upd

theorem Wf.l2Drop {line : Nat} (h : Wf s) : Wf (s.l2Drop line) := h.upd.foldl fun _ _ ht => ht.mscNote

theorem Wf.unitReady {a : Nat} (h : Wf s) : Wf (s.unitReady a) := h.settle.l2Drop

theorem Wf.l2Room {line : Nat} (h : Wf s) : Wf (s.l2Room line) := Wf.ite h (.ite h h.choose.unitReady.leftCache)

theorem Wf.l2Note {g : Nat} (h : Wf s) : Wf (s.l2Note g) := by
  dsimp only [State.l2Note]
  split
  · exact h
  · exact Wf.upd (.ite h h.l2Room)

theorem Wf.homeReady {a : Nat} {change : Bool} (h : Wf s) : Wf ((s.homeReady a change).2) :=
  Wf.ite_snd (.ite_snd h.snapGate.l2Drop h.snapGate) h

theorem Wf.noteData {gran : Nat} (h : Wf s) : Wf (s.noteData gran) := Wf.ite h h.noteBits

theorem Wf.wrKey {key a : Nat} {b : Byte} (h : Wf s) : Wf (s.wrKey key a b) := h.noteData.putByte

theorem Wf.wrMain {key a : Nat} {bs : List Byte} (h : Wf s) : Wf (s.wrMain key a bs) := by
  induction bs generalizing s a with
  | nil => exact h
  | cons b r ih => exact ih h.wrKey

theorem Wf.unitLines {key a n : Nat} {bs : List Byte} (h : Wf s) : Wf (s.unitLines key a n bs) := by
  induction n generalizing s a bs with
  | zero => exact h
  | succ n ih =>
    cases bs with
    | nil => exact h
    | cons b r => exact ih (.ite (.setPoison (.ite h h.unitReady.wrMain)) (.ite h h.unitReady.wrMain))

theorem Wf.unitWrite {key a : Nat} {bs : List Byte} (h : Wf s) : Wf (s.unitWrite key a bs) := h.unitLines

theorem Wf.unitWords {key a : Nat} {ws : List Word} (h : Wf s) : Wf (s.unitWords key a ws) := h.unitWrite

theorem Wf.unitFull {a : Nat} {full : Bool} (h : Wf s) : Wf (s.unitFull a full) := Wf.ite h h.unitReady.setFull

theorem Wf.queueTrap {core : Nat} {r : TrapRec} (h : Wf s) : Wf (s.queueTrap core r) := h.modCore

theorem Wf.raise {c : Ctx} {r : TrapRec} (h : Wf s) : Wf (s.raise c r) := h.place.queueTrap

theorem Wf.nextHeld {core slot : Nat} (h : Wf s) : Wf (s.nextHeld core slot) := h.modCore

theorem Wf.fwRecord {kind cls status fdom tenant : Nat} {a t : Word} {tag core : Nat} (h : Wf s) :
    Wf (s.fwRecord kind cls status fdom tenant a t tag core) := h.upd

theorem Wf.supervisorFault {c : Ctx} {cls : TrapClass} {pc addr info : Word} (h : Wf s) : Wf (s.supervisorFault c cls pc addr info) :=
  h.place.modCore.fwRecord

theorem Wf.takeTrap {cls : TrapClass} {addr info : Word} {fetch : Bool} (h : Wf s) : Wf (s.takeTrap cls addr info fetch) :=
  Wf.ite h.supervisorFault h.raise

theorem Wf.postTrap {cid : Nat} {f : Ctx → TrapRec} (h : Wf s) : Wf (s.postTrap cid f) := by
  dsimp only [State.postTrap]
  split
  · exact Wf.ite h.supervisorFault h.raise
  · split
    · exact h
    · exact h.queueTrap

theorem Wf.lateTrap {cid : Nat} {cls : TrapClass} {pc addr info : Word} (h : Wf s) : Wf (s.lateTrap cid cls pc addr info) := h.postTrap

theorem Wf.resumeAt {core : Nat} {r : TrapRec} {pc : Word} (h : Wf s) : Wf (s.resumeAt core r pc) := by
  dsimp only [State.resumeAt]
  split
  · exact h
  · exact h.place

theorem Wf.launch {c t : Ctx} {core : Nat} {slot : Option Nat} {dest pc : Word} {back : Bool} {pops : List Reg} (h : Wf s) :
    Wf (s.launch c t core slot dest pc back pops) := h.place.upd

theorem Wf.autoReturn (h : Wf s) : Wf s.autoReturn := Wf.ite h.launch h.modMe

theorem Wf.runOp {m : Op Unit} (hm : Keeps m) (h : Wf s) : Wf (runOp m s) := by
  have hms := hm s h
  unfold Machine.runOp
  split
  · next r e => rw [e] at hms; exact hms.modMe
  · exact h.modMe
  · exact h.takeTrap
  · exact h.autoReturn
  · next t e => rw [e] at hms; exact hms

theorem Wf.issueOp {m : Op Unit} (hm : Keeps m) (h : Wf s) : Res.Wf (issueOp m s) := Wf.runOp hm h

/-! ## Floating-point flags (`Machine/Flags`) -/

theorem keeps_raiseFlags {f : Word} : Keeps (raiseFlags f) := Keeps.modS fun _ hs => hs.modMe

theorem keeps_modeOp : Keeps modeOp := by
  intro s hs
  dsimp only [Machine.modeOp]
  exact hs

/-! ## Operands and results (`Machine/Operands`) -/

theorem keeps_needUnit {unit : Nat} : Keeps (needUnit unit) := by
  intro s hs
  dsimp only [Machine.needUnit]
  split
  · exact trivial
  · split
    · exact hs
    · exact trivial

theorem keeps_needBarrel {unit : Nat} : Keeps (needBarrel unit) := by
  intro s hs
  dsimp only [Machine.needBarrel]
  exact keeps_trapIf _ hs

theorem keeps_illegalFirst {unit bad : Op Unit} (hunit : Keeps unit) : Keeps (illegalFirst unit bad) := by
  intro s hs
  dsimp only [Machine.illegalFirst]
  split
  · split <;> exact trivial
  · exact hunit _ hs

theorem keeps_gate {rs : List Reg} : Keeps (gate rs) := by
  intro s hs
  dsimp only [Machine.gate]
  split
  · exact keeps_needUnit _ hs
  · exact hs

theorem keeps_readPlain {x : Reg} : Keeps (readPlain x) := by
  intro s hs
  dsimp only [Machine.readPlain]
  split
  · exact trivial
  · split
    · exact trivial
    · exact hs

theorem Wf.popWord {c : Ctx} {k : Fin 4} (h : Wf s) : Wf (s.popWord c k) := by
  dsimp only [State.popWord]
  split
  · exact h
  · split
    · exact h.place.upd
    · exact h.place.upd
    · exact h.place

theorem keeps_popPort {k : Fin 4} : Keeps (popPort k) := by
  intro s hs
  dsimp only [Machine.popPort]
  split
  · exact trivial
  · split
    · exact trivial
    · split
      · exact trivial
      · exact good_ok hs.popWord

theorem keeps_popBq : Keeps popBq := by
  intro s hs
  dsimp only [Machine.popBq]
  split
  · exact trivial
  · exact good_ok hs.modMe

theorem keeps_readG {x : Reg} : Keeps (readG x) := Keeps.ite .pure (.ite keeps_popBq (.ite keeps_popPort keeps_readPlain))

theorem keeps_readSync {x : Reg} : Keeps (readSync x) :=
  Keeps.ite keeps_readG (.bind keeps_readPlain fun _ => .bind (.modS fun _ hs => hs.modMe) fun _ => .pure)

theorem keeps_sendPort {k : Fin 4} {ws : List Word} : Keeps (sendPort k ws) := by
  intro s hs
  dsimp only [Machine.sendPort]
  split
  · exact trivial
  · split
    · exact trivial
    · split
      · exact trivial
      · exact good_ok hs.modMe.upd

theorem keeps_pushBq {b : Bool} : Keeps (pushBq b) := by
  intro s hs
  dsimp only [Machine.pushBq]
  split
  · split
    · exact trivial
    · split
      · exact trivial
      · exact good_ok hs.place
  · split
    · exact trivial
    · exact good_ok hs.modMe

theorem keeps_writeG {x : Reg} {v : Word} : Keeps (writeG x v) := by
  dsimp only [Machine.writeG]
  refine Keeps.ite .pure (.ite keeps_pushBq (.ite keeps_sendPort ?_))
  intro s hs
  dsimp only
  split
  · exact trivial
  · exact good_ok hs.modMe

theorem keeps_readyG {x : Reg} : Keeps (readyG x) := by
  intro s hs
  have hw := keeps_writeG (x := x) (v := 0) s hs
  unfold readyG
  split
  · exact hs
  · next e he => rwa [he] at hw

theorem keeps_roomG {x : Reg} : Keeps (roomG x) := by
  intro s hs
  dsimp only [Machine.roomG]
  split
  · exact trivial
  · exact hs

theorem keeps_freeG {x : Reg} : Keeps (freeG x) := by
  intro s hs
  dsimp only [Machine.freeG]
  split
  · exact trivial
  · exact hs

theorem keeps_readV {x : Reg} : Keeps (readV x) := by
  intro s hs
  dsimp only [Machine.readV]
  split
  · exact trivial
  · split
    · exact trivial
    · exact hs

theorem keeps_readVSync {x : Reg} : Keeps (readVSync x) :=
  Keeps.bind keeps_readV fun _ => .bind (.modS fun _ hs => hs.modMe) fun _ => .pure

theorem keeps_freeV {x : Reg} : Keeps (freeV x) := by
  intro s hs
  dsimp only [Machine.freeV]
  split
  · exact trivial
  · exact hs

theorem keeps_writeV {x : Reg} {mask : BitVec 16} {v : VWord} : Keeps (writeV x mask v) :=
  Keeps.bind keeps_freeV fun _ => .modS fun _ hs => hs.modMe

theorem keeps_readK {x : BitVec 3} : Keeps (readK x) := by
  intro s hs
  dsimp only [Machine.readK]
  split
  · exact hs
  · split
    · exact trivial
    · exact hs

theorem keeps_writeK {x : BitVec 3} {v : BitVec 16} : Keeps (writeK x v) := Keeps.modS fun _ hs => hs.modMe

theorem keeps_readS {s : Reg} {q : Pxs} {signed : Bool} : Keeps (readS s q signed) :=
  Keeps.ite (.bind keeps_readSync fun _ => .pure) (.bind keeps_readG fun _ => .pure)

theorem keeps_intOperands {o : IntBin} {signed : Bool} : Keeps (intOperands o signed) := by
  dsimp only [Machine.intOperands]
  split
  · exact Keeps.bind keeps_readS fun _ => .pure
  · exact Keeps.bind keeps_readS fun _ => .bind keeps_readG fun _ => .pure
  · exact Keeps.bind keeps_readS fun _ => .bind keeps_readG fun _ => .pure

theorem keeps_readVS {t : VTy} {s : Reg} {q : Pxs} : Keeps (readVS t s q) :=
  Keeps.ite (.bind keeps_readVSync fun _ => .pure) (.bind keeps_readV fun _ => .pure)

theorem keeps_vecOperands {o : VBin} : Keeps (vecOperands o) := by
  dsimp only [Machine.vecOperands]
  split
  · exact Keeps.bind keeps_readVS fun _ => .pure
  · exact Keeps.bind keeps_readVS fun _ => .bind keeps_readV fun _ => .pure
  · exact Keeps.bind keeps_readVS fun _ => .bind keeps_readV fun _ => .pure

/-! ## Integer instructions (`Machine/Integer`) -/

theorem keeps_intBin {signed : Bool} {f : Word → Word → Word} {o : IntBin} : Keeps (intBin signed f o) :=
  Keeps.bind keeps_gate fun _ => .bind keeps_intOperands fun _ => keeps_writeG

theorem keeps_unOperand {src : UnSrc} : Keeps (unOperand src) := by
  dsimp only [Machine.unOperand]
  split
  · exact keeps_readS
  · exact Keeps.pure

theorem keeps_intUn {f : Word → Word} {o : IntUn} : Keeps (intUn f o) :=
  Keeps.bind keeps_gate fun _ => .bind keeps_unOperand fun _ => keeps_writeG

theorem Wf.execNop (h : Wf s) : Res.Wf (execNop s) := Wf.issueOp .pure h

theorem Wf.execSel {o : IntBin} (h : Wf s) : Res.Wf (execSel o s) := by
  dsimp only [Machine.execSel]
  refine Wf.issueOp (.bind keeps_gate fun x => .bind keeps_readS fun x1 => ?_) h
  split
  · exact Keeps.bind .pure fun _ => .bind keeps_readG fun _ => keeps_writeG
  · exact Keeps.bind keeps_readG fun _ => .bind keeps_readG fun _ => keeps_writeG
  · exact Keeps.bind .pure fun _ => .bind keeps_readG fun _ => keeps_writeG

theorem Wf.execSext {o : ExtOp} (h : Wf s) : Res.Wf (execSext o s) :=
  Wf.issueOp (.bind keeps_gate fun _ => .bind keeps_readS fun _ => keeps_writeG) h

theorem Wf.execZext {o : ExtOp} (h : Wf s) : Res.Wf (execZext o s) :=
  Wf.issueOp (.bind keeps_gate fun _ => .bind keeps_readS fun _ => keeps_writeG) h

theorem Wf.execAddImm {o : RegImm} (h : Wf s) : Res.Wf (execAddImm o s) :=
  Wf.issueOp (.bind keeps_gate fun _ => .bind keeps_readG fun _ => keeps_writeG) h

theorem Wf.execMovImm {o : RegImm} (h : Wf s) : Res.Wf (execMovImm o s) := Wf.issueOp (.bind keeps_gate fun _ => keeps_writeG) h

theorem Wf.execExtb {o : FieldOp} (h : Wf s) : Res.Wf (execExtb o s) :=
  Wf.issueOp (.bind keeps_gate fun _ => .bind keeps_readS fun _ => keeps_writeG) h

theorem Wf.execInsb {o : FieldOp} (h : Wf s) : Res.Wf (execInsb o s) :=
  Wf.issueOp (.bind keeps_gate fun _ => .bind keeps_readS fun _ => .bind keeps_readG fun _ => keeps_writeG) h

theorem Wf.execLea {o : LeaOp} (h : Wf s) : Res.Wf (execLea o s) :=
  Wf.issueOp (.bind keeps_gate fun _ => .bind keeps_readG fun _ => .bind keeps_readG fun _ => keeps_writeG) h

theorem Wf.execBnd {d src : Reg} {len : BndLen} (h : Wf s) : Res.Wf (execBnd d src len s) :=
  Wf.issueOp (.bind keeps_gate fun _ => .bind keeps_readG fun _ => .bind keeps_readG fun _ =>
    .bind keeps_readG fun _ => .bind keeps_trapIf fun _ => keeps_writeG) h

/-! ## Floating-point instructions (`Machine/Float`) -/

theorem keeps_readF {dbl : Bool} {s : Reg} {m : SMod} : Keeps (readF dbl s m) :=
  Keeps.ite (.bind keeps_readSync fun _ => .pure) (.bind keeps_readG fun _ => .pure)

theorem keeps_fltOperands {o : FBin} : Keeps (fltOperands o) := by
  dsimp only [Machine.fltOperands]
  split <;> exact Keeps.bind keeps_readF fun _ => .bind keeps_readG fun _ => .pure

theorem keeps_putF {d : Reg} {r : Nat × Word} : Keeps (putF d r) := Keeps.bind keeps_writeG fun _ => keeps_raiseFlags

theorem keeps_fltBin {f : Fmt → Rm → Nat → Nat → Nat × Word} {o : FBin} : Keeps (fltBin f o) :=
  Keeps.bind keeps_gate fun _ => .bind keeps_fltOperands fun _ => .bind keeps_modeOp fun _ => keeps_putF

theorem Wf.execFma {dbl : Bool} {d src t : Reg} {m : SMod} (h : Wf s) : Res.Wf (execFma dbl d src t m s) :=
  Wf.issueOp (.bind keeps_gate fun _ => .bind keeps_readF fun _ => .bind keeps_readG fun _ =>
    .bind keeps_readG fun _ => .bind keeps_modeOp fun _ => keeps_putF) h

theorem Wf.execFsqrt {o : FUn} (h : Wf s) : Res.Wf (execFsqrt o s) :=
  Wf.issueOp (.bind keeps_gate fun _ => .bind keeps_readF fun _ => .bind keeps_modeOp fun _ => keeps_putF) h

theorem Wf.execFclass {o : FUn} (h : Wf s) : Res.Wf (execFclass o s) :=
  Wf.issueOp (.bind keeps_gate fun _ => .bind keeps_readF fun _ => keeps_putF) h

theorem Wf.execFcvt {k : CvtKind} {d src : Reg} {m : SMod} (h : Wf s) : Res.Wf (execFcvt k d src m s) := by
  unfold Machine.execFcvt
  refine Wf.issueOp (.bind keeps_gate fun _ => ?_) h
  extract_lets put
  have hput : ∀ x, Keeps (put x) := fun _ =>
    .bind keeps_modeOp fun _ => .bind keeps_writeG fun _ => keeps_raiseFlags
  exact .ite (.bind keeps_readSync hput) (.bind keeps_readG hput)

/-! ## Blocks that software writes (`Machine/Rcb`) -/

theorem Wf.blockByte {key a : Nat} {b : Byte} (h : Wf s) : Wf (s.blockByte key a b) := Wf.ite h.wrKey (.ite h.wrKey h)

theorem Wf.wrSoft {key a : Nat} {bs : List (Nat × Byte)} (h : Wf s) : Wf (s.wrSoft key a bs) :=
  Wf.ite (h.foldl fun _ _ ht => ht.blockByte) (h.foldl fun _ _ ht => ht.wrKey)

/-! ## Areas of saved contexts (`Machine/Save`) -/

theorem Wf.storeArea {area : Nat} {c : Ctx} (h : Wf s) : Wf (s.storeArea area c) := h.unitWrite.foldl fun _ _ ht => .ite ht ht.setPoison

theorem Wf.patchArea {area o : Nat} {bs : List Byte} (h : Wf s) : Wf (s.patchArea area o bs) :=
  h.unitWrite.foldl fun _ _ ht => .ite ht ht.setPoison

theorem Wf.onCtx {cid : Nat} {f : Ctx → Ctx} (h : Wf s) : Wf (s.onCtx cid f) := by
  dsimp only [State.onCtx]
  split
  · exact h.place
  · split
    · exact h.patchArea.upd
    · exact h

/-! ## Spill queues (`Machine/Spill`) -/

theorem Wf.spillIdx {block head tail : Nat} (h : Wf s) : Wf (s.spillIdx block head tail) := h.unitWords

theorem Wf.spillTake {block : Nat} {p : SpillEnt → Bool} (h : Wf s) : Wf (s.spillTake block p) := h.upd.spillIdx

theorem Wf.popSaved {area : Nat} {c : Ctx} {k : Fin 4} (h : Wf s) : Wf (s.popSaved area c k) := by
  dsimp only [State.popSaved]
  split
  · split
    · exact h
    · exact h.upd
  · split
    · exact h
    · split
      · exact Wf.ite h.spillTake.upd h.unitWrite.upd
      · exact h

/-! ## Operations at the home (`Machine/Home`) -/

theorem Wf.l1Keep {core : Nat} {p : L1Line → Bool} (h : Wf s) : Wf (s.l1Keep core p) := Wf.ite h h.modCore

theorem Wf.l1Drop {core line : Nat} (h : Wf s) : Wf (s.l1Drop core line) := h.l1Keep

theorem Wf.l1Clear {core : Nat} (h : Wf s) : Wf (s.l1Clear core) := h.l1Keep

theorem Wf.l1Fill {core ptag key line : Nat} (h : Wf s) : Wf (s.l1Fill core ptag key line) := Wf.ite h.modCore h

theorem Wf.l1Store {core ptag key a : Nat} {b : List Byte} (h : Wf s) : Wf (s.l1Store core ptag key a b) :=
  Wf.upd (.ite h.modCore h.l1Drop)

theorem Wf.l1Kill {core a : Nat} (h : Wf s) : Wf (s.l1Kill core a) := h.l1Drop.upd

theorem Wf.l1Kills {r : HomeReq} (h : Wf s) : Wf (s.l1Kills r) := by
  dsimp only [State.l1Kills]
  split
  · exact h
  · exact h.l1Kill

theorem Wf.acquire {core : Nat} (h : Wf s) : Wf (s.acquire core) := Wf.ite h.l1Clear h

theorem Wf.wrDev {key a : Nat} {b : List Byte} (h : Wf s) : Wf (s.wrDev key a b) := Wf.ite h.wrSoft h.bytes

theorem Wf.perform {op : HomeOp} {key a n : Nat} (h : Wf s) : Wf (s.perform op key a n).s := by
  dsimp only [State.perform]
  split
  · exact h
  · exact h.setFull
  · exact h.wrDev.setFull
  · exact h.foldl fun _ _ ht => ht.setFull
  · exact h
  · exact Wf.ite h.wrDev.setFull h.wrDev
  · exact Wf.ite h.wrDev h.wrDev
  · split
    · exact h
    · exact Wf.ite h.wrDev.setFull h.wrDev

theorem Wf.deliverG {cid : Nat} {x : Reg} {v : Word} (h : Wf s) : ∀ z ∈ s.deliverG cid x v, Wf z := by
  dsimp only [State.deliverG]
  split
  · exact forall_mem_some h
  · split
    · split
      · exact forall_mem_some h
      · split
        · split
          · split
            · exact forall_mem_none
            · split
              · exact forall_mem_none
              · exact forall_mem_some h.place
          · split
            · exact forall_mem_none
            · exact forall_mem_some h.onCtx
        · split
          · exact forall_mem_some h
          · split
            · exact forall_mem_none
            · exact forall_mem_some h.onCtx.upd
    · exact forall_mem_some h.onCtx

theorem Wf.popQuiet {cid : Nat} {x : Reg} (h : Wf s) : Wf (s.popQuiet cid x) := by
  dsimp only [State.popQuiet]
  refine Wf.ite h.onCtx ?_
  split
  · exact h.popWord
  · split
    · exact h.popSaved
    · exact h

theorem Wf.complete {cid : Nat} {d : Reg} {y npc fl : Word} {acq : Bool} (h : Wf s) : ∀ z ∈ s.complete cid d y npc fl acq, Wf z := by
  dsimp only [State.complete]
  split
  · exact forall_mem_none
  · next e =>
      refine forall_mem_some ?_
      split
      · exact Wf.acquire (.onCtx (h.deliverG _ e))
      · exact Wf.onCtx (h.deliverG _ e)

theorem Wf.completeOr {cid : Nat} {d : Reg} {y npc fl : Word} {acq : Bool} {a code : Nat} {pc : Word} (h : Wf s) :
    Wf (s.completeOr cid d y npc fl acq a code pc) := by
  dsimp only [State.completeOr]
  split
  · next e => exact h.complete _ e
  · exact h.onCtx.upd

theorem Wf.reply {r : HomeReq} {y fl : Word} (h : Wf s) : Wf (s.reply r y fl) := Wf.completeOr (h.foldl fun _ _ ht => ht.popQuiet)

theorem Wf.replyTrap {r : HomeReq} {cls : TrapClass} {addr info : Word} (h : Wf s) : Wf (s.replyTrap r cls addr info) := h.onCtx.postTrap

theorem Wf.pick {α : Type} {x : List α} (h : Wf s) : ∀ z ∈ s.pick x, Wf z.2 := by
  dsimp only [State.pick]
  split
  · exact forall_mem_none
  · exact forall_mem_some h
  · exact forall_mem_some h.choose

theorem Wf.serveList {gran n : Nat} {q : List HomeReq} {at_ : State → HomeReq → Option Nat} (h : Wf s) :
    Wf (State.serveList gran n s q at_).1 := by
  induction n generalizing s q with
  | zero => exact h
  | succ n ih =>
    unfold State.serveList
    split
    · exact h
    · dsimp only
      split
      · exact ih h.replyTrap
      · split
        · exact ih h.replyTrap
        · exact ih h.perform.reply

theorem Wf.serveHome {gran : Nat} (h : Wf s) : Wf (s.serveHome gran) := Wf.ite h h.serveList.modChan

theorem Wf.serveHomes {gs : List Nat} (h : Wf s) : Wf (s.serveHomes gs) := h.foldl fun _ _ hs => hs.serveHome

theorem Wf.homeWait {r : HomeReq} {cap : Nat} (h : Wf s) : Wf (s.homeWait r cap) := Wf.ite h.modChan.modLive.upd h.modChan.modLive

theorem Wf.putGranule {key a : Nat} {ws : List Word} (h : Wf s) : Wf (s.putGranule key a ws) := h.unitWords.unitFull.serveHome

theorem Wf.modIrq {n : Nat} {f : Irq → Irq} (h : Wf s) : Wf (s.modIrq n f) := h.upd

theorem Wf.sendMsix {n : Nat} (h : Wf s) : Wf (s.sendMsix n) := h.upd

theorem Wf.raiseIrq {n : Nat} (h : Wf s) : Wf (s.raiseIrq n) := by
  dsimp only [State.raiseIrq]
  refine Wf.ite h (.ite h.modIrq ?_)
  split
  · exact h.modIrq.modIrq.upd
  · exact h.modIrq.modIrq.sendMsix
  · exact h.modIrq.modIrq.upd

theorem Wf.ringRecord {ring key part : Nat} {r : FwFault} (h : Wf s) : Wf (s.ringRecord ring key part r) :=
  Wf.ite h.upd (.ite h.fwRecord (.ite h.upd (.ite h.upd (.ite h.unitWords
      (.ite h.unitWords.unitWords.unitFull.serveHome.raiseIrq h.unitWords.unitWords.unitFull.serveHome)))))

theorem Wf.report {rcb kind cls status tenant : Nat} {a t : Word} {tag core : Nat} (h : Wf s) :
    Wf (s.report rcb kind cls status tenant a t tag core) := Wf.ite h.fwRecord h.ringRecord

theorem Wf.reportIn {part : Nat} {rcb : Word} {kind cls status tenant : Nat} {a t : Word} {tag core : Nat} (h : Wf s) :
    Wf (s.reportIn part rcb kind cls status tenant a t tag core) := h.report

theorem Wf.rootReport {part : Nat} {a : Word} (h : Wf s) : Wf (s.rootReport part a) := h.report

theorem Wf.poisonReport {line : Nat} (h : Wf s) : Wf (s.poisonReport line) := Wf.ite h.rootReport h

theorem Wf.reportEvicted (h : Wf s) : Wf s.reportEvicted := h.upd.foldl fun _ _ hs => hs.poisonReport

/-! ## Tiles (`Machine/Tiles`) -/

theorem Wf.modTile {q t : Nat} {f : TileEnt → TileEnt} (h : Wf s) : Wf (s.modTile q t f) := h.modSquad

theorem Wf.depart {q t : Nat} (h : Wf s) : Wf (s.depart q t) := h.modTile

theorem Wf.claim {q t : Nat} (h : Wf s) : Wf (s.claim q t) := by
  unfold State.claim
  split
  · exact h.choose.modTile
  · split
    · exact h.depart
    · exact h

theorem Wf.startFetch {q t : Nat} (h : Wf s) : Wf (s.startFetch q t) := h.modTile.claim

theorem Wf.forceFetch {q t : Nat} (h : Wf s) : Wf (s.forceFetch q t) := Wf.ite h.startFetch.modSquad h

theorem Wf.retryClaims {q : Nat} (h : Wf s) : Wf (s.retryClaims q) := h.foldl fun _ _ ht => ht.claim

theorem Wf.wake {q t : Nat} (h : Wf s) : Wf (s.wake q t) := h.foldl fun _ _ hu => hu.place

theorem Wf.append? {q t : Nat} {us : List Upd} (h : Wf s) : ∀ z ∈ s.append? q t us, Wf z := by
  dsimp only [State.append?]
  split
  · exact forall_mem_some (h.foldl fun _ _ hc => hc.choose.modSquad)
  · exact forall_mem_none

theorem Wf.applyUpd {a ty op : Nat} {mask : BitVec 16} {data : Granule} {whole : Bool} (h : Wf s) :
    Wf (s.applyUpd a ty op mask data whole) :=
  Wf.ite h.setFull (.ite h.setFull (.ite h.bytes.setPoison h.bytes))

theorem Wf.applyEnt {base : Nat} {e : LogEnt} (h : Wf s) : Wf (s.applyEnt base e) := Wf.ite h.applyUpd.setPoison h.applyUpd

theorem Wf.serveTile {q gran : Nat} (h : Wf s) : Wf (s.serveTile q gran) := Wf.ite h h.serveList.modSquad

theorem Wf.tileWait {q : Nat} {r : HomeReq} (h : Wf s) : Wf (s.tileWait q r) := Wf.ite h.modSquad.modLive.upd h.modSquad.modLive

theorem Wf.serveTiles {q : Nat} {gs : List Nat} (h : Wf s) : Wf (s.serveTiles q gs) := h.foldl fun _ _ ht => ht.serveTile

theorem Wf.applyUpds {q base : Nat} {us : List Upd} (h : Wf s) : Wf (s.applyUpds q base us) :=
  h.foldl fun _ _ ht => .ite ht.applyUpd ht.applyUpd.serveTile

theorem Wf.touch {q t : Nat} (h : Wf s) : Wf (s.touch q t) := h.modTile

theorem Wf.tileUpdate {q t : Nat} {us : List Upd} (h : Wf s) : TileAns.Wf (s.tileUpdate q t us) := by
  dsimp only [State.tileUpdate]
  split
  · exact h.touch.applyUpds
  · exact h
  · split
    · next e => exact h.append? _ e
    · exact h.forceFetch

theorem Wf.linesReady {a n : Nat} {change : Bool} (h : Wf s) : ∀ z ∈ s.linesReady a change n, Wf z := by
  induction n with
  | zero => exact forall_mem_some h
  | succ n ih =>
    unfold State.linesReady
    split
    · exact forall_mem_none
    · next t e =>
      dsimp only
      split
      · exact forall_mem_some (ih t e).homeReady
      · exact forall_mem_none

theorem Wf.lineIn {part key src dst : Nat} (h : Wf s) : Wf (s.lineIn part key src dst) := h.bytes.foldl fun _ _ ht => ht.setFull.setPoison

theorem Wf.lineOut {part key src dst : Nat} (h : Wf s) : Wf (s.lineOut part key src dst) :=
  Wf.ite h (.serveHomes (h.wrMain.setPoison.foldl fun _ _ ht => ht.setFull))

theorem Wf.tlDown {cid : Nat} (h : Wf s) : Wf (s.tlDown cid) := h.onCtx

theorem Wf.tsyncDone {q t n : Nat} (h : Wf s) : Wf (s.tsyncDone q t n) := by
  dsimp only [State.tsyncDone]
  refine h.foldl fun u c hu => ?_
  split
  · exact Wf.ite (.ite hu.place.postTrap (.completeOr (hu.foldl fun _ _ hv => hv.popQuiet))) hu
  · exact hu

theorem Wf.tileArrive {q t : Nat} (h : Wf s) : Wf (s.tileArrive q t) := by
  unfold State.tileArrive
  extract_lets e part key src
  refine .ite ?_ h
  split
  · exact h
  · next s0 e0 =>
    extract_lets s1 s2 s3 s4
    have h1 : Wf s1 := (h.linesReady s0 e0).foldl fun _ _ hu => hu.lineIn
    have h2 : Wf s2 := .ite (h1.foldl fun _ _ hu => hu.setPoison) h1
    have h4 : Wf s4 := (h2.foldl fun _ _ hu => hu.applyEnt).modTile
    exact (h4.tsyncDone.foldl fun _ _ hu => hu.tlDown).wake

theorem Wf.tileDeparted {q t : Nat} (h : Wf s) : Wf (s.tileDeparted q t) := by
  unfold State.tileDeparted
  extract_lets e part key dst
  refine .ite ?_ h
  split
  · exact h
  · next s0 e0 =>
    extract_lets s1 s2 s3
    have h2 : Wf s2 := ((h.linesReady s0 e0).foldl fun _ _ hu => hu.lineOut).modTile
    have h3 : Wf s3 := (h2.foldl fun _ _ hu => hu.tlDown).retryClaims
    exact (Wf.ite h3 h3.startFetch).wake

/-! ## Slices and home channels (`Machine/Slices`) -/

theorem Wf.sendLoad {r : SliceReq} {v : ReplyVal} (h : Wf s) : Wf (s.sendLoad r v) := Wf.ite h h.upd

theorem Wf.sendAck {cid : Nat} {f : Option (TrapClass × Nat)} {addr code : Nat} {pc : Word} {tag : Nat} {each : Bool} (h : Wf s) :
    Wf (s.sendAck cid f addr code pc tag each) := h.upd

theorem Wf.ackHome {r : HomeReq} {f : Option (TrapClass × Nat)} (h : Wf s) : Wf (s.ackHome r f) := h.sendAck

theorem Wf.slicePerform {s0 : State} {r : SliceReq} (h : Wf s0) : ∀ z ∈ s0.slicePerform r, Wf z := by
  unfold State.slicePerform
  extract_lets ack w s b s1 t1 t2 t3
  have hs : Wf s := .ite_snd h.homeReady h
  split
  · exact forall_mem_some (.ite h.sendLoad h.sendAck)
  · split
    · exact forall_mem_some h.sendAck
    · split
      · exact forall_mem_none
      · split
        · split
          · exact forall_mem_some hs.sendLoad
          · exact forall_mem_some (.ite hs.sendLoad.l1Fill hs.sendLoad)
        · have h2 : Wf t2 := (hs.foldl fun _ _ hu => hu.l2Note).wrSoft
          refine forall_mem_some (.sendAck ?_)
          dsimp only [t3]
          split
          · exact h2.setPoison
          · exact h2

theorem Wf.sliceStep {sl : Nat} (h : Wf s) : Wf (s.sliceStep sl) := by
  dsimp only [State.sliceStep]
  split
  · exact h
  · next e => exact Wf.getD (.slicePerform (.upd (h.pick _ e))) (.homeReady (h.pick _ e))

theorem Wf.sliceEvict {sl line : Nat} (h : Wf s) : Wf (s.sliceEvict sl line) :=
  Wf.ite h (.ite (.ite h.homeReady.leftCache h.homeReady) h.leftCache)

theorem Wf.homeFail {r : HomeReq} {c : TrapClass} {why : Nat} (h : Wf s) : Wf (s.homeFail r c why) := Wf.ite h.ackHome h.replyTrap

theorem Wf.homeTake {r : HomeReq} (h : Wf s) : ∀ z ∈ s.homeTake r, Wf z := by
  dsimp only [State.homeTake]
  split
  · exact forall_mem_some h.homeFail
  · split
    · exact forall_mem_some h.homeFail
    · split
      · exact forall_mem_none
      · split
        · exact forall_mem_some h.homeReady.homeFail
        · split
          · exact forall_mem_some h.homeReady.homeWait
          · exact forall_mem_some (.serveHomes (.ite h.homeReady.perform.ackHome h.homeReady.perform.reply))

theorem Wf.homeStep {ch : Nat} (h : Wf s) : Wf (s.homeStep ch) := by
  dsimp only [State.homeStep]
  split
  · exact h
  · next e =>
      split
      · next e1 => exact (Wf.homeTake (.modChan (h.pick _ e))) _ e1
      · exact Wf.homeReady (h.pick _ e)

theorem Wf.unitPerform {q : Nat} {r : HomeReq} {a : Nat} (h : Wf s) : Wf (s.unitPerform q r a).s := h.perform.serveTiles

theorem Wf.rupdTile {r : HomeReq} (h : Wf s) : Wf ((s.rupdTile r).1) := by
  dsimp only [State.rupdTile]
  split
  · exact h.unitPerform.ackHome
  · split
    · exact h.ackHome
    · split
      · split
        · exact h.ackHome
        · exact h.touch.unitPerform.ackHome
      · exact h
      · split
        · split
          · next e3 => exact Wf.ackHome (h.append? _ e3)
          · exact h.forceFetch
        · exact h.forceFetch
  · exact h.ackHome

theorem Wf.uqStep {ch : Nat} (h : Wf s) : Wf (s.uqStep ch) := by
  dsimp only [State.uqStep]
  split
  · exact h
  · split
    · next e1 => exact h.modChan.homeTake _ e1
    · exact h.homeReady

theorem Wf.rupdTake {u : Nat} {p : Nat × HomeReq} {rest : List (Nat × HomeReq)} (h : Wf s) : Wf (s.rupdTake u p rest) :=
  Wf.ite (.ite h.modChan.uqStep h.upd.modChan.uqStep) (.ite h.upd.rupdTile h.upd.rupdTile.upd)

theorem Wf.rupdStep {u : Nat} (h : Wf s) : Wf (s.rupdStep u) := by
  dsimp only [State.rupdStep]
  split
  · exact Wf.ite h.uqStep h
  · next e => exact Wf.rupdTake (h.pick _ e)

theorem Wf.unlist {s0 : State} {cid : Nat} (h : Wf s0) : Wf (s0.unlist cid) := Wf.upd (h.foldl fun _ _ ht => ht.onCtx)

/-! ## Control space that contexts write (`Machine/Control`) -/

theorem Wf.modRing {q n : Nat} {f : TaskRing → TaskRing} (h : Wf s) : Wf (s.modRing q n f) := h.modSquad

theorem Wf.modGroup {part id : Nat} {f : Group → Group} (h : Wf s) : Wf (s.modGroup part id f) := h.upd

theorem Wf.ctlStore {priv : Bool} {tenid : BitVec 16} {off : Nat} {v : Word} (h : Wf s) : Wf (s.ctlStore priv tenid off v) := by
  dsimp only [State.ctlStore]
  refine Wf.ite h.upd ?_
  split
  · exact Wf.ite h.modRing h
  · exact h

/-! ## The front end and the turn of the slots (`Machine/FrontEnd`) -/

theorem Wf.modStream {q k : Nat} {f : FeStream → FeStream} (h : Wf s) : Wf (s.modStream q k f) := h.modSquad

theorem Wf.noteLead {q k : Nat} {c : Ctx} (h : Wf s) : Wf (s.noteLead q k c) := by
  unfold State.noteLead
  exact h.modStream

theorem Wf.feGate {c : Ctx} (h : Wf s) : ∀ z ∈ s.feGate c, Wf z := by
  dsimp only [State.feGate]
  split
  · split
    · exact forall_mem_none
    · exact forall_mem_some h
  · split
    · exact forall_mem_some h
    · split
      · exact forall_mem_none
      · exact forall_mem_some h.modStream

theorem Wf.feStall {c : Ctx} (h : Wf s) : Wf (s.feStall c) := Wf.ite h h.modStream

theorem Wf.feNote {q k : Nat} (h : Wf s) : Wf (s.feNote q k) := Wf.ite h h.modStream

theorem Wf.feCheck {s0 : State} {q k : Nat} (h : Wf s0) : Wf (s0.feCheck q k) := by
  unfold State.feCheck
  extract_lets s f
  have hs : Wf s := h.feNote
  split
  · exact hs
  · refine .ite (.modStream (hs.foldl fun t c ht => ?_)) hs
    split
    · exact ht.place
    · exact ht
  · extract_lets s1 open_ s2
    have h1 : Wf s1 := by
      refine hs.foldl fun t c ht => ?_
      split
      · exact ht.place
      · exact ht
    exact .ite (h1.foldl fun _ _ ht => ht.place).modStream h1

theorem Wf.feCheckAll (h : Wf s) : Wf s.feCheckAll := h.foldl fun _ _ ht => ht.foldl fun _ _ hu => hu.feCheck

theorem Wf.feIssue {c : Ctx} (h : Wf s) : Wf (s.feIssue c) := by
  unfold State.feIssue
  refine .ite h ?_
  split
  · exact h
  · refine .ite h ?_
    extract_lets q f s0
    have h0 : Wf s0 := h.noteLead
    exact .ite (.ite h0.modStream (.ite h0 h0.place)) (.ite h0 h0.place)

theorem Wf.privateStep {q : Nat} (h : Wf s) : Wf (s.privateStep q) := by
  dsimp only [State.privateStep]
  split
  · exact h
  · exact h.place.modSquad

theorem Wf.privateAll (h : Wf s) : Wf s.privateAll := h.foldl fun _ _ hs => hs.privateStep

theorem Wf.flushText {e : SealEnt} (h : Wf s) : Wf (s.flushText e) := h.foldl fun _ _ ht => .ite ht.place ht

theorem Wf.tick (h : Wf s) : Wf s.tick := Wf.ite h.upd.privateAll.upd h.upd.privateAll

theorem Wf.seek {n : Nat} (h : Wf s) : Wf (State.seek n s) := by
  induction n generalizing s with
  | zero => exact h
  | succ n ih =>
    unfold State.seek
    split
    · exact h.eraseSlot.upd
    · exact ih h.tick

theorem Wf.rotate (h : Wf s) : Wf s.rotate := Wf.seek (.ite (h.putSlot rfl).upd h)

/-! ## Scalar memory instructions (`Machine/Memory`) -/

theorem keeps_accTrap {α : Type} {c : TrapClass} {op why a : Nat} : Keeps (accTrap c op why a : Op α) := Keeps.trapOp

theorem keeps_alignTo {n op a : Nat} : Keeps (alignTo n op a) := Keeps.ite .pure keeps_accTrap

theorem keeps_accRegion {op : Nat} {ctl : Bool} {a : Nat} : Keeps (accRegion op ctl a) := by
  intro s hs
  dsimp only [Machine.accRegion]
  split
  · exact keeps_accTrap _ hs
  · exact hs

theorem keeps_watch {op a n : Nat} {r : Rights} : Keeps (watch op a n r) := by
  intro s hs
  dsimp only [Machine.watch]
  split
  · exact hs
  · exact keeps_accTrap _ hs

theorem keeps_memEa {m : MemOp} : Keeps (memEa m) := Keeps.bind keeps_readG fun _ => .bind keeps_readG fun _ => .pure

theorem Wf.sendSlice {op : SliceOp} {a n code : Nat} {fill : Bool} {tag : Nat} {acq : Option Bool} (h : Wf s) :
    Wf (s.sendSlice op a n code fill tag acq) := h.upd

theorem Wf.sendHome {r : HomeReq} (h : Wf s) : Wf (s.sendHome r) := h.modChan.upd

theorem Wf.loadMain {op : SliceOp} {a n code : Nat} {cached : Bool} {tag : Nat} {acq : Option Bool} (h : Wf s) :
    Wf (s.loadMain op a n code cached tag acq) := by
  dsimp only [State.loadMain]
  split
  · exact h.upd
  · exact h.sendSlice

theorem keeps_holdOn {α : Type} {s0 : State} {q t : Nat} {force : Bool} (h : Wf s0) : Keeps (holdOn s0 q t force : Op α) := by
  intro s hs
  dsimp only [Machine.holdOn]
  exact good_go (.modMe (.ite h.forceFetch h))

theorem keeps_resident {s0 : State} {code a q t : Nat} (h : Wf s0) : Keeps (resident s0 code a q t) := by
  intro s hs
  dsimp only [Machine.resident]
  split
  · exact keeps_accTrap _ hs
  · split
    · exact trivial
    · split
      · exact good_ok hs.touch
      · exact (keeps_holdOn h) _ hs
      · exact (keeps_holdOn h) _ hs

theorem keeps_unitOp {s0 : State} {q : Nat} {r : HomeReq} {v : Nat} (h : Wf s0) : Keeps (unitOp s0 q r v) := by
  intro s hs
  dsimp only [Machine.unitOp]
  split
  · exact keeps_accTrap _ hs
  · split
    · exact good_go h.tileWait.modMe
    · exact good_ok hs.perform.serveTiles

theorem keeps_homeOp {s0 : State} {r : HomeReq} (h : Wf s0) : Keeps (homeOp s0 r) := by
  intro s hs
  dsimp only [Machine.homeOp]
  split
  · exact trivial
  · split
    · exact keeps_accTrap _ hs
    · split
      · exact keeps_accTrap _ hs
      · split
        · exact good_go h.l1Kills.homeReady.modMe
        · split
          · exact keeps_accTrap _ hs
          · split
            · exact good_go h.l1Kills.homeReady.homeWait.modMe
            · exact good_ok hs.l1Kills.homeReady.perform.serveHomes

theorem keeps_locOp {s0 : State} {g : Region} {r : HomeReq} (h : Wf s0) : Keeps (locOp s0 g r) := by
  dsimp only [Machine.locOp]
  split
  · exact Keeps.bind (keeps_resident h) fun _ => .getS fun _ _ => keeps_unitOp h
  · intro s hs
    dsimp only
    split
    · exact (keeps_unitOp h) _ hs
    · exact trivial
  · exact keeps_homeOp h

theorem keeps_tileBytes {s0 : State} {g : Region} {code a n : Nat} (h : Wf s0) : Keeps (tileBytes s0 g code a n) := by
  intro s hs
  dsimp only [Machine.tileBytes]
  split
  · split
    · exact keeps_accTrap _ hs
    · split
      · exact trivial
      · split
        · split
          · exact keeps_accTrap _ hs.touch
          · exact good_ok hs.touch
        · exact (keeps_holdOn h) _ hs
        · split
          · exact hs
          · exact (keeps_holdOn h) _ hs
  · split
    · split
      · exact keeps_accTrap _ hs
      · exact hs
    · exact trivial
  · exact hs

theorem keeps_tileWrite {s0 : State} {g : Region} {code a : Nat} {us : Nat → List Upd} (h : Wf s0) : Keeps (tileWrite s0 g code a us) := by
  intro s hs
  dsimp only [Machine.tileWrite]
  split
  · split
    · exact keeps_accTrap _ hs
    · split
      · exact trivial
      · split
        · next e1 => exact good_ok ((e1 ▸ hs.tileUpdate : TileAns.Wf (.done _)))
        · exact (keeps_holdOn h) _ hs
  · split
    · exact good_ok hs.applyUpds
    · exact trivial
  · exact hs

theorem keeps_roomLd : Keeps roomLd := by
  intro s hs
  dsimp only [Machine.roomLd]
  split
  · exact hs
  · exact trivial

theorem keeps_roomSt {n : Nat} : Keeps (roomSt n) := by
  intro s hs
  dsimp only [Machine.roomSt]
  split
  · exact hs
  · exact trivial

theorem keeps_releaseWait {rel : Bool} : Keeps (releaseWait rel) := by
  intro s hs
  dsimp only [Machine.releaseWait]
  split
  · exact trivial
  · exact hs

theorem Wf.execLd {m : MemOp} {q : LoadQ} {s0 : State} (h : Wf s0) : Res.Wf (execLd m q s0) := by
  dsimp only [Machine.execLd]
  refine Wf.issueOp (.bind keeps_gate fun x => .bind keeps_memEa fun a => .bind keeps_alignTo fun x1 =>
      .bind keeps_accRegion fun g => ?_) h
  split
  · exact Keeps.bind keeps_watch fun _ => .bind keeps_roomLd fun _ => .bind keeps_freeG fun _ =>
        .modS fun _ hs => .modMe (.loadMain (.ite (.l1Drop (.ite hs.acquire hs)) (.ite hs.acquire hs)))
  · exact Keeps.getS fun _ _ => keeps_writeG
  · exact Keeps.bind keeps_roomG fun _ => .bind (keeps_tileBytes h) fun _ => keeps_writeG

theorem Wf.storeMain {x : Word} {a n : Nat} (h : Wf s) : Wf (s.storeMain x a n) :=
  Wf.ite h.l1Store.sendSlice.modMe.upd h.l1Store.sendSlice.modMe

theorem Wf.execSt {m : MemOp} {rel : Bool} {s0 : State} (h : Wf s0) : Res.Wf (execSt m rel s0) := by
  dsimp only [Machine.execSt]
  refine Wf.issueOp (.bind keeps_gate fun x => .bind keeps_memEa fun a => .bind keeps_alignTo fun x1 =>
      .bind keeps_accRegion fun g => ?_) h
  split
  · refine Keeps.bind keeps_watch fun x2 => .bind keeps_releaseWait fun x3 => .bind keeps_readG fun x4 => ?_
    split
    · exact Keeps.bind keeps_roomSt fun _ => .modS fun _ hs => hs.storeMain
    · exact Keeps.ite (.modS fun _ hs => hs.ctlStore) .pure
    · exact Keeps.bind keeps_roomSt fun _ => .modS fun _ hs => hs.storeMain
  · refine Keeps.bind keeps_releaseWait fun x2 => .bind keeps_readG fun x3 => ?_
    split
    · exact Keeps.bind keeps_roomSt fun _ => .modS fun _ hs => hs.storeMain
    · exact Keeps.ite (.modS fun _ hs => hs.ctlStore) .pure
    · exact keeps_tileWrite h

theorem Wf.feLoad {op : HomeOp} {code : Nat} {acq : Bool} {m : MemOp} {s0 : State} (h : Wf s0) : Res.Wf (feLoad op code acq m s0) := by
  dsimp only [Machine.feLoad]
  refine Wf.issueOp (.bind keeps_gate fun x => .bind keeps_memEa fun a => .bind keeps_alignTo fun x1 =>
      .bind keeps_accRegion fun g => ?_) h
  split
  · exact Keeps.bind keeps_watch fun _ => .bind keeps_roomG fun _ => .bind (keeps_locOp h) fun _ =>
        .bind keeps_writeG fun _ => .ite (.modS fun _ hs => hs.acquire) .pure
  · exact Keeps.bind keeps_roomG fun _ => .bind (keeps_locOp h) fun _ => .bind keeps_writeG fun _ => .ite
        (.modS fun _ hs => hs.acquire) .pure

theorem Wf.execStf {m : MemOp} {rel : Bool} {s0 : State} (h : Wf s0) : Res.Wf (execStf m rel s0) := by
  dsimp only [Machine.execStf]
  refine Wf.issueOp (.bind keeps_gate fun x => .bind keeps_memEa fun a => .bind keeps_alignTo fun x1 =>
      .bind keeps_accRegion fun g => ?_) h
  split
  · exact Keeps.bind keeps_watch fun _ => .bind keeps_releaseWait fun _ => .bind keeps_readG fun _ => .bind
        (keeps_locOp h) fun _ => .pure
  · exact Keeps.bind keeps_releaseWait fun _ => .bind keeps_readG fun _ => .bind (keeps_locOp h) fun _ => .pure

theorem Wf.femarkMain {full : Bool} {a : Nat} {ls : List (Nat × Nat)} (h : Wf s) : Wf (s.femarkMain full a ls) :=
  h.foldl fun _ _ ht => ht.l1Kill.sendHome.modMe

theorem Wf.femark {full : Bool} {d sr : Reg} {s0 : State} (h : Wf s0) : Res.Wf (femark full d sr s0) := by
  unfold Machine.femark
  refine Wf.issueOp (.bind keeps_gate fun _ => .bind keeps_readG fun _ => ?_) h
  extract_lets a rights mark
  have hmark : ∀ n, Keeps (mark n) := by
    intro n
    refine .bind keeps_illegalIf fun _ => .bind keeps_alignTo fun _ => .bind keeps_accRegion fun _ => ?_
    split
    · exact .bind keeps_watch fun _ => .bind keeps_roomSt fun _ => .modS fun _ ht => ht.femarkMain
    · exact keeps_tileWrite h
  exact .ite (hmark _) (.bind keeps_readG hmark)

theorem Wf.execFeq {d sr : Reg} {s0 : State} (h : Wf s0) : Res.Wf (execFeq d sr s0) := by
  dsimp only [Machine.execFeq]
  refine Wf.issueOp (.bind keeps_gate fun x => .bind keeps_readG fun x1 => .bind keeps_alignTo fun x2 =>
      .bind keeps_accRegion fun g => ?_) h
  split
  · exact Keeps.bind keeps_watch fun _ => .bind keeps_roomG fun _ => .bind (keeps_locOp h) fun _ => keeps_writeG
  · exact Keeps.bind keeps_roomG fun _ => .bind (keeps_locOp h) fun _ => keeps_writeG

theorem Wf.prefetchTile {q t : Nat} (h : Wf s) : Wf (s.prefetchTile q t) := Wf.ite h.startFetch h

theorem Wf.execPftL1 {sr : Reg} {s0 : State} (h : Wf s0) : Res.Wf (execPftL1 sr s0) := by
  dsimp only [Machine.execPftL1]
  refine Wf.issueOp (.bind keeps_gate fun x => .bind keeps_readG fun x1 => .modS fun s hs => ?_) h
  split
  · exact Wf.ite hs.sendSlice hs
  · exact hs.prefetchTile
  · exact hs

theorem Wf.execPftL2 {sr : Reg} {s0 : State} (h : Wf s0) : Res.Wf (execPftL2 sr s0) := by
  dsimp only [Machine.execPftL2]
  refine Wf.issueOp (.bind keeps_gate fun x => .bind keeps_readG fun x1 => .modS fun s hs => ?_) h
  split
  · exact hs.prefetchTile
  · exact hs

theorem Wf.execFence {k : FenceKind} {c : FenceScope} {s0 : State} (h : Wf s0) : Res.Wf (execFence k c s0) :=
  Wf.issueOp (.ite .pure (.getS fun _ _ => .bind keeps_parkUntil fun _ => .ite (.modS fun _ hs1 => hs1.acquire) .pure)) h

theorem Wf.execWaitc {ld st cp tl : BitVec 4} {s0 : State} (h : Wf s0) : Res.Wf (execWaitc ld st cp tl s0) :=
  Wf.issueOp (.getS fun _ _ => keeps_parkUntil) h

theorem Wf.execCinv {d sr : Reg} {s0 : State} (h : Wf s0) : Res.Wf (execCinv d sr s0) :=
  Wf.issueOp (.bind keeps_gate fun _ => .bind keeps_readG fun _ => .bind keeps_readG fun _ => .modS fun _ hs =>
    .ite (.ite hs.l1Clear hs.l1Keep) hs.l1Keep) h

/-! ## Threads (`Machine/Threads`) -/

theorem Wf.spillFull {block : Nat} {w : SpillWriter} (h : Wf s) : Wf (s.spillFull block w) := Wf.ite h h.unitWords.upd

theorem Wf.spillPut {e : SpillEnt} {w : SpillWriter} {core rcb : Nat} (h : Wf s) : ∀ z ∈ s.spillPut e w core rcb, Wf z := by
  dsimp only [State.spillPut]
  split
  · exact forall_mem_none
  · split
    · exact forall_mem_some h.unitWrite.spillIdx.upd
    · exact forall_mem_some h.unitWrite.spillIdx.upd.report

theorem Wf.pickCore {l : List Nat} {slot : Option Nat} (h : Wf s) : Wf ((s.pickCore l slot).2) := h.choose

theorem Wf.squadCore {q : Nat} {slot : Option Nat} (h : Wf s) : Wf ((s.squadCore q slot).2) := Wf.ite_snd h (.ite_snd h h.pickCore)

theorem keeps_homeOf {a : Nat} : Keeps (homeOf a) := by
  intro s hs
  dsimp only [Machine.homeOf]
  split
  · exact hs
  · exact hs
  · exact hs
  · exact keeps_accTrap _ hs
  · exact keeps_accTrap _ hs

theorem keeps_chooseOp {f : State → Nat × State} (hf : ∀ x, Wf x → Wf ((f x).2)) : Keeps (chooseOp f) := by
  intro s hs
  dsimp only [Machine.chooseOp]
  exact hf _ hs

theorem keeps_selector {spawn : Bool} {sel : Word} {addr : Op Word} (haddr : Keeps addr) : Keeps (selector spawn sel addr) := by
  dsimp only [Machine.selector]
  refine .bind keeps_illegalIf fun _ => .getS fun _ _ => .bind keeps_trapIf fun _ => .bind keeps_illegalIf fun _ =>
    .ite .pure (.ite ?barrel (.ite ?home ?pivot))
  case barrel => exact .bind (keeps_chooseOp fun _ hs => .ite_snd hs hs.pickCore) fun _ => .pure
  case pivot => exact .bind (keeps_chooseOp fun _ hs => .ite_snd hs hs.pickCore) fun _ => .pure
  case home =>
    refine .bind haddr fun _ => .bind keeps_homeOf fun _ => ?_
    split
    · exact .pure
    · exact .bind (keeps_chooseOp fun _ hs => .ite_snd hs.pickCore hs.squadCore) fun _ => .pure

theorem keeps_leave {α : Type} {s0 : State} {core : Nat} {slot : Option Nat} {dest : Word} {issued back : Bool} {pops : List Reg} (h : Wf s0) :
    Keeps (leave s0 core slot dest issued back pops : Op α) := by
  intro s hs
  dsimp only [Machine.leave]
  split
  · exact good_go h.upd.launch
  · exact trivial

theorem keeps_migrWatch {dest : Word} : Keeps (migrWatch dest) := by
  intro s hs
  dsimp only [Machine.migrWatch]
  exact keeps_trapIf _ hs

theorem keeps_leavePivot {s0 : State} {core : Nat} {slot : Option Nat} {dest : Word} {pops : List Reg} (h : Wf s0) :
    Keeps (leavePivot s0 core slot dest pops) := by
  intro s hs
  dsimp only [Machine.leavePivot]
  split
  · exact good_go h.upd.launch
  · exact trivial

theorem keeps_migrate {s0 : State} {core : Nat} {slot : Option Nat} {dest : Word} {pops : List Reg} (h : Wf s0) :
    Keeps (migrate s0 core slot dest pops) :=
  Keeps.getS fun _ _ => .bind keeps_illegalIf fun _ => .bind keeps_migrWatch fun _ => .ite .pure (.ite
      (keeps_leavePivot h) (keeps_leave h))

theorem Wf.execMigr {sr t : Reg} {s0 : State} (h : Wf s0) : Res.Wf (execMigr sr t s0) :=
  Wf.issueOp (.bind keeps_gate fun _ => .bind keeps_readG fun _ => .bind (keeps_selector keeps_readG) fun _ => keeps_migrate h) h

theorem Wf.execMigrHome {sr : Reg} {s0 : State} (h : Wf s0) : Res.Wf (execMigrHome sr s0) := by
  dsimp only [Machine.execMigrHome]
  refine Wf.issueOp (.bind keeps_gate fun x => .bind keeps_readG fun x1 => .bind keeps_homeOf fun h1 => ?_) h
  split
  · exact keeps_migrate h
  · exact Keeps.bind (keeps_chooseOp fun _ hs => hs.squadCore) fun _ => keeps_migrate h

theorem Wf.saveVectors {c : Ctx} (h : Wf s) : Wf (s.saveVectors c) :=
  h.unitWrite.patchArea.foldl fun _ _ ht => ht.foldl fun _ _ hu => .ite hu hu.setPoison

theorem Wf.execMigrPivot {s0 : State} (h : Wf s0) : Res.Wf (execMigrPivot s0) :=
  Wf.issueOp (.getS fun _ _ => .ite .pure (.bind keeps_migrWatch fun _ => .bind
    (keeps_chooseOp fun _ hs1 => hs1.pickCore) fun _ => keeps_leavePivot h)) h

theorem Wf.execMigrBack {s0 : State} (h : Wf s0) : Res.Wf (execMigrBack s0) :=
  Wf.issueOp (.bind keeps_migrWatch fun _ => .getS fun _ _ => .ite (keeps_leave h) .pure) h

theorem keeps_readArgs {x x1 : Nat} : Keeps (readArgs x x1) := by
  induction x1 generalizing x with
  | zero =>
    unfold Machine.readArgs
    exact Keeps.pure
  | succ n ih =>
    unfold Machine.readArgs
    exact Keeps.bind keeps_readG fun _ => .bind ih fun _ => .pure

theorem Wf.execSpawn {n : SpawnN} {d sr : Reg} {s0 : State} (h : Wf s0) : Res.Wf (execSpawn n d sr s0) :=
  Wf.issueOp (.bind keeps_gate fun _ => .bind keeps_readG fun _ => .bind keeps_readG fun _ =>
    .bind keeps_readArgs fun _ => .bind (keeps_selector .pure) fun _ => .bind keeps_readPlain fun _ =>
    .bind keeps_readPlain fun _ => .bind (.modS fun _ hs => hs.modMe.upd) fun _ => .getS fun _ _ => keeps_parkUntil) h

theorem Wf.newTag {x : Nat} (h : Wf s) : Wf ((s.newTag x).2) := by
  induction x generalizing s with
  | zero =>
    dsimp only [State.newTag]
    exact h
  | succ n ih =>
    dsimp only [State.newTag]
    exact Wf.ite_snd (ih h.upd) h.upd

theorem Wf.saveAnchor {c : Ctx} (h : Wf s) : Wf (s.saveAnchor c) := by
  dsimp only [State.saveAnchor]
  split
  · exact h
  · exact h.saveVectors.vacate

theorem Wf.freeSource {s0 : State} {m : ThreadMsg} (h : Wf s0) : Wf (s0.freeSource m) := by
  unfold State.freeSource
  split
  · exact h
  · extract_lets s
    have hs : Wf s := h.foldl fun _ _ ht => ht.popQuiet
    split
    · exact hs
    · exact .ite hs.place (Wf.ite hs.saveAnchor hs).vacate

theorem Wf.arrivalL1 {core : Nat} (h : Wf s) : Wf (s.arrivalL1 core) := Wf.ite h.l1Clear h

theorem Wf.claimSlot {m : ThreadMsg} (h : Wf s) : ∀ z ∈ s.claimSlot m, Wf z.2 := by
  dsimp only [State.claimSlot]
  split
  · split
    · exact forall_mem_some h
    · exact forall_mem_none
  · split
    · exact forall_mem_none
    · exact forall_mem_some h.choose

theorem Wf.arriveIn {m : ThreadMsg} (h : Wf s) : ∀ z ∈ s.arriveIn m, Wf z := by
  dsimp only [State.arriveIn]
  split
  · exact forall_mem_map h.claimSlot fun _ hr => hr.newTag.place.onCtx
  · split
    · split
      · exact forall_mem_none
      · exact forall_mem_some h.freeSource.place.arrivalL1
    · exact forall_mem_map h.claimSlot fun _ hr => hr.freeSource.place.arrivalL1

theorem Wf.wakeCore {core : Nat} (h : Wf s) : Wf (s.wakeCore core) := Wf.ite h.modCore h

theorem Wf.arrive {m : ThreadMsg} (h : Wf s) : ∀ z ∈ s.arrive m, Wf z := forall_mem_map h.arriveIn fun _ ht => ht.wakeCore

theorem Wf.refuseThread {m : ThreadMsg} (h : Wf s) : Wf (s.refuseThread m) := by
  dsimp only [State.refuseThread]
  split
  · exact h.onCtx.lateTrap
  · split
    · exact h
    · exact h.place.postTrap

theorem Wf.divert? {core slot from_ : Nat} {msg : Spilled} (h : Wf s) : ∀ z ∈ s.divert? core slot from_ msg, Wf z := by
  dsimp only [State.divert?]
  split
  · exact forall_mem_none
  · exact h.spillPut

theorem Wf.divertThread {m : ThreadMsg} (h : Wf s) : ∀ z ∈ s.divertThread m, Wf z := h.divert?

theorem Wf.divertFull {core : Nat} {msg : Spilled} (h : Wf s) : Wf (s.divertFull core msg) := h.spillFull

theorem Wf.press {core : Nat} {on : Bool} (h : Wf s) : Wf (s.press core on) := Wf.ite h h.modCore

theorem Wf.threadIn {m : ThreadMsg} (h : Wf s) : Wf (s.threadIn m) := by
  dsimp only [State.threadIn]
  refine Wf.ite h.upd.refuseThread (.ite h.upd.modChan (.ite ?_ ?_))
  · split
    · next e => exact h.upd.divertThread _ e
    · exact h.divertFull
  · split
    · next e => exact Wf.press (h.upd.arrive _ e)
    · exact h.press

theorem Wf.execThreadArrival {core : Nat} (h : Wf s) : Res.Wf (execThreadArrival core s) := by
  dsimp only [Machine.execThreadArrival]
  split
  · exact h
  · exact h.threadIn

theorem Wf.execSpillDiversion {core : Nat} (h : Wf s) : Res.Wf (execSpillDiversion core s) :=
  Wf.ite h (.modCore (h.modCore.foldl fun _ _ hs => hs.threadIn))

/-! ## Atomic instructions (`Machine/Atomics`) -/

theorem keeps_atomicAt {sr : Reg} {n : Nat} : Keeps (atomicAt sr n) :=
  Keeps.bind keeps_readG fun _ => .bind keeps_alignTo fun _ => .bind keeps_homeOf fun _ => .getS fun _ _ =>
      .ite (.bind keeps_watch fun _ => .pure) .pure

theorem keeps_standAt {s0 : State} {a : Nat} (h : Wf s0) : Keeps (standAt s0 a) := by
  dsimp only [Machine.standAt]
  refine Keeps.bind keeps_homeOf fun h1 => .getS fun s hs => .ite .pure ?_
  split
  · exact Keeps.ite .pure (keeps_leave h.l1Kill)
  · exact Keeps.ite .pure (.bind (keeps_chooseOp fun _ hs1 => hs1.squadCore) fun _ => keeps_leave h)

theorem keeps_atomicDo {s0 : State} {op : HomeOp} {a n : Nat} {d : Reg} {acq : Bool} {pops : List Reg} (h : Wf s0) :
    Keeps (atomicDo s0 op a n d acq pops) :=
  Keeps.getS fun _ _ => .bind (keeps_locOp h) fun _ => .bind keeps_writeG fun _ =>
      .bind keeps_raiseFlags fun _ => .ite (.modS fun _ hs1 => hs1.acquire) .pure

theorem Wf.execAmo {op : AtOp} {w : AtW} {ord : AtOrd} {d sr t : Reg} {s0 : State} (h : Wf s0) : Res.Wf (execAmo op w ord d sr t s0) :=
  Wf.issueOp (.bind keeps_gate fun _ => .bind keeps_atomicAt fun _ => .bind (keeps_standAt h) fun _ =>
    .bind keeps_readG fun _ => .bind keeps_releaseWait fun _ => keeps_atomicDo h) h

theorem Wf.execCas {w64 : Bool} {ord : AtOrd} {d sr t : Reg} {s0 : State} (h : Wf s0) : Res.Wf (execCas w64 ord d sr t s0) :=
  Wf.issueOp (.bind keeps_gate fun _ => .bind keeps_atomicAt fun _ => .bind (keeps_standAt h) fun _ =>
    .bind keeps_readG fun _ => .bind keeps_readG fun _ => .bind keeps_releaseWait fun _ => keeps_atomicDo h) h

theorem Wf.execRupd {op : AtOp} {w : AtW} {ord : AtOrd} {sr t : Reg} {s0 : State} (h : Wf s0) : Res.Wf (execRupd op w ord sr t s0) := by
  dsimp only [Machine.execRupd]
  refine Wf.issueOp (.bind keeps_gate fun x => .bind keeps_atomicAt fun a => .bind keeps_releaseWait fun x1 =>
      .bind keeps_roomSt fun x2 => .bind keeps_readG fun x3 => .modS fun s hs => ?_) h
  split
  · exact hs
  · exact Wf.upd (.modMe (.ite hs.l1Kill hs))

/-! ## The scoreboard of commands (`Machine/Scoreboard`) -/

theorem Wf.holdTiles {q : Nat} {ts : List Nat} (h : Wf s) : Wf (s.holdTiles q ts) := h.foldl fun _ _ hu => hu.modTile.forceFetch

theorem Wf.refetch {q : Nat} {ts : List Nat} (h : Wf s) : Wf (s.refetch q ts) := h.foldl fun _ _ hu => hu.forceFetch

theorem Wf.releaseTiles {q : Nat} {ts : List Nat} (h : Wf s) : Wf (s.releaseTiles q ts) :=
  Wf.ite h (.retryClaims (h.foldl fun _ _ hu => hu.modTile))

theorem Wf.wrLoc {a : Nat} {b : List Byte} (h : Wf s) : Wf (s.wrLoc a b) :=
  Wf.foldl (.foldl h fun _ _ ht => ht.withMem (memWf_wr8 _ _ ht.mem)) fun _ _ ht => .ite ht.setPoison ht

theorem Wf.touchAll {q : Nat} {ts : List Nat} (h : Wf s) : Wf (s.touchAll q ts) := h.foldl fun _ _ hu => hu.touch

theorem Wf.dropCmd {q id : Nat} (h : Wf s) : Wf (s.dropCmd q id) := h.modSquad

/-! ## Packets (`Machine/Fabric`) -/

theorem Wf.modCmd {id : Nat} {f : Cmd → Cmd} (h : Wf s) : Wf (s.modCmd id f) := by
  dsimp only [State.modCmd]
  split
  · exact h
  · exact h.modSquad

theorem Wf.endCmd {id status bytes : Nat} {part : Bool} {detail : Nat} (h : Wf s) : Wf (s.endCmd id status bytes part detail) := h.modCmd

theorem Wf.modLink {p : Nat} {f : Link → Link} (h : Wf s) : Wf (s.modLink p f) := h.upd

theorem Wf.linkDiscard {p : Nat} (h : Wf s) : Wf (s.linkDiscard p) := h.modLink

theorem Wf.transmit {port : Option Nat} {p : Packet} (h : Wf s) : Wf (s.transmit port p) := by
  dsimp only [State.transmit]
  split
  · exact Wf.ite h.upd.modLink h
  · exact h

theorem Wf.sendPacket {port : Option Nat} {wait : Bool} {p : Packet} (h : Wf s) : Wf ((s.sendPacket port wait p).1) := h.upd.transmit

theorem Wf.sendOne {p : Packet} (h : Wf s) : Wf (s.sendOne p) := h.sendPacket

theorem Wf.resendAll (h : Wf s) : Wf s.resendAll := h.foldl fun _ _ ht => ht.transmit

theorem Wf.answered {dst : Nat} {n : BitVec 32} (h : Wf s) : Wf (s.answered dst n) := h.upd

theorem Wf.sendTodo {c : Cmd} {lim : Nat} {x : List (Nat × Nat × Packet)} (h : Wf s) : Wf ((s.sendTodo c lim x).1) := by
  induction x generalizing s c lim with
  | nil =>
    dsimp only [State.sendTodo]
    exact h
  | cons x r ih =>
    dsimp only [State.sendTodo]
    split
    · exact h.upd
    · exact ih h.upd.sendPacket

theorem Wf.sendWaiting {id : Nat} (h : Wf s) : Wf (s.sendWaiting id) := by
  dsimp only [State.sendWaiting]
  split
  · exact h
  · exact h.sendTodo.modCmd

/-! ## Engine commands (`Machine/Engines`) -/

theorem keeps_readDesc {sr : Reg} {x x1 : Nat} : Keeps (readDesc sr x x1) := by
  induction x1 generalizing sr x with
  | zero =>
    unfold Machine.readDesc
    exact Keeps.pure
  | succ n ih =>
    unfold Machine.readDesc
    exact Keeps.bind keeps_readG fun _ => .bind ih fun _ => .pure

theorem keeps_caChecks {ca : Nat} : Keeps (caChecks ca) := by
  dsimp only [Machine.caChecks]
  refine Keeps.bind keeps_alignTo fun x => .getS fun s hs => .ite ?_ keeps_accTrap
  split
  · exact Keeps.ite (.bind keeps_accTrap fun _ => keeps_watch) keeps_watch
  · split
    · exact keeps_accTrap
    · exact Keeps.pure
  · exact keeps_accTrap

theorem Wf.cgrpIssue {c : Cmd} (h : Wf s) : Wf (s.cgrpIssue c) := by
  dsimp only [State.cgrpIssue]
  refine Wf.modGroup ?_
  split
  · exact Wf.endCmd (h.foldl fun _ _ ht => ht.endCmd)
  · exact h.foldl fun _ _ ht => ht.endCmd

theorem Wf.passCmd {op : EngOp} {d : Reg} {desc : List Word} {ca fem : Nat} (h : Wf s) : Wf (s.passCmd op d desc ca fem) :=
  Wf.ite h.modMe.upd.modSquad.cgrpIssue h.modMe.upd.modSquad

theorem Wf.engineIssue {op : EngOp} {d sr : Reg} {s0 : State} (h : Wf s0) : Res.Wf (engineIssue op d sr s0) := by
  unfold Machine.engineIssue
  refine Wf.issueOp ?_ h
  extract_lets read
  have hread : Keeps (read ()) := by
    refine .bind keeps_needUnit fun _ => .bind keeps_readDesc fun desc => ?_
    extract_lets ca main wait
    have hwait : Keeps (wait ()) := by
      refine .getS fun _ _ => .bind keeps_parkUntil fun _ => ?_
      extract_lets fem pass mark
      have hpass : Keeps (pass ()) := .modS fun _ ht => ht.passCmd
      have hmark : Keeps (mark ()) :=
        .ite (.bind (.modS fun _ ht => ht.femarkMain) fun _ => hpass) (.ite (.bind (keeps_tileWrite h) fun _ => hpass) hpass)
      exact .ite (.bind keeps_freeG fun _ => hmark) hmark
    exact .ite (.bind keeps_caChecks fun _ => hwait) hwait
  exact .ite (.bind .trapOp fun _ => hread) hread

theorem Wf.extentCached {q a : Nat} (h : Wf s) : Wf ((s.extentCached q a).2) := by
  dsimp only [State.extentCached]
  split
  · exact h
  · dsimp only
    exact Wf.modSquad (.ite_snd h h.choose)

theorem Wf.startData {c : Cmd} (h : Wf s) : Wf (s.startData c) := by
  unfold State.startData
  extract_lets stop ts go
  refine .ite h.endCmd ?_
  have hgo : ∀ t e a, Wf t → Wf (go t e a) := by
    intro t e a ht
    dsimp only [go]
    split
    · exact ht.endCmd
    · exact ht.holdTiles.modCmd
  split
  · exact hgo _ _ _ h
  · extract_lets a r x st
    have hr : Wf r.2 := .ite_snd h.extentCached h
    split
    · exact hr.endCmd
    · exact .ite hr.endCmd (hgo _ _ _ hr)

theorem Wf.winLoad {die part w : Nat} (h : Wf s) : Wf (s.winLoad die part w) := h.upd

theorem Wf.setFullAt {a : Nat} {full : Bool} (h : Wf s) : Wf (s.setFullAt a full) :=
  Wf.ite h (.ite h.setFull.serveHome h.setFull.serveTile)

theorem Wf.farWrite {c : Cmd} {e : Extent} {o : Nat} {b : List Byte} {full : Option Bool} (h : Wf s) : Wf (s.farWrite c e o b full) := by
  dsimp only [State.farWrite]
  split
  · split
    · exact h.wrDev.setFullAt
    · exact h.wrDev
  · split
    · exact Wf.setFullAt (.ite (.setPoison (.withMem h.touch (memWf_wrBytes _ _ h.mem))) (.withMem h.touch (memWf_wrBytes _ _ h.mem)))
    · exact Wf.ite (.setPoison (.withMem h.touch (memWf_wrBytes _ _ h.mem))) (.withMem h.touch (memWf_wrBytes _ _ h.mem))
  · exact Wf.withHostMem h.winLoad (memWf_wrBytes _ _ h.hostMem)
  · exact h

theorem Wf.movePiece {c : Cmd} {e : Extent} {put fe : Bool} {p : Piece} (h : Wf s) : ∀ z, s.movePiece c e put fe p = .ok z → Wf z := by
  unfold State.movePiece
  split
  · split
    · exact forall_error_eq
    · split
      · exact forall_error_eq
      · exact forall_ok_eq h.farWrite
  · split
    · exact forall_error_eq
    · extract_lets r s1
      have h1 : Wf s1 := by
        refine Wf.wrLoc ?_
        split
        · exact h.winLoad
        · exact h
      refine forall_ok_eq (.ite ?_ h1)
      split
      · exact h1.setFullAt
      · exact h1

theorem Wf.moveOf {c : Cmd} {p : Piece} (h : Wf s) : ∀ z, s.moveOf c p = .ok z → Wf z := by
  dsimp only [State.moveOf]
  split
  · exact h.movePiece
  · exact h.movePiece
  · exact h.movePiece
  · exact h.movePiece
  · split
    · exact forall_error_eq
    · exact forall_ok_eq h.wrLoc
  · refine forall_ok_eq ?_
    split
    · exact h.wrLoc
    · exact h.wrLoc.setFullAt
  · split
    · exact forall_error_eq
    · exact forall_ok_eq h.farWrite
  · exact forall_ok_eq h

theorem Wf.wholeLines {a n : Nat} (h : Wf s) : Wf (s.wholeLines a n) := Wf.ite (h.foldl fun _ _ ht => .ite ht.setPoison ht) h

theorem Wf.farWhole {c : Cmd} {o n : Nat} (h : Wf s) : Wf (s.farWhole c o n) := by
  dsimp only [State.farWhole]
  split
  · exact Wf.ite h.wholeLines h
  · exact h

theorem Wf.rowWhole {c : Cmd} {x : List Piece} (h : Wf s) : Wf (s.rowWhole c x) := by
  dsimp only [State.rowWhole]
  split
  · exact h
  · exact h.farWhole

theorem Wf.farUnit {c : Cmd} {wr : Bool} {a : Nat} (h : Wf s) : Wf ((s.farUnit c wr a).2) := by
  dsimp only [State.farUnit]
  split
  · exact Wf.ite_snd h h.homeReady
  · exact Wf.ite_snd h (.ite_snd h h.forceFetch)
  · exact h

theorem Wf.pieceReady {c : Cmd} {p : Piece} (h : Wf s) : Wf ((s.pieceReady c p).2) := by
  dsimp only [State.pieceReady]
  split
  · exact h
  · exact h
  · exact Wf.ite_snd h.farUnit h.farUnit.farUnit

theorem Wf.setLeft {id row : Nat} {ps : List Piece} (h : Wf s) : Wf (s.setLeft id row ps) := h.modCmd

theorem Wf.moved {c : Cmd} {p : Piece} (h : Wf s) : Wf (s.moved c p) := by
  dsimp only [State.moved]
  refine Wf.ite ?_ h.setLeft
  split
  · exact h.setLeft.rowWhole
  · exact h.setLeft

theorem Wf.runData {id : Nat} {bad : Option Nat} {x : Nat} (h : Wf s) : Moved.Wf (runData id bad x s) := by
  induction x generalizing id bad s with
  | zero =>
    dsimp only [Machine.runData]
    exact h
  | succ n ih =>
    dsimp only [Machine.runData]
    split
    · exact h
    · split
      · split
        · exact h
        · split
          · exact h
          · exact ih h.setLeft
      · split
        · exact h.pieceReady
        · split
          · next e2 => exact ih (.moved ((forall_ite_eq forall_error_eq h.pieceReady.moveOf) _ e2))
          · exact h.pieceReady

theorem Wf.moveSome {c : Cmd} (h : Wf s) : Wf (s.moveSome c) := by
  unfold State.moveSome
  split
  · refine .ite h ?_
    split
    · exact h
    · exact h.setLeft
  · extract_lets o
    have ho : Wf o.2 := .ite_snd h h.choose
    split
    · exact ho
    · refine .ite ho.pieceReady ?_
      split
      · next e => exact (ho.pieceReady.moveOf _ e).moved
      · exact ho.pieceReady

theorem Wf.strayPieces {c : Cmd} {x : List Piece} (h : Wf s) : Wf (s.strayPieces c x) := by
  induction x generalizing s c with
  | nil =>
    dsimp only [State.strayPieces]
    exact h
  | cons x r ih =>
    dsimp only [State.strayPieces]
    refine ih (.ite h.choose ?_)
    split
    · exact h.choose
    · next e => exact h.choose.pieceReady.moveOf _ e

theorem Wf.strayRows {c : Cmd} {x x1 : Nat} (h : Wf s) : Wf (s.strayRows c x x1) := by
  induction x1 generalizing s c x with
  | zero =>
    dsimp only [State.strayRows]
    exact h
  | succ n ih =>
    dsimp only [State.strayRows]
    refine ih ?_
    split
    · exact h.strayPieces
    · exact h

theorem Wf.strayRest {c : Cmd} (h : Wf s) : Wf (s.strayRest c) := by
  dsimp only [State.strayRest]
  split
  · exact h.strayRows
  · exact Wf.strayRows (.ite h.rowWhole h.rowWhole.strayPieces)

theorem Wf.farReady {c : Cmd} {wr : Bool} {x : List Nat} (h : Wf s) : Wf ((s.farReady c wr x).2) := by
  induction x generalizing s c wr with
  | nil =>
    dsimp only [State.farReady]
    exact h
  | cons x r ih =>
    dsimp only [State.farReady]
    exact Wf.ite_snd (ih h.farUnit) h.farUnit

theorem Wf.localReady {c : Cmd} (h : Wf s) : Wf ((s.localReady c).2) := Wf.ite_snd h (h.foldl fun _ _ hu => hu.forceFetch)

theorem Wf.makeRemote {c : Cmd} {e : Extent} (h : Wf s) : Wf (s.makeRemote c e) := h.modCmd.sendWaiting

theorem Wf.landRemote {c : Cmd} (h : Wf s) : Wf (s.landRemote c) :=
  h.foldl fun _ _ ht => .ite (.ite (ht.wrLoc.foldl fun _ _ hu => hu.setFullAt) ht.wrLoc) ht

theorem Wf.endRemote {c : Cmd} (h : Wf s) : Wf (s.endRemote c) := by
  dsimp only [State.endRemote]
  refine Wf.ite ?_ h
  split <;> exact Wf.endCmd (.ite h h.landRemote)

theorem Wf.writeObject {c : Cmd} (h : Wf s) : CoAns.Wf (s.writeObject c) := by
  dsimp only [State.writeObject]
  split
  · exact h
  · split
    · split
      · exact trivial
      · split
        · exact h.homeReady.putGranule
        · exact h.homeReady
    · split
      · exact trivial
      · split
        · exact Wf.serveTile (.setFull (.setPoison (.withMem h.touch (memWf_wrBytes _ _ h.mem))))
        · exact h.forceFetch
    · exact trivial

theorem Wf.cmdRecord {c : Cmd} {kind : Nat} {t : Word} (h : Wf s) : Wf (s.cmdRecord c kind t) := h.reportIn

theorem Wf.completionRecords {c : Cmd} {refused : Bool} (h : Wf s) : Wf (s.completionRecords c refused) := by
  unfold State.completionRecords
  extract_lets s1 s2
  have h1 : Wf s1 := .ite h.cmdRecord h
  have h2 : Wf s2 := .ite h1.cmdRecord h1
  exact .ite h2.cmdRecord h2

theorem Wf.finishCmd {c : Cmd} (h : Wf s) : Wf (s.finishCmd c) := by
  dsimp only [State.finishCmd]
  refine Wf.ite h ?_
  split
  · next e => exact (e ▸ h.writeObject : CoAns.Wf (.wait _))
  · next e => exact Wf.completionRecords (.releaseTiles (.dropCmd (.onCtx ((e ▸ h.writeObject : CoAns.Wf (.done _))))))
  · exact h.onCtx.dropCmd.releaseTiles.completionRecords

theorem Wf.completeData {c : Cmd} (h : Wf s) : Wf (s.completeData c) := by
  unfold State.completeData
  extract_lets finish l
  have hfinish : ∀ t, Wf t → Wf (finish t) := by
    intro t ht
    dsimp only [finish]
    split
    · exact .ite ht.finishCmd ht
    · exact ht
  split
  · exact h
  · exact h.finishCmd
  · split
    · exact .ite (hfinish _ h.endRemote) (.ite h.makeRemote h.localReady)
    · refine .ite h.localReady ?_
      have hrun : Moved.Wf (Machine.runData c.id none c.steps s) := h.runData
      split
      · next e => rw [e] at hrun; exact hrun
      · next e => rw [e] at hrun; exact hrun
      · next e => rw [e] at hrun; exact hfinish _ (Wf.touchAll hrun).endCmd

theorem Wf.furtherData {c : Cmd} (h : Wf s) : Wf (s.furtherData c) := Wf.ite h (.ite h.localReady h.moveSome)

theorem Wf.failData {c : Cmd} (h : Wf s) : Wf (s.failData c) := by
  unfold State.failData
  refine .ite h ?_
  extract_lets l host end_
  refine .ite h.localReady ?_
  have hend : ∀ m, Moved.Wf m → Wf (end_ m) := by
    intro m hm
    cases m with
    | all t => exact h
    | wait t => exact hm
    | fail t st d b =>
      refine Wf.endCmd (.touchAll ?_)
      split
      · exact Wf.strayRest hm
      · exact hm
  split
  · exact .ite (hend _ h.choose.runData) h
  · exact hend _ h.runData

/-! ## Collectives (`Machine/Collective`) -/

theorem Wf.notices {part gid status : Nat} (h : Wf s) : Wf (s.notices part gid status) := h.foldl fun _ _ ht => ht.sendOne

theorem Wf.stalePacket {part gid via : Nat} (h : Wf s) : Wf (s.stalePacket part gid via) := h.modGroup.linkDiscard

theorem Wf.takeUp {p : Packet} (h : Wf s) : Wf (s.takeUp p) := h.upd

theorem Wf.waitHere {p : Packet} (h : Wf s) : Wf (s.waitHere p) := h.upd

theorem Wf.arriving {s0 : State} {p : Packet} {f : State → State} (h : Wf s0) (hf : ∀ x, Wf x → Wf (f x)) : Wf (s0.arriving p f) := by
  dsimp only [State.arriving]
  refine Wf.ite ?_ (.ite h.takeUp.linkDiscard (hf _ h.takeUp))
  split
  · exact h.takeUp.transmit
  · exact h.takeUp.linkDiscard

theorem Wf.groupPacket {p : Packet} {f : State → Nat → State} (h : Wf s) (hf : ∀ x, Wf x → ∀ y, Wf (f x y)) : Wf (s.groupPacket p f) := by
  dsimp only [State.groupPacket]
  refine h.arriving fun s1 hs1 => ?_
  split
  · exact hf _ hs1 _
  · exact hs1.linkDiscard

theorem Wf.collFail {part gid : Nat} {r : CollRun} {status detail : Nat} {notify : Bool} (h : Wf s) :
    Wf (s.collFail part gid r status detail notify) := Wf.ite h.endCmd.modGroup.notices h.endCmd.modGroup

theorem Wf.collsFail {part gid status detail : Nat} {notify : Bool} (h : Wf s) : Wf (s.collsFail part gid status detail notify) :=
  h.foldl fun _ _ ht => ht.collFail

theorem Wf.cgrpFail {part gid id status detail : Nat} (h : Wf s) : Wf (s.cgrpFail part gid id status detail) := h.endCmd.modGroup

theorem Wf.cgrpDone {part gid : Nat} (h : Wf s) : Wf (s.cgrpDone part gid) := by
  dsimp only [State.cgrpDone]
  split
  · exact Wf.ite h.endCmd.modGroup h
  · exact h

theorem Wf.countJoin {part gid : Nat} {p : Packet} {t : Nat} (h : Wf s) : Wf (s.countJoin part gid p t) := by
  dsimp only [State.countJoin]
  split
  · exact Wf.ite h.modGroup.cgrpDone h
  · exact h

theorem Wf.takeHeld {part gid : Nat} (h : Wf s) : Wf (s.takeHeld part gid) := h.modGroup.foldl fun _ _ ht => .ite ht.modGroup ht.countJoin

theorem Wf.cgrpBegin {c : Cmd} (h : Wf s) : Wf (s.cgrpBegin c) := by
  dsimp only [State.cgrpBegin]
  refine Wf.ite h ?_
  split
  · exact h.cgrpFail
  · refine Wf.ite h.modGroup.cgrpFail ?_
    split
    · exact h.modGroup.cgrpFail
    · exact h.modGroup.cgrpFail
    · exact h.modGroup.modGroup.modCmd.sendWaiting.takeHeld.cgrpDone

theorem Wf.cgrpStart {c : Cmd} (h : Wf s) : Wf (s.cgrpStart c) :=
  Wf.ite h (.ite h.cgrpFail (.ite h.cgrpFail (.ite h.holdTiles.modCmd.cgrpBegin h.holdTiles.modCmd)))

theorem Wf.modRun {part gid id : Nat} {f : CollRun → CollRun} (h : Wf s) : Wf (s.modRun part gid id f) := h.modGroup

theorem Wf.collOk {c : Cmd} {r : CollRun} (h : Wf s) : Wf (s.collOk c r) := by
  unfold State.collOk
  exact h.wrLoc.touchAll.endCmd.modGroup

theorem Wf.collSend {c : Cmd} {r : CollRun} (h : Wf s) : Wf (s.collSend c r) := by
  dsimp only [State.collSend]
  refine Wf.ite h (.ite h.upd.modRun ?_)
  split
  · exact h.upd.modRun
  · exact h.upd.modRun.sendPacket

theorem Wf.collTake {c : Cmd} {r : CollRun} {p : Packet} (h : Wf s) : Wf (s.collTake c r p) := by
  dsimp only [State.collTake]
  refine Wf.ite h.collFail ?_
  split
  · exact h
  · exact h.modRun.sendPacket

theorem Wf.portFails {port : Nat} (h : Wf s) : Wf (s.portFails port) := Wf.resendAll (h.modLink.foldl fun _ _ ht => .ite ht ht.collsFail)

theorem Wf.collStep {c : Cmd} {n : Nat} (h : Wf s) : Wf (State.collStep c n s) := by
  induction n generalizing s with
  | zero => exact h
  | succ n ih =>
    unfold State.collStep
    extract_lets gid g o part
    split
    · exact h
    · refine .ite h (.ite h.collOk ?_)
      extract_lets j hit s1 pl owed s2 s3 s4
      have h1 : Wf s1 := .ite h.upd.portFails h
      split
      · exact h1
      · refine .ite h1.collFail (.ite h1.collFail ?_)
        have h3 : Wf s3 := by
          dsimp only [s3]
          split
          · exact h1.modRun.collSend
          · exact h1.modRun
        have h4 : Wf s4 := by
          dsimp only [s4]
          split
          · exact h3
          · split
            · exact h3.modGroup.collTake
            · exact h3
        exact ih h4

theorem Wf.collGo {c : Cmd} (h : Wf s) : Wf (s.collGo c) := h.collStep

theorem Wf.collBegin {c : Cmd} (h : Wf s) : Wf (s.collBegin c) := by
  dsimp only [State.collBegin]
  split
  · exact h
  · refine Wf.ite h ?_
    split
    · exact h.endCmd.modGroup
    · exact h.modRun.collGo

theorem Wf.collStart {c : Cmd} (h : Wf s) : Wf (s.collStart c) := by
  dsimp only [State.collStart]
  refine Wf.ite h.endCmd (.ite h.endCmd ?_)
  split
  · exact h
  · exact h.endCmd
  · exact h.endCmd
  · exact h.endCmd
  · refine Wf.ite h.endCmd ?_
    split
    · exact h.endCmd
    · exact Wf.ite h.holdTiles.modCmd.modGroup.collBegin h.holdTiles.modCmd.modGroup

theorem Wf.cabtStart {c : Cmd} (h : Wf s) : Wf (s.cabtStart c) := Wf.ite h.endCmd (.ite h.endCmd h.collsFail.notices.endCmd)

theorem Wf.rallyOn {c : Cmd} (h : Wf s) : Wf (s.rallyOn c) := by
  dsimp only [State.rallyOn]
  refine Wf.ite (h.foldl fun _ _ hu => hu.forceFetch) ?_
  split
  · exact h.cgrpBegin
  · exact h.collBegin
  · exact h

theorem Wf.execEngineStart {id : Nat} (h : Wf s) : Res.Wf (execEngineStart id s) := by
  dsimp only [Machine.execEngineStart]
  split
  · exact h
  · split
    · exact h
    · exact h
    · exact Wf.ite h.rallyOn h.furtherData
    · refine Wf.ite h ?_
      split
      · exact h.collStart
      · exact h.cgrpStart
      · exact h.cabtStart
      · exact h.startData

theorem Wf.execEngineAccessFailure {id : Nat} (h : Wf s) : Res.Wf (execEngineAccessFailure id s) := by
  dsimp only [Machine.execEngineAccessFailure]
  split
  · exact h
  · exact Wf.ite h h.failData

theorem Wf.execEngineComplete {id : Nat} (h : Wf s) : Res.Wf (execEngineComplete id s) := by
  dsimp only [Machine.execEngineComplete]
  split
  · exact h
  · split
    · exact h
    · exact Wf.ite h.rallyOn h.completeData

theorem Wf.extentGone {entry : Nat} (h : Wf s) : Wf (s.extentGone entry) := h.upd

theorem Wf.extentDone {entry : Nat} (h : Wf s) : Wf (s.extentDone entry) := Wf.ite h h.upd

theorem Wf.execJoinPacket {p : Packet} (h : Wf s) : Res.Wf (execJoinPacket p s) :=
  h.groupPacket fun _ hs1 _ => .ite hs1.stalePacket.sendOne (.ite hs1.modGroup.sendOne (.ite hs1.countJoin.sendOne hs1.sendOne))

theorem Wf.execJoinHoldExpiry {part group : Nat} (h : Wf s) : Res.Wf (execJoinHoldExpiry part group s) := h.modGroup

theorem Wf.execCgrpDeadline {part group : Nat} (h : Wf s) : Res.Wf (execCgrpDeadline part group s) := by
  dsimp only [Machine.execCgrpDeadline]
  split
  · exact Wf.ite h.cgrpFail h
  · exact h

theorem Wf.execCollData {p : Packet} (h : Wf s) : Res.Wf (execCollData p s) := by
  dsimp only [Machine.execCollData]
  refine h.groupPacket fun s1 hs1 lp => .ite hs1.stalePacket ?_
  split
  · split
    · exact hs1.collTake.collGo
    · exact hs1
  · exact hs1.modGroup

theorem Wf.execCollStepAck {id : Nat} (h : Wf s) : Res.Wf (execCollStepAck id s) := by
  dsimp only [Machine.execCollStepAck]
  split
  · exact h
  · split
    · exact h
    · exact Wf.ite h h.modRun.collGo

theorem Wf.execCollStepTimeout {id : Nat} (h : Wf s) : Res.Wf (execCollStepTimeout id s) := by
  dsimp only [Machine.execCollStepTimeout]
  split
  · exact h
  · split
    · exact h
    · exact Wf.ite h.collFail h

theorem Wf.execAbort {p : Packet} (h : Wf s) : Res.Wf (execAbort p s) := by
  dsimp only [Machine.execAbort]
  refine h.groupPacket fun s1 hs1 lp => .ite hs1.stalePacket (.ite hs1.modGroup ?_)
  split
  · exact hs1.modGroup
  · exact Wf.ite hs1.modGroup hs1.collsFail
  · exact Wf.ite hs1 hs1.collsFail
  · exact hs1

/-! ## Instances and the end of contexts (`Machine/Instances`) -/

theorem Wf.playRecord {rcb at_ status k delay stage : Nat} (h : Wf s) : Wf (s.playRecord rcb at_ status k delay stage) := h.putGranule

theorem Wf.launchWrite {part rcb at_ status k delay stage : Nat} (h : Wf s) : Wf (s.launchWrite part rcb at_ status k delay stage) :=
  Wf.ite h h.playRecord

theorem Wf.endRecord {i : PlayInst} (h : Wf s) : Wf (s.endRecord i) := Wf.ite h h.launchWrite

theorem Wf.modInst {n : Nat} {f : PlayInst → PlayInst} (h : Wf s) : Wf (s.modInst n f) := h.upd

theorem Wf.dropInst {n : Nat} (h : Wf s) : Wf (s.dropInst n) := h.upd

theorem Wf.instLess {n : Nat} (h : Wf s) : Wf (s.instLess n) := by
  dsimp only [State.instLess]
  split
  · exact h
  · exact Wf.ite h.modInst h.dropInst.endRecord

theorem Wf.retire {core : Nat} (h : Wf s) : Wf (s.retire core) := Wf.ite h.modCore h

theorem Wf.forget {cid inst : Nat} (h : Wf s) : Wf (s.forget cid inst) := Wf.instLess (.upd (.ite h.upd h))

theorem Wf.reapSaved (h : Wf s) : Wf s.reapSaved := h.foldl fun _ _ ht => .ite ht.patchArea.upd.forget ht

theorem Wf.discard {ms : List Msg} (h : Wf s) : Wf (s.discard ms) := h.upd

theorem Wf.endContext {c : Ctx} (h : Wf s) : Wf (s.endContext c) :=
  Wf.forget (.retire (.ite h.vacate.discard.vacate.retire h.vacate.discard))

/-! ## Messages between contexts (`Machine/Messages`) -/

theorem keeps_readRun {x : Reg} {x1 : Nat} : Keeps (readRun x x1) := by
  induction x1 generalizing x with
  | zero =>
    unfold Machine.readRun
    exact Keeps.pure
  | succ n ih =>
    unfold Machine.readRun
    exact Keeps.bind keeps_readG fun _ => .bind ih fun _ => .pure

theorem Wf.execSend {d sr t : Reg} {s0 : State} (h : Wf s0) : Res.Wf (execSend d sr t s0) :=
  Wf.issueOp (.bind keeps_gate fun _ => .ite (.bind keeps_readRun fun _ => keeps_sendPort)
    (.bind keeps_readG fun _ => .bind keeps_readG fun _ => .bind keeps_illegalIf fun _ => .getS fun _ _ =>
    .bind keeps_trapIf fun _ => .bind keeps_roomSt fun _ => .modS fun _ hs1 => hs1.modMe.upd)) h

theorem Wf.unbind {k : Fin 4} (h : Wf s) : Wf (s.unbind k) := h.discard.modMe

theorem Wf.execQbind {d sr : Reg} {s0 : State} (h : Wf s0) : Res.Wf (execQbind d sr s0) := by
  dsimp only [Machine.execQbind]
  refine Wf.issueOp (.bind (keeps_illegalFirst keeps_needUnit) fun _ =>
    .bind (.bind keeps_readG fun _ => .bind keeps_illegalIf fun _ => .pure) fun _ =>
      .ite ?queue (.ite ?unbind (.ite ?inbound ?outbound))) h
  case queue => exact .getS fun _ _ => .bind keeps_trapIf fun _ => .modS fun _ ht => .ite ht.modMe (.ite ht.modMe ht)
  case unbind => exact .modS fun _ ht => ht.unbind
  case inbound => exact .modS fun _ ht => ht.modMe
  case outbound => exact .getS fun _ _ => .goOp h.modMe.upd

theorem Wf.execQstat {d sr : Reg} {s0 : State} (h : Wf s0) : Res.Wf (execQstat d sr s0) :=
  Wf.issueOp (.bind keeps_needUnit fun _ => .getS fun _ _ => keeps_writeG) h

theorem Wf.spillFor? {c : Ctx} {from_ : Nat} {msg : Spilled} (h : Wf s) : ∀ z ∈ s.spillFor? c from_ msg, Wf z := by
  dsimp only [State.spillFor?]
  split
  · exact forall_mem_none
  · exact h.spillPut

theorem Wf.spillForFull {c : Ctx} {w : SpillWriter} (h : Wf s) : Wf (s.spillForFull c w) := by
  dsimp only [State.spillForFull]
  split
  · exact h
  · exact h.spillFull

theorem Wf.streamIn {m : StreamMsg} (h : Wf s) : ∀ z ∈ s.streamIn m, Wf z :=
  forall_mem_map forall_mem_true fun _ _ => .ite h.place h.discard

theorem Wf.streamLost {m : StreamMsg} (h : Wf s) : Wf (s.streamLost m) := h.discard.lateTrap

theorem Wf.execStreamMessageArrival {core slot k : Nat} (h : Wf s) : Res.Wf (execStreamMessageArrival core slot k s) := by
  dsimp only [Machine.execStreamMessageArrival]
  split
  · exact h
  · refine Wf.ite ?_ ?_
    · split
      · next e1 => exact h.upd.divert? _ e1
      · exact h.divertFull
    · split
      · next e1 => exact h.upd.streamIn _ e1
      · split
        · split
          · next e3 => exact h.upd.spillFor? _ e3
          · exact h.spillForFull
        · exact h.upd.streamLost

theorem Wf.fillDone {m : FillMsg} (h : Wf s) : Wf (s.fillDone m) := h.onCtx

theorem Wf.fillIn {m : FillMsg} (h : Wf s) : ∀ z ∈ s.fillIn m, Wf z := forall_mem_map forall_mem_true fun _ _ => h.place.fillDone

theorem Wf.fillLost {m : FillMsg} (h : Wf s) : Wf (s.fillLost m) := h.fillDone.lateTrap

theorem Wf.execRegisterFill {core slot : Nat} (h : Wf s) : Res.Wf (execRegisterFill core slot s) := by
  dsimp only [Machine.execRegisterFill]
  split
  · exact h
  · refine Wf.ite ?_ ?_
    · split
      · next e1 => exact h.upd.divert? _ e1
      · exact h.divertFull
    · split
      · next e1 => exact h.upd.fillIn _ e1
      · split
        · split
          · next e3 => exact h.upd.spillFor? _ e3
          · exact h.spillForFull
        · exact h.upd.fillLost

theorem Wf.execBindRequest {cid : Nat} (h : Wf s) : Res.Wf (execBindRequest cid s) := by
  dsimp only [Machine.execBindRequest]
  split
  · exact h
  · split
    · exact h.upd
    · exact Wf.ite h.upd h.place.upd

theorem Wf.ungrant {m : BindMsg} {allow : Nat} (h : Wf s) : Wf (s.ungrant m allow) := by
  dsimp only [State.ungrant]
  split
  · exact h
  · exact h.place

theorem Wf.execBindReply {cid : Nat} (h : Wf s) : Res.Wf (execBindReply cid s) := by
  unfold Machine.execBindReply
  show Wf _
  split
  · exact h
  · next m rest _ =>
    extract_lets t0 waits t
    have ht0 : Wf t0 := h.upd
    have ht : Wf t := .ite (ht0.foldl fun _ _ hu => hu.popQuiet) ht0
    split
    · exact .ite ht.ungrant ht.onCtx
    · exact .ite ht ht0.onCtx.postTrap
    · exact h

theorem Wf.execAllowanceReturn {core slot k : Nat} (h : Wf s) : Res.Wf (execAllowanceReturn core slot k s) := by
  dsimp only [Machine.execAllowanceReturn]
  split
  · exact h
  · split
    · exact h.upd.place
    · split
      · exact h.upd.onCtx
      · exact h.upd

theorem Wf.execHbar {d sr : Reg} {s0 : State} (h : Wf s0) : Res.Wf (execHbar d sr s0) :=
  Wf.issueOp (.bind (keeps_illegalFirst keeps_needUnit) fun _ => .bind keeps_readG fun _ => .getS fun _ _ =>
    .bind keeps_illegalIf fun _ => .bind keeps_parkUntil fun _ => .bind keeps_writeG fun _ => .modS fun _ hs1 => hs1.modSquad) h

theorem Wf.execHwait {sr : Reg} {s0 : State} (h : Wf s0) : Res.Wf (execHwait sr s0) :=
  Wf.issueOp (.bind (keeps_illegalFirst keeps_needUnit) fun _ => .bind (.bind keeps_readG fun _ =>
    .bind keeps_illegalIf fun _ => .pure) fun _ => .getS fun _ _ => keeps_parkUntil) h

theorem Wf.execHstat {d sr : Reg} {s0 : State} (h : Wf s0) : Res.Wf (execHstat d sr s0) :=
  Wf.issueOp (.bind (keeps_illegalFirst keeps_needUnit) fun _ => .bind (.bind keeps_readG fun _ =>
    .bind keeps_illegalIf fun _ => .pure) fun _ => .getS fun _ _ => keeps_writeG) h

/-! ## System instructions (`Machine/System`) -/

theorem keeps_waitOp {α : Type} {s0 : State} {w : Wait} (h : Wf s0) : Keeps (waitOp s0 w : Op α) := Keeps.goOp h.modMe

theorem keeps_joinAt {s0 : State} {l : Word} (h : Wf s0) : Keeps (joinAt s0 l) := by
  intro s hs
  dsimp only [Machine.joinAt]
  split
  · exact (keeps_waitOp h) _ hs
  · exact (keeps_waitOp h.modStream) _ hs
  · split
    · exact (keeps_waitOp h) _ hs
    · exact good_ok hs.modMe

theorem Wf.execJoin {i : BitVec 10} {p : Pxi} {s0 : State} (h : Wf s0) : Res.Wf (execJoin i p s0) := by
  dsimp only [Machine.execJoin]
  refine Wf.issueOp ?_ h
  intro s hs
  dsimp only
  split
  · exact (keeps_joinAt h) _ hs
  · exact good_ok hs.modMe

theorem Wf.execDetach {s0 : State} (h : Wf s0) : Res.Wf (execDetach s0) := Wf.issueOp (.modS fun _ hs => hs.modMe) h

theorem Wf.execWaitw {sr : Reg} {s0 : State} (h : Wf s0) : Res.Wf (execWaitw sr s0) :=
  Wf.issueOp (.bind (keeps_illegalFirst keeps_needUnit) fun _ => .bind keeps_readG fun _ => .getS fun _ _ =>
    .bind keeps_illegalIf fun _ => .bind keeps_parkUntil fun _ => .goOp h.modRing.modMe) h

theorem keeps_haltWith {retain : Option Nat} : Keeps (haltWith retain) := by
  intro s hs
  dsimp only [Machine.haltWith]
  split
  · split
    · exact hs
    · exact trivial
  · split
    · refine good_go (.endContext ?_)
      split
      · exact hs.modCore
      · exact hs
    · exact trivial

theorem Wf.execHaltRetain {sr : Reg} {s0 : State} (h : Wf s0) : Res.Wf (execHaltRetain sr s0) :=
  Wf.issueOp (.bind keeps_gate fun _ => .bind keeps_readG fun _ => .getS fun _ _ => keeps_haltWith) h

theorem Wf.execTrap {sr : Reg} {s0 : State} (h : Wf s0) : Res.Wf (execTrap sr s0) :=
  Wf.issueOp (.bind keeps_gate fun _ => .bind keeps_readG fun _ => .trapOp) h

theorem Wf.sysAppend {p : Nat} {r : SysReq} (h : Wf s) : Wf (s.sysAppend p r) := by
  unfold State.sysAppend
  exact h.unitWords.modPartn

theorem Wf.execSysc {sr : Reg} {s0 : State} (h : Wf s0) : Res.Wf (execSysc sr s0) := by
  dsimp only [Machine.execSysc]
  refine Wf.issueOp (.bind keeps_gate fun x => .bind keeps_readG fun x1 => .bind keeps_illegalIf fun x2 =>
      .bind keeps_readArgs fun args => .getS fun s hs => .bind keeps_parkUntil fun x3 => .ite (.goOp hs.sysAppend.modMe) ?_) h
  split
  · exact Keeps.ite .parkOp (.bind keeps_writeG fun _ => .bind keeps_writeG fun _ => .modS fun _ hs1 => hs1.modMe)
  · exact keeps_waitOp h

theorem Wf.execSyscBusyTimeout {cid : Nat} (h : Wf s) : Res.Wf (execSyscBusyTimeout cid s) := by
  dsimp only [Machine.execSyscBusyTimeout]
  split
  · exact h
  · split
    · exact Wf.ite h (.modLive (h.foldl fun _ _ ht => ht.popQuiet))
    · exact h

theorem Wf.dropWait {c : Ctx} (h : Wf s) : Wf (s.dropWait c) := by
  dsimp only [State.dropWait]
  split
  · exact h.unlist.modLive
  · exact h.unlist.modLive
  · exact h.modRing.modLive
  · exact h.modLive.upd
  · exact h.modLive
  · exact h.modLive
  · exact h.modLive
  · exact h.modLive
  · exact h

theorem Wf.rettLive {r : TrapRec} {c : Ctx} {act : Nat} {tgt : Word} (h : Wf s) : Wf (s.rettLive r c act tgt) :=
  Wf.ite (.ite h.reportIn.dropWait.endContext h.reportIn.dropWait.place) (.resumeAt (.ite h h.dropWait))

theorem Wf.rettSaved {r : TrapRec} {core area act : Nat} {tgt : Word} (h : Wf s) : Wf (s.rettSaved r core area act tgt) :=
  Wf.ite h.reportIn.upd.reapSaved h.patchArea

theorem Wf.rett {core : Nat} {r : TrapRec} {act : Nat} {tgt : Word} (h : Wf s) : Wf (s.rett core r act tgt) := by
  unfold State.rett
  extract_lets s1
  have h1 : Wf s1 := .ite h.modCore h
  refine Wf.nextHeld ?_
  split
  · exact h1.rettLive
  · split
    · exact h1.rettSaved
    · exact h1

theorem Wf.execRett {d sr : Reg} {s0 : State} (h : Wf s0) : Res.Wf (execRett d sr s0) := by
  unfold Machine.execRett
  refine Wf.issueOp (.bind keeps_gate fun _ => .bind keeps_readG fun _ => ?_) h
  extract_lets act ret
  have hret : ∀ tgt, Keeps (ret tgt) := by
    intro tgt
    refine .getS fun _ _ => .bind keeps_illegalIf fun _ =>
      .ite (.modS fun _ ht => ht.modCore) (.ite (.modS fun _ ht => ht.modCore) ?_)
    split
    · exact .modS fun _ ht => ht.modCore.rett
    · exact .pure
  exact .ite (.bind keeps_readG hret) (hret _)

theorem Wf.parkedTurn (h : Wf s) : Wf s.parkedTurn := Wf.ite h.endContext h.modMe

theorem Wf.execIllegalWord {code : BitVec 8} {idx : BitVec 3} (h : Wf s) : Res.Wf (execIllegalWord code idx s) := h.takeTrap

theorem Wf.execFetchRefused (h : Wf s) : Res.Wf (execFetchRefused s) := by
  dsimp only [Machine.execFetchRefused]
  split
  · exact h.takeTrap
  · exact h

/-! ## Save and load of contexts (`Machine/SaveLoad`) -/

theorem keeps_fwAddr {n_align n : Nat} {wr : Bool} {a : Nat} : Keeps (fwAddr n_align n wr a) := by
  dsimp only [Machine.fwAddr]
  refine Keeps.bind keeps_alignTo fun x => .getS fun s hs => ?_
  split
  · exact Keeps.ite keeps_accTrap .pure
  · exact keeps_accTrap
  · exact keeps_accTrap

theorem keeps_fwClean {a n : Nat} : Keeps (fwClean a n) := by
  intro s hs
  dsimp only [Machine.fwClean]
  split
  · exact keeps_accTrap _ hs
  · exact hs

theorem Wf.linesGate {a x : Nat} (h : Wf s) : Wf ((s.linesGate a x).2) := by
  induction x generalizing s a with
  | zero =>
    dsimp only [State.linesGate]
    exact h
  | succ n ih =>
    dsimp only [State.linesGate]
    exact Wf.ite_snd (ih h.homeReady) h.homeReady

theorem keeps_linesWait {s0 : State} {a n : Nat} (h : Wf s0) : Keeps (linesWait s0 a n) := by
  intro s hs
  dsimp only [Machine.linesWait]
  split
  · exact good_ok hs.linesGate
  · exact good_go h.linesGate.modMe

theorem Wf.suspendPins {core : Nat} {tenid : BitVec 16} (h : Wf s) : Wf (s.suspendPins core tenid) := by
  dsimp only [State.suspendPins]
  split
  · exact h
  · exact Wf.ite h h.modSquad.retryClaims

theorem Wf.resumePins {core : Nat} {tenid : BitVec 16} (h : Wf s) : Wf (s.resumePins core tenid) := by
  dsimp only [State.resumePins]
  split
  · exact h
  · exact Wf.ite h (h.foldl fun _ _ ht => .ite ht.modTile.startFetch ht.modTile)

theorem Wf.endRetain {core rcb : Nat} (h : Wf s) : Wf (s.endRetain core rcb) := by
  dsimp only [State.endRetain]
  split
  · exact Wf.ite h.modCore h
  · exact h

theorem Wf.spillWords {c : Ctx} {from_ : Nat} (h : Wf s) : ∀ z ∈ s.spillWords c from_, Wf z.1 := by
  dsimp only [State.spillWords]
  split
  · exact forall_mem_some h
  · split
    · exact forall_mem_none
    · exact forall_mem_some (h.foldl fun _ _ hu => .getD hu.spillPut hu)

theorem Wf.withdraw {t : Ctx} (h : Wf s) : Wf (s.withdraw t) := by
  dsimp only [State.withdraw]
  split
  · exact h.upd
  · exact h.upd
  · exact h.modRing
  · exact h

theorem Wf.leaveSlots {t : Ctx} (h : Wf s) : Wf (s.leaveSlots t) := Wf.ite h.vacate.vacate h.vacate

theorem Wf.storeCtx {t c : Ctx} {area : Nat} (h : Wf s) : Wf (s.storeCtx t c area) :=
  h.withdraw.storeArea.upd.leaveSlots.suspendPins.suspendPins

theorem keeps_saveOp {s0 : State} {slot area : Nat} (h : Wf s0) : Keeps (saveOp s0 slot area) := by
  dsimp only [Machine.saveOp]
  refine Keeps.getS fun s hs => ?_
  split
  · exact keeps_illegalIf
  · refine Keeps.bind keeps_fwAddr fun x1 => ?_
    split
    · exact Keeps.parkOp
    · refine Keeps.bind (keeps_linesWait h) fun x3 => .getS fun s1 hs1 => ?_
      split
      · exact Keeps.goOp h.spillForFull.modMe
      · next e2 => exact Keeps.modS fun _ _ => .storeCtx (hs1.spillWords _ e2)

theorem Wf.execCtxs {d sr : Reg} {s0 : State} (h : Wf s0) : Res.Wf (execCtxs d sr s0) :=
  Wf.issueOp (.bind keeps_gate fun _ => .bind keeps_readG fun _ => .bind keeps_readG fun _ =>
    .bind keeps_illegalIf fun _ => keeps_saveOp h) h

theorem Wf.redeliver {c : Ctx} (h : Wf s) : Wf (s.redeliver c) := by
  dsimp only [State.redeliver]
  split
  · exact h
  · next e =>
      refine Wf.ite h (h.spillTake.foldl fun t e ht => ?_)
      split
      · exact Wf.getD ht.streamIn ht
      · exact Wf.getD ht.streamIn ht
      · exact Wf.ite (.getD ht.fillIn ht) ht.upd
      · exact ht

theorem Wf.loadCtx {core slot area : Nat} (h : Wf s) : Wf (s.loadCtx core slot area) :=
  h.resumePins.place.patchArea.patchArea.upd.endRetain.wakeCore.redeliver

theorem keeps_loadOp {slot area : Nat} : Keeps (loadOp slot area) :=
  Keeps.getS fun _ _ => .bind keeps_illegalIf fun _ => .bind keeps_fwAddr fun _ => .bind keeps_illegalIf fun _ =>
      .ite keeps_accTrap (.bind keeps_parkUntil fun _ => .modS fun _ hs1 => hs1.loadCtx)

theorem Wf.execCtxl {d sr : Reg} {s0 : State} (h : Wf s0) : Res.Wf (execCtxl d sr s0) :=
  Wf.issueOp (.bind keeps_gate fun _ => .bind keeps_readG fun _ => .bind keeps_readG fun _ => keeps_loadOp) h

/-- A save of a slot, where an area for it is named, and then a load into it, where one is named. -/
theorem keeps_saveThenLoad {s0 : State} {slot out inn : Nat} (h : Wf s0) :
    Keeps (do
      if out = 0 then pure () else saveOp s0 slot out
      if inn = 0 then pure () else loadOp slot inn) :=
  .ite (.bind .pure fun _ => .ite .pure keeps_loadOp) (.bind (keeps_saveOp h) fun _ => .ite .pure keeps_loadOp)

theorem Wf.execSlotx {d sr : Reg} {s0 : State} (h : Wf s0) : Res.Wf (execSlotx d sr s0) := by
  unfold Machine.execSlotx
  refine Wf.issueOp (.bind keeps_gate fun _ => .bind keeps_readG fun _ => .bind keeps_readG fun _ => ?_) h
  extract_lets a slot
  refine .bind keeps_fwAddr fun _ => .bind keeps_fwClean fun _ => .getS fun _ _ => ?_
  extract_lets out inn
  clear_value out inn
  exact .bind keeps_illegalIf fun _ => keeps_saveThenLoad h

theorem Wf.spillPop {block : Nat} (h : Wf s) : ∀ z ∈ s.spillPop block, Wf z.2 := forall_mem_map forall_mem_true fun _ _ => h.spillTake

theorem Wf.resend {e : SpillEnt} (h : Wf s) : ∀ z ∈ s.resend e, Wf z := by
  dsimp only [State.resend]
  split
  · split
    · exact forall_mem_some h.refuseThread
    · split
      · exact h.arrive
      · exact forall_mem_none
  · split
    · next e2 => exact forall_mem_some (h.streamIn _ e2)
    · split
      · exact forall_mem_none
      · exact forall_mem_some h.streamLost
  · split
    · exact forall_mem_none
    · split
      · next e2 => exact forall_mem_some (h.fillIn _ e2)
      · split
        · exact forall_mem_none
        · exact forall_mem_some h.fillLost
  · split
    · exact h.streamIn
    · split
      · exact forall_mem_none
      · exact forall_mem_some h.discard

theorem Wf.drainQueue {block x : Nat} (h : Wf s) : Wf ((State.drainQueue block x s).1) := by
  induction x generalizing block s with
  | zero =>
    dsimp only [State.drainQueue]
    exact h
  | succ n ih =>
    dsimp only [State.drainQueue]
    split
    · exact h
    · next e1 =>
        split
        · exact h
        · next e2 => exact ih ((Wf.resend (h.spillPop _ e1)) _ e2)

theorem Wf.undivert {core block : Nat} (h : Wf s) : Wf (s.undivert core block) := Wf.ite h.modCore h

theorem Wf.execQdrain {d sr : Reg} {s0 : State} (h : Wf s0) : Res.Wf (execQdrain d sr s0) :=
  Wf.issueOp (.bind keeps_gate fun _ => .bind keeps_readG fun _ => .bind keeps_fwAddr fun _ =>
    .bind keeps_fwClean fun _ => .bind keeps_readyG fun _ => .getS fun _ hs => .ite (.bind
    (.modS fun _ _ => hs.drainQueue.undivert.modMe) fun _ => keeps_writeG) (.goOp h.drainQueue.modMe)) h

theorem Wf.execAudw {d sr : Reg} {s0 : State} (h : Wf s0) : Res.Wf (execAudw d sr s0) :=
  Wf.issueOp (.bind keeps_gate fun _ => .bind keeps_readG fun _ => .bind keeps_readG fun _ => .getS fun _ _ =>
    .bind keeps_illegalIf fun _ => .bind keeps_trapIf fun _ => .bind keeps_fwAddr fun _ =>
    .bind keeps_fwClean fun _ => .modS fun _ hs1 => hs1.modAt) h

/-! ## Events of the front end, errors and interrupts (`Machine/Events`) -/

theorem Wf.execStreamDecode {squad stream : Nat} (h : Wf s) : Res.Wf (execStreamDecode squad stream s) := by
  dsimp only [Machine.execStreamDecode]
  split
  · exact Wf.ite h h.modStream
  · exact h

theorem Wf.execPrivateFetchDelivery {squad : Nat} (h : Wf s) : Res.Wf (execPrivateFetchDelivery squad s) := h.privateStep

theorem Wf.execDriftStallDetach {squad stream : Nat} (h : Wf s) : Res.Wf (execDriftStallDetach squad stream s) := by
  dsimp only [Machine.execDriftStallDetach]
  split
  · exact h
  · exact Wf.ite h (.modStream (h.foldl fun _ _ hu => hu.place))

theorem Wf.execJoinWaitTimeout {core slot : Nat} (h : Wf s) : Res.Wf (execJoinWaitTimeout core slot s) := by
  dsimp only [Machine.execJoinWaitTimeout]
  split
  · exact h
  · split
    · exact Wf.ite h.place h
    · exact h

theorem Wf.execSrtailWrite {tenid squad ring : Nat} {v : Word} (h : Wf s) : Res.Wf (execSrtailWrite tenid squad ring v s) :=
  Wf.ite h.modRing h

theorem Wf.serveFails {q n : Nat} {c : Ctx} {cls : TrapClass} {a why : Nat} (h : Wf s) : Wf (s.serveFails q n c cls a why) :=
  h.modRing.place.postTrap

theorem Wf.execServeDelivery {squad ring : Nat} (h : Wf s) : Res.Wf (execServeDelivery squad ring s) := by
  dsimp only [Machine.execServeDelivery]
  split
  · exact h
  · refine Wf.ite h ?_
    split
    · exact h.modRing
    · exact Wf.ite h.serveFails (.ite h.serveFails (.modRing (.modLive (h.foldl fun _ _ ht => ht.popQuiet))))

theorem Wf.execRetainHoldCancel {core : Nat} (h : Wf s) : Res.Wf (execRetainHoldCancel core s) := Wf.ite h h.modCore.retire

theorem Wf.preemptMessage {core : Nat} {mspill : Bool} {reason slots desc : Nat} (h : Wf s) :
    Wf (s.preemptMessage core mspill reason slots desc) := by
  unfold State.preemptMessage
  exact h.setFull.modCore

theorem Wf.execPreemptMessage {core : Nat} {mspill : Bool} {reason : BitVec 4} {slots : BitVec 15} {desc : Nat} (h : Wf s) :
    Res.Wf (execPreemptMessage core mspill reason slots desc s) := Wf.ite h h.preemptMessage

theorem Wf.execPreemptDoneTimeout {core : Nat} (h : Wf s) : Res.Wf (execPreemptDoneTimeout core s) := by
  dsimp only [Machine.execPreemptDoneTimeout]
  split
  · exact Wf.ite h h.modCore.fwRecord
  · exact h

theorem Wf.tileLost {q t : Nat} (h : Wf s) : Wf (s.tileLost q t) := by
  unfold State.tileLost
  extract_lets e s1 s2
  have h2 : Wf s2 := (h.modTile.foldl fun _ _ hu => hu.tlDown).retryClaims
  exact (Wf.ite h2 h2.startFetch).wake.rootReport

theorem Wf.softError {e : ErrSite} (h : Wf s) : Wf (s.softError e) := by
  dsimp only [State.softError]
  split
  · exact h.l1Drop
  · exact h
  · exact Wf.ite h.setPoison h
  · exact Wf.ite h.setPoison h
  · exact h.modSquad
  · exact h.tileLost
  · exact Wf.ite h h.modAt
  · exact h.modAt
  · exact h.modCore
  · exact h.modCore
  · exact h.setPoison

theorem Wf.execUncorrectableError {e : ErrSite} (h : Wf s) : Res.Wf (execUncorrectableError e s) := h.softError

theorem Wf.execMemoryScrub {line : Nat} {uncorrectable : Bool} (h : Wf s) : Res.Wf (execMemoryScrub line uncorrectable s) :=
  Wf.ite h.setPoison.poisonReport h

theorem Wf.execInterruptEvent {n : Nat} (h : Wf s) : Res.Wf (execInterruptEvent n s) := h.raiseIrq

theorem Wf.execIrqAck {n : Nat} (h : Wf s) : Res.Wf (execIrqAck n s) := Wf.ite h.modIrq h

theorem Wf.execIrqEscalate {n : Nat} (h : Wf s) : Res.Wf (execIrqEscalate n s) := Wf.ite h.modIrq.sendMsix h

theorem Wf.execIrqTimerExpiry {n : Nat} (h : Wf s) : Res.Wf (execIrqTimerExpiry n s) := Wf.ite h.modIrq.sendMsix h

theorem Wf.execIrqStateClear {n : Nat} (h : Wf s) : Res.Wf (execIrqStateClear n s) := Wf.ite h.modIrq h

/-! ## Host ports (`Machine/HostPorts`) -/

theorem Wf.startLease {x : BitVec 2} (h : Wf s) : Wf (s.startLease x) := h.upd

theorem Wf.freeSema (h : Wf s) : Wf s.freeSema := h.upd

theorem Wf.reject (h : Wf s) : Wf s.reject := h.upd

theorem Wf.manage {x : BitVec 2} {t : State} (h : Wf s) (ht : Wf t) : Wf (s.manage x t) := Wf.ite ht h.reject

theorem Wf.semaRead {x : BitVec 2} (h : Wf s) : Wf ((s.semaRead x).2) := Wf.ite_snd h h.startLease

theorem Wf.regReturn {x : BitVec 2} {v : Word} (h : Wf s) : Wf (s.regReturn x v) := Wf.ite h.upd h.upd

theorem Wf.execSemaAcquire {x : BitVec 2} (h : Wf s) : Res.Wf (execSemaAcquire x s) := Wf.ite h h.semaRead.regReturn

theorem Wf.execSemaRenew {x : BitVec 2} (h : Wf s) : Res.Wf (execSemaRenew x s) := Wf.ite h.startLease h

theorem Wf.execSemaRelease {x : BitVec 2} (h : Wf s) : Res.Wf (execSemaRelease x s) := Wf.ite h.freeSema h

theorem Wf.execSemaLeaseExpiry (h : Wf s) : Res.Wf (execSemaLeaseExpiry s) := Wf.ite h.freeSema.raiseIrq h

theorem Wf.newKey {slot : Nat} (h : Wf s) : Wf (s.newKey slot) := h.upd

theorem Wf.execKeySlotLoad {x : BitVec 2} {slot part : Nat} (h : Wf s) : Res.Wf (execKeySlotLoad x slot part s) :=
  h.manage (.ite h.newKey.upd h)

theorem Wf.execHostWindowWrite {part w : Nat} {w0 w1 w2 : Word} (h : Wf s) : Res.Wf (execHostWindowWrite part w w0 w1 w2 s) :=
  Wf.ite h.reject (.ite h.modPartn.upd h)

theorem Wf.apertureHit {part off n : Nat} {wr : Bool} (h : Wf s) : Wf (((s.apertureHit part off n wr).2).2) := Wf.ite h.winLoad h

theorem Wf.classAStore {key a : Nat} {b : List Byte} (h : Wf s) : Wf (s.classAStore key a b) :=
  Wf.foldl (.foldl (h.foldl fun _ _ hs => hs.l2Note) fun _ _ ht => ht.wrDev) fun _ _ ht => .ite ht.setPoison ht

theorem Wf.apertureAccess {part off : Nat} {store : Option (List Byte)} {size : Nat} (h : Wf s) :
    Wf (s.apertureAccess part off store size) := by
  unfold State.apertureAccess
  extract_lets n r key r0 t
  have hr : Wf r.2.2 := h.apertureHit
  have ht : Wf t := .ite hr hr.upd
  split
  · exact .ite ht.classAStore ht
  · exact ht.upd

theorem Wf.tdiStep {vf : Nat} {from_ : List TdiSt} {dst : TdiSt} (h : Wf s) : Wf (s.tdiStep vf from_ dst) := Wf.ite h.modPartn h

theorem Wf.execGetDeviceInterfaceReport {vf : Nat} (h : Wf s) : Res.Wf (execGetDeviceInterfaceReport vf s) := h.upd

/-! ## Queues (`Machine/Queues`) -/

theorem Wf.fwWrite {part key a : Nat} {ws : List Word} (h : Wf s) : ∀ z ∈ s.fwWrite part key a ws, Wf z := by
  dsimp only [State.fwWrite]
  split
  · split
    · exact forall_mem_none
    · exact forall_mem_some h.unitWords
  · split
    · exact forall_mem_none
    · exact forall_mem_some (.withHostMem h.winLoad (memWf_wrBytes _ _ h.hostMem))
  · exact forall_mem_none

theorem Wf.putQ {part q : Nat} {x : Qcb} (h : Wf s) : Wf (s.putQ part q x) := h.modPartn

theorem Wf.writeBlock {part a : Nat} {x : Qcb} (h : Wf s) : ∀ z ∈ s.writeBlock part a x, Wf z :=
  forall_mem_bind h.fwWrite fun _ ht => ht.fwWrite

theorem Wf.errorRecord {part q : Nat} {x : Qcb} {code : Nat} {w1 : Word} {idx : Nat} (h : Wf s) : Wf (s.errorRecord part q x code w1 idx) :=
  Wf.raiseIrq (.getD h.fwWrite h)

theorem Wf.storeQ {part q : Nat} {x : Qcb} (h : Wf s) : Wf (s.storeQ part q x) := by
  dsimp only [State.storeQ]
  split
  · exact h.putQ
  · split
    · next e1 => exact h.putQ.writeBlock _ e1
    · exact Wf.ite h.putQ h.putQ.putQ.errorRecord

theorem Wf.queueError {part q : Nat} {x : Qcb} {code : Nat} {w1 : Word} {idx : Nat} (h : Wf s) : Wf (s.queueError part q x code w1 idx) :=
  h.storeQ.errorRecord

theorem Wf.queueLost {part q : Nat} (h : Wf s) : Wf (s.queueLost part q) := by
  dsimp only [State.queueLost]
  split
  · exact h
  · split
    · exact Wf.ite h h.queueError
    · exact Wf.ite h h.putQ.errorRecord
    · exact h.putQ.raiseIrq

theorem Wf.withQ {part q : Nat} {f : Qcb → State} (h : Wf s) (hf : ∀ x, Wf (f x)) : Wf (s.withQ part q f) := by
  dsimp only [State.withQ]
  split
  · exact hf _
  · exact h.queueLost

theorem Wf.execQueueTableWrite {part q : Nat} {v : Word} (h : Wf s) : Res.Wf (execQueueTableWrite part q v s) :=
  Wf.ite h (.ite h.reject (.ite h h.modPartn))

theorem Wf.execDoorbellKick {part q : Nat} {tail : BitVec 32} (h : Wf s) : Res.Wf (execDoorbellKick part q tail s) :=
  Wf.ite h (h.withQ fun _ => .ite h (.ite h.queueError h.storeQ))

theorem Wf.execDoorbellReset {part q : Nat} (h : Wf s) : Res.Wf (execDoorbellReset part q s) := by
  dsimp only [Machine.execDoorbellReset]
  refine Wf.ite h ?_
  split
  · exact Wf.ite h.storeQ h
  · split
    · exact Wf.ite h.putQ h
    · exact h

theorem Wf.execQueueAccept {part q : Nat} (h : Wf s) : Res.Wf (execQueueAccept part q s) := by
  dsimp only [Machine.execQueueAccept]
  refine h.withQ fun x => .ite h ?_
  split
  · exact h.queueError
  · exact Wf.ite h.storeQ (.ite h.queueError (.ite h.queueError h.storeQ))

theorem Wf.execNopCommand {part q : Nat} (h : Wf s) : Res.Wf (execNopCommand part q s) := by
  dsimp only [Machine.execNopCommand]
  split
  · split
    · exact h.storeQ
    · exact h
  · exact h

theorem Wf.execHold {part q : Nat} (h : Wf s) : Res.Wf (execHold part q s) := by
  dsimp only [Machine.execHold]
  split
  · split
    · exact h.storeQ
    · exact h
  · exact h

theorem Wf.execHoldExpiry {part q : Nat} (h : Wf s) : Res.Wf (execHoldExpiry part q s) := by
  dsimp only [Machine.execHoldExpiry]
  split
  · exact Wf.ite h.storeQ h
  · exact h

theorem Wf.signalGranule {part tenant a : Nat} (h : Wf s) : Wf ((s.signalGranule part tenant a).2) := by
  dsimp only [State.signalGranule]
  split
  · exact Wf.ite_snd h h.unitFull.serveHome
  · exact Wf.ite_snd h h.setFullAt
  · refine Wf.ite_snd h ?_
    split
    · next e1 => exact (e1 ▸ h.tileUpdate : TileAns.Wf (.done _))
    · next e1 => exact (e1 ▸ h.tileUpdate : TileAns.Wf (.hold _))
  · exact h

theorem Wf.execSignal {part q : Nat} (h : Wf s) : Res.Wf (execSignal part q s) := by
  dsimp only [Machine.execSignal]
  split
  · split
    · refine Wf.ite ?_ h
      split
      · exact h.signalGranule.storeQ
      · exact h.signalGranule
    · exact h
  · exact h

theorem Wf.execQueueRetire {part q : Nat} (h : Wf s) : Res.Wf (execQueueRetire part q s) := by
  dsimp only [Machine.execQueueRetire]
  refine h.withQ fun x => ?_
  split
  · exact h
  · refine Wf.ite h (.ite h.storeQ (.ite h ?_))
    split
    · exact h.queueError
    · next e1 => exact Wf.ite (.raiseIrq (.storeQ (h.fwWrite _ e1))) (.storeQ (h.fwWrite _ e1))

theorem Wf.mapQ {part q : Nat} {x : Qcb} (h : Wf s) : Wf (s.mapQ part q x) := h.storeQ

theorem Wf.unmapQ {part q : Nat} {x : Qcb} (h : Wf s) : Wf (s.unmapQ part q x) := h.storeQ

theorem Wf.mapQueues {part x : Nat} (h : Wf s) : Wf (State.mapQueues part x s) := by
  induction x generalizing part s with
  | zero =>
    dsimp only [State.mapQueues]
    exact h
  | succ n ih =>
    dsimp only [State.mapQueues]
    split
    · exact h
    · refine Wf.ite (ih h.mapQ) ?_
      split
      · exact h
      · exact Wf.ite (ih h.unmapQ.mapQ) h

theorem Wf.remap {part : Nat} (h : Wf s) : Wf (s.remap part) := h.mapQueues

theorem Wf.execQueueMapping {part : Nat} (h : Wf s) : Res.Wf (execQueueMapping part s) := h.remap

theorem Wf.execQueueAgeBoundary {part q : Nat} (h : Wf s) : Res.Wf (execQueueAgeBoundary part q s) := by
  dsimp only [Machine.execQueueAgeBoundary]
  split
  · exact Wf.ite h.remap h
  · exact h

theorem Wf.execQueueSliceElapsed {part q : Nat} (h : Wf s) : Res.Wf (execQueueSliceElapsed part q s) := by
  dsimp only [Machine.execQueueSliceElapsed]
  split
  · exact Wf.ite h.remap h
  · exact h

/-! ## The kickoff unit (`Machine/Kickoff`) -/

theorem Wf.kcount {part lo : Nat} (h : Wf s) : Wf (s.kcount part lo) := h.modPartn

theorem Wf.kcountFor {part status : Nat} (h : Wf s) : Wf (s.kcountFor part status) := Wf.ite h.kcount (.ite h.kcount (.ite h.kcount h))

theorem Wf.playDone {k : Nat} {by_ : Option (Nat × Nat × Word)} {status : Nat} (h : Wf s) : Wf (s.playDone k by_ status) := by
  dsimp only [State.playDone]
  split
  · refine Wf.ite h ?_
    split
    · exact h.storeQ
    · exact h
  · exact h

theorem Wf.launch_ {i : PlayInst} {status delay stage : Nat} (h : Wf s) : Wf (s.launch_ i status delay stage) :=
  h.launchWrite.kcountFor.playDone

theorem Wf.submit {part q : Nat} {x : Qcb} {c : QCmd} (h : Wf s) : Wf (s.submit part q x c) := by
  dsimp only [State.submit]
  refine Wf.ite h.playDone ?_
  split
  · exact h.playDone
  · split
    · exact h.launchWrite.playDone
    · exact h.storeQ.upd

theorem Wf.execPlay {part q : Nat} (h : Wf s) : Res.Wf (execPlay part q s) := by
  dsimp only [Machine.execPlay]
  split
  · split
    · exact h.submit
    · exact h
  · exact h

theorem Wf.succeed {i : PlayInst} (h : Wf s) : Wf (s.succeed i) := Wf.ite h h.modInst.upd

theorem Wf.execInstanceDue {n : Nat} (h : Wf s) : Res.Wf (execInstanceDue n s) := by
  dsimp only [Machine.execInstanceDue]
  split
  · exact h
  · exact Wf.ite h (.ite h.succeed.modInst h.succeed)

theorem Wf.among {α : Type} {l : List α} {d : α} (h : Wf s) : Wf ((s.among l d).2) := h.choose

theorem Wf.pickSlots {x : Nat} {x1 : List Nat} (h : Wf s) : Wf ((State.pickSlots x s x1).2) := by
  induction x generalizing s x1 with
  | zero =>
    dsimp only [State.pickSlots]
    exact h
  | succ n ih =>
    dsimp only [State.pickSlots]
    exact ih h.among

theorem Wf.placeFree {per x : Nat} {x1 : List (Nat × Nat)} (h : Wf s) : ∀ z ∈ State.placeFree per x s x1, Wf z.2.2 := by
  induction x generalizing per s x1 with
  | zero =>
    dsimp only [State.placeFree]
    exact forall_mem_some h
  | succ n ih =>
    dsimp only [State.placeFree]
    split
    · exact forall_mem_none
    · exact forall_mem_map (ih h.among.pickSlots) fun _ hz => hz

theorem Wf.placeGang {per x : Nat} {x1 : List (Nat × Nat)} (h : Wf s) : ∀ z ∈ State.placeGang per x s x1, Wf z.2.2 := by
  induction x generalizing per s x1 with
  | zero =>
    dsimp only [State.placeGang]
    exact forall_mem_some h
  | succ n ih =>
    dsimp only [State.placeGang]
    split
    · exact forall_mem_none
    · exact forall_mem_map (ih h.among.pickSlots) fun _ hz => hz

theorem Wf.placeStage {tiles : Bool} {av : List (Nat × Nat)} {st : StageEnt} (h : Wf s) : ∀ z ∈ s.placeStage tiles av st, Wf z.2.2 := by
  dsimp only [State.placeStage]
  split
  · exact forall_mem_none
  · refine forall_mem_map ?_ fun _ hz => hz
    split
    · exact h.placeGang
    · exact h.placeFree

theorem Wf.placeIn {tiles : Bool} {x : List (Nat × StageEnt)} {x1 : List (Nat × Nat)} (h : Wf s) :
    ∀ z ∈ State.placeIn tiles x s x1, Wf z.2 := by
  induction x generalizing tiles s x1 with
  | nil =>
    dsimp only [State.placeIn]
    exact forall_mem_some h
  | cons x r ih =>
    dsimp only [State.placeIn]
    split
    · exact forall_mem_none
    · next e => exact forall_mem_map (ih (h.placeStage _ e)) fun _ hw => hw

theorem Wf.fitIn {tiles : Bool} {sts : List StageEnt} {av : List (Nat × Nat)} (h : Wf s) : ∀ z ∈ s.fitIn tiles sts av, Wf z.2 := by
  dsimp only [State.fitIn]
  split
  · next e => exact forall_mem_some (h.placeIn _ e)
  · split
    · exact forall_mem_none
    · exact forall_mem_map forall_mem_true fun _ _ => h

theorem Wf.tileInit {m : ImageRec} {q : Nat} {x : Nat × Nat} (h : Wf s) : Wf (s.tileInit m q x) :=
  Wf.ite h (h.modTile.unitWrite.foldl fun _ _ ht => ht.unitFull.serveHome)

theorem Wf.createCtx {i : PlayInst} {k : Nat} {st : StageEnt} {m : ImageRec} {j : Nat} {cell : Nat × Nat} (h : Wf s) :
    Wf (s.createCtx i k st m j cell) :=
  Wf.ite (.upd (.storeArea (.upd (.newTag (.ite h.upd h))))) (.endRetain (.wakeCore (.place (.resumePins (.upd
      (.newTag (.ite h.upd h)))))))

theorem Wf.startStreams {m : ImageRec} {cells : List (Nat × Nat)} (h : Wf s) : Wf (s.startStreams m cells) :=
  h.foldl fun _ _ ht => ht.modStream

theorem Wf.releaseStage {i : PlayInst} {k : Nat} {st : StageEnt} {m : ImageRec} (h : Wf s) : Wf (s.releaseStage i k st m) := by
  unfold State.releaseStage
  extract_lets cells s1 s2 s3
  have h1 : Wf s1 := h.foldl fun _ _ ht => ht.foldl fun _ _ hu => hu.tileInit
  have h2 : Wf s2 := h1.foldl fun _ _ ht => ht.createCtx
  exact (Wf.ite h2.startStreams h2).modInst

theorem Wf.giveUp {i : PlayInst} (h : Wf s) : Wf (s.giveUp i) :=
  Wf.ite (.ite h.succeed.dropInst.endRecord h.succeed.dropInst) h.succeed.modInst

theorem Wf.replace {i : PlayInst} {k : Nat} {st : StageEnt} (h : Wf s) : Wf (s.replace i k st) := by
  dsimp only [State.replace]
  split
  · next e => exact Wf.modInst (h.fitIn _ e)
  · exact Wf.ite h.giveUp.launch_ h

theorem Wf.releaseNext {i : PlayInst} (h : Wf s) : Wf (s.releaseNext i) := by
  dsimp only [State.releaseNext]
  split
  · exact h
  · split
    · exact h
    · split
      · exact h.giveUp.launch_
      · exact Wf.ite h.replace (.ite h.releaseStage h.releaseStage.modInst.launch_)

theorem Wf.reserve {i : PlayInst} {cells : List (List (Nat × Nat))} (h : Wf s) : Wf (s.reserve i cells) := h.modInst

theorem Wf.tryPlace {i : PlayInst} (h : Wf s) : Wf (s.tryPlace i) := by
  dsimp only [State.tryPlace]
  split
  · exact h.giveUp.launch_
  · refine Wf.ite h.giveUp.launch_ (.ite h ?_)
    split
    · next e1 => exact Wf.reserve (h.fitIn _ e1)
    · exact h

theorem Wf.dropLate {i : PlayInst} (h : Wf s) : Wf (s.dropLate i) := h.giveUp.launch_

theorem Wf.execStageRelease {n : Nat} (h : Wf s) : Res.Wf (execStageRelease n s) := by
  dsimp only [Machine.execStageRelease]
  split
  · exact h
  · exact Wf.ite h (.ite h.dropLate (.ite h.tryPlace (.ite h (.ite h h.releaseNext))))

theorem Wf.execLaunchWindowExpiry {n : Nat} (h : Wf s) : Res.Wf (execLaunchWindowExpiry n s) := by
  dsimp only [Machine.execLaunchWindowExpiry]
  split
  · exact h
  · exact Wf.ite h (.ite h.modInst h.dropLate)

theorem Wf.descPlace {part : Nat} (h : Wf s) : Wf ((s.descPlace part).2) := h.choose

theorem Wf.sendMoves {part reason : Nat} {mspill : Bool} {core : Nat} {ms : List Move} (h : Wf s) :
    Wf (s.sendMoves part reason mspill core ms) := h.descPlace.unitWords.preemptMessage.upd

theorem Wf.sendAll {part reason : Nat} {mspill : Bool} {ms : List Move} (h : Wf s) : Wf (s.sendAll part reason mspill ms) :=
  h.foldl fun _ _ ht => ht.sendMoves

theorem Wf.goOut {cid : Nat} {stay : Option Nat} (h : Wf s) : Wf (s.goOut cid stay) := h.upd

theorem Wf.goIn {cid : Nat} (h : Wf s) : Wf (s.goIn cid) := h.upd

theorem Wf.rotationSwap {r : Rotation} {v : Ctx} {inn : Nat} {mspill : Bool} (hr : Wf r.s) : Wf (r.swap v inn mspill).s := hr.goOut

theorem Wf.rotationGrow {r : Rotation} {i : PlayInst} {free : List (Nat × Nat)} {x x1 : List Ctx} (hr : Wf r.s) :
    ∀ z ∈ r.grow i free x x1, Wf z.2 := by
  induction x1 generalizing r i free x with
  | nil =>
    dsimp only [Rotation.grow]
    exact hr.fitIn
  | cons x r ih =>
    dsimp only [Rotation.grow]
    split
    · next e => exact forall_mem_some (hr.fitIn _ e)
    · exact ih hr

theorem Wf.rotationTake {r : Rotation} {i : PlayInst} {cells : List (List (Nat × Nat))} {vs : List Ctx} {mspill : Bool} (hr : Wf r.s) :
    Wf (r.take i cells vs mspill).s := by
  dsimp only [Rotation.take]
  split
  · exact hr.reserve
  · split
    · exact Wf.rotationFoldl hr.reserve fun _ _ ht => .rotationSwap ht
    · refine Wf.rotationFoldl (hr.reserve.foldl fun t a ht => ?_) fun t v ht => ?_
      · split
        · exact Wf.ite ht ht.releaseNext
        · exact ht
      · split
        · exact ht
        · exact Wf.rotationSwap ht

theorem Wf.rotationServe {part : Nat} {mspill : Bool} {r : Rotation} {w : Waiter} (hr : Wf r.s) :
    Wf (Rotation.serve part mspill r w).s := by
  dsimp only [Rotation.serve]
  split
  · split
    · exact hr
    · split
      · next e => exact Wf.rotationTake ((Wf.rotationGrow hr) _ e)
      · exact hr
  · split
    · exact hr.goIn
    · split
      · split
        · exact Wf.goIn (.rotationSwap hr)
        · exact hr
      · exact hr

theorem Wf.evacuate {part : Nat} (h : Wf s) : Wf (s.evacuate part) := by
  dsimp only [State.evacuate]
  refine h.foldl fun t c ht => ?_
  split
  · exact Wf.ite ht ht.storeCtx.goOut
  · exact ht

theorem Wf.execSliceRotation {part : Nat} (h : Wf s) : Res.Wf (execSliceRotation part s) :=
  Wf.ite h (.sendAll (.rotationFoldl h.modPartn.evacuate.choose fun _ _ hr => .rotationServe hr))

theorem Wf.execGangPatienceExpiry {n : Nat} (h : Wf s) : Res.Wf (execGangPatienceExpiry n s) := by
  dsimp only [Machine.execGangPatienceExpiry]
  split
  · exact h
  · exact Wf.ite h (.ite h h.modInst.kcount)

theorem Wf.execDrainExpiry {part : Nat} (h : Wf s) : Res.Wf (execDrainExpiry part s) := by
  unfold Machine.execDrainExpiry
  show Wf _
  split
  · exact h
  · split
    · exact h
    · extract_lets outs r0 r s1
      have h0 : Wf r0.s := Wf.rotationFoldl h fun _ _ ht => ht.rotationSwap
      have hr : Wf r.s := by
        refine Wf.rotationFoldl h0 fun t w ht => ?_
        split
        · split
          · exact ht.goIn
          · exact ht
        · exact ht
      have h1 : Wf s1 := hr.sendAll
      split
      · exact h1
      · split
        · next e => exact (h1.fitIn _ e).reserve
        · exact h1

/-! ## The seal unit (`Machine/Seal`) -/

theorem Wf.modSeal {f : SealUnit → SealUnit} (h : Wf s) : Wf (s.modSeal f) := h.upd

theorem Wf.modSealEnt {i : Nat} {f : SealEnt → SealEnt} (h : Wf s) : Wf (s.modSealEnt i f) := h.modSeal

theorem Wf.recall {base len : Nat} (h : Wf s) : Wf (s.recall base len) := Wf.upd (h.foldl fun _ _ hu => .ite hu.unitReady.leftCache hu)

theorem Wf.sealResult {r : Nat} (h : Wf s) : Wf (s.sealResult r) := h.modSeal

theorem Wf.sealCmd {i desc : Nat} (h : Wf s) : Wf (s.sealCmd i desc) := by
  dsimp only [State.sealCmd]
  refine Wf.ite h.sealResult ?_
  split
  · exact h.sealResult
  · exact Wf.ite h.sealResult (.ite h.sealResult (.ite h.sealResult h.modSealEnt.modSeal.recall))

theorem Wf.execSeal {i desc : Nat} (h : Wf s) : Res.Wf (execSeal i desc s) := Wf.ite h.modSeal h.modSeal.modSeal.sealCmd

theorem Wf.sealDone {i : Nat} (h : Wf s) : Wf (s.sealDone i) := Wf.ite h.modSealEnt.sealResult h

theorem Wf.revokeCtx {e : SealEnt} {c : Ctx} (h : Wf s) : Wf (s.revokeCtx e c) := by
  dsimp only [State.revokeCtx]
  refine Wf.ite h ?_
  split
  · exact h.upd
  · exact h.upd
  · exact h.place
  · exact h.place
  · exact h.place
  · exact h.place
  · exact h

theorem Wf.revokeEnt {i : Nat} (h : Wf s) : Wf (s.revokeEnt i) := Wf.flushText (h.modSealEnt.recall.foldl fun _ _ ht => ht.revokeCtx)

theorem Wf.revokeCmd {i : Nat} (h : Wf s) : Wf (s.revokeCmd i) := Wf.ite h.revokeEnt.sealResult h.sealResult

theorem Wf.execRevoke {i : Nat} (h : Wf s) : Res.Wf (execRevoke i s) := Wf.ite h h.modSeal.revokeCmd

theorem Wf.revokeTgenCmd {g : BitVec 32} (h : Wf s) : Wf (s.revokeTgenCmd g) :=
  Wf.ite h.sealResult (.sealResult (h.modSeal.foldl fun _ _ ht => ht.revokeEnt))

theorem Wf.execRevokeTgen {tgen : BitVec 32} (h : Wf s) : Res.Wf (execRevokeTgen tgen s) := Wf.ite h h.modSeal.revokeTgenCmd

theorem Wf.freeCmd {i : Nat} (h : Wf s) : Wf (s.freeCmd i) := Wf.ite h.modSealEnt.sealResult h.sealResult

theorem Wf.execFree {i : Nat} (h : Wf s) : Res.Wf (execFree i s) := Wf.ite h h.modSeal.freeCmd

theorem Wf.revokeDone {i : Nat} (h : Wf s) : Wf (s.revokeDone i) := Wf.ite h.modSealEnt h

theorem Wf.recheckEnt {i : Nat} (h : Wf s) : Wf (s.recheckEnt i) := Wf.ite h.revokeEnt.rootReport h

theorem Wf.execSealRecheck (h : Wf s) : Res.Wf (execSealRecheck s) := Wf.ite h (h.modSeal.foldl fun _ _ hs => hs.recheckEnt)

/-! ## Compaction (`Machine/Compaction`) -/

theorem Wf.compactPause {j : Compact} (h : Wf s) : Wf (s.compactPause j) := h.sendAll

theorem Wf.compactTile {x : Nat × Nat × TileEnt} (h : Wf s) : Wf (s.compactTile x) := Wf.ite h.startFetch (.ite h.depart h)

theorem Wf.moveWindows {j : Compact} {r : Nat × Nat} (h : Wf s) : Wf (s.moveWindows j r) := h.modPartn.upd

theorem Wf.moveExtent {j : Compact} {x : Nat × Extent} (h : Wf s) : Wf (State.moveExtent j s x) := h.unitWords.unitWords.extentGone

theorem Wf.copyRange {key a n : Nat} {d : Int} (h : Wf s) : Wf (s.copyRange key a n d) :=
  h.foldl fun _ _ ht => .ite ht.unitWrite.unitFull ht.unitWrite.unitFull.setPoison

theorem Wf.scrubGran {key a : Nat} (h : Wf s) : Wf (State.scrubGran key s a) := Wf.ite h.unitWrite.unitFull h.unitWrite.unitFull.setPoison

theorem Wf.compactScrub {j : Compact} {e : SealEnt} {r : Nat × Nat} (h : Wf s) : Wf (s.compactScrub j e r) :=
  Wf.foldl (h.foldl fun _ _ hs => hs.scrubGran) fun _ _ hs => hs.scrubGran

theorem Wf.moveArea {j : Compact} {e : SealEnt} {map : Nat → Word × Word} {p : Nat × Ctx} (h : Wf s) :
    Wf (State.moveArea j e map s p) := by
  unfold State.moveArea
  extract_lets w put text pc m s1 s2 s3 s4
  have h1 : Wf s1 := .ite h.patchArea h
  have h2 : Wf s2 := .ite h1.patchArea h1
  have h4 : Wf s4 := h2.patchArea.patchArea.foldl fun _ _ ht => .ite ht.patchArea (.ite ht.patchArea ht)
  exact h4.upd

theorem Wf.compactAt {st : CompactSt} (h : Wf s) : Wf (s.compactAt st) := h.upd

theorem Wf.compactEnd (h : Wf s) : Wf s.compactEnd := h.upd

theorem Wf.compactCopy {j : Compact} {e : SealEnt} {r : Nat × Nat} (h : Wf s) : Wf (s.compactCopy j e r) :=
  Wf.ite h.copyRange.unitWrite.unitWords.modSeal.sealCmd.compactAt h.copyRange.unitWrite.unitWords.modSeal.sealCmd.compactEnd

theorem Wf.compactFinish {j : Compact} {e : SealEnt} {r : Nat × Nat} (h : Wf s) : Wf (s.compactFinish j e r) :=
  Wf.compactEnd (.foldl (h.modSeal.freeCmd.compactScrub.foldl fun _ _ hs => hs.moveArea) fun _ _ ht => ht.goOut)

theorem Wf.compactStep (h : Wf s) : Wf s.compactStep := by
  dsimp only [State.compactStep]
  split
  · exact h
  · split
    · exact h.compactPause.compactAt
    · exact Wf.ite h.compactAt (h.compactPause.foldl fun _ _ hs => hs.compactTile)
    · exact Wf.compactAt (h.moveWindows.foldl fun _ _ hs => hs.moveExtent)
    · exact Wf.ite h h.compactCopy
    · exact Wf.ite h h.modSeal.revokeCmd.compactAt
    · exact Wf.ite h.compactFinish h

theorem Wf.execExtentInvalidate {entry : Nat} (h : Wf s) : Res.Wf (execExtentInvalidate entry s) := h.extentGone.compactStep

theorem Wf.execExtentInvalidateDone {entry : Nat} (h : Wf s) : Res.Wf (execExtentInvalidateDone entry s) := h.extentDone.compactStep

theorem Wf.execSealDone {i : Nat} (h : Wf s) : Res.Wf (execSealDone i s) := h.sealDone.compactStep

theorem Wf.execRevokeDone {i : Nat} (h : Wf s) : Res.Wf (execRevokeDone i s) := h.revokeDone.compactStep

/-! ## Branches (`Machine/ControlFlow`) -/

theorem keeps_branchOp {a : Word} : Keeps (branchOp a) := Keeps.modS fun _ hs => hs.modMe

theorem keeps_branchIf {b : Bool} {off : Word} : Keeps (branchIf b off) := by
  intro s hs
  dsimp only [Machine.branchIf]
  split
  · exact keeps_branchOp _ hs
  · exact hs

theorem keeps_checkTarget {a : Word} : Keeps (checkTarget a) := keeps_trapIf

theorem Wf.execCall {i : BitVec 10} {p : Pxi} {s0 : State} (h : Wf s0) : Res.Wf (execCall i p s0) :=
  Wf.issueOp (.bind keeps_writeG fun _ => keeps_branchIf) h

theorem Wf.execBc {c : BcCond} {sr : Reg} {i : BitVec 4} {p : Pxi} (h : Wf s) : Res.Wf (execBc c sr i p s) :=
  Wf.issueOp (.bind keeps_gate fun _ => .bind keeps_readG fun _ => keeps_branchIf) h

theorem Wf.execBcmp {c : BcmpCond} {d sr : Reg} {p : Pxi} (h : Wf s) : Res.Wf (execBcmp c d sr p s) :=
  Wf.issueOp (.bind keeps_gate fun _ => .bind keeps_readG fun _ => .bind keeps_readG fun _ => keeps_branchIf) h

theorem Wf.execJmp {sr : Reg} (h : Wf s) : Res.Wf (execJmp sr s) :=
  Wf.issueOp (.bind keeps_gate fun _ => .bind keeps_readG fun _ => .bind keeps_checkTarget fun _ => keeps_branchOp) h

theorem Wf.execCallr {sr : Reg} {s0 : State} (h : Wf s0) : Res.Wf (execCallr sr s0) :=
  Wf.issueOp (.bind keeps_gate fun _ => .bind keeps_readG fun _ => .bind keeps_checkTarget fun _ =>
    .bind keeps_writeG fun _ => keeps_branchOp) h

theorem Wf.execRet (h : Wf s) : Res.Wf (execRet s) :=
  Wf.issueOp (.bind keeps_readG fun _ => .bind keeps_checkTarget fun _ => keeps_branchOp) h

theorem Wf.execBqb {sense : Bool} {i : BitVec 9} {p : Pxi} (h : Wf s) : Res.Wf (execBqb sense i p s) :=
  Wf.issueOp (.bind keeps_gate fun _ => .bind keeps_readG fun _ => keeps_branchIf) h

/-! ## Links and remote requests (`Machine/Links`) -/

theorem Wf.execLinkTrain {port : Nat} (h : Wf s) : Res.Wf (execLinkTrain port s) := Wf.ite h.modLink h

theorem Wf.execLinkTrained {port pnode pport : Nat} (h : Wf s) : Res.Wf (execLinkTrained port pnode pport s) :=
  Wf.ite h.modLink.resendAll h

theorem Wf.execLaneLockLoss {port : Nat} (h : Wf s) : Res.Wf (execLaneLockLoss port s) := Wf.ite h.portFails h

theorem Wf.execLinkIdleTimeout {port : Nat} (h : Wf s) : Res.Wf (execLinkIdleTimeout port s) := Wf.ite h.portFails h

theorem Wf.execReplayLimit {port : Nat} (h : Wf s) : Res.Wf (execReplayLimit port s) := Wf.ite h.portFails h

theorem Wf.flitIn {port : Nat} {f : Flit} (h : Wf s) : Wf (s.flitIn port f) := by
  dsimp only [State.flitIn]
  refine Wf.ite h.modLink ?_
  split
  · exact h.modLink
  · exact h.modLink.modLink.upd

theorem Wf.execFlitReceive {port : Nat} {f : Flit} (h : Wf s) : Res.Wf (execFlitReceive port f s) :=
  Wf.ite h (.ite h.modLink (.ite h.modLink (.ite h.modLink (.ite h.flitIn h.modLink))))

theorem Wf.answer {p : Packet} {kind part cause rank : Nat} {data : List Byte} (h : Wf s) : Wf (s.answer p kind part cause rank data) :=
  h.sendOne

theorem Wf.markSeen {p : Packet} (h : Wf s) : Wf (s.markSeen p) := h.upd

theorem Wf.execWrite {p : Packet} (h : Wf s) : Res.Wf (execWrite p s) := by
  dsimp only [Machine.execWrite]
  refine h.arriving fun s1 hs1 => .ite hs1.answer ?_
  split
  · exact hs1.answer
  · exact Wf.ite hs1.farReady.waitHere (.answer (.markSeen (.wholeLines (hs1.farReady.foldl fun _ _ ht => ht.farWrite))))

theorem Wf.execRead {p : Packet} (h : Wf s) : Res.Wf (execRead p s) := by
  dsimp only [Machine.execRead]
  refine h.arriving fun s1 hs1 => ?_
  split
  · exact hs1.answer
  · exact Wf.ite hs1.farReady.waitHere (.answer (.ite hs1.farReady hs1.farReady.markSeen))

theorem Wf.take {p : Packet} (h : Wf s) : Wf (s.take p) := by
  dsimp only [State.take]
  split
  · exact h.answered
  · exact h.answered.modCmd

theorem Wf.execReadReply {p : Packet} (h : Wf s) : Res.Wf (execReadReply p s) := h.arriving fun _ hs1 => hs1.take

theorem Wf.execWriteAck {p : Packet} (h : Wf s) : Res.Wf (execWriteAck p s) := h.arriving fun _ hs1 => hs1.take

theorem Wf.execRemoteDeadline {id : Nat} (h : Wf s) : Res.Wf (execRemoteDeadline id s) := by
  unfold Machine.execRemoteDeadline
  show Wf _
  split
  · exact h
  · split
    · exact h
    · refine .ite ?_ h
      extract_lets down n s1 s2
      have h1 : Wf s1 := h.foldl fun _ _ ht => ht.answered
      exact (Wf.ite h1 h1.landRemote).endCmd

theorem Wf.remoteAdd {p : Packet} (h : Wf s) : Wf ((s.remoteAdd p).1) := by
  dsimp only [State.remoteAdd]
  split
  · split
    · exact h.homeReady.perform.serveHomes
    · exact h.homeReady
  · split
    · exact h.touch.perform.serveTiles
    · exact h.forceFetch
  · exact h

theorem Wf.execAtomic {p : Packet} (h : Wf s) : Res.Wf (execAtomic p s) := by
  dsimp only [Machine.execAtomic]
  refine h.arriving fun s1 hs1 => ?_
  split
  · exact hs1.answer
  · refine Wf.ite hs1.waitHere ?_
    split
    · exact hs1.answer
    · split
      · exact hs1.remoteAdd.waitHere
      · exact hs1.remoteAdd.upd.answer

theorem Wf.execAtomicReply {p : Packet} (h : Wf s) : Res.Wf (execAtomicReply p s) :=
  h.arriving fun _ hs1 => .ite hs1.answered.upd.sendOne hs1

theorem Wf.execRelease {p : Packet} (h : Wf s) : Res.Wf (execRelease p s) := h.arriving fun _ hs1 => hs1.upd

theorem Wf.execBudgetPeriod (h : Wf s) : Res.Wf (execBudgetPeriod s) := by
  unfold Machine.execBudgetPeriod
  refine .ite h ?_
  extract_lets s1 fab s2 s3 s4
  have h1 : Wf s1 := h.foldl fun _ _ ht => .ite ht ht.place
  have h2 : Wf s2 := h1.upd
  have h3 : Wf s3 := h2.foldl fun _ _ ht => ht.sendWaiting
  have h4 : Wf s4 := h3.foldl fun _ _ ht => ht.cgrpDone
  refine h4.foldl fun t r ht => ?_
  split
  · exact ht.collSend
  · exact ht

/-! ## Tile instructions (`Machine/TileOps`) -/

theorem keeps_tileAt {code a : Nat} : Keeps (tileAt code a) := by
  intro s hs
  dsimp only [Machine.tileAt]
  split
  · exact hs
  · exact keeps_accTrap _ hs

theorem keeps_owned {code a q t : Nat} : Keeps (owned code a q t) := by
  intro s hs
  dsimp only [Machine.owned]
  split
  · exact keeps_accTrap _ hs
  · split
    · exact hs
    · exact trivial

theorem Wf.tileUpd {op ty n : Nat} {d sr : Reg} {s0 : State} (h : Wf s0) : Res.Wf (tileUpd op ty n d sr s0) :=
  Wf.issueOp (.bind keeps_needUnit fun _ => .bind keeps_readG fun _ => .bind keeps_alignTo fun _ =>
    .bind keeps_tileAt fun _ => .bind keeps_readG fun _ => keeps_tileWrite h) h

theorem keeps_roomTl : Keeps roomTl := by
  intro s hs
  dsimp only [Machine.roomTl]
  split
  · exact hs
  · exact trivial

theorem Wf.countArrival {q t : Nat} (h : Wf s) : Wf (s.countArrival q t) := h.modTile.modMe

theorem Wf.execTpin {sr : Reg} {s0 : State} (h : Wf s0) : Res.Wf (execTpin sr s0) := by
  unfold Machine.execTpin
  refine Wf.issueOp (.bind keeps_needUnit fun _ => .bind keeps_readG fun _ => ?_) h
  extract_lets a
  refine .bind keeps_tileAt fun _ => .getS fun _ _ => ?_
  extract_lets e pin
  have hpin : Keeps (pin ()) := by
    refine .modS fun s1 h1 => ?_
    extract_lets s2 s3
    have h3 : Wf s3 := .ite h1.modTile.startFetch h1.modTile
    exact .ite h3.countArrival h3
  exact .bind keeps_illegalIf fun _ => .bind keeps_owned fun _ =>
    .ite (keeps_holdOn h) (.ite (.bind keeps_roomTl fun _ => hpin) hpin)

theorem Wf.execTunpin {sr : Reg} {s0 : State} (h : Wf s0) : Res.Wf (execTunpin sr s0) :=
  Wf.issueOp (.bind keeps_needUnit fun _ => .bind keeps_readG fun _ => .bind keeps_tileAt fun _ =>
    .getS fun _ _ => .bind keeps_illegalIf fun _ => .bind keeps_owned fun _ => .modS fun _ hs1 => hs1.modTile.retryClaims) h

theorem Wf.execTfetch {sr : Reg} {s0 : State} (h : Wf s0) : Res.Wf (execTfetch sr s0) :=
  Wf.issueOp (.bind keeps_needUnit fun _ => .bind keeps_readG fun _ => .bind keeps_tileAt fun _ =>
    .bind keeps_owned fun _ => .getS fun _ _ => .ite .pure (.bind keeps_roomTl fun _ =>
    .modS fun _ hs1 => .countArrival (.ite hs1.startFetch hs1))) h

theorem Wf.execTevict {d sr : Reg} {s0 : State} (h : Wf s0) : Res.Wf (execTevict d sr s0) :=
  Wf.issueOp (.bind keeps_needUnit fun _ => .bind keeps_readG fun _ => .bind keeps_tileAt fun _ =>
    .bind keeps_owned fun _ => .getS fun _ _ => .ite (.bind keeps_roomTl fun _ => .bind
    (.modS fun _ hs1 => hs1.depart.modTile.modMe) fun _ => keeps_writeG) keeps_writeG) h

theorem Wf.execTstat {d sr : Reg} {s0 : State} (h : Wf s0) : Res.Wf (execTstat d sr s0) :=
  Wf.issueOp (.bind keeps_needUnit fun _ => .bind keeps_readG fun _ => .bind keeps_tileAt fun _ =>
    .bind keeps_owned fun _ => .getS fun _ _ => keeps_writeG) h

theorem Wf.execTsync {d sr : Reg} {s0 : State} (h : Wf s0) : Res.Wf (execTsync d sr s0) := by
  dsimp only [Machine.execTsync]
  refine Wf.issueOp (.bind keeps_needUnit fun x => .bind keeps_readG fun x1 => .bind keeps_tileAt fun z =>
      .bind keeps_owned fun x2 => .bind keeps_roomG fun x3 => .getS fun s hs => ?_) h
  split
  · exact keeps_writeG
  · exact keeps_holdOn h
  · exact Keeps.goOp h.forceFetch.modMe

/-! ## Replies and the memory units (`Machine/MemUnits`) -/

theorem Wf.acqFails {r : LoadRep} {cls : TrapClass} {why : Nat} {d : Reg} {full : Bool} (h : Wf s) : Wf (s.acqFails r cls why d full) :=
  h.onCtx.postTrap

theorem Wf.takeLoad {r : LoadRep} {rest : List LoadRep} (h : Wf s) : Wf (s.takeLoad r rest) := by
  dsimp only [State.takeLoad]
  split
  · split
    · exact h
    · next e1 => exact Wf.ite (.lateTrap (.onCtx (h.upd.deliverG _ e1))) (.onCtx (h.upd.deliverG _ e1))
  · exact Wf.getD h.upd.complete h
  · exact Wf.ite h.upd.onCtx (.ite h.upd.onCtx h.upd.onCtx.onCtx)
  · split
    · exact Wf.acqFails (.onCtx (.ite h.upd h.upd))
    · exact Wf.lateTrap (.onCtx (.ite h.upd h.upd))

theorem Wf.execLoadReply {cid : Nat} (h : Wf s) : Res.Wf (execLoadReply cid s) := by
  dsimp only [Machine.execLoadReply]
  refine Wf.reapSaved ?_
  split
  · exact h
  · exact h.takeLoad

theorem Wf.hush {cid tag : Nat} (h : Wf s) : Wf (s.hush cid tag) := Wf.ite h h.upd

theorem Wf.takeAck {r : StoreRep} {rest : List StoreRep} (h : Wf s) : Wf (s.takeAck r rest) := by
  unfold State.takeAck
  extract_lets t0 t t1
  have ht : Wf t := .ite h.upd.hush h.upd
  have h1 : Wf t1 := .ite ht ht.onCtx
  split
  · exact h1
  · exact h1.lateTrap

theorem Wf.execStoreAck {cid : Nat} (h : Wf s) : Res.Wf (execStoreAck cid s) := by
  dsimp only [Machine.execStoreAck]
  refine Wf.reapSaved ?_
  split
  · exact h
  · exact h.takeAck

theorem Wf.execSliceRequest {slice : Nat} {evict : List Nat} (h : Wf s) : Res.Wf (execSliceRequest slice evict s) :=
  Wf.reportEvicted (.sliceStep (h.foldl fun _ _ ht => ht.sliceEvict))

theorem Wf.execHomeRequest {channel : Nat} (h : Wf s) : Res.Wf (execHomeRequest channel s) := h.homeStep.reportEvicted

theorem Wf.execRemoteUpdate {unit : Nat} (h : Wf s) : Res.Wf (execRemoteUpdate unit s) := h.rupdStep

theorem Wf.execRequestReissue {cid : Nat} (h : Wf s) : Res.Wf (execRequestReissue cid s) := Wf.ite h.upd.modLive h.upd

theorem Wf.execWithdrawal {cid : Nat} (h : Wf s) : Res.Wf (execWithdrawal cid s) := Wf.ite h.unlist.upd.modLive h

theorem Wf.execSnapshotArm {channel : Nat} (h : Wf s) : Res.Wf (execSnapshotArm channel s) := Wf.ite h.modChan h

theorem Wf.execSnapshotStop {channel : Nat} (h : Wf s) : Res.Wf (execSnapshotStop channel s) := h.modChan

theorem Wf.execSnapshotStart {channel : Nat} (h : Wf s) : Res.Wf (execSnapshotStart channel s) :=
  Wf.ite (h.modChan.foldl fun _ _ ht => ht.areaByte) h

theorem Wf.execSnapshotCopyDone {channel : Nat} (h : Wf s) : Res.Wf (execSnapshotCopyDone channel s) := h.copyDone

theorem Wf.execSnapshotRead {channel page key gran : Nat} (h : Wf s) : Res.Wf (execSnapshotRead channel page key gran s) := h.upd

theorem Wf.execL1LineExpiry {core line : Nat} (h : Wf s) : Res.Wf (execL1LineExpiry core line s) := h.l1Keep

theorem Wf.writeL1mode {core : Nat} {v : Word} (h : Wf s) : Wf (s.writeL1mode core v) := Wf.ite h.l1Clear.modCore h

theorem Wf.execL1modeWrite {core : Nat} {v : Word} (h : Wf s) : Res.Wf (execL1modeWrite core v s) := h.writeL1mode

theorem Wf.writeTlcap {q : Nat} {v : Word} (h : Wf s) : Wf (s.writeTlcap q v) := by
  unfold State.writeTlcap
  exact h.modSquad

theorem Wf.execTlcapWrite {squad : Nat} {v : Word} (h : Wf s) : Res.Wf (execTlcapWrite squad v s) := Wf.ite h.writeTlcap h

theorem Wf.assignOwner {q : Nat} {v : Word} (h : Wf s) : Wf (s.assignOwner q v) := by
  unfold State.assignOwner
  exact Wf.modSquad (.ite h.modTile h)

theorem Wf.execTileOwnerAssign {squad : Nat} {v : Word} (h : Wf s) : Res.Wf (execTileOwnerAssign squad v s) := h.assignOwner

theorem Wf.execTileAccess {core slot : Nat} (h : Wf s) : Res.Wf (execTileAccess core slot s) := by
  dsimp only [Machine.execTileAccess]
  split
  · exact h
  · split
    · exact Wf.ite h.place h
    · exact h

theorem Wf.execTileArrival {squad tile : Nat} (h : Wf s) : Res.Wf (execTileArrival squad tile s) := Wf.ite h.claim h.tileArrive

theorem Wf.execTileDepartureDone {squad tile : Nat} (h : Wf s) : Res.Wf (execTileDepartureDone squad tile s) := h.tileDeparted

/-! ## Partitions (`Machine/Partitions`) -/

theorem Wf.configWrite {part : Nat} {r : PartReg} {v : Word} (h : Wf s) : ∀ z ∈ s.configWrite part r v, Wf z := by
  dsimp only [State.configWrite]
  split
  · exact forall_mem_none
  · split
    · split
      · exact forall_mem_none
      · exact forall_mem_some h.modPartn
    · split
      · exact forall_mem_none
      · exact forall_mem_some h.modPartn
    · split
      · exact forall_mem_none
      · exact forall_mem_some h.modPartn
    · split
      · exact forall_mem_none
      · exact forall_mem_some h.modPartn

theorem Wf.execPartitionConfigWrite {part : Nat} {r : PartReg} {v : Word} (h : Wf s) : Res.Wf (execPartitionConfigWrite part r v s) :=
  h.manage (.ite (.getD h.configWrite h) h)

theorem Wf.tagSupervisors {part : Nat} (h : Wf s) : Wf (s.tagSupervisors part) := h.foldl fun _ _ ht => ht.place

theorem Wf.activatePart {part : Nat} (h : Wf s) : Wf (s.activatePart part) := Wf.ite h.modPartn.tagSupervisors h

theorem Wf.execPartitionActivate {part : Nat} (h : Wf s) : Res.Wf (execPartitionActivate part s) := h.manage h.activatePart

theorem Wf.pausePart {part : Nat} (h : Wf s) : Wf (s.pausePart part) := h.sendAll

theorem Wf.dropCommands {part : Nat} (h : Wf s) : Wf (s.dropCommands part) := by
  dsimp only [State.dropCommands]
  refine h.foldl fun t q ht => ?_
  split
  · exact ht
  · exact Wf.ite ht ht.storeQ

theorem Wf.drainPart {part : Nat} (h : Wf s) : Wf (s.drainPart part) := Wf.ite h.modPartn.upd.dropCommands.pausePart h

theorem Wf.execPartitionDrain {part : Nat} (h : Wf s) : Res.Wf (execPartitionDrain part s) := Wf.ite h.pausePart (h.manage h.drainPart)

theorem Wf.endSaved {p : Nat × Ctx} (h : Wf s) : Wf (s.endSaved p) := h.unlist.upd.forget

theorem Wf.scrubPart {part : Nat} (h : Wf s) : Wf (s.scrubPart part) := (h.withMem (memWf_filter _ h.mem)).upd

theorem Wf.execPartitionDrainDone {part : Nat} (h : Wf s) : Res.Wf (execPartitionDrainDone part s) := by
  unfold Machine.execPartitionDrainDone
  refine .ite h ?_
  extract_lets s1 s2 owned s3 s4 ks s5
  have h1 : Wf s1 := h.foldl fun _ _ ht => ht.endContext
  have h2 : Wf s2 := h1.foldl fun _ _ ht => ht.endSaved
  have h3 : Wf s3 := h2.foldl fun _ _ ht => ht.modSquad
  have h5 : Wf s5 := h3.scrubPart.foldl fun _ _ ht => ht.newKey.upd
  exact h5.modPartn

/-! ## Control registers (`Machine/ControlRegs`) -/

theorem Wf.execCrd {d : Reg} {n : BitVec 12} {s0 : State} (h : Wf s0) : Res.Wf (execCrd d n s0) :=
  Wf.issueOp (.bind keeps_gate fun _ => .getS fun _ _ => keeps_writeG) h

theorem Wf.writeFij {cid : Nat} {v : Word} (h : Wf s) : Wf (s.writeFij cid v) := Wf.ite h (.ite h.upd.upd.portFails h.upd)

theorem Wf.execFijWrite {cid : Nat} {v : Word} (h : Wf s) : Res.Wf (execFijWrite cid v s) := h.writeFij

theorem Wf.cregWrite {n : Nat} {v : Word} (h : Wf s) : Wf (s.cregWrite n v) := by
  dsimp only [State.cregWrite]
  split
  · exact h.modMe
  · exact h.modMe
  · exact Wf.ite h.writeTlcap h
  · exact h.writeL1mode
  · exact Wf.ite h.modSquad h
  · exact h.writeFij
  · exact h

theorem Wf.execCwr {d : Reg} {n : BitVec 12} {s0 : State} (h : Wf s0) : Res.Wf (execCwr d n s0) :=
  Wf.issueOp (.bind keeps_gate fun _ => .bind keeps_readG fun _ => .modS fun _ hs => hs.cregWrite) h

theorem Wf.manageAs {a : Agent} {t : State} (h : Wf s) (ht : Wf t) : Wf (s.manageAs a t) := by
  dsimp only [State.manageAs]
  split
  · exact h
  · exact h
  · exact h.manage ht
  · exact h.manage ht
  · exact h.manage ht

theorem Wf.portManages {a : Agent} {t : State} (h : Wf s) (ht : Wf t) : Wf (s.portManages a t) := by
  dsimp only [State.portManages]
  split
  · exact ht
  · exact ht
  · exact ht
  · exact h.manage ht
  · exact h

theorem Wf.flushMsc {ch : Nat} (h : Wf s) : Wf (s.flushMsc ch) := h.upd.foldl fun _ _ hs => hs.leftCache

theorem Wf.writeChown {ch : Nat} {v : Word} (h : Wf s) : Wf (s.writeChown ch v) := Wf.ite h h.flushMsc.modChan

theorem Wf.writeSnapc {ch : Nat} {v : Word} (h : Wf s) : Wf (s.writeSnapc ch v) := by
  unfold State.writeSnapc
  extract_lets b n s1
  have h1 : Wf s1 := .ite h.modChan h
  split
  · exact h1.modChan
  · exact .ite h1.modChan h1
  · exact h1

theorem Wf.writeChanBlock {a : Agent} {ch r : Nat} {v : Word} (h : Wf s) : Wf (s.writeChanBlock a ch r v) :=
  Wf.ite (h.manageAs h.writeChown) (.ite h (.ite h.modChan (.ite h.writeSnapc (.ite h.modChan h))))

theorem Wf.writeTileBlock {a : Agent} {q r : Nat} {v : Word} (h : Wf s) : Wf (s.writeTileBlock a q r v) :=
  Wf.ite (h.portManages h.modSquad) (.ite h (.ite h.assignOwner (.ite h.modSquad h)))

theorem Wf.writeMatrixBlock {q r : Nat} {v : Word} (h : Wf s) : Wf (s.writeMatrixBlock q r v) :=
  Wf.ite h (.ite h.modSquad (.ite h.modSquad h))

theorem Wf.writeKickBlock {p r : Nat} {v : Word} (h : Wf s) : Wf (s.writeKickBlock p r v) := Wf.ite h.modPartn (.ite h.modPartn h)

theorem Wf.writeIrte {n : Nat} {v : Word} (h : Wf s) : Wf (s.writeIrte n v) := Wf.ite h.reject (.ite h h.modIrq)

theorem Wf.writeIstat {a : Agent} {n : Nat} {v : Word} (h : Wf s) : Wf (s.writeIstat a n v) := by
  unfold State.writeIstat
  extract_lets s1
  have h1 : Wf s1 := .ite h.modIrq (.ite h.modIrq.sendMsix h)
  refine .ite h1 ?_
  split
  · exact h1.modIrq
  · exact .ite h1.modIrq h1
  · exact h1

theorem Wf.writeSealReg {r : Nat} {v : Word} (h : Wf s) : Wf (s.writeSealReg r v) := by
  dsimp only [State.writeSealReg]
  refine Wf.ite h.modSeal (.ite (.ite h ?_) (.ite h.modPartn h))
  split
  · exact h.modSeal.sealCmd
  · exact h.modSeal.revokeCmd
  · exact h.modSeal.revokeTgenCmd
  · exact h.modSeal.freeCmd
  · exact h.modSeal

theorem Wf.writeSema {a : Agent} {r : Nat} {v : Word} (h : Wf s) : Wf (s.writeSema a r v) :=
  Wf.ite h (.ite (.ite h.startLease h.freeSema) (.ite h.upd h))

theorem Wf.writeSysBlock {p r : Nat} {v : Word} (h : Wf s) : Wf (s.writeSysBlock p r v) :=
  Wf.ite h.modPartn (.ite h.modPartn (.ite h.modPartn h))

theorem Wf.resState {r : Res} (hr : Res.Wf r) (h : Wf s) : Wf (r.state s) := by
  cases r with
  | next t => exact hr
  | fault f => exact h
  | refused f => exact h

theorem Wf.writeWindow {p w i : Nat} {v : Word} (h : Wf s) : Wf (s.writeWindow p w i v) := Wf.resState h.execHostWindowWrite h

theorem Wf.writeLinkReg {r : Nat} {v : Word} (h : Wf s) : Wf (s.writeLinkReg r v) :=
  Wf.ite h.upd (.ite h (.ite (.ite h.modLink h) (.ite h.modLink h)))

theorem Wf.writeRoute {n : Nat} {v : Word} (h : Wf s) : Wf (s.writeRoute n v) := h.upd.resendAll

theorem Wf.writePair {i : Nat} {v : Word} (h : Wf s) : Wf (s.writePair i v) := h.upd

theorem Wf.writePartBlock {a : Agent} {p r : Nat} {v : Word} (h : Wf s) : Wf (s.writePartBlock a p r v) := by
  unfold State.writePartBlock
  extract_lets conf
  have hconf : ∀ k, Wf (conf k) := fun _ => h.manageAs (.getD h.configWrite h)
  refine .ite (hconf _) (.ite (hconf _) (.ite (hconf _) (.ite (hconf _) (.ite ?_ h))))
  split
  · exact h.manageAs h.activatePart
  · exact h.manageAs h.drainPart
  · exact h

theorem Wf.writeRcb {node off : Nat} {v : Word} (h : Wf s) : Wf (s.writeRcb node off v) := Wf.ite h (.ite h h.unitWords)

theorem Wf.ctlWrite {a : Agent} {off : Nat} {v : Word} (h : Wf s) : Wf (s.ctlWrite a off v) := by
  dsimp only [State.ctlWrite]
  split
  · exact h.ctlStore
  · exact h.writeRcb
  split
  · exact h.writeChanBlock
  split
  · exact h.writeTileBlock
  split
  · exact .ite h.writeMatrixBlock h
  split
  · exact .ite h.modRing h
  split
  · exact .ite h.writeKickBlock h
  split
  · exact .ite h.modCore h
  split
  · exact .ite (h.portManages h.writeIrte) (.ite h.writeIstat h)
  split
  · exact .ite h.writeSealReg h
  split
  · exact h.writeSema
  split
  · exact .ite h.writeSysBlock h
  split
  · exact .ite h.writeWindow h
  split
  · exact Wf.resState h.execQueueTableWrite h
  split
  · exact .ite h.writeLinkReg h
  split
  · exact h.writePartBlock
  split
  · exact .ite h.writeRoute h
  split
  · exact .ite h.writePair h
  · exact h

theorem Wf.execControlRegisterWrite {a : Agent} {off : Nat} {v : Word} (h : Wf s) : Res.Wf (execControlRegisterWrite a off v s) :=
  h.ctlWrite

/-! ## Accesses by the host (`Machine/HostAccess`) -/

theorem Wf.bar2Store {port off : Nat} {b : List Byte} (h : Wf s) : Wf (s.bar2Store port off b) := h.foldl fun _ _ ht => ht.ctlWrite

theorem Wf.bar2Load {port off n : Nat} (h : Wf s) : Wf (s.bar2Load port off n) := Wf.upd (.ite h.semaRead h)

theorem Wf.bar0Store {fn off : Nat} {b : List Byte} (h : Wf s) : Wf (s.bar0Store fn off b) :=
  Wf.ite h (.ite (.ite (.resState h.execDoorbellReset h) (.resState h.execDoorbellKick h))
      (.ite (.resState h.execQueueTableWrite h) h))

theorem Wf.bar0Load {fn off n : Nat} (h : Wf s) : Wf (s.bar0Load fn off n) := h.upd

theorem Wf.execHostProgrammedAccess {bar : HostBar} {off : Nat} {store : Option (List Byte)} {size : Nat} (h : Wf s) :
    Res.Wf (execHostProgrammedAccess bar off store size s) := by
  dsimp only [Machine.execHostProgrammedAccess]
  refine Wf.ite h ?_
  split
  · exact h.apertureAccess
  · exact h.bar0Store
  · exact h.bar0Load
  · exact h.bar2Store
  · exact h.bar2Load

/-! ## Matrix instructions and commands (`Machine/Matrix`) -/

theorem keeps_matrixAddr {n a : Nat} {stride : Option Nat} : Keeps (matrixAddr n a stride) :=
  Keeps.ite keeps_accTrap (.getS fun _ _ => .ite .pure keeps_accTrap)

theorem keeps_matrixStride {t : Reg} : Keeps (matrixStride t) :=
  Keeps.ite .pure (.bind keeps_readG fun _ => .bind keeps_illegalIf fun _ => .pure)

theorem keeps_matrixReads {α : Type} {m : Op α} (hm : Keeps m) : Keeps (matrixReads m : Op α) :=
  Keeps.bind (keeps_illegalFirst keeps_needUnit) fun _ => hm

theorem keeps_matrixStrided {sr t : Reg} : Keeps (matrixStrided sr t) :=
  keeps_matrixReads (.bind keeps_readG fun _ => .bind keeps_matrixStride fun _ => .pure)

theorem Wf.matrixEnter {op : MOp} {mem : Option (Nat × Nat × Bool)} (h : Wf s) : Wf (s.matrixEnter op mem) := by
  dsimp only [State.matrixEnter]
  refine Wf.modMe (.modCore ?_)
  split
  · exact h
  · exact h.modSquad.upd

theorem keeps_matrixIssue {op : MOp} {mem : Option (Nat × Nat × Bool)} {free : Op Unit} {mark : Ctx → Ctx} (hfree : Keeps free) :
    Keeps (matrixIssue op mem free mark) :=
  Keeps.getS fun _ _ => .bind keeps_trapIf fun _ => .bind keeps_parkUntil fun _ => .bind hfree fun _ =>
      .modS fun _ hs1 => hs1.matrixEnter.modMe

theorem keeps_matrixPlain {op : MOp} : Keeps (matrixPlain op) := keeps_matrixIssue .pure

theorem keeps_matrixMem {op : MOp} {a n : Nat} {wr : Bool} : Keeps (matrixMem op a n wr) := keeps_matrixIssue .pure

theorem Wf.execMcfg {d : BitVec 3} {sr : Reg} {s0 : State} (h : Wf s0) : Res.Wf (execMcfg d sr s0) :=
  Wf.issueOp (.bind (keeps_matrixReads (.bind keeps_readG fun _ =>
    .bind keeps_illegalIf fun _ => .pure)) fun _ => keeps_matrixPlain) h

theorem Wf.execMfmt {sr : Reg} {s0 : State} (h : Wf s0) : Res.Wf (execMfmt sr s0) :=
  Wf.issueOp (.bind (keeps_matrixReads (.bind keeps_readG fun _ =>
    .bind keeps_illegalIf fun _ => .pure)) fun _ => keeps_matrixPlain) h

theorem Wf.execMperm {d : BitVec 4} {sr : Reg} {s0 : State} (h : Wf s0) : Res.Wf (execMperm d sr s0) :=
  Wf.issueOp (.bind keeps_needUnit fun _ => .bind keeps_readG fun _ => .bind keeps_matrixAddr fun _ => keeps_matrixMem) h

theorem Wf.execMmeta {c : MetaCnt} {d : BitVec 3} {sr : Reg} {s0 : State} (h : Wf s0) : Res.Wf (execMmeta c d sr s0) :=
  Wf.issueOp (.bind keeps_needUnit fun _ => .bind keeps_readG fun _ => .bind keeps_matrixAddr fun _ => keeps_matrixMem) h

theorem Wf.execMld {sc : Bool} {d : BitVec 3} {sr t : Reg} {s0 : State} (h : Wf s0) : Res.Wf (execMld sc d sr t s0) := by
  dsimp only [Machine.execMld]
  exact Wf.issueOp (.bind keeps_matrixStrided fun _ => .bind keeps_matrixAddr fun _ => keeps_matrixMem) h

theorem Wf.execMldc {d : BitVec 3} {sr t : Reg} {s0 : State} (h : Wf s0) : Res.Wf (execMldc d sr t s0) := by
  dsimp only [Machine.execMldc]
  exact Wf.issueOp (.bind (keeps_matrixReads (.bind keeps_readG fun _ => .bind keeps_readG fun _ =>
      .bind keeps_illegalIf fun _ => .pure)) fun _ => .bind keeps_matrixAddr fun _ => keeps_matrixMem) h

theorem Wf.execMzero {d : BitVec 2} {s0 : State} (h : Wf s0) : Res.Wf (execMzero d s0) :=
  Wf.issueOp (.bind keeps_needUnit fun _ => keeps_matrixPlain) h

theorem Wf.execMqst {d : Reg} {sel : BitVec 4} {s0 : State} (h : Wf s0) : Res.Wf (execMqst d sel s0) :=
  Wf.issueOp (.bind keeps_needUnit fun _ => keeps_matrixIssue keeps_freeG) h

theorem Wf.execMma {d : BitVec 2} {sr b : BitVec 3} {s0 : State} (h : Wf s0) : Res.Wf (execMma d sr b s0) :=
  Wf.issueOp (.bind keeps_needUnit fun _ => keeps_matrixPlain) h

theorem Wf.execMmas {d : BitVec 2} {sr b x : BitVec 3} {s0 : State} (h : Wf s0) : Res.Wf (execMmas d sr b x s0) :=
  Wf.issueOp (.bind keeps_needUnit fun _ => keeps_matrixPlain) h

theorem Wf.execMman {d : BitVec 2} {sr b : BitVec 3} {s0 : State} (h : Wf s0) : Res.Wf (execMman d sr b s0) :=
  Wf.issueOp (.bind keeps_needUnit fun _ => keeps_matrixPlain) h

theorem Wf.execAst {d : BitVec 2} {sr t : Reg} {s0 : State} (h : Wf s0) : Res.Wf (execAst d sr t s0) := by
  dsimp only [Machine.execAst]
  exact Wf.issueOp (.bind keeps_matrixStrided fun _ => .bind keeps_matrixAddr fun _ => keeps_matrixMem) h

theorem Wf.execAld {d : BitVec 2} {sr t : Reg} {s0 : State} (h : Wf s0) : Res.Wf (execAld d sr t s0) := by
  dsimp only [Machine.execAld]
  exact Wf.issueOp (.bind keeps_matrixStrided fun _ => .bind keeps_matrixAddr fun _ => keeps_matrixMem) h

theorem Wf.execAmov {d : Reg} {sr : BitVec 2} {row : BitVec 5} {half : Bool} {s0 : State} (h : Wf s0) :
    Res.Wf (execAmov d sr row half s0) :=
  Wf.issueOp (.bind keeps_needUnit fun _ => keeps_matrixIssue keeps_freeV) h

theorem Wf.execAmovv {d : BitVec 2} {sr : Reg} {row : BitVec 5} {half : Bool} {s0 : State} (h : Wf s0) :
    Res.Wf (execAmovv d sr row half s0) := Wf.issueOp (.bind keeps_needUnit fun _ => .bind keeps_readV fun _ => keeps_matrixPlain) h

theorem Wf.newRound {q : Nat} (h : Wf s) : Wf (s.newRound q) := h.modSquad

theorem Wf.pickHead {q : Nat} (h : Wf s) : Wf ((s.pickHead q).2) := by
  dsimp only [State.pickHead]
  refine Wf.ite_snd h (.ite_snd h ?_)
  split
  · exact h
  · exact h.newRound

theorem Wf.countDeferred {q : Nat} (h : Wf s) : Wf (s.countDeferred q) := by
  dsimp only [State.countDeferred]
  refine h.foldl fun t i ht => ?_
  split
  · exact ht
  · exact Wf.ite ht ht.modCore.modSquad

theorem Wf.startHead {q i u : Nat} (h : Wf s) : Wf (s.startHead q i u) := by
  dsimp only [State.startHead]
  split
  · exact h
  · exact Wf.ite h.modCore.modSquad h.modCore.modSquad.modCore.holdTiles

theorem Wf.execMatrixCommandStart {squad : Nat} (h : Wf s) : Res.Wf (execMatrixCommandStart squad s) := by
  dsimp only [Machine.execMatrixCommandStart]
  split
  · exact h.countDeferred
  · next e => exact Wf.ite (.ite h.countDeferred h.countDeferred.modSquad) (.startHead (Wf.of_snd_eq h.countDeferred.pickHead e))

theorem Wf.matrixDone {core : Nat} {c : MCmd} {fail : Option (TrapClass × Nat × Nat)} (h : Wf s) : Wf (s.matrixDone core c fail) := by
  unfold State.matrixDone
  extract_lets q s1 s2 s3 s4
  have h2 : Wf s2 := by
    dsimp only [s2]
    split
    · exact h.modCore.dropCmd
    · exact h.modCore
  have h4 : Wf s4 := h2.releaseTiles.modSquad.onCtx
  split
  · exact h4
  · exact h4.postTrap

theorem Wf.modMx {core : Nat} {f : MxState → MxState} (h : Wf s) : Wf (s.modMx core f) := h.modCore

theorem Wf.putAcc {core n : Nat} {a : Acc} (h : Wf s) : Wf (s.putAcc core n a) := h.modCore

theorem Wf.astRows {core d : Nat} {rows : List (Nat × Nat)} (h : Wf s) : Wf (s.astRows core d rows) :=
  h.foldl fun _ _ ht => ht.wrLoc.foldl fun _ _ hu => hu.setPoison

theorem Wf.matrixEffect {core : Nat} {c : MCmd} (h : Wf s) : ∀ z ∈ s.matrixEffect core c, Wf z := by
  dsimp only [State.matrixEffect]
  split
  · exact forall_mem_some h.touchAll.modMx
  · exact forall_mem_some h.touchAll.modMx
  · exact forall_mem_some h.touchAll.modSquad
  · exact forall_mem_some h.touchAll.modMx
  · exact forall_mem_some h.touchAll.modMx
  · exact forall_mem_some h.touchAll.modMx
  · exact forall_mem_some h.touchAll.putAcc
  · split
    · exact forall_mem_some h.touchAll
    · split
      · exact forall_mem_none
      · exact forall_mem_map h.touchAll.deliverG fun _ ht => ht.onCtx
  · split
    · exact forall_mem_some h.touchAll.putAcc
    · exact forall_mem_some h.touchAll
  · split
    · exact forall_mem_some h.touchAll.putAcc
    · exact forall_mem_some h.touchAll
  · split
    · exact forall_mem_some h.touchAll.putAcc
    · exact forall_mem_some h.touchAll
  · exact forall_mem_some h.touchAll.astRows
  · exact forall_mem_some h.touchAll.putAcc
  · exact forall_mem_some h.touchAll.onCtx
  · exact forall_mem_some h.touchAll.putAcc

theorem Wf.mqstFails {c : MCmd} {d : Reg} (h : Wf s) : Wf (s.mqstFails c d) := h.onCtx.postTrap

theorem Wf.matrixUnpend {c : MCmd} (h : Wf s) : Wf (s.matrixUnpend c) := by
  dsimp only [State.matrixUnpend]
  split
  · exact h.onCtx
  · exact h

theorem Wf.execMatrixCommandComplete {core : Nat} (h : Wf s) : Res.Wf (execMatrixCommandComplete core s) := by
  dsimp only [Machine.execMatrixCommandComplete]
  split
  · exact h
  · refine Wf.ite h ?_
    split
    · exact h.matrixUnpend.matrixDone
    · split
      · exact h.matrixUnpend.matrixDone
      · refine Wf.ite h.refetch (.ite h.matrixUnpend.matrixDone ?_)
        split
        · exact h.matrixDone.mqstFails
        · split
          · exact h
          · next e4 => exact Wf.matrixDone (h.matrixEffect _ e4)

theorem Wf.execMatrixBudgetPeriod {squad : Nat} (h : Wf s) : Res.Wf (execMatrixBudgetPeriod squad s) :=
  Wf.ite h (h.modSquad.foldl fun _ _ ht => ht.modCore)

theorem Wf.execMatrixGate {squad : Nat} (h : Wf s) : Res.Wf (execMatrixGate squad s) := Wf.ite h.modSquad h

theorem Wf.execMatrixWake {squad : Nat} (h : Wf s) : Res.Wf (execMatrixWake squad s) := Wf.ite h.modSquad h

theorem Wf.execAown {sr : Reg} {s0 : State} (h : Wf s0) : Res.Wf (execAown sr s0) :=
  Wf.issueOp (.bind (keeps_illegalFirst keeps_needBarrel) fun _ => .bind (.bind keeps_gate fun _ =>
    .bind keeps_readG fun _ => .bind keeps_illegalIf fun _ => .pure) fun _ => .getS fun _ _ =>
    .bind keeps_parkUntil fun _ => .modS fun _ hs1 => hs1.modCore) h

theorem Wf.execAspill {u : BitVec 4} {sr : Reg} {s0 : State} (h : Wf s0) : Res.Wf (execAspill u sr s0) :=
  Wf.issueOp (.bind keeps_needBarrel fun _ => .bind keeps_gate fun _ => .bind keeps_readG fun _ =>
    .bind keeps_fwAddr fun _ => .getS fun _ _ => .bind keeps_parkUntil fun _ => .bind
    (keeps_linesWait h) fun _ => .modS fun _ hs1 => .modCore (hs1.unitWrite.foldl fun _ _ ht => ht.setPoison)) h

theorem Wf.execAfill {u : BitVec 4} {sr : Reg} {s0 : State} (h : Wf s0) : Res.Wf (execAfill u sr s0) := by
  dsimp only [Machine.execAfill]
  refine Wf.issueOp (.bind keeps_needBarrel fun x => .bind keeps_gate fun x1 => .bind keeps_readG fun x2 =>
      .bind keeps_fwAddr fun x3 => .getS fun s hs => .bind keeps_parkUntil fun x4 =>
      .bind keeps_illegalIf fun x5 => .bind keeps_fwClean fun x6 => ?_) h
  split
  · exact Keeps.modS fun _ hs1 => hs1.modCore
  · exact Keeps.pure

/-! ## Resets, boot and power (`Machine/Power`) -/

theorem Wf.powerReset (h : Wf s) : Wf s.powerReset := ⟨rfl, h.hostMem, rfl, rfl⟩

theorem Wf.execPowerOnReset (h : Wf s) : Res.Wf (execPowerOnReset s) := h.powerReset

theorem Wf.putBack {l : Tbl CGran} (h : Wf s) : Wf (s.putBack l) := h.foldl fun _ _ ht => ht.bytes

theorem Wf.lostLines {x : List Nat} (h : Wf s) : Wf ((lostLines x s).2) := by
  induction x generalizing s with
  | nil =>
    dsimp only [Machine.lostLines]
    exact h
  | cons x r ih =>
    dsimp only [Machine.lostLines]
    exact ih h.choose

theorem Wf.dropDirty (h : Wf s) : Wf s.dropDirty := h.putBack.upd.lostLines.putBack.upd

theorem Wf.partReset (h : Wf s) : Wf s.partReset := (h.dropDirty.powerReset.withMem h.dropDirty.mem).upd

theorem Wf.execPartReset (h : Wf s) : Res.Wf (execPartReset s) := h.partReset

theorem Wf.execFirmwareUpdate {holder : BitVec 2} {image : List Byte} (h : Wf s) : Res.Wf (execFirmwareUpdate holder image s) :=
  h.manage (.raiseIrq (.ite h.upd h))

theorem Wf.bootSeal {kind : Nat} (h : Wf s) : ∀ z ∈ s.bootSeal kind, Wf z := by
  dsimp only [State.bootSeal]
  split
  · exact forall_mem_none
  · exact forall_mem_some h.wrMain.modSealEnt.modSeal

theorem Wf.loadSupervisor {m : ImageRec} {core : Nat} (h : Wf s) : Wf (s.loadSupervisor m core) := h.newTag.place.upd

theorem Wf.bootKind {kind : Nat} (h : Wf s) : ∀ z ∈ s.bootKind kind, Wf z := by
  dsimp only [State.bootKind]
  split
  · exact forall_mem_none
  · next e => exact forall_mem_map forall_mem_true fun _ _ => .foldl (h.bootSeal _ e) fun _ _ hu => hu.loadSupervisor

theorem Wf.bootSupervisors (h : Wf s) : ∀ z ∈ s.bootSupervisors, Wf z := by
  dsimp only [State.bootSupervisors]
  split
  · exact forall_mem_none
  · next e =>
      split
      · exact forall_mem_none
      · next e1 => exact Wf.bootKind ((Wf.bootKind (h.bootKind _ e)) _ e1)

theorem Wf.stepDone (h : Wf s) : Wf s.stepDone := h.upd

theorem Wf.execBootStepComplete (h : Wf s) : Res.Wf (execBootStepComplete s) := by
  dsimp only [Machine.execBootStepComplete]
  refine Wf.ite h ?_
  split
  · exact Wf.ite h.stepDone h.upd
  · split
    · next e1 => exact Wf.stepDone (h.bootSupervisors _ e1)
    · exact h
  · exact h.upd.stepDone
  · exact Wf.ite h.stepDone h

theorem Wf.lowerBudget {q : Nat} (h : Wf s) : Wf (s.lowerBudget q) := Wf.ite h h.choose.modSquad

theorem Wf.throttle (h : Wf s) : Wf s.throttle := Wf.upd (.ite (h.foldl fun _ _ hs => hs.lowerBudget) h)

theorem Wf.execPowerWindow {watts : Nat} (h : Wf s) : Res.Wf (execPowerWindow watts s) := Wf.ite h.throttle h

theorem Wf.execThermalThrottle {temp : Nat} (h : Wf s) : Res.Wf (execThermalThrottle temp s) := Wf.ite h.throttle h

theorem Wf.execThermalTrip {temp : Nat} (h : Wf s) : Res.Wf (execThermalTrip temp s) := Wf.ite h (h.upd.foldl fun _ _ hs => hs.raiseIrq)

theorem Wf.execPtpMessage {offset : Int} {bound : Nat} (h : Wf s) : Res.Wf (execPtpMessage offset bound s) := Wf.ite h (.ite h.upd h.upd)

/-! ## Services (`Machine/Services`) -/

theorem Wf.sysReply {r : SysReq} {status val : Word} (h : Wf s) : Wf (s.sysReply r status val) := h.onCtx

theorem Wf.serve {part svc : Nat} {f : State → SysReq → State × Word × Word} (h : Wf s) (hf : ∀ x, Wf x → ∀ y, Wf ((f x y).1)) :
    Wf (s.serve part svc f) := by
  dsimp only [State.serve]
  split
  · exact h
  · exact Wf.ite (.sysReply (hf _ h.modPartn _)) (.ite h.modPartn.sysReply h)

theorem Wf.execEcho {part : Nat} (h : Wf s) : Res.Wf (execEcho part s) := h.serve fun _ ht _ => ht

theorem Wf.execNotify {part : Nat} (h : Wf s) : Res.Wf (execNotify part s) := by
  dsimp only [Machine.execNotify]
  refine h.serve fun t ht r => ?_
  split
  · exact ht
  · split
    · exact ht.raiseIrq
    · exact ht

theorem Wf.execTime {part : Nat} (h : Wf s) : Res.Wf (execTime part s) := h.serve fun _ ht _ => ht

theorem Wf.execExtq {part : Nat} (h : Wf s) : Res.Wf (execExtq part s) := by
  dsimp only [Machine.execExtq]
  refine h.serve fun t ht r => ?_
  split
  · exact ht
  · split
    · split <;> exact ht
    · exact ht

/-! ## Vector instructions (`Machine/Vector`) -/

theorem keeps_putV {d : Reg} {mask : BitVec 16} {r : VWord × Word} : Keeps (putV d mask r) :=
  Keeps.bind keeps_writeV fun _ => keeps_raiseFlags

theorem keeps_vecBin {f : Rm → BitVec 32 → BitVec 32 → BitVec 32 × Word} {o : VBin} : Keeps (vecBin f o) :=
  Keeps.bind keeps_needUnit fun _ => .bind keeps_vecOperands fun _ => .bind keeps_readK fun _ =>
      .bind keeps_modeOp fun _ => keeps_putV

theorem keeps_vecUn {f : Rm → BitVec 32 → BitVec 32 × Word} {o : VUn} : Keeps (vecUn f o) :=
  Keeps.bind keeps_needUnit fun _ => .bind keeps_readVS fun _ => .bind keeps_readK fun _ => .bind keeps_modeOp fun _ => keeps_putV

theorem Wf.execVbcast {o : VBcastOp} (h : Wf s) : Res.Wf (execVbcast o s) := by
  dsimp only [Machine.execVbcast]
  refine Wf.issueOp (.bind keeps_needUnit fun x => ?_) h
  split
  · exact Keeps.bind .pure fun _ => .bind keeps_readK fun _ => keeps_writeV
  · exact Keeps.ite (.bind keeps_readSync fun _ => .bind .pure fun _ => .bind keeps_readK fun _ =>
        keeps_writeV) (.bind keeps_readG fun _ => .bind .pure fun _ => .bind keeps_readK fun _ => keeps_writeV)

theorem Wf.execVext {o : VExtOp} (h : Wf s) : Res.Wf (execVext o s) :=
  Wf.issueOp (.bind keeps_needUnit fun _ => .bind keeps_readVS fun _ => keeps_writeG) h

theorem Wf.execViota {ty : VTy} {d : Reg} {mask : BitVec 3} (h : Wf s) : Res.Wf (execViota ty d mask s) :=
  Wf.issueOp (.bind keeps_needUnit fun _ => .bind keeps_readK fun _ => keeps_writeV) h

theorem keeps_vecFma {np nc : Bool} {o : VTri} : Keeps (vecFma np nc o) :=
  Keeps.bind keeps_needUnit fun _ => .bind keeps_readVS fun _ => .bind keeps_readV fun _ =>
      .bind keeps_readV fun _ => .bind keeps_readK fun _ => .bind keeps_modeOp fun _ => keeps_putV

theorem Wf.execVcmp {c : VcmpCond} {o : VBin} (h : Wf s) : Res.Wf (execVcmp c o s) :=
  Wf.issueOp (.bind keeps_needUnit fun _ => .bind keeps_vecOperands fun _ => .bind keeps_readK fun _ =>
    .bind keeps_writeK fun _ => keeps_raiseFlags) h

theorem Wf.execVsel {o : VBin} (h : Wf s) : Res.Wf (execVsel o s) := by
  dsimp only [Machine.execVsel]
  refine Wf.issueOp (.bind keeps_needUnit fun x => .bind keeps_readVS fun x1 => ?_) h
  split
  · exact Keeps.bind keeps_readV fun _ => .bind keeps_readK fun _ => keeps_writeV
  · exact Keeps.bind keeps_readV fun _ => .bind keeps_readK fun _ => keeps_writeV
  · exact Keeps.bind .pure fun _ => .bind keeps_readK fun _ => keeps_writeV

theorem Wf.execVperm {o : VBin} (h : Wf s) : Res.Wf (execVperm o s) := by
  dsimp only [Machine.execVperm]
  refine Wf.issueOp (.bind keeps_needUnit fun x => ?_) h
  split
  · exact Keeps.bind keeps_readVS fun _ => .bind .pure fun _ => .bind keeps_readK fun _ => keeps_writeV
  · exact Keeps.bind keeps_vecOperands fun _ => .bind keeps_readK fun _ => keeps_writeV

theorem Wf.execVslide {o : VSlideOp} (h : Wf s) : Res.Wf (execVslide o s) :=
  Wf.issueOp (.bind keeps_needUnit fun _ => .bind keeps_readVS fun _ => .bind keeps_readV fun _ =>
    .bind keeps_readK fun _ => keeps_writeV) h

theorem Wf.execVred {op : VredOp} {o : VUn} (h : Wf s) : Res.Wf (execVred op o s) :=
  Wf.issueOp (.bind keeps_needUnit fun _ => .bind keeps_readVS fun _ => .bind keeps_readK fun _ =>
    .bind keeps_modeOp fun _ => .ite (.bind keeps_writeG fun _ => keeps_raiseFlags) keeps_writeG) h

theorem Wf.execVpack {f : PackFmt} {o : Tri} (h : Wf s) : Res.Wf (execVpack f o s) :=
  Wf.issueOp (.bind keeps_needUnit fun _ => .bind keeps_readVS fun _ => .bind keeps_readV fun _ =>
    .bind keeps_readK fun _ => .bind keeps_modeOp fun _ => keeps_putV) h

theorem Wf.execVunpk {f : UnpkFmt} {part : BitVec 3} {d src : Reg} {q : Pxs} (h : Wf s) : Res.Wf (execVunpk f part d src q s) :=
  Wf.issueOp (.bind keeps_needUnit fun _ => .bind keeps_readVS fun _ => .bind keeps_readK fun _ => keeps_putV) h

theorem keeps_vecDotI {t : VTy} {sx : Bool} {n w : Nat} {o : Tri} : Keeps (vecDotI t sx n w o) :=
  Keeps.bind keeps_needUnit fun _ => .bind keeps_readVS fun _ => .bind keeps_readV fun _ =>
      .bind keeps_readV fun _ => .bind keeps_readK fun _ => keeps_writeV

theorem keeps_vecDotF {t : VTy} {f : FFmt} {n : Nat} {o : Tri} : Keeps (vecDotF t f n o) :=
  Keeps.bind keeps_needUnit fun _ => .bind keeps_readVS fun _ => .bind keeps_readV fun _ =>
      .bind keeps_readV fun _ => .bind keeps_readK fun _ => .bind keeps_modeOp fun _ => keeps_putV

theorem Wf.execVdot4 {ty : Dot4Ty} {o : Tri} (h : Wf s) : Res.Wf (execVdot4 ty o s) := by
  dsimp only [Machine.execVdot4]
  refine Wf.issueOp ?_ h
  split
  · exact keeps_vecDotI
  · exact keeps_vecDotI
  · exact keeps_vecDotF
  · exact keeps_vecDotF

theorem Wf.execVdot8 {ty : Dot8Ty} {o : Tri} (h : Wf s) : Res.Wf (execVdot8 ty o s) := by
  dsimp only [Machine.execVdot8]
  refine Wf.issueOp ?_ h
  split
  · exact keeps_vecDotI
  · exact keeps_vecDotF

theorem Wf.execVdot2 {ty : Dot2Ty} {o : Tri} (h : Wf s) : Res.Wf (execVdot2 ty o s) := by
  dsimp only [Machine.execVdot2]
  refine Wf.issueOp ?_ h
  split
  · exact keeps_vecDotF
  · exact keeps_vecDotF
  · exact keeps_vecDotI

theorem Wf.execVqnt {f : QntFmt} {o : Tri} (h : Wf s) : Res.Wf (execVqnt f o s) :=
  Wf.issueOp (.bind keeps_needUnit fun _ => .bind keeps_readVS fun _ => .bind keeps_readV fun _ =>
    .bind keeps_writeV fun _ => keeps_raiseFlags) h

theorem Wf.execKop {op : KopOp} {d src : BitVec 3} {t : Option (BitVec 3)} (h : Wf s) : Res.Wf (execKop op d src t s) :=
  Wf.issueOp (.bind keeps_needUnit fun _ => .bind keeps_readK fun _ => .bind keeps_readK fun _ => keeps_writeK) h

theorem Wf.execKmovToMask {d : BitVec 3} {src : Reg} (h : Wf s) : Res.Wf (execKmovToMask d src s) :=
  Wf.issueOp (.bind keeps_needUnit fun _ => .bind keeps_readG fun _ => keeps_writeK) h

theorem Wf.execKmovFromMask {d : Reg} {src : BitVec 3} (h : Wf s) : Res.Wf (execKmovFromMask d src s) :=
  Wf.issueOp (.bind keeps_needUnit fun _ => .bind keeps_readK fun _ => keeps_writeG) h

theorem Wf.execKlow {d : BitVec 3} {src : Reg} (h : Wf s) : Res.Wf (execKlow d src s) :=
  Wf.issueOp (.bind keeps_needUnit fun _ => .bind keeps_readG fun _ => keeps_writeK) h

theorem Wf.execKpop {d : Reg} {src : BitVec 3} (h : Wf s) : Res.Wf (execKpop d src s) :=
  Wf.issueOp (.bind keeps_needUnit fun _ => .bind keeps_readK fun _ => keeps_writeG) h

/-! ## Vector memory instructions (`Machine/VectorMem`) -/

theorem keeps_vecEa {w : VldW} {b t : Reg} {p : Pxi} : Keeps (vecEa w b t p) :=
  Keeps.bind keeps_readG fun _ => .bind keeps_readG fun _ => .pure

theorem Wf.vldMain {w : VldW} {d : Reg} {k : BitVec 16} {a : Nat} {cached : Bool} (h : Wf s) : Wf (s.vldMain w d k a cached) := by
  dsimp only [State.vldMain]
  split
  · exact h.loadMain
  · exact h.foldl fun _ _ hu => hu.loadMain.upd

theorem Wf.execVld {w : VldW} {fresh : Bool} {mask : BitVec 3} {d b t : Reg} {p : Pxi} {s0 : State} (h : Wf s0) :
    Res.Wf (execVld w fresh mask d b t p s0) := by
  dsimp only [Machine.execVld]
  refine Wf.issueOp (.bind keeps_needUnit fun x => .bind keeps_vecEa fun a => .bind keeps_alignTo fun x1 =>
      .bind keeps_accRegion fun g => .bind keeps_readK fun k => ?_) h
  split
  · exact Keeps.bind keeps_watch fun _ => .bind keeps_roomLd fun _ => .bind keeps_freeV fun _ =>
        .modS fun _ hs => .modMe (.vldMain (.ite hs.l1Drop hs))
  · exact Keeps.getS fun _ _ => keeps_writeV
  · exact Keeps.bind keeps_freeV fun _ => .bind (keeps_tileBytes h) fun _ => keeps_writeV

theorem Wf.vstMain {w : VldW} {k : BitVec 16} {a : Nat} {x : VWord} (h : Wf s) : Wf (s.vstMain w k a x) :=
  Wf.ite h (.modMe (.foldl (.ite (h.foldl fun _ _ ht => ht.l1Store) h.l1Kill) fun _ _ hu => hu.sendSlice))

theorem Wf.vstCtl {off : Nat} {b : List (Nat × Byte)} (h : Wf s) : Wf (s.vstCtl off b) := h.foldl fun _ _ ht => .ite ht.ctlStore ht

theorem Wf.execVst {w : VldW} {mask : BitVec 3} {d b t : Reg} {p : Pxi} {s0 : State} (h : Wf s0) : Res.Wf (execVst w mask d b t p s0) := by
  dsimp only [Machine.execVst]
  refine Wf.issueOp (.bind keeps_needUnit fun x => .bind keeps_vecEa fun a => .bind keeps_alignTo fun x1 =>
      .bind keeps_accRegion fun g => ?_) h
  split
  · refine Keeps.bind keeps_watch fun x2 => .bind keeps_readV fun x3 => .bind keeps_readK fun k => ?_
    split
    · exact Keeps.bind keeps_roomSt fun _ => .modS fun _ hs => hs.vstMain
    · exact Keeps.modS fun _ hs => hs.vstCtl
    · exact Keeps.bind keeps_roomSt fun _ => .modS fun _ hs => hs.vstMain
  · refine Keeps.bind keeps_readV fun x2 => .bind keeps_readK fun k => ?_
    split
    · exact Keeps.bind keeps_roomSt fun _ => .modS fun _ hs => hs.vstMain
    · exact Keeps.modS fun _ hs => hs.vstCtl
    · exact keeps_tileWrite h

theorem keeps_laneChecks {n op : Nat} {r : Rights} {x : List (Nat × Nat)} : Keeps (laneChecks n op r x) := by
  induction x generalizing n op r with
  | nil =>
    unfold Machine.laneChecks
    exact Keeps.pure
  | cons x r ih =>
    unfold Machine.laneChecks
    refine Keeps.bind keeps_alignTo fun x1 => .bind keeps_accRegion fun g => ?_
    intro s hs
    split
    · exact (Keeps.bind keeps_watch fun _ => ih) _ hs
    · exact ih _ hs

theorem keeps_lanesMain {op : Nat} {l : List (Nat × Nat)} : Keeps (lanesMain op l) := by
  intro s hs
  dsimp only [Machine.lanesMain]
  split
  · exact hs
  · split
    · exact hs
    · exact keeps_accTrap _ hs

theorem keeps_laneRead {s0 : State} {n a : Nat} (h : Wf s0) : Keeps (laneRead s0 n a) := by
  dsimp only [Machine.laneRead]
  refine Keeps.getS fun s hs => ?_
  split
  · exact Keeps.pure
  · exact Keeps.bind (keeps_resident h) fun _ => keeps_tileBytes h
  · exact keeps_tileBytes h

theorem keeps_lanesRead {s0 : State} {n : Nat} {sx : Bool} {x : List (Nat × Nat)} (h : Wf s0) : Keeps (lanesRead s0 n sx x) := by
  induction x generalizing s0 n sx with
  | nil =>
    unfold Machine.lanesRead
    exact Keeps.pure
  | cons x r ih =>
    unfold Machine.lanesRead
    exact Keeps.bind (keeps_laneRead h) fun _ => .bind (ih h) fun _ => .pure

theorem Wf.execVldx {sz : VxSize} {sx fresh : Bool} {mask : BitVec 3} {d sr t : Reg} {s0 : State} (h : Wf s0) :
    Res.Wf (execVldx sz sx fresh mask d sr t s0) :=
  Wf.issueOp (.bind keeps_needUnit fun _ => .bind keeps_readG fun _ => .bind keeps_readV fun _ =>
    .bind keeps_readK fun _ => .bind keeps_laneChecks fun _ => .bind keeps_lanesMain fun _ => .ite
    (.bind keeps_roomLd fun _ => .bind keeps_freeV fun _ => .modS fun _ hs => .modMe (.foldl (.ite
    (hs.foldl fun _ _ hu => hu.l1Drop) hs) fun _ _ hu => hu.loadMain.upd)) (.bind keeps_freeV fun _ => .bind
    (keeps_lanesRead h) fun _ => keeps_writeV)) h

theorem keeps_laneWrite {s0 : State} {n a : Nat} {x : BitVec 32} (h : Wf s0) : Keeps (laneWrite s0 n a x) := by
  dsimp only [Machine.laneWrite]
  refine Keeps.getS fun s hs => ?_
  split
  · exact Keeps.bind (keeps_resident h) fun _ => keeps_tileWrite h
  · exact keeps_tileWrite h

theorem keeps_lanesWrite {s0 : State} {n : Nat} {x : VWord} {x1 : List (Nat × Nat)} (h : Wf s0) : Keeps (lanesWrite s0 n x x1) := by
  induction x1 generalizing s0 n x with
  | nil =>
    unfold Machine.lanesWrite
    exact Keeps.pure
  | cons x r ih =>
    unfold Machine.lanesWrite
    exact Keeps.bind (keeps_laneWrite h) fun _ => ih h

theorem Wf.execVstx {sz : VxSize} {mask : BitVec 3} {d sr t : Reg} {s0 : State} (h : Wf s0) : Res.Wf (execVstx sz mask d sr t s0) :=
  Wf.issueOp (.bind keeps_needUnit fun _ => .bind keeps_readG fun _ => .bind keeps_readV fun _ =>
    .bind keeps_readK fun _ => .bind keeps_laneChecks fun _ => .bind keeps_lanesMain fun _ =>
    .bind keeps_readV fun _ => .ite (.bind keeps_roomSt fun _ => .modS fun _ hs => .modMe
    (hs.foldl fun _ _ hu => hu.l1Store.sendSlice)) (keeps_lanesWrite h)) h

/-! ## Every instruction -/

/-- Every instruction keeps the invariant, by the lemma of its meaning or of the shared meaning that it calls. -/
theorem Wf.exec (h : Wf s) (i : Instr) : Res.Wf (exec i s) :=
  match i with
  | .nop => h.execNop
  | .mov _ | .clz _ | .ctz _ | .popc _ => Wf.issueOp keeps_intUn h
  | .add _ | .sub _ | .and _ | .or _ | .xor _ | .andn _ | .min _ | .max _ | .minn _ | .maxn _ | .shl _ | .shra _ | .shrl _ | .rotl _
  | .mul _ | .mulh _ | .mulhn _ | .div _ | .divn _ | .rem _ | .remn _ | .cmp _ _ _ => Wf.issueOp keeps_intBin h
  | .sel _ => h.execSel
  | .sext _ => h.execSext
  | .zext _ => h.execZext
  | .addImm _ => h.execAddImm
  | .movImm _ => h.execMovImm
  | .extb _ => h.execExtb
  | .insb _ => h.execInsb
  | .lea _ => h.execLea
  | .bnd _ _ _ => h.execBnd
  | .ld _ _ => h.execLd
  | .st _ _ => h.execSt
  | .ldw _ _ | .ldt _ _ => h.feLoad
  | .stf _ _ => h.execStf
  | .femarkEmpty _ _ | .femarkFull _ _ => h.femark
  | .feq _ _ => h.execFeq
  | .pftL1 _ => h.execPftL1
  | .pftL2 _ => h.execPftL2
  | .fence _ _ => h.execFence
  | .waitc _ _ _ _ => h.execWaitc
  | .tadd _ _ _ | .tmax _ _ _ | .tmin _ _ _ | .tor _ _ | .txor _ _ | .tand _ _ => h.tileUpd
  | .tpin _ => h.execTpin
  | .tunpin _ => h.execTunpin
  | .tfetch _ => h.execTfetch
  | .tevict _ _ => h.execTevict
  | .tstat _ _ => h.execTstat
  | .tsync _ _ => h.execTsync
  | .cinv _ _ => h.execCinv
  | .br _ _ => Wf.issueOp keeps_branchIf h
  | .call _ _ => h.execCall
  | .bc _ _ _ _ => h.execBc
  | .bcmp _ _ _ _ => h.execBcmp
  | .jmp _ => h.execJmp
  | .callr _ => h.execCallr
  | .ret => h.execRet
  | .bqb _ _ _ => h.execBqb
  | .crd _ _ => h.execCrd
  | .cwr _ _ => h.execCwr
  | .amo _ _ _ _ _ _ => h.execAmo
  | .cas _ _ _ _ _ => h.execCas
  | .rupd _ _ _ _ _ => h.execRupd
  | .spawn _ _ _ => h.execSpawn
  | .migr _ _ => h.execMigr
  | .migrHome _ => h.execMigrHome
  | .migrPivot => h.execMigrPivot
  | .migrBack => h.execMigrBack
  | .send _ _ _ => h.execSend
  | .qbind _ _ => h.execQbind
  | .qstat _ _ => h.execQstat
  | .hbar _ _ => h.execHbar
  | .hwait _ => h.execHwait
  | .hstat _ _ => h.execHstat
  | .join _ _ => h.execJoin
  | .detach => h.execDetach
  | .waitw _ => h.execWaitw
  | .halt => Wf.issueOp keeps_haltWith h
  | .haltRetain _ => h.execHaltRetain
  | .trap _ => h.execTrap
  | .rett _ _ => h.execRett
  | .sysc _ => h.execSysc
  | .ctxs _ _ => h.execCtxs
  | .ctxl _ _ => h.execCtxl
  | .aown _ => h.execAown
  | .aspill _ _ => h.execAspill
  | .afill _ _ => h.execAfill
  | .slotx _ _ => h.execSlotx
  | .qdrain _ _ => h.execQdrain
  | .audw _ _ => h.execAudw
  | .vmov _ | .vabs _ _ | .vneg _ _ | .vrcp _ | .vrsq _ | .vexp2 _ | .vlog2 _ | .vcvt _ _ => Wf.issueOp keeps_vecUn h
  | .vbcast _ => h.execVbcast
  | .vext _ => h.execVext
  | .viota _ _ _ => h.execViota
  | .vadd _ _ | .vsub _ _ | .vmul _ _ | .vdiv _ | .vmin _ | .vmax _ | .vand _ | .vor _ | .vxor _ | .vandn _ | .vshl _ | .vshra _
  | .vshrl _ | .vrotl _ | .vscal _ => Wf.issueOp keeps_vecBin h
  | .vfma _ | .vfms _ | .vfnma _ => Wf.issueOp keeps_vecFma h
  | .vcmp _ _ => h.execVcmp
  | .vsel _ => h.execVsel
  | .vperm _ => h.execVperm
  | .vslide _ => h.execVslide
  | .vred _ _ => h.execVred
  | .vpack _ _ => h.execVpack
  | .vunpk _ _ _ _ _ => h.execVunpk
  | .vdot4 _ _ => h.execVdot4
  | .vdot8 _ _ => h.execVdot8
  | .vdot2 _ _ => h.execVdot2
  | .vqnt _ _ => h.execVqnt
  | .vld _ _ _ _ _ _ _ => h.execVld
  | .vst _ _ _ _ _ _ => h.execVst
  | .vldx _ _ _ _ _ _ _ => h.execVldx
  | .vstx _ _ _ _ _ => h.execVstx
  | .kop _ _ _ _ => h.execKop
  | .kmovToMask _ _ => h.execKmovToMask
  | .kmovFromMask _ _ => h.execKmovFromMask
  | .klow _ _ => h.execKlow
  | .kpop _ _ => h.execKpop
  | .mcfg _ _ => h.execMcfg
  | .mfmt _ => h.execMfmt
  | .mperm _ _ => h.execMperm
  | .mmeta _ _ _ => h.execMmeta
  | .mld _ _ _ _ => h.execMld
  | .mldc _ _ _ => h.execMldc
  | .mzero _ => h.execMzero
  | .mqst _ _ => h.execMqst
  | .mma _ _ _ => h.execMma
  | .mmas _ _ _ _ => h.execMmas
  | .mman _ _ _ => h.execMman
  | .ast _ _ _ => h.execAst
  | .ald _ _ _ => h.execAld
  | .amov _ _ _ _ => h.execAmov
  | .amovv _ _ _ _ => h.execAmovv
  | .cpy _ _ _ _ | .cpyx _ _ _ _ | .cpyc _ _ | .cfill _ _ _ _ | .gath _ _ | .scat _ _ | .echk _ _ _ | .coll _ _ | .cgrp _ _
  | .cabt _ _ => h.engineIssue
  | .fadd _ | .fsub _ | .fmul _ | .fdiv _ | .fmin _ | .fmax _ | .fcmp _ _ => Wf.issueOp keeps_fltBin h
  | .fma _ _ _ _ _ => h.execFma
  | .fsqrt _ => h.execFsqrt
  | .fclass _ => h.execFclass
  | .fcvt _ _ _ _ => h.execFcvt
  | .illegalWord _ _ => h.execIllegalWord
  | .fetchRefused => h.execFetchRefused
  | .l1modeWrite _ _ => h.execL1modeWrite
  | .tlcapWrite _ _ => h.execTlcapWrite
  | .fijWrite _ _ => h.execFijWrite
  | .controlRegisterWrite _ _ _ => h.execControlRegisterWrite
  | .loadReply _ => h.execLoadReply
  | .storeAck _ => h.execStoreAck
  | .sliceRequest _ _ => h.execSliceRequest
  | .homeRequest _ => h.execHomeRequest
  | .requestReissue _ => h.execRequestReissue
  | .remoteUpdate _ => h.execRemoteUpdate
  | .snapshotArm _ => h.execSnapshotArm
  | .snapshotStop _ => h.execSnapshotStop
  | .snapshotStart _ => h.execSnapshotStart
  | .snapshotCopyDone _ => h.execSnapshotCopyDone
  | .snapshotRead _ _ _ _ => h.execSnapshotRead
  | .budgetPeriod => h.execBudgetPeriod
  | .l1LineExpiry _ _ => h.execL1LineExpiry
  | .tileOwnerAssign _ _ => h.execTileOwnerAssign
  | .tileAccess _ _ => h.execTileAccess
  | .tileArrival _ _ => h.execTileArrival
  | .tileDepartureDone _ _ => h.execTileDepartureDone
  | .engineStart _ => h.execEngineStart
  | .engineAccessFailure _ => h.execEngineAccessFailure
  | .engineComplete _ => h.execEngineComplete
  | .extentInvalidate _ => h.execExtentInvalidate
  | .extentInvalidateDone _ => h.execExtentInvalidateDone
  | .matrixCommandStart _ => h.execMatrixCommandStart
  | .matrixCommandComplete _ => h.execMatrixCommandComplete
  | .matrixBudgetPeriod _ => h.execMatrixBudgetPeriod
  | .matrixGate _ => h.execMatrixGate
  | .matrixWake _ => h.execMatrixWake
  | .streamDecode _ _ => h.execStreamDecode
  | .privateFetchDelivery _ => h.execPrivateFetchDelivery
  | .driftStallDetach _ _ => h.execDriftStallDetach
  | .joinWaitTimeout _ _ => h.execJoinWaitTimeout
  | .srtailWrite _ _ _ _ => h.execSrtailWrite
  | .serveDelivery _ _ => h.execServeDelivery
  | .threadArrival _ => h.execThreadArrival
  | .spillDiversion _ => h.execSpillDiversion
  | .streamMessageArrival _ _ _ => h.execStreamMessageArrival
  | .registerFill _ _ => h.execRegisterFill
  | .bindRequest _ => h.execBindRequest
  | .bindReply _ => h.execBindReply
  | .withdrawal _ => h.execWithdrawal
  | .preemptMessage _ _ _ _ _ => h.execPreemptMessage
  | .preemptDoneTimeout _ => h.execPreemptDoneTimeout
  | .uncorrectableError _ => h.execUncorrectableError
  | .memoryScrub _ _ => h.execMemoryScrub
  | .interruptEvent _ => h.execInterruptEvent
  | .irqAck _ => h.execIrqAck
  | .irqEscalate _ => h.execIrqEscalate
  | .irqStateClear _ => h.execIrqStateClear
  | .irqTimerExpiry _ => h.execIrqTimerExpiry
  | .semaAcquire _ => h.execSemaAcquire
  | .semaRenew _ => h.execSemaRenew
  | .semaRelease _ => h.execSemaRelease
  | .semaLeaseExpiry => h.execSemaLeaseExpiry
  | .hostWindowWrite _ _ _ _ _ => h.execHostWindowWrite
  | .hostProgrammedAccess _ _ _ _ => h.execHostProgrammedAccess
  | .queueTableWrite _ _ _ => h.execQueueTableWrite
  | .doorbellKick _ _ _ => h.execDoorbellKick
  | .doorbellReset _ _ => h.execDoorbellReset
  | .queueAccept _ _ => h.execQueueAccept
  | .nopCommand _ _ => h.execNopCommand
  | .play _ _ => h.execPlay
  | .hold _ _ => h.execHold
  | .signal _ _ => h.execSignal
  | .holdExpiry _ _ => h.execHoldExpiry
  | .queueRetire _ _ => h.execQueueRetire
  | .queueMapping _ => h.execQueueMapping
  | .queueAgeBoundary _ _ => h.execQueueAgeBoundary
  | .queueSliceElapsed _ _ => h.execQueueSliceElapsed
  | .lockInterface _ | .startInterface _ | .stopInterface _ => h.tdiStep
  | .getDeviceInterfaceReport _ => h.execGetDeviceInterfaceReport
  | .echo _ => h.execEcho
  | .notify _ => h.execNotify
  | .time _ => h.execTime
  | .extq _ => h.execExtq
  | .syscBusyTimeout _ => h.execSyscBusyTimeout
  | .instanceDue _ => h.execInstanceDue
  | .stageRelease _ => h.execStageRelease
  | .launchWindowExpiry _ => h.execLaunchWindowExpiry
  | .sliceRotation _ => h.execSliceRotation
  | .gangPatienceExpiry _ => h.execGangPatienceExpiry
  | .drainExpiry _ => h.execDrainExpiry
  | .seal _ _ => h.execSeal
  | .sealDone _ => h.execSealDone
  | .revoke _ => h.execRevoke
  | .revokeTgen _ => h.execRevokeTgen
  | .free _ => h.execFree
  | .revokeDone _ => h.execRevokeDone
  | .sealRecheck => h.execSealRecheck
  | .partitionConfigWrite _ _ _ => h.execPartitionConfigWrite
  | .partitionActivate _ => h.execPartitionActivate
  | .partitionDrain _ => h.execPartitionDrain
  | .partitionDrainDone _ => h.execPartitionDrainDone
  | .powerOnReset => h.execPowerOnReset
  | .partReset => h.execPartReset
  | .bootStepComplete => h.execBootStepComplete
  | .firmwareUpdate _ _ => h.execFirmwareUpdate
  | .powerWindow _ => h.execPowerWindow
  | .thermalThrottle _ => h.execThermalThrottle
  | .thermalTrip _ => h.execThermalTrip
  | .ptpMessage _ _ => h.execPtpMessage
  | .linkTrain _ => h.execLinkTrain
  | .linkTrained _ _ _ => h.execLinkTrained
  | .laneLockLoss _ => h.execLaneLockLoss
  | .linkIdleTimeout _ => h.execLinkIdleTimeout
  | .replayLimit _ => h.execReplayLimit
  | .flitReceive _ _ => h.execFlitReceive
  | .write _ => h.execWrite
  | .read _ => h.execRead
  | .readReply _ => h.execReadReply
  | .writeAck _ => h.execWriteAck
  | .atomic _ => h.execAtomic
  | .atomicReply _ => h.execAtomicReply
  | .release _ => h.execRelease
  | .remoteDeadline _ => h.execRemoteDeadline
  | .joinPacket _ => h.execJoinPacket
  | .joinHoldExpiry _ _ => h.execJoinHoldExpiry
  | .cgrpDeadline _ _ => h.execCgrpDeadline
  | .collData _ => h.execCollData
  | .collStepAck _ => h.execCollStepAck
  | .collStepTimeout _ => h.execCollStepTimeout
  | .abort _ => h.execAbort
  | .allowanceReturn _ _ _ => h.execAllowanceReturn
  | .keySlotLoad _ _ _ => h.execKeySlotLoad
  | .retainHoldCancel _ => h.execRetainHoldCancel
  | .correctableError _ => h.upd

/-! ## One step (`Machine/Step`) -/

theorem Wf.afterTurn {c : Ctx} (h : Wf s) : Wf (State.afterTurn c s) := h.feIssue.feCheckAll.rotate

/-- An outcome whose next state is changed by a function that keeps the invariant. -/
theorem Wf.mapNext {f : State → State} {r : Res} (hr : Res.Wf r) (hf : ∀ t, Wf t → Wf (f t)) : Res.Wf (mapNext f r) := by
  cases r with
  | next t => exact hf t hr
  | fault _ => trivial
  | refused _ => trivial

/-- The turn of a slot (R276): a bubble, or the instruction that it fetches, or what the fetch was refused for. -/
theorem Wf.turn (h : Wf s) : Res.Wf (turn s) := by
  unfold Machine.turn
  split
  · exact h.rotate
  · split
    · exact h.parkedTurn.rotate
    · split
      · exact h.feStall.modMe.rotate
      · next t e =>
        have ht : Wf t := h.feGate t e
        split
        · exact Wf.mapNext (ht.exec _) fun _ hu => hu.afterTurn
        · exact Wf.mapNext (ht.modMe.exec _) fun _ hu => hu.afterTurn
        · exact Wf.mapNext (ht.modMe.exec _) fun _ hu => hu.afterTurn

/-- The invariant is kept by the moves of the agenda and by the turns of the slots. -/
theorem Wf.step (h : Wf s) : Res.Wf (step s) := by
  unfold Machine.step
  split
  · split
    · exact h.upd
    · exact Wf.mapNext (h.upd.exec _) fun _ ht => ht.feCheckAll
  · split
    · trivial
    · exact h.turn

/-- Settles O53: each function that a step may call keeps the invariant, and `step` is composed of them. -/
theorem stepKeepsInv : Obligations.StepKeepsInv := by
  unfold Obligations.StepKeepsInv
  intro s t hs hst
  have h : Res.Wf (step s) := (wf_iff_inv.mpr hs).step
  rw [hst] at h
  exact wf_iff_inv.mp h

end Sys2Proof.Machine
end

section
/-!
PROOFS. CRD and CWR (O36): each has one rule, which says that its turn completes with the value that `State.creg` gives, or the state that
`State.cregWrite` makes; what the obligation says of single registers are facts about those two functions.
-/

namespace Sys2Proof.Machine

variable {s u t : State} {c : Ctx} {d : Reg} {n : BitVec 12} {v x : Word}

/-! ## What a read leaves of the context in its turn (`Machine/Operands`) -/

/-- The context in its turn after a context has been placed: the one placed, or as it was. -/
theorem State.place_me (s : State) (c : Ctx) : (s.place c).me = c ∨ (s.place c).me = s.me := by
  unfold State.place
  split
  · exact .inl rfl
  · exact .inr rfl

theorem State.popWord_me (s : State) (k : Fin 4) : ∃ st, (s.popWord s.me k).me = { s.me with streams := st } := by
  have hplace (st : Vector StreamSt 4) : ∃ st', (s.place { s.me with streams := st }).me = { s.me with streams := st' } :=
    (s.place_me _).elim (⟨_, ·⟩) (⟨s.me.streams, ·⟩)
  unfold State.popWord
  dsimp only
  split
  · exact ⟨s.me.streams, rfl⟩
  · split <;> exact hplace _

/-- A read of a register changes no part of the context but the streams and the branch-outcome queue that it pops (R26, R43). -/
theorem readG_me (h : readG d s = .ok (x, u)) : u.me = { s.me with streams := u.me.streams, bq := u.me.bq } := by
  unfold readG at h
  split at h
  · cases h; rfl
  split at h
  · unfold popBq at h
    split at h <;> cases h
    rfl
  split at h
  · unfold popPort at h
    dsimp only at h
    split at h
    · cases h
    split at h
    · cases h
    split at h <;> cases h
    obtain ⟨st, hst⟩ := s.popWord_me (portOf d)
    rw [hst]
  · unfold readPlain at h
    split at h
    · cases h
    split at h <;> cases h
    rfl

/-! ## The two rules -/

/-- CRD writes the value of the register, as it reads in the state before the turn. -/
theorem crd_writesG (hd : s.namesOk [d]) (hv : s.creg s.me n.toNat = v) : writesG (.crd d n) s s d v := by
  intro t ht
  refine issueOp_ok ?_
  rw [op_bind_ok (gate_ok hd), op_bind_ok (getS_apply s), hv, ht]

/-- CWR makes the change of its register in the state in which its operand is read. -/
theorem cwr_completes (hd : s.namesOk [d]) (hr : readG d s = .ok (x, u)) (ht : u.cregWrite n.toNat x = t) : completes (.cwr d n) s t := by
  refine issueOp_ok ?_
  rw [op_bind_ok (gate_ok hd), op_bind_ok hr, modS_apply, ht]

/-! ## Values read (R14, R15, R183-R185) -/

/-- `cap0` gives the part's counts and the units of the core (R14). -/
theorem Part.cap0_eq (p : Part) (core : Nat) :
    p.cap0 core = (if p = .x4 then 0x0000182020040050#64 else 0x0000081010020020#64) ||| (if p.isBarrel core then 7#64 else 0) := by
  unfold Part.cap0
  cases p.isBarrel core <;> cases p <;> decide

theorem Part.cap1_eq (p : Part) : p.cap1 = if p = .x4 then 0 else 96 := by cases p <;> rfl

theorem Part.cap2_eq (p : Part) : p.cap2 = if p = .x4 then 0x8C00 else 0x4601 := by cases p <;> decide

/-- The five trap registers show the core's trap record in slot 15 alone (R185, R295). -/
theorem State.creg_trap (s : State) (c : Ctx) (i : Fin 5) :
    s.creg c (0x010 + i) = if c.slot = 15 then (s.core c.core).trapReg i else 0 := by
  match i with
  | 0 | 1 | 2 | 3 | 4 => rfl

theorem State.creg_trap_of_slot_ne {k : Nat} (h1 : 0x010 ≤ k) (h2 : k ≤ 0x014) (hslot : c.slot ≠ 15) : s.creg c k = 0 := by
  have h := s.creg_trap c ⟨k - 0x010, by omega⟩
  rwa [if_neg hslot, show 0x010 + (k - 0x010) = k by omega] at h

/-- The map of R184 ends at `fij`. -/
theorem State.creg_above_fij {k : Nat} (h : 0x031 ≤ k) : s.creg c k = 0 := by
  unfold State.creg
  split
  case h_24 => rfl
  all_goals omega

theorem CoreSt.headRecord_of_none {k : CoreSt} (hp : k.preempt = none) (hs : k.spill = none) : k.headRecord = k.trapQ.head? := by
  simp only [CoreSt.headRecord, hp, hs]

/-- In slot 15 the fields of the record at the head of the queue. -/
theorem State.creg_headRecord {r : TrapRec} (hslot : c.slot = 15) (hr : (s.core c.core).headRecord = some r) :
    s.creg c 0x012 = r.pc &&& 0x00FFFFFFFFFFFFFF#64 ∧ s.creg c 0x013 = r.addr ∧ s.creg c 0x014 = r.info := by
  refine ⟨(s.creg_trap c 2).trans ?_, (s.creg_trap c 3).trans ?_, (s.creg_trap c 4).trans ?_⟩ <;>
    simp [hslot, CoreSt.trapReg, hr]

/-! ## Changes written (R74, R183, R184, R186) -/

/-- A number of no register, or of one that is read-only for CWR (R183). -/
theorem State.cregWrite_ignored {k : Nat} (h : k ∉ [0x005, 0x008, 0x00B, 0x00C, 0x00D, 0x030]) : s.cregWrite k v = s := by
  unfold State.cregWrite
  dsimp only
  split
  case h_7 => rfl
  all_goals simp at h

/-- On a barrel core a CWR of `tlcap` holds it between 4 and 64 (R74). -/
theorem State.cregWrite_tlcap (hb : s.part.isBarrel s.me.core = true) : s.cregWrite 0x00B v = s.writeTlcap (s.me.core / 8) v := if_pos hb

/-- Another core has no `tlcap`. -/
theorem State.cregWrite_tlcap_absent (hb : s.part.isBarrel s.me.core = false) : s.cregWrite 0x00B v = s := if_neg (by simp [hb])

theorem State.cregWrite_mgate (hb : s.part.isBarrel s.me.core = true) :
    s.cregWrite 0x00D v = s.modSquad (s.me.core / 8) (fun k => { k with mgate := v &&& 0xFFFF#64 }) := if_pos hb

/-- The squad just changed. -/
@[simp] theorem State.modSquad_squad_self (s : State) (q : Nat) (f : SquadSt → SquadSt) : (s.modSquad q f).squad q = f (s.squad q) :=
  Tbl.getD_put_self _ _ _ _

/-- The count of the CWR itself goes to `ctrs.issued`, and leaves the lower half as it was written (R185). -/
theorem extractLsb'_add_issued (v : Word) : (v + 0x100000000#64).extractLsb' 0 32 = v.extractLsb' 0 32 := by
  have hw : 32 ≤ 64 := by decide
  rw [← BitVec.setWidth_eq_extractLsb' hw, ← BitVec.setWidth_eq_extractLsb' hw, BitVec.setWidth_add _ _ hw]
  exact BitVec.add_zero _

theorem State.writeFij_ignored {cid : Nat} (h : 3 ≤ fld v 3 0 ∨ s.part.links ≤ fld v 23 16) : s.writeFij cid v = s := if_pos h

/-- A fault that does not fire at once is armed. -/
theorem State.writeFij_armed {cid : Nat} (hkind : fld v 3 0 ≤ 2) (hstep : fld v 3 0 = 1 → fld v 47 32 ≠ 0)
    (hport : fld v 23 16 < s.part.links) :
    s.writeFij cid v = { s with fij := v &&& 0x0000FFFF00FF000F#64, fijBy := if fld v 3 0 = 2 then cid else 0 } := by
  unfold State.writeFij
  dsimp only
  rw [if_neg (by omega), if_neg fun ⟨h1, h0⟩ => hstep h1 h0]

/-! ## The obligation -/

/-- `ctrs` after a CWR of it: its lower half is the value's, and the CWR counts in the upper. -/
theorem cwr_ctrs (hd : s.namesOk [d]) (hr : readG d s = .ok (x, u)) :
    ∃ w : State, exec (.cwr d 0x008) s = .next w ∧ w.me.ctrs.extractLsb' 0 32 = x.extractLsb' 0 32 ∧ w.me.pc = s.me.npc ∧ w.me.g = u.me.g ∧
      w.me.fcs = u.me.fcs ∧ w.mem = u.mem := by
  refine ⟨_, cwr_completes hd hr rfl, extractLsb'_add_issued x, ?_, rfl, rfl, rfl⟩
  show u.me.npc = s.me.npc
  rw [readG_me hr]

/-- Settles O36: CRD and CWR each by its rule, with what each register reads and what its write changes. -/
theorem controlRegisterInstructions : Obligations.ControlRegisterInstructions := by
  unfold Obligations.ControlRegisterInstructions
  refine ⟨fun s d hd => ?_, fun s u d x hd hr => ?_, fun s cid v => ⟨fun h => ?_, fun hkind hstep hport => ?_⟩⟩
  · have direct {n : BitVec 12} {v : Word} (hv : s.creg s.me n.toNat = v) : writesG (.crd d n) s s d v := crd_writesG hd hv
    refine ⟨direct rfl, direct rfl, direct rfl, direct rfl, direct rfl, direct rfl, direct rfl, direct rfl, direct rfl, direct rfl,
      direct rfl, direct (Part.cap0_eq _ _), direct (Part.cap1_eq _), direct (Part.cap2_eq _), fun n h1 h2 hslot => ?_, fun n h => ?_,
      fun r hslot hp hs hq => ?_⟩
    · exact direct (State.creg_trap_of_slot_ne h1 h2 hslot)
    · exact direct (State.creg_above_fij h)
    · obtain ⟨hpc, haddr, hinfo⟩ := State.creg_headRecord hslot ((CoreSt.headRecord_of_none hp hs).trans hq)
      exact ⟨direct hpc, direct haddr, direct hinfo⟩
  · refine ⟨cwr_completes hd hr rfl, cwr_ctrs hd hr, fun n hn => cwr_completes hd hr (State.cregWrite_ignored ?_),
      fun hb => cwr_completes hd hr (State.cregWrite_tlcap hb), fun hb => cwr_completes hd hr (State.cregWrite_tlcap_absent hb),
      fun hb => ⟨_, cwr_completes hd hr (State.cregWrite_mgate hb), rfl, rfl, by simp⟩⟩
    simpa [← BitVec.toNat_inj] using hn
  · exact congrArg Host.Outcome.next (State.writeFij_ignored h)
  · exact ⟨_, rfl, by simp [State.writeFij_armed hkind hstep hport]⟩

end Sys2Proof.Machine
end

section
/-!
PROOFS. No instruction, no move and no turn ends a run (O54): every outcome is a next state, but for the hold of a part that has tripped.
-/

namespace Sys2Proof.Machine

/-- The outcome of each arm is by definition a next state: `issueOp` of its meaning, or the state that its move makes. -/
theorem exec_next (i : Instr) (s : State) : ∃ t : State, exec i s = .next t := by
  cases i <;> exact ⟨_, rfl⟩

/-- A change of the state after an instruction or a move. -/
theorem mapNext_exec_next (f : State → State) (i : Instr) (s : State) : ∃ t : State, mapNext f (exec i s) = .next t := by
  obtain ⟨t, ht⟩ := exec_next i s
  exact ⟨f t, by rw [ht]; rfl⟩

/-- A turn is an empty place, a bubble, or the instruction that the fetch gives (R276, R277). -/
theorem turn_next (s : State) : ∃ t : State, turn s = .next t := by
  unfold turn
  split
  · exact ⟨_, rfl⟩
  · split
    · exact ⟨_, rfl⟩
    · split
      · exact ⟨_, rfl⟩
      · split <;> exact mapNext_exec_next _ _ _

/-- A step with a move on the agenda. -/
theorem step_next_of_agenda {s : State} (h : s.agenda ≠ []) : ∃ t : State, step s = .next t := by
  unfold step
  split
  · split
    · exact ⟨_, rfl⟩
    · exact mapNext_exec_next _ _ _
  · contradiction

/-- With an empty agenda, a part that has tripped holds (R426), and another gives a slot its turn. -/
theorem step_of_agenda_nil {s : State} (h : s.agenda = []) : step s = if s.boot.tripped then .fault .thermalHold else turn s := by
  unfold step
  rw [h]

/-- Settles O54: every arm of `exec` answers a next state, and so do a move and a turn; the hold of R426 is the one stop. -/
theorem stepStopsOnlyWhenTripped : Obligations.StepStopsOnlyWhenTripped := by
  unfold Obligations.StepStopsOnlyWhenTripped
  refine ⟨exec_next, fun s h => ?_, fun s hs ht => by rw [step_of_agenda_nil hs, ht]; rfl⟩
  by_cases hs : s.agenda = []
  · have ht : s.boot.tripped = false := h.resolve_left fun hn => hn hs
    rw [step_of_agenda_nil hs, ht]
    exact turn_next s
  · exact step_next_of_agenda hs

end Sys2Proof.Machine
end

section
/-!
PROOFS. Taking a trap in slots 0 to 14 (O31): the record and its place, and what becomes of the context in its turn.
-/

namespace Sys2Proof.Machine

/-- A record enters its queue behind the records raised before it, and those of its cycle stay in ascending slot order (R295). -/
theorem TrapRec.enter_split (r : TrapRec) (l : List TrapRec) :
    ∃ p q, l = p ++ q ∧ r.enter l = p ++ r :: q ∧ (∀ x ∈ p, ¬ (x.cyc = r.cyc ∧ r.slot < x.slot)) ∧
      ∀ x ∈ q.head?, x.cyc = r.cyc ∧ r.slot < x.slot := by
  induction l with
  | nil => exact ⟨[], [], rfl, rfl, by simp, by simp⟩
  | cons x t ih =>
    by_cases hx : x.cyc = r.cyc ∧ r.slot < x.slot
    · exact ⟨[], x :: t, rfl, by simp [TrapRec.enter, hx], by simp, by simpa using hx⟩
    · obtain ⟨p, q, hl, henter, hp, hq⟩ := ih
      refine ⟨x :: p, q, by rw [hl]; rfl, by simp [TrapRec.enter, hx, henter], ?_, hq⟩
      exact List.forall_mem_cons.mpr ⟨hx, hp⟩

/-- A context at the place of the one in its turn takes its stead. -/
theorem State.place_of_me {s : State} {c : Ctx} (hlive : s.me.live = true) (hcore : c.core = s.me.core) (hslot : c.slot = s.me.slot) :
    s.place c = { s with me := c } := by
  simp [State.place, hlive, hcore, hslot]

/-- The core just changed. -/
@[simp] theorem State.modCore_core_self (s : State) (c : Nat) (f : CoreSt → CoreSt) : (s.modCore c f).core c = f (s.core c) :=
  Tbl.getD_put_self _ _ _ _

/-- Every other core. -/
theorem State.modCore_core_ne (s : State) {c n : Nat} (f : CoreSt → CoreSt) (h : n ≠ c) : (s.modCore c f).core n = s.core n :=
  Tbl.getD_put_ne _ _ _ h

/-- The queue of a core that holds no record of the slot takes the record (R279). -/
theorem State.queueTrap_core_of_free {s : State} {n : Nat} {r : TrapRec} (h : ∀ x ∈ (s.core n).trapQ, x.slot ≠ r.slot) :
    (s.queueTrap n r).core n = { s.core n with trapQ := r.enter (s.core n).trapQ } := by
  simpa [State.queueTrap] using h

/-- Where the queue holds a record of the slot already, the record is held (R351). -/
theorem State.queueTrap_core_of_queued {s : State} {n : Nat} {r : TrapRec} (h : ∃ x ∈ (s.core n).trapQ, x.slot = r.slot) :
    (s.queueTrap n r).core n = { s.core n with held := (s.core n).held ++ [r] } := by
  simpa [State.queueTrap] using h

/-- Either way the record stands with its core. -/
theorem State.mem_queueTrap (s : State) (n : Nat) (r : TrapRec) :
    r ∈ ((s.queueTrap n r).core n).trapQ ∨ r ∈ ((s.queueTrap n r).core n).held := by
  by_cases h : ∃ x ∈ (s.core n).trapQ, x.slot = r.slot
  · right; simp [State.queueTrap_core_of_queued h]
  · left
    obtain ⟨p, q, -, henter, -, -⟩ := r.enter_split (s.core n).trapQ
    simp [State.queueTrap_core_of_free (not_exists.mp h · ⟨·, ·⟩), henter]

/-- A context with a record of its own is trapped. -/
theorem State.trapped_of_mem {s : State} {c : Ctx} {r : TrapRec} (hslot : r.slot = c.slot) (hcid : r.cid = c.cid)
    (h : r ∈ (s.core c.core).trapQ ∨ r ∈ (s.core c.core).held) : s.trapped c = true := by
  simp only [State.trapped, Bool.or_eq_true, List.any_eq_true]
  exact h.imp (⟨r, ·, by simp [hslot, hcid]⟩) (⟨r, ·, by simp [hslot, hcid]⟩)

/-- The record of a precise trap of the context in its turn (R279, R351). -/
def State.preciseRec (s : State) (cls : TrapClass) (addr info : Word) (fetch : Bool) : TrapRec :=
  { cls := cls, slot := s.me.slot, cid := s.me.cid, away := s.me.isAway, pc := s.me.pc, addr := addr, info := info, late := false,
    fetch := fetch, next := s.me.npc, cyc := s.cyc }

/-- A context whose instruction has trapped is detached and has nothing in hand (R279). -/
def Ctx.detached (c : Ctx) : Ctx := { c with att := false, inHand := none }

/-- In slots 0 to 14 the context in its turn parks, and its record goes to its core (R279, R351). -/
theorem State.takeTrap_eq {s : State} (cls : TrapClass) (addr info : Word) (fetch : Bool) (hlive : s.me.live = true) (hslot : s.me.slot ≠ 15) :
    s.takeTrap cls addr info fetch = (s.modMe Ctx.detached).queueTrap s.me.core (s.preciseRec cls addr info fetch) := by
  have hplace : s.place s.me.detached = s.modMe Ctx.detached := State.place_of_me hlive rfl rfl
  rw [← hplace]
  exact if_neg hslot

/-- Settles O31: the record is the one of a precise trap, and `queueTrap` says where it goes. -/
theorem takingATrap : Obligations.TakingATrap := by
  unfold Obligations.TakingATrap
  intro s cls addr info fetch hlive hslot
  rw [State.takeTrap_eq cls addr info fetch hlive hslot]
  have hfree := State.queueTrap_core_of_free (s := s.modMe Ctx.detached) (n := s.me.core) (r := s.preciseRec cls addr info fetch)
  have hqueued := State.queueTrap_core_of_queued (s := s.modMe Ctx.detached) (n := s.me.core) (r := s.preciseRec cls addr info fetch)
  refine ⟨s.preciseRec cls addr info fetch, fun h => ?_, hqueued, rfl, rfl, rfl, rfl, rfl, rfl, State.modCore_me _ _ _,
    State.trapped_of_mem rfl rfl (State.mem_queueTrap _ _ _), rfl, rfl⟩
  obtain ⟨p, q, hl, henter, hp, hq⟩ := (s.preciseRec cls addr info fetch).enter_split (s.core s.me.core).trapQ
  exact ⟨p, q, hl, (hfree h).trans (by rw [← henter]; rfl), hp, hq⟩

end Sys2Proof.Machine
end

section
/-!
PROOFS. The chain before a base word (R32-R34): the canonical chain that the encoder writes, and what the front end finds in it.
-/

namespace Sys2Proof

/-! ## Words and their fields -/

@[simp] theorem opOf_append (op : BitVec 6) (x : BitVec 10) : opOf (op ++ x) = op := BitVec.extractLsb'_append_eq_left
@[simp] theorem loOf_append (op : BitVec 6) (x : BitVec 10) : loOf (op ++ x) = x := BitVec.extractLsb'_append_eq_right
@[simp] theorem fD_loRR (d s : BitVec 4) (f : BitVec 2) : fD (loRR d s f) = d :=
  (BitVec.extractLsb'_append_eq_of_le (by decide)).trans BitVec.extractLsb'_append_eq_left
@[simp] theorem fS_loRR (d s : BitVec 4) (f : BitVec 2) : fS (loRR d s f) = s :=
  (BitVec.extractLsb'_append_eq_of_le (by decide)).trans BitVec.extractLsb'_append_eq_right
@[simp] theorem fF_loRR (d s : BitVec 4) (f : BitVec 2) : fF (loRR d s f) = f :=
  BitVec.extractLsb'_append_eq_right
@[simp] theorem fD_loRI (d : BitVec 4) (i : BitVec 6) : fD (loRI d i) = d := BitVec.extractLsb'_append_eq_left
@[simp] theorem fI6_loRI (d : BitVec 4) (i : BitVec 6) : fI6 (loRI d i) = i := BitVec.extractLsb'_append_eq_right

/-- A register number is its high bits, which PXR carries, and its field (R32). -/
@[simp] theorem hi2_append_lo4 (r : Reg) : hi2 r ++ lo4 r = r := BitVec.extractLsb'_append_extractLsb'

/-- A register number below 16 needs no PXR. -/
@[simp] theorem hi2_eq_zero (r : Reg) : hi2 r = 0#2 ↔ low r = true := by
  simp only [low, hi2, decide_eq_true_eq, ← BitVec.toNat_inj, BitVec.extractLsb'_toNat]
  have := r.isLt
  simp
  omega

@[simp] theorem low_zero : low 0#6 = true := rfl
@[simp] theorem hi2_zero : hi2 0#6 = 0#2 := rfl
@[simp] theorem lo4_zero : lo4 0#6 = 0#4 := rfl

@[simp] theorem smodOf_bits (m : SMod) : smodOf m.bits = m := by cases m <;> rfl
theorem SMod.bits_lt (m : SMod) : m.bits.toNat < 4 := by cases m <;> decide
theorem Sel.bits_ne_three (s : Sel) : s.bits ≠ 3 := by
  cases s with
  | all => decide
  | half i => revert i; decide
  | byte i => revert i; decide
  | nib i => revert i; decide
@[simp] theorem selOf_bits (s : Sel) : selOf s.bits = s := by
  cases s with
  | all => rfl
  | half i => revert i; decide
  | byte i => revert i; decide
  | nib i => revert i; decide

/-! ## The canonical chain -/

/-- What the encoder says of an instruction before its base word: the arguments of `chain`. -/
structure Chain where
  page : BitVec 4
  m6 : BitVec 6
  r : Bool
  dh : BitVec 2
  sh : BitVec 2
  t : Reg
  q : Pxs
  p : Pxi

namespace Chain

/-- The chain has a PXP. -/
def hasP (c : Chain) : Bool := decide (c.page ≠ 0 ∨ c.m6 ≠ 0)
/-- The chain has a PXR. -/
def hasR (c : Chain) : Bool := decide (c.r = true ∨ c.dh ≠ 0 ∨ c.sh ≠ 0 ∨ c.t ≠ 0)
/-- The chain has a PXS. -/
def hasS (c : Chain) : Bool := decide (c.q ≠ Pxs.none)
/-- The words of the chain. -/
def words (c : Chain) : List IWord := chain c.page c.m6 c.r c.dh c.sh c.t c.q c.p
/-- Its PXP, if it has one. -/
def pxp (c : Chain) : List IWord := if c.page ≠ 0 ∨ c.m6 ≠ 0 then [0x3E#6 ++ c.page ++ c.m6] else []
/-- Its PXR, if it has one. -/
def pxr (c : Chain) : List IWord := if c.r ∨ c.dh ≠ 0 ∨ c.sh ≠ 0 ∨ c.t ≠ 0 then [0x3D#6 ++ c.dh ++ c.sh ++ c.t] else []
/-- Its PXS, if it has one. -/
def pxs (c : Chain) : List IWord := if c.q ≠ Pxs.none then [0x3F#6 ++ c.q.mask ++ c.q.smod.bits ++ c.q.sel.bits] else []
/-- Its PXI words. -/
def pxi (c : Chain) : List IWord := c.p.map (fun x => 0x3C#6 ++ x)

theorem words_eq (c : Chain) : c.words = c.pxp ++ (c.pxr ++ (c.pxs ++ c.pxi)) := by
  simp only [words, chain, pxp, pxr, pxs, pxi, List.append_assoc]

/-- The chain and its base word, as the front end shows them to the decoder: absent prefixes have no position. -/
def parts (c : Chain) (op : BitVec 6) (lo : BitVec 10) : Parts :=
  let a := c.hasP.toNat
  let b := a + c.hasR.toNat
  let e := b + c.hasS.toNat
  { pxp := if c.hasP then some 0 else none, page := c.page, m6 := c.m6,
    pxr := if c.hasR then some a else none, dh := c.dh, sh := c.sh, t := c.t,
    pxs := if c.hasS then some b else none, mask := c.q.mask, smod := c.q.smod.bits, sel := c.q.sel.bits,
    pxi := c.p, pxiAt := if c.p.isEmpty then 0 else e, base := e + c.p.length, op := op, lo := lo }

theorem words_length (c : Chain) : c.words.length = c.hasP.toNat + c.hasR.toNat + c.hasS.toNat + c.p.length := by
  simp only [words, chain, hasP, hasR, hasS, List.length_append, List.length_map, apply_ite List.length, List.length_cons, List.length_nil]
  simp only [Bool.toNat, Bool.cond_decide]

/-! ### What the scan finds -/

/-- The front end's view with the chain's PXP. -/
def addP (c : Chain) (p : Parts) : Parts := { p with pxp := if c.hasP then some 0 else none, page := c.page, m6 := c.m6 }
/-- With its PXR, if any at index `i`. -/
def addR (c : Chain) (i : Nat) (p : Parts) : Parts := { p with pxr := if c.hasR then some i else none, dh := c.dh, sh := c.sh, t := c.t }
/-- With its PXS, if any at index `i`. -/
def addS (c : Chain) (i : Nat) (p : Parts) : Parts :=
  { p with pxs := if c.hasS then some i else none, mask := c.q.mask, smod := c.q.smod.bits, sel := c.q.sel.bits }

theorem scan_pfx {n i last k : Nat} {p : Parts} {w : IWord} {ws : List IWord} (hk : pfxRank w = some k) (hr : pfxReasons k last i w = []) :
    scan (n + 1) i last p (w :: ws) = scan n (i + 1) (max last k) (p.addPfx k i w) ws := by
  rw [scan, hk]
  simp only [hr, List.nil_append]

/-- A word of no rank ends the chain. -/
theorem scan_base {n i last : Nat} {p : Parts} {op : BitVec 6} {lo : BitVec 10} {ws : List IWord} (h : pfxRank (op ++ lo) = none) :
    scan n i last p ((op ++ lo) :: ws) = (some { p with base := i, op := op, lo := lo }, []) := by
  cases n <;> simp [scan, h]

/-- A word of the chain in its place shows no reason by itself (R34, R40). -/
theorem pfxReasons_eq_nil {k last i : Nat} {w : IWord} (hw : w ≠ 0xFFFF) (hpage : k = 1 → ((loOf w).extractLsb' 6 4).toNat < 5)
    (hlast : last < k ∨ last = k ∧ k = 4) : pfxReasons k last i w = [] := by
  have hp : ¬ (k = 1 ∧ 5 ≤ ((loOf w).extractLsb' 6 4).toNat) := fun ⟨h1, h2⟩ => absurd (hpage h1) (by omega)
  have hl : ¬ (k < last ∨ (k = last ∧ k ≠ 4)) := by omega
  simp only [pfxReasons, if_neg hw, if_neg hp, if_neg hl, List.append_nil]

/-- Only a word whose primary is that of PXS can be 0xFFFF. -/
theorem append_ne_ffff {op : BitVec 6} {x : BitVec 10} (h : op ≠ 0x3F) : (op ++ x : IWord) ≠ 0xFFFF := fun e =>
  h ((opOf_append op x).symm.trans (congrArg opOf e))

/-! The words of a chain by their primary and their operand field. -/

theorem pxp_word (page : BitVec 4) (m6 : BitVec 6) : (0x3E#6 ++ page ++ m6 : IWord) = 0x3E#6 ++ (page ++ m6 : BitVec 10) :=
  BitVec.append_assoc.trans (BitVec.cast_eq _ _)

theorem pxr_word (dh sh : BitVec 2) (t : Reg) : (0x3D#6 ++ dh ++ sh ++ t : IWord) = 0x3D#6 ++ (dh ++ sh ++ t : BitVec 10) := by
  have h1 : (0x3D#6 ++ dh ++ sh : BitVec 10) = 0x3D#6 ++ (dh ++ sh : BitVec 4) := BitVec.append_assoc.trans (BitVec.cast_eq _ _)
  exact (congrArg (· ++ t) h1).trans (BitVec.append_assoc.trans (BitVec.cast_eq _ _))

theorem pxs_word (mask smod : BitVec 3) (sel : BitVec 4) :
    (0x3F#6 ++ mask ++ smod ++ sel : IWord) = 0x3F#6 ++ (mask ++ smod ++ sel : BitVec 10) := by
  have h1 : (0x3F#6 ++ mask ++ smod : BitVec 12) = 0x3F#6 ++ (mask ++ smod : BitVec 6) := BitVec.append_assoc.trans (BitVec.cast_eq _ _)
  exact (congrArg (· ++ sel) h1).trans (BitVec.append_assoc.trans (BitVec.cast_eq _ _))

/-- The modifier of a PXS word that the encoder writes is no reserved one, so that the word is not 0xFFFF. -/
theorem pxs_word_ne_ffff (mask : BitVec 3) (m : SMod) (sel : BitVec 4) : (0x3F#6 ++ (mask ++ m.bits ++ sel : BitVec 10) : IWord) ≠ 0xFFFF := fun e => by
  have hm : (mask ++ m.bits ++ sel : BitVec 10).extractLsb' 4 3 = m.bits :=
    (BitVec.extractLsb'_append_eq_of_le (by decide)).trans BitVec.extractLsb'_append_eq_right
  have hlo : (mask ++ m.bits ++ sel : BitVec 10) = 0x3FF := (loOf_append _ _).symm.trans (congrArg loOf e)
  have he : m.bits = 7 := hm.symm.trans (congrArg (BitVec.extractLsb' 4 3) hlo)
  cases m <;> exact absurd he (by decide)

/-- The scan over the PXP of a chain. -/
theorem scan_pxp (c : Chain) (n : Nat) (ws : List IWord) (hpage : c.page.toNat < 5) :
    scan (n + c.hasP.toNat) 0 0 Parts.zero (c.pxp ++ ws) =
      scan n c.hasP.toNat c.hasP.toNat (c.addP Parts.zero) ws := by
  by_cases h : c.page ≠ 0 ∨ c.m6 ≠ 0
  · have hP : c.hasP = true := decide_eq_true h
    have hpg : (c.page ++ c.m6 : BitVec 10).extractLsb' 6 4 = c.page := BitVec.extractLsb'_append_eq_left
    have hm6 : (c.page ++ c.m6 : BitVec 10).extractLsb' 0 6 = c.m6 := BitVec.extractLsb'_append_eq_right
    rw [pxp, if_pos h, List.singleton_append, hP, pxp_word]
    refine (scan_pfx (k := 1) (by simp [pfxRank]) (pfxReasons_eq_nil (append_ne_ffff (by decide)) (fun _ => ?_) (.inl (by decide)))).trans ?_
    · rwa [loOf_append, hpg]
    · simp [Parts.addPfx, addP, Parts.zero, hP, hpg, hm6]
  · have hP : c.hasP = false := decide_eq_false h
    obtain ⟨hpage0, hm6⟩ := not_or.mp h
    simp [pxp, addP, hP, Parts.zero, not_not.mp hpage0, not_not.mp hm6]

/-- The scan over the PXR of a chain, behind a PXP or none. -/
theorem scan_pxr (c : Chain) (n i last : Nat) (p : Parts) (ws : List IWord) (hlast : last ≤ 1) (hp : p.pxr = none ∧ p.dh = 0 ∧ p.sh = 0 ∧ p.t = 0) :
    ∃ last' ≤ 2, scan (n + c.hasR.toNat) i last p (c.pxr ++ ws) =
      scan n (i + c.hasR.toNat) last' (c.addR i p) ws := by
  obtain ⟨hpr, hdh, hsh, ht⟩ := hp
  by_cases h : c.r = true ∨ c.dh ≠ 0 ∨ c.sh ≠ 0 ∨ c.t ≠ 0
  · have hR : c.hasR = true := decide_eq_true h
    have hfd : (c.dh ++ c.sh ++ c.t : BitVec 10).extractLsb' 8 2 = c.dh :=
      (BitVec.extractLsb'_append_eq_of_le (by decide)).trans BitVec.extractLsb'_append_eq_left
    have hfs : (c.dh ++ c.sh ++ c.t : BitVec 10).extractLsb' 6 2 = c.sh :=
      (BitVec.extractLsb'_append_eq_of_le (by decide)).trans BitVec.extractLsb'_append_eq_right
    have hft : (c.dh ++ c.sh ++ c.t : BitVec 10).extractLsb' 0 6 = c.t := BitVec.extractLsb'_append_eq_right
    refine ⟨max last 2, by omega, ?_⟩
    rw [pxr, if_pos h, List.singleton_append, hR, pxr_word]
    refine (scan_pfx (k := 2) (by simp [pfxRank]) (pfxReasons_eq_nil (append_ne_ffff (by decide)) (fun h => by omega) (.inl (by omega)))).trans ?_
    simp [Parts.addPfx, addR, hR, hpr, hfd, hfs, hft]
  · have hR : c.hasR = false := decide_eq_false h
    simp only [not_or, not_not] at h
    obtain ⟨hr, hcd, hcs, hct⟩ := h
    refine ⟨last, by omega, ?_⟩
    cases p
    simp_all [pxr, addR]

/-- The scan over the PXS of a chain. -/
theorem scan_pxs (c : Chain) (n i last : Nat) (p : Parts) (ws : List IWord) (hlast : last ≤ 2)
    (hp : p.pxs = none ∧ p.mask = 0 ∧ p.smod = 0 ∧ p.sel = 0) :
    ∃ last' ≤ 3, scan (n + c.hasS.toNat) i last p (c.pxs ++ ws) =
      scan n (i + c.hasS.toNat) last' (c.addS i p) ws := by
  obtain ⟨hps, hmask, hsmod, hsel⟩ := hp
  by_cases h : c.q ≠ Pxs.none
  · have hS : c.hasS = true := decide_eq_true h
    have hfm : (c.q.mask ++ c.q.smod.bits ++ c.q.sel.bits : BitVec 10).extractLsb' 7 3 = c.q.mask :=
      (BitVec.extractLsb'_append_eq_of_le (by decide)).trans BitVec.extractLsb'_append_eq_left
    have hfs : (c.q.mask ++ c.q.smod.bits ++ c.q.sel.bits : BitVec 10).extractLsb' 4 3 = c.q.smod.bits :=
      (BitVec.extractLsb'_append_eq_of_le (by decide)).trans BitVec.extractLsb'_append_eq_right
    have hfl : (c.q.mask ++ c.q.smod.bits ++ c.q.sel.bits : BitVec 10).extractLsb' 0 4 = c.q.sel.bits := BitVec.extractLsb'_append_eq_right
    refine ⟨max last 3, by omega, ?_⟩
    rw [pxs, if_pos h, List.singleton_append, hS, pxs_word]
    refine (scan_pfx (k := 3) (by simp [pfxRank]) (pfxReasons_eq_nil (pxs_word_ne_ffff _ _ _) (fun h => by omega) (.inl (by omega)))).trans ?_
    simp [Parts.addPfx, addS, hS, hps, hfm, hfs, hfl]
  · have hS : c.hasS = false := decide_eq_false h
    have hq : c.q = Pxs.none := not_not.mp h
    refine ⟨last, by omega, ?_⟩
    cases p
    simp_all [pxs, addS, Pxs.none, SMod.bits, Sel.bits]

/-- The scan over PXI words. -/
theorem scan_pxi (l : Pxi) (n i last : Nat) (p : Parts) (ws : List IWord) (hlast : last ≤ 4) :
    ∃ last', scan (n + l.length) i last p (l.map (fun x => 0x3C#6 ++ x) ++ ws) =
      scan n (i + l.length) last' { p with pxi := p.pxi ++ l, pxiAt := if p.pxi.isEmpty ∧ ¬ l.isEmpty then i else p.pxiAt } ws := by
  induction l generalizing i last p with
  | nil => exact ⟨last, by simp⟩
  | cons x l ih =>
    obtain ⟨last', h⟩ := ih (i + 1) (max last 4) (p.addPfx 4 i (0x3C#6 ++ x)) (by omega)
    refine ⟨last', ?_⟩
    rw [List.map_cons, List.cons_append, List.length_cons, ← Nat.add_assoc]
    refine (scan_pfx (k := 4) (by simp [pfxRank]) (pfxReasons_eq_nil (append_ne_ffff (by decide)) (fun h => by omega) (by omega))).trans
      (h.trans ?_)
    simp [Parts.addPfx, Nat.add_assoc, Nat.add_comm 1]

/-- What the front end finds in a canonical chain and its base word, whatever follows: the chain's own fields, and no reason. -/
theorem scan_words (c : Chain) {op : BitVec 6} {lo : BitVec 10} (hpage : c.page.toNat < 5) (hlen : c.words.length ≤ 4)
    (hop : pfxRank (op ++ lo) = none) (rest : List IWord) :
    scan 4 0 0 Parts.zero (c.words ++ (op ++ lo) :: rest) = (some (c.parts op lo), []) := by
  obtain ⟨n, hn⟩ : ∃ n, 4 = n + c.p.length + c.hasS.toNat + c.hasR.toNat + c.hasP.toNat :=
    ⟨4 - c.words.length, by rw [words_length] at *; omega⟩
  rw [hn, words_eq, List.append_assoc, List.append_assoc, List.append_assoc, scan_pxp c _ _ hpage]
  obtain ⟨last2, h2, e2⟩ := scan_pxr c (n + c.p.length + c.hasS.toNat) c.hasP.toNat c.hasP.toNat (c.addP Parts.zero)
    (c.pxs ++ (c.pxi ++ (op ++ lo) :: rest)) (Bool.toNat_le _) ⟨rfl, rfl, rfl, rfl⟩
  rw [e2]
  obtain ⟨last3, h3, e3⟩ := scan_pxs c (n + c.p.length) (c.hasP.toNat + c.hasR.toNat) last2 (c.addR c.hasP.toNat (c.addP Parts.zero))
    (c.pxi ++ (op ++ lo) :: rest) h2 ⟨rfl, rfl, rfl, rfl⟩
  rw [e3]
  obtain ⟨last4, e4⟩ := scan_pxi c.p n _ last3 _ ((op ++ lo) :: rest) (Nat.le_succ_of_le h3)
  rw [pxi, e4, scan_base hop]
  simp [parts, addP, addR, addS, Parts.zero]

end Chain
end Sys2Proof
end

section
/-!
PROOFS. What an entry of the opcode map accepts (R34-R40): each reason's condition, and the words of an instruction that decode to it.
-/

namespace Sys2Proof

/-! ## When an entry gives no reason -/

variable {p : Parts} {c : Bool}

@[simp] theorem atP_eq_nil : atP c p = [] ↔ c = false := by cases c <;> simp [atP]
@[simp] theorem atB_eq_nil {k : Nat} : atB c k p = [] ↔ c = false := by cases c <;> simp [atB]
@[simp] theorem atR_eq_nil : atR c p = [] ↔ c = false := by cases c <;> simp [atR]
@[simp] theorem atX_eq_nil : atX c p = [] ↔ c = false := by cases c <;> simp [atX]

@[simp] theorem selBad_eq_nil {flt : Bool} : selBad flt p = [] ↔ (p.pxs.isSome = true → (selOf p.sel).legal flt = true) := by
  simp [selBad]

namespace RUse
@[simp] theorem reasons_no : reasons .no p = [] ↔ p.pxr = none := by simp [reasons]
@[simp] theorem reasons_hi {d s : Bool} : reasons (.hi d s) p = [] ↔ (d = false → p.dh = 0) ∧ (s = false → p.sh = 0) ∧ p.t = 0 := by
  simp [reasons, and_assoc]
@[simp] theorem reasons_role {d s : Bool} : reasons (.role d s) p = [] ↔ (d = false → p.dh = 0) ∧ (s = false → p.sh = 0) := by
  simp [reasons]
@[simp] theorem reasons_three : reasons .three p = [] ↔ (p.pxi ≠ [] → p.t = 0) := by simp [reasons]
end RUse

namespace IUse
@[simp] theorem reasons_no : reasons .no p = [] ↔ p.pxi = [] := by simp [reasons]
@[simp] theorem reasons_any : reasons .any p = [] := rfl
@[simp] theorem reasons_exact {n : Nat} : reasons (.exact n) p = [] ↔ p.pxi.length = n := by simp [reasons]
@[simp] theorem reasons_atMost {n : Nat} : reasons (.atMost n) p = [] ↔ p.pxi.length ≤ n := by simp [reasons]
@[simp] theorem reasons_atLeast {n : Nat} : reasons (.atLeast n) p = [] ↔ n ≤ p.pxi.length := by simp [reasons]
end IUse

namespace FUse
variable {r : Reg} {fld : BitVec 4}
@[simp] theorem reasons_any : reasons .any r fld p = [] := rfl
@[simp] theorem reasons_gd : reasons .gd r fld p = [] ↔ dstG r = true := by simp [reasons]
@[simp] theorem reasons_v : reasons .v r fld p = [] ↔ isV r = true := by simp [reasons]
@[simp] theorem reasons_k : reasons .k r fld p = [] ↔ r.toNat < 8 := by simp [reasons]
@[simp] theorem reasons_kd : reasons .kd r fld p = [] ↔ r ≠ 0 ∧ r.toNat < 8 := by simp [reasons]
@[simp] theorem reasons_zero : reasons .zero r fld p = [] ↔ fld = 0 := by simp [reasons]
@[simp] theorem reasons_nil : reasons .nil r fld p = [] ↔ r.extractLsb' 4 2 = 0 ∧ fld = 0 := by simp [reasons]
@[simp] theorem reasons_upTo {n : Nat} : reasons (.upTo n) r fld p = [] ↔ fld.toNat ≤ n := by simp [reasons]
end FUse

namespace SUse
/-- The modifier and the selector of a PXS are no reserved ones. -/
def legalPxs (p : Parts) : Prop := p.smod.toNat < 4 ∧ p.sel ≠ 3

variable {u : SUse}
theorem reasons_of_none (h : p.pxs = none) : u.reasons p = [] := by simp [reasons, h]
@[simp] theorem reasons_no : reasons .no p = [] ↔ p.pxs = none := by cases h : p.pxs <;> simp [reasons, h]
@[simp] theorem reasons_free : reasons .free p = [] := by cases h : p.pxs <;> simp [reasons, h]
@[simp] theorem reasons_scalar : reasons .scalar p = [] ↔ (p.pxs.isSome = true → legalPxs p ∧ p.mask = 0) := by
  cases h : p.pxs <;> simp [reasons, h, legalPxs]
@[simp] theorem reasons_float : reasons .float p = [] ↔ (p.pxs.isSome = true → legalPxs p ∧ p.mask = 0 ∧ p.sel = 0) := by
  cases h : p.pxs <;> simp [reasons, h, legalPxs]
@[simp] theorem reasons_lanes : reasons .lanes p = [] ↔ (p.pxs.isSome = true → legalPxs p) := by
  cases h : p.pxs <;> simp [reasons, h, legalPxs]
@[simp] theorem reasons_noMask : reasons .noMask p = [] ↔ (p.pxs.isSome = true → legalPxs p ∧ p.mask = 0) := by
  cases h : p.pxs <;> simp [reasons, h, legalPxs]
@[simp] theorem reasons_maskOnly : reasons .maskOnly p = [] ↔ (p.pxs.isSome = true → legalPxs p ∧ p.smod = 0 ∧ p.sel = 0) := by
  cases h : p.pxs <;> simp [reasons, h, legalPxs]
@[simp] theorem reasons_zero : reasons .zero p = [] ↔ (p.pxs.isSome = true → legalPxs p ∧ p.mask = 0 ∧ p.smod = 0 ∧ p.sel = 0) := by
  cases h : p.pxs <;> simp [reasons, h, legalPxs, and_assoc]
end SUse

/-- An entry accepts a chain if each of its fields does. -/
theorem Ent.reasons_eq_nil {e : Ent} : e.reasons p = [] ↔
    p.m6 &&& ~~~e.m6 = 0 ∧ e.r.reasons p = [] ∧ e.s.reasons p = [] ∧ e.i.reasons p = [] ∧ e.d.reasons p.d (fD p.lo) p = [] ∧
      e.src.reasons p.s (fS p.lo) p = [] ∧ e.t.reasons p.t 0 p = [] ∧ e.more p = [] := by
  simp [Ent.reasons]

/-! ## What well-formedness asks of an instruction -/

section
variable {d s t : Reg} {q : Pxs} {p : Pxi}

theorem wf_lea {o : LeaOp} : (Instr.lea o).wf = (dstG o.d && chainOk false (!(low o.d && low o.s && o.t == 0)) Pxs.none o.p) := rfl
theorem wf_bnd_size {f : BitVec 2} : (Instr.bnd d s (.size f)).wf = (dstG d && true) := rfl
theorem wf_bnd_imm : (Instr.bnd d s (.imm p)).wf =
    (dstG d && (!p.isEmpty && decide (immN p ≠ 0) && chainOk false (!(low d && low s)) Pxs.none p)) := rfl
theorem wf_bcmp {c : BcmpCond} : (Instr.bcmp c d s p).wf = (!p.isEmpty && chainOk false (!(low d && low s)) Pxs.none p) := rfl
theorem wf_amo {op : AtOp} {w : AtW} {ord : AtOrd} : (Instr.amo op w ord d s t).wf = (dstG d && op.agrees w && (op != .jdec || t == 0)) := rfl
theorem wf_rupd {op : AtOp} {w : AtW} {ord : AtOrd} :
    (Instr.rupd op w ord s t).wf = (op.agrees w && (op != .jdec || t == 0) && (ord == .relaxed || ord == .rel)) := rfl
theorem wf_send : (Instr.send d s t).wf = sendOk d s t := rfl
theorem wf_vred {r : VredOp} {o : VUn} :
    (Instr.vred r o).wf = ((o.ty == .f32 || o.ty == .s32 || o.ty == .n32) && dstG o.d && isV o.s && o.q.sel.legal o.ty.isFloat) := rfl
theorem wf_vcvt {dst : VTy} {o : VUn} : (Instr.vcvt dst o).wf = (o.ty.group == dst.group && o.ty != dst && o.ok) := rfl
theorem wf_vbcast_reg {ty : VTy} {mask : BitVec 3} :
    (Instr.vbcast { ty := ty, d := d, src := .reg s q, mask := mask }).wf = (isV d && (q.mask == 0 && q.sel.legal ty.isFloat)) := rfl
theorem wf_vbcast_imm {ty : VTy} {mask : BitVec 3} : (Instr.vbcast { ty := ty, d := d, src := .imm p, mask := mask }).wf =
    (isV d && (!p.isEmpty && chainOk true (!low d) { mask := mask, smod := .plain, sel := .all } p)) := rfl
theorem wf_vext {o : VExtOp} : (Instr.vext o).wf = (dstG o.d && isV o.s && o.q.mask == 0 && o.q.sel.legal o.ty.isFloat &&
    chainOk true (!(low o.d && low o.s)) o.q [0]) := rfl
theorem wf_vslide {o : VSlideOp} : (Instr.vslide o).wf = (isV o.d && isV o.s && isV o.t && o.q.sel.legal o.ty.isFloat &&
    chainOk true (!(low o.d && low o.s && o.t == 0)) o.q [0]) := rfl
theorem wf_vunpk {f : UnpkFmt} {part : BitVec 3} : (Instr.vunpk f part d s q).wf =
    (decide (part.toNat < f.parts) && isV d && isV s && q.sel.legal f.isFloat && chainOk true (!(low d && low s)) q [0]) := rfl
theorem wf_vldx {sz : VxSize} {sx fresh : Bool} {mask : BitVec 3} :
    (Instr.vldx sz sx fresh mask d s t).wf = (isV d && isV t && !(sx && sz == .b4)) := rfl
theorem wf_mmeta {c : MetaCnt} {m : BitVec 3} : (Instr.mmeta c m s).wf = !(c == .c128 && m.getLsbD 0) := rfl
theorem wf_fcvt {k : CvtKind} {m : SMod} : (Instr.fcvt k d s m).wf = (dstG d && k.ok) := rfl
end

/-! ## Words that decode to an instruction -/

/-- The words decode to the instruction, with their own number as its length, whatever words follow (R34). -/
def Decodes (ws : List IWord) (i : Instr) : Prop := ws.length ≤ 5 ∧ ∀ rest, decodeWords (ws ++ rest) = .ok (i, ws.length)

/-! Which prefixes a canonical chain shows. -/

theorem isSome_ite_some {α : Type} {b : Bool} {x : α} : (if b then some x else none).isSome = b := by cases b <;> rfl

theorem Chain.parts_pxp {ch : Chain} {op : BitVec 6} {lo : BitVec 10} : (ch.parts op lo).pxp.isSome = ch.hasP := isSome_ite_some
theorem Chain.parts_pxr {ch : Chain} {op : BitVec 6} {lo : BitVec 10} : (ch.parts op lo).pxr.isSome = ch.hasR := isSome_ite_some
theorem Chain.parts_pxs {ch : Chain} {op : BitVec 6} {lo : BitVec 10} : (ch.parts op lo).pxs.isSome = ch.hasS := isSome_ite_some

/-- The opcode map has no reserved page, and no word of a chain is a base word of it. -/
theorem look_ent {page op f : Nat} {e : Ent} (hop : op < 64) (h : look page op f = .ent e) : page < 5 ∧ op < 0x3C := by
  have hpage : page < 5 := by
    by_contra hn
    obtain ⟨n, rfl⟩ : ∃ n, page = n + 5 := ⟨page - 5, by omega⟩
    cases h
  refine ⟨hpage, ?_⟩
  by_contra hn
  have hop4 : op = 0x3C ∨ op = 0x3D ∨ op = 0x3E ∨ op = 0x3F := by omega
  interval_cases page <;> obtain rfl | rfl | rfl | rfl := hop4 <;> cases h

theorem pfxRank_eq_none {op : BitVec 6} {lo : BitVec 10} (h : op.toNat < 0x3C) : pfxRank (op ++ lo) = none := by
  have hne {x : BitVec 6} (hx : 0x3C ≤ x.toNat) : op ≠ x := fun e => by subst e; omega
  simp [pfxRank, hne]

/-- A canonical chain and a base word decode to what the entry of the opcode map builds, where it accepts them. -/
theorem decodes_of_look {c : Chain} {op : BitVec 6} {lo : BitVec 10} {e : Ent} {i : Instr}
    (hlook : look c.page.toNat op.toNat (fF lo).toNat = .ent e) (hlen : c.words.length ≤ 4) (hr : e.reasons (c.parts op lo) = [])
    (hb : e.build (c.parts op lo) = i) : Decodes (c.words ++ [op ++ lo]) i := by
  obtain ⟨hpage, hop⟩ := look_ent op.isLt hlook
  refine ⟨by simpa using Nat.lt_succ_of_le hlen, fun rest => ?_⟩
  have hi : (c.parts op lo).instr = .ok i := by
    have hl : look (c.parts op lo).page.toNat (c.parts op lo).op.toNat (c.parts op lo).f.toNat = .ent e := hlook
    rw [Parts.instr, hl]
    simp [hr, hb]
  have hbase : (c.parts op lo).base = c.words.length := c.words_length.symm
  rw [List.append_assoc, List.singleton_append, decodeWords, c.scan_words hpage hlen (pfxRank_eq_none hop) rest]
  simp [hi, lowest, hbase]

end Sys2Proof
end

section
/-!
PROOFS. Each form of word, and the instructions that it encodes.
-/

namespace Sys2Proof

/-! ## The RR and M form -/

section
variable {page : BitVec 4} {m6 op : BitVec 6} {f : BitVec 2} {r : Bool} {d s t : Reg} {q : Pxs} {p : Pxi}

/-- The chain of an RR or M word. -/
def rrChain (page : BitVec 4) (m6 : BitVec 6) (r : Bool) (d s t : Reg) (q : Pxs) (p : Pxi) : Chain :=
  { page := page, m6 := m6, r := r, dh := hi2 d, sh := hi2 s, t := t, q := q, p := p }

/-- What the decoder sees of an RR or M word and its chain. -/
def rrParts (page : BitVec 4) (m6 op : BitVec 6) (f : BitVec 2) (r : Bool) (d s t : Reg) (q : Pxs) (p : Pxi) : Parts :=
  (rrChain page m6 r d s t q p).parts op (loRR (lo4 d) (lo4 s) f)

@[simp] theorem rrParts_page : (rrParts page m6 op f r d s t q p).page = page := rfl
@[simp] theorem rrParts_m6 : (rrParts page m6 op f r d s t q p).m6 = m6 := rfl
@[simp] theorem rrParts_dh : (rrParts page m6 op f r d s t q p).dh = hi2 d := rfl
@[simp] theorem rrParts_sh : (rrParts page m6 op f r d s t q p).sh = hi2 s := rfl
@[simp] theorem rrParts_t : (rrParts page m6 op f r d s t q p).t = t := rfl
@[simp] theorem rrParts_mask : (rrParts page m6 op f r d s t q p).mask = q.mask := rfl
@[simp] theorem rrParts_smod : (rrParts page m6 op f r d s t q p).smod = q.smod.bits := rfl
@[simp] theorem rrParts_sel : (rrParts page m6 op f r d s t q p).sel = q.sel.bits := rfl
@[simp] theorem rrParts_pxi : (rrParts page m6 op f r d s t q p).pxi = p := rfl
@[simp] theorem rrParts_d : (rrParts page m6 op f r d s t q p).d = d := by simp [rrParts, rrChain, Chain.parts, Parts.d]
@[simp] theorem rrParts_s : (rrParts page m6 op f r d s t q p).s = s := by simp [rrParts, rrChain, Chain.parts, Parts.s]
@[simp] theorem rrParts_f : (rrParts page m6 op f r d s t q p).f = f := by simp [rrParts, Chain.parts, Parts.f]
@[simp] theorem rrParts_fD : fD (rrParts page m6 op f r d s t q p).lo = lo4 d := by simp [rrParts, Chain.parts]
@[simp] theorem rrParts_fS : fS (rrParts page m6 op f r d s t q p).lo = lo4 s := by simp [rrParts, Chain.parts]
@[simp] theorem rrParts_q : (rrParts page m6 op f r d s t q p).q = q := by simp [Parts.q]
@[simp] theorem rrParts_pxr : (rrParts page m6 op f r d s t q p).pxr.isSome = decide (r = true ∨ hi2 d ≠ 0 ∨ hi2 s ≠ 0 ∨ t ≠ 0) :=
  Chain.parts_pxr
@[simp] theorem rrParts_pxr_eq_none : (rrParts page m6 op f r d s t q p).pxr = none ↔ r = false ∧ hi2 d = 0 ∧ hi2 s = 0 ∧ t = 0 := by
  rw [← Option.not_isSome_iff_eq_none, rrParts_pxr]
  simp
@[simp] theorem rrParts_pxs : (rrParts page m6 op f r d s t q p).pxs.isSome = decide (q ≠ Pxs.none) := Chain.parts_pxs
@[simp] theorem rrParts_pxs_eq_none : (rrParts page m6 op f r d s t q p).pxs = none ↔ q = Pxs.none := by
  rw [← Option.not_isSome_iff_eq_none, rrParts_pxs]
  simp
@[simp] theorem rrParts_legalPxs : SUse.legalPxs (rrParts page m6 op f r d s t q p) := ⟨q.smod.bits_lt, q.sel.bits_ne_three⟩

/-- The chain has at most four words. -/
theorem rrChain_words_length (h : chainOk (decide (page ≠ 0 ∨ m6 ≠ 0)) (decide (r = true ∨ hi2 d ≠ 0 ∨ hi2 s ≠ 0 ∨ t ≠ 0)) q p = true) :
    (rrChain page m6 r d s t q p).words.length ≤ 4 := by
  rw [Chain.words_length]
  have hs : (rrChain page m6 r d s t q p).hasS.toNat = if q = Pxs.none then 0 else 1 := by
    by_cases hq : q = Pxs.none <;> simp [Chain.hasS, rrChain, hq]
  rw [hs]
  exact of_decide_eq_true h

/-- A chain without PXI is never too long. -/
theorem chainOk_nil {a b : Bool} {q : Pxs} : chainOk a b q [] = true := by
  cases a <;> cases b <;> by_cases h : q = Pxs.none <;> simp [chainOk, h]

/-- An RR or M word without PXI decodes to what its entry builds, where it accepts the word. -/
theorem decodes_rr_nil {e : Ent} {i : Instr} (hlook : look page.toNat op.toNat f.toNat = .ent e)
    (hr : e.reasons (rrParts page m6 op f r d s t q []) = []) (hb : e.build (rrParts page m6 op f r d s t q []) = i) :
    Decodes (encRR page m6 op f r d s t q []) i :=
  decodes_of_look (by rwa [fF_loRR]) (rrChain_words_length chainOk_nil) hr hb

/-- The same with PXI, where the chain is not too long; PXR is there for a high register number or for t. -/
theorem decodes_rr {e : Ent} {i : Instr} (hlook : look page.toNat op.toNat f.toNat = .ent e)
    (hlen : chainOk (decide (page ≠ 0 ∨ m6 ≠ 0)) (!(low d && low s && t == 0)) q p = true)
    (hr : e.reasons (rrParts page m6 op f false d s t q p) = []) (hb : e.build (rrParts page m6 op f false d s t q p) = i) :
    Decodes (encRR page m6 op f false d s t q p) i := by
  have hpxr : decide (false = true ∨ hi2 d ≠ 0 ∨ hi2 s ≠ 0 ∨ t ≠ 0) = !(low d && low s && t == 0) := by
    rw [Bool.eq_iff_iff]
    simp [or_assoc]
  exact decodes_of_look (by rwa [fF_loRR]) (rrChain_words_length (by rwa [hpxr])) hr hb
end

/-! ## The two-source forms (R165, R195) -/

section
variable {page : BitVec 4} {m6 op : BitVec 6} {f : BitVec 2} {d s : Reg} {src : Src2} {q : Pxs}

/-- The words of a two-source instruction: no t, t in PXR, or PXI. -/
def encSrc2 (page : BitVec 4) (m6 op : BitVec 6) (f : BitVec 2) (d s : Reg) (src : Src2) (q : Pxs) : List IWord :=
  match src with
  | .two => encRR page m6 op f false d s 0 q []
  | .reg t => encRR page m6 op f true d s t q []
  | .imm p => encRR page m6 op f false d s 0 q p

theorem IntBin.enc_eq (o : IntBin) : o.enc op f m6 = encSrc2 0 m6 op f o.d o.s o.src o.q := by
  obtain ⟨d, s, src, q⟩ := o
  cases src <;> rfl

theorem VBin.enc_eq (o : VBin) (ql : BitVec 3) : o.enc ql op f = encSrc2 1 (o.ty.bits ++ ql) op f o.d o.s o.src o.q := by
  obtain ⟨ty, d, s, src, q⟩ := o
  cases src <;> rfl

/-- What its operand form asks for: without t, numbers that need no PXR; with PXI, a chain that is not too long. -/
def Src2.fits (src : Src2) (m6 : Bool) (d s : Reg) (q : Pxs) : Bool :=
  match src with
  | .two => low d && low s
  | .reg _ => true
  | .imm p => !p.isEmpty && chainOk m6 (!(low d && low s)) q p

/-- The PXI payloads of the form. -/
def Src2.pxi : Src2 → Pxi
  | .imm p => p
  | _ => []
/-- The t field of the form. -/
def Src2.t : Src2 → Reg
  | .reg t => t
  | _ => 0

/-- What the decoder sees of it. -/
def src2Parts (page : BitVec 4) (m6 op : BitVec 6) (f : BitVec 2) (d s : Reg) (src : Src2) (q : Pxs) : Parts :=
  rrParts page m6 op f (match src with | .reg _ => true | _ => false) d s src.t q src.pxi

@[simp] theorem src2Parts_m6 : (src2Parts page m6 op f d s src q).m6 = m6 := rfl
@[simp] theorem src2Parts_mask : (src2Parts page m6 op f d s src q).mask = q.mask := rfl
@[simp] theorem src2Parts_sel : (src2Parts page m6 op f d s src q).sel = q.sel.bits := rfl
@[simp] theorem src2Parts_t : (src2Parts page m6 op f d s src q).t = src.t := rfl
@[simp] theorem src2Parts_pxi : (src2Parts page m6 op f d s src q).pxi = src.pxi := rfl
@[simp] theorem src2Parts_d : (src2Parts page m6 op f d s src q).d = d := rrParts_d
@[simp] theorem src2Parts_s : (src2Parts page m6 op f d s src q).s = s := rrParts_s
@[simp] theorem src2Parts_q : (src2Parts page m6 op f d s src q).q = q := rrParts_q
@[simp] theorem src2Parts_pxs : (src2Parts page m6 op f d s src q).pxs.isSome = decide (q ≠ Pxs.none) := rrParts_pxs
@[simp] theorem src2Parts_legalPxs : SUse.legalPxs (src2Parts page m6 op f d s src q) := rrParts_legalPxs

/-- With PXI the form has no t (R34). -/
@[simp] theorem src2Parts_three : RUse.reasons .three (src2Parts page m6 op f d s src q) = [] := by
  cases src <;> simp [Src2.pxi, Src2.t]

/-- The form that the prefixes show is the one encoded. -/
theorem src2Parts_src2 {b : Bool} (h : src.fits b d s q = true) : (src2Parts page m6 op f d s src q).src2 = src := by
  cases src with
  | two => simp_all [Src2.fits, src2Parts, Parts.src2, Src2.pxi, Src2.t]
  | reg t => simp [src2Parts, Parts.src2, Src2.pxi, Src2.t]
  | imm p => simp_all [Src2.fits, src2Parts, Parts.src2, Src2.pxi, Src2.t]

/-- A two-source word decodes to what its entry builds, where it accepts the word. -/
theorem decodes_src2 {e : Ent} {i : Instr} (hlook : look page.toNat op.toNat f.toNat = .ent e)
    (hfits : src.fits (decide (page ≠ 0 ∨ m6 ≠ 0)) d s q = true) (hr : e.reasons (src2Parts page m6 op f d s src q) = [])
    (hb : e.build (src2Parts page m6 op f d s src q) = i) : Decodes (encSrc2 page m6 op f d s src q) i := by
  cases src with
  | two => exact decodes_rr_nil hlook hr hb
  | reg t => exact decodes_rr_nil hlook hr hb
  | imm p =>
    refine decodes_rr hlook ?_ hr hb
    simp only [Src2.fits, Bool.and_eq_true] at hfits
    simpa using hfits.2

end

/-! ## The RI form (R172) -/

section
variable {op i : BitVec 6} {d : Reg} {p : Pxi}

/-- The chain of an RI word. -/
def riChain (d : Reg) (p : Pxi) : Chain := { page := 0, m6 := 0, r := false, dh := hi2 d, sh := 0, t := 0, q := Pxs.none, p := p }

/-- What the decoder sees of an RI word and its chain. -/
def riParts (op : BitVec 6) (d : Reg) (i : BitVec 6) (p : Pxi) : Parts := (riChain d p).parts op (loRI (lo4 d) i)

@[simp] theorem riParts_m6 : (riParts op d i p).m6 = 0 := rfl
@[simp] theorem riParts_sh : (riParts op d i p).sh = 0 := rfl
@[simp] theorem riParts_t : (riParts op d i p).t = 0 := rfl
@[simp] theorem riParts_pxi : (riParts op d i p).pxi = p := rfl
@[simp] theorem riParts_lo : (riParts op d i p).lo = loRI (lo4 d) i := rfl
@[simp] theorem riParts_d : (riParts op d i p).d = d := by simp [riParts, riChain, Chain.parts, Parts.d]
@[simp] theorem riParts_i6 : (riParts op d i p).i6 = i := by simp [riParts, Chain.parts, Parts.i6]
@[simp] theorem riParts_pxs : (riParts op d i p).pxs = none := rfl
@[simp] theorem riParts_pxr : (riParts op d i p).pxr = none ↔ low d = true := by
  rw [← Option.not_isSome_iff_eq_none, riParts, Chain.parts_pxr]
  simp [Chain.hasR, riChain]

/-- An RI word decodes to what its entry builds, where it accepts the word. -/
theorem decodes_ri {e : Ent} {j : Instr} (hlook : ∀ f, look 0 op.toNat f = .ent e) (hlen : chainOk false (!low d) Pxs.none p = true)
    (hr : e.reasons (riParts op d i p) = []) (hb : e.build (riParts op d i p) = j) : Decodes (encRI op d i p) j := by
  refine decodes_of_look (c := riChain d p) (hlook _) ?_ hr hb
  rw [Chain.words_length]
  simpa [chainOk, riChain, Chain.hasP, Chain.hasR, Chain.hasS] using hlen
end

/-! ## The J form (R178) -/

/-- The chain of a J word. -/
def jChain (p : Pxi) : Chain := { page := 0, m6 := 0, r := false, dh := 0, sh := 0, t := 0, q := Pxs.none, p := p }

/-- A J word decodes to what its entry builds, where it accepts the word. -/
theorem decodes_j {op : BitVec 6} {i : BitVec 10} {p : Pxi} {mk : Parts → Instr} {j : Instr}
    (hlook : ∀ f, look 0 op.toNat f = .ent { Ent.bare mk with i := .any }) (hlen : p.length ≤ 4)
    (hb : ∀ P : Parts, P.lo = i → P.pxi = p → mk P = j) : Decodes (encJ op i p) j := by
  refine decodes_of_look (c := jChain p) (hlook _) ?_ ?_ (hb _ rfl rfl)
  · rw [Chain.words_length]
    simpa [jChain, Chain.hasP, Chain.hasR, Chain.hasS] using hlen
  · simp [Ent.reasons_eq_nil, Ent.bare, jChain, Chain.parts, Chain.hasR, Chain.hasS]

/-! ## Integer instructions (R165-R175) -/

theorem IntBin.ok_iff {b : Bool} {o : IntBin} : o.ok b = true ↔ dstG o.d = true ∧ o.q.mask = 0 ∧ o.src.fits b o.d o.s o.q = true := by
  obtain ⟨d, s, src, q⟩ := o
  have hreg : chainOk b true q [] = true := chainOk_nil
  cases src <;> simp [IntBin.ok, Pxs.scalar, Src2.fits, hreg, and_assoc]

theorem decodes_intBin {mk : IntBin → Instr} {op : BitVec 6} {f : BitVec 2} {o : IntBin} (hlook : look 0 op.toNat f.toNat = eBin mk)
    (h : o.ok false = true) : Decodes (o.enc op f 0) (mk o) := by
  obtain ⟨hd, hmask, hfits⟩ := IntBin.ok_iff.mp h
  rw [IntBin.enc_eq]
  refine decodes_src2 hlook hfits ?_ ?_
  · simp [Ent.reasons_eq_nil, Ent.bare, hd, hmask]
  · simp [Ent.bare, Parts.intBin, src2Parts_src2 hfits]

theorem decodes_cmp {c : CmpCond} {inv : Bool} {o : IntBin} (h : o.ok inv = true) :
    Decodes (o.enc 0x0B c.bits (0#5 ++ BitVec.ofBool inv)) (.cmp c inv o) := by
  obtain ⟨hd, hmask, hfits⟩ := IntBin.ok_iff.mp h
  rw [IntBin.enc_eq]
  refine decodes_src2 rfl ?_ ?_ ?_
  · cases inv <;> exact hfits
  · cases inv <;> simp [Ent.reasons_eq_nil, Ent.bare, hd, hmask]
  · have hinv : (0#5 ++ BitVec.ofBool inv : BitVec 6)[0] = inv := by cases inv <;> rfl
    have hc : (if c.bits.toNat = 0 then CmpCond.eq else if c.bits.toNat = 1 then .lt else if c.bits.toNat = 2 then .ltn else .le) = c := by
      cases c <;> rfl
    simp [Ent.bare, Parts.intBin, src2Parts_src2 hfits, hinv, hc]

theorem decodes_intUn {mk : IntUn → Instr} {f : BitVec 2} {o : IntUn} (hlook : look 0 0x01 f.toNat = eUn mk) (h : o.ok = true) :
    Decodes (o.enc f) (mk o) := by
  obtain ⟨d, src⟩ := o
  cases src with
  | reg s q =>
    simp only [IntUn.ok, Pxs.scalar, Bool.and_eq_true, beq_iff_eq] at h
    obtain ⟨hd, hmask⟩ := h
    refine decodes_rr_nil hlook ?_ ?_
    · simp [Ent.reasons_eq_nil, Ent.bare, hd, hmask]
    · simp [Ent.bare, Parts.intUn]
  | imm p =>
    simp only [IntUn.ok, Bool.and_eq_true] at h
    obtain ⟨hd, hp, hlen⟩ := h
    refine decodes_rr hlook ?_ ?_ ?_
    · simpa using hlen
    · have hs : (rrParts 0#4 0#6 1#6 f false d 0#6 0#6 Pxs.none p).pxs = none := rrParts_pxs_eq_none.mpr rfl
      simp_all [Ent.reasons_eq_nil, Ent.bare, -rrParts_pxs_eq_none]
    · simp_all [Ent.bare, Parts.intUn]

theorem decodes_ext {mk : ExtOp → Instr} {op : BitVec 6} {o : ExtOp} (hlook : ∀ f, look 0 op.toNat f = eExt mk f) (hd : dstG o.d = true)
    (hmask : o.q.mask = 0) : Decodes (o.enc op) (mk o) := by
  obtain ⟨w, d, s, q⟩ := o
  cases w <;> refine decodes_rr_nil (hlook _) ?_ ?_ <;> simp_all [Ent.reasons_eq_nil, Ent.bare]

theorem decodes_ri_dst {mk : RegImm → Instr} {op : BitVec 6} {o : RegImm} (hlook : ∀ f, look 0 op.toNat f = eRI mk) (h : o.ok = true) :
    Decodes (encRI op o.d o.i o.p) (mk o) := by
  simp only [RegImm.ok, Bool.and_eq_true] at h
  obtain ⟨hd, hlen⟩ := h
  refine decodes_ri hlook hlen ?_ ?_
  · simp [Ent.reasons_eq_nil, Ent.bare, hd]
  · simp [Ent.bare]
end Sys2Proof
end

section
/-!
PROOFS. Words of page 0 (R165-R186, R118-R138): the forms of the integer instructions, of loads and stores, and the plain words.
-/

namespace Sys2Proof

theorem toNat_append_eq_add {v w : Nat} (x : BitVec v) (y : BitVec w) : (x ++ y).toNat = x.toNat * 2 ^ w + y.toNat := by
  rw [BitVec.toNat_append, ← Nat.shiftLeft_add_eq_or_of_lt y.isLt, Nat.shiftLeft_eq]

/-- The 20-bit immediate of EXTB and INSB (R173): the width, then the position. -/
theorem immN_field (pos wid : BitVec 6) : immN [0#8 ++ wid.extractLsb' 4 2, wid.extractLsb' 0 4 ++ pos] = wid.toNat * 64 + pos.toNat := by
  simp only [immN, List.foldl_cons, List.foldl_nil, toNat_append_eq_add, BitVec.extractLsb'_toNat, Nat.shiftRight_eq_div_pow]
  have := wid.isLt
  norm_num
  omega

theorem decodes_field {mk : FieldOp → Instr} {f : BitVec 2} {o : FieldOp} (hlook : look 0 0x0A f.toNat = eField mk)
    (h : (o.ok && chainOk false (!(low o.d && low o.s)) o.q [0, 0]) = true) : Decodes (o.enc f) (mk o) := by
  obtain ⟨d, s, pos, wid, q⟩ := o
  simp only [FieldOp.ok, Pxs.scalar, Bool.and_eq_true, beq_iff_eq, decide_eq_true_eq] at h
  obtain ⟨⟨⟨⟨hd, hmask⟩, hwid⟩, hpos⟩, hlen⟩ := h
  have hn := immN_field pos wid
  have hw := wid.isLt
  have hdiv : (wid.toNat * 64 + pos.toNat) / 64 = wid.toNat := by omega
  have hp : BitVec.ofNat 6 (wid.toNat * 64 + pos.toNat) = pos := by simp [← BitVec.toNat_inj]; omega
  refine decodes_rr hlook ?_ ?_ ?_
  · simpa [chainOk] using hlen
  · simp [Ent.reasons_eq_nil, Ent.bare, hd, hmask, hn, hdiv]
    omega
  · simp [Ent.bare, hn, hdiv, hp]

theorem decodes_lea {o : LeaOp} (h : (Instr.lea o).wf = true) :
    Decodes (encRR 0 0 0x0E o.f false o.d o.s o.t Pxs.none o.p) (.lea o) := by
  simp only [wf_lea, Bool.and_eq_true] at h
  obtain ⟨hd, hlen⟩ := h
  refine decodes_rr rfl ?_ ?_ ?_
  · exact hlen
  · simp [Ent.reasons_eq_nil, Ent.bare, hd]
  · simp [Ent.bare]

theorem decodes_bnd_size {d s : Reg} {f : BitVec 2} (hd : dstG d = true) :
    Decodes (encRR 0 0 0x0F f false d s 0 Pxs.none []) (.bnd d s (.size f)) := by
  refine decodes_rr_nil rfl ?_ ?_
  · simp [Ent.reasons_eq_nil, Ent.bare, hd]
  · simp [Ent.bare]

theorem decodes_bnd_imm {d s : Reg} {p : Pxi} (h : (Instr.bnd d s (.imm p)).wf = true) :
    Decodes (encRR 0 0 0x0F 0 false d s 0 Pxs.none p) (.bnd d s (.imm p)) := by
  simp only [wf_bnd_imm, Bool.and_eq_true, decide_eq_true_eq] at h
  obtain ⟨hd, ⟨hp, hn⟩, hlen⟩ := h
  refine decodes_rr rfl ?_ ?_ ?_
  · simpa using hlen
  · simp [Ent.reasons_eq_nil, Ent.bare, hd, hn]
  · simp_all [Ent.bare]

/-! ## Loads and stores (R118, R125, R126) -/

/-- A load has a PXP when it has a qualifier. -/
theorem LoadQ.bits_ne_zero (q : LoadQ) : decide ((0 : BitVec 4) ≠ 0 ∨ q.bits ≠ 0) = q.any := by
  obtain ⟨sx, fresh, acq⟩ := q
  cases sx <;> cases fresh <;> cases acq <;> rfl

theorem relBits_ne_zero (rel : Bool) : decide ((0 : BitVec 4) ≠ 0 ∨ relBits rel ≠ 0) = rel := by cases rel <;> rfl

theorem decodes_load {mk : MemOp → LoadQ → Instr} {op : BitVec 6} {m : MemOp} {q : LoadQ} (hlook : ∀ f, look 0 op.toNat f = eLoad mk)
    (h : (m.ok true q.any && q.ok m.w) = true) : Decodes (m.enc op q.bits) (mk m q) := by
  obtain ⟨sx, fresh, acq⟩ := q
  simp only [MemOp.ok, LoadQ.ok, Bool.and_eq_true] at h
  obtain ⟨⟨hd, hlen⟩, hw⟩ := h
  refine decodes_rr (hlook _) ?_ ?_ ?_
  · rwa [LoadQ.bits_ne_zero]
  · cases sx <;> cases fresh <;> cases acq <;> simp_all [Ent.reasons_eq_nil, Ent.bare, LoadQ.bits]
  · cases sx <;> cases fresh <;> cases acq <;> simp [Ent.bare, Parts.memOp, Parts.loadQ, LoadQ.bits]

theorem decodes_store {mk : MemOp → Bool → Instr} {op : BitVec 6} {m : MemOp} {rel : Bool} (hlook : ∀ f, look 0 op.toNat f = eStore mk)
    (h : m.ok false rel = true) : Decodes (m.enc op (relBits rel)) (mk m rel) := by
  have hlen : chainOk rel (!(low m.d && low m.b && m.t == 0)) Pxs.none m.p = true := by simpa [MemOp.ok] using h
  refine decodes_rr (hlook _) ?_ ?_ ?_
  · rwa [relBits_ne_zero]
  · cases rel <;> simp [Ent.reasons_eq_nil, Ent.bare, relBits]
  · cases rel <;> simp [Ent.bare, Parts.memOp, relBits]

/-! ## Plain words of page 0 -/

section
variable {op : BitVec 6} {f : BitVec 2} {d s : Reg}

theorem decodes_ds {mk : Reg → Reg → Instr} (hlook : look 0 op.toNat f.toNat = eDS .any mk) : Decodes (enc0 op f d s) (mk d s) := by
  refine decodes_rr_nil hlook ?_ ?_
  · simp [Ent.reasons_eq_nil, Ent.bare]
  · simp [Ent.bare]

theorem decodes_ds_dst {mk : Reg → Reg → Instr} (hlook : look 0 op.toNat f.toNat = eDS .gd mk) (hd : dstG d = true) :
    Decodes (enc0 op f d s) (mk d s) := by
  refine decodes_rr_nil hlook ?_ ?_
  · simp [Ent.reasons_eq_nil, Ent.bare, hd]
  · simp [Ent.bare]

theorem decodes_s {mk : Reg → Instr} (hlook : look 0 op.toNat f.toNat = eS mk) : Decodes (enc0 op f 0 s) (mk s) := by
  refine decodes_rr_nil hlook ?_ ?_
  · simp [Ent.reasons_eq_nil, Ent.bare]
  · simp [Ent.bare]

theorem decodes_s0 {mk : Reg → Instr} (hlook : look 0 op.toNat f.toNat = eS0 mk) : Decodes (enc0 op f 0 s) (mk s) := by
  refine decodes_rr_nil hlook ?_ ?_
  · simp [Ent.reasons_eq_nil, Ent.bare]
  · simp [Ent.bare]

theorem decodes_jump {mk : Reg → Instr} (hlook : look 0 op.toNat f.toNat = eJmp mk) : Decodes (enc0 op f 0 s) (mk s) := by
  refine decodes_rr_nil hlook ?_ ?_
  · simp [Ent.reasons_eq_nil, Ent.bare]
  · simp [Ent.bare]

theorem decodes_ret : Decodes (enc0 0x24 2 0 0) .ret := by
  refine decodes_rr_nil rfl ?_ ?_
  · simp [Ent.reasons_eq_nil, Ent.bare]
  · simp [Ent.bare]

theorem decodes_none {i : Instr} (hlook : look 0 op.toNat f.toNat = eNone i) : Decodes (enc0 op f 0 0) i := by
  refine decodes_rr_nil hlook ?_ ?_
  · simp [Ent.reasons_eq_nil, Ent.bare]
  · simp [Ent.bare]
end
end Sys2Proof
end

section
/-!
PROOFS. Words of page 0 with an own field of their immediate (R33), branches and atomic operations.
-/

namespace Sys2Proof

/-! ## Own fields with PXI (R33) -/

/-- A number of six own bits and one PXI, which is left out where it is zero (R33). -/
theorem immOwn_six {c : Prop} [Decidable c] {w : Nat} (n : BitVec w) {x : BitVec 10} (hx : x.toNat = n.toNat / 64) (hc : c → x = 0) :
    immOwn (if c then [] else [x]) 6 (n.extractLsb' 0 6).toNat = n.toNat := by
  have hlow : (n.extractLsb' 0 6).toNat = n.toNat % 64 := by simp [BitVec.extractLsb'_toNat]
  rw [hlow]
  split
  · next h =>
    have h0 : n.toNat / 64 = 0 := by rw [← hx, hc h]; rfl
    simp only [immOwn, immN, List.foldl_nil]
    omega
  · simp only [immOwn, immN, List.foldl_cons, List.foldl_nil]
    omega

theorem decodes_ri_own {u : FUse} {mk : Reg → BitVec 12 → Instr} {op i : BitVec 6} {d : Reg} {n : BitVec 12} {p : Pxi}
    (hlook : ∀ f, look 0 op.toNat f = eCR u mk) (hd : ∀ fld P, u.reasons d fld P = []) (hlen : chainOk false (!low d) Pxs.none p = true)
    (hn : immOwn p 6 i.toNat = n.toNat) : Decodes (encRI op d i p) (mk d n) := by
  refine decodes_ri hlook hlen ?_ ?_
  · simpa [Ent.reasons_eq_nil, Ent.bare, hd, hn] using n.isLt
  · simp [Ent.bare, hn]

theorem decodes_cr {u : FUse} {mk : Reg → BitVec 12 → Instr} {op : BitVec 6} {d : Reg} {n : BitVec 12}
    (hlook : ∀ f, look 0 op.toNat f = eCR u mk) (hd : ∀ fld P, u.reasons d fld P = []) : Decodes (encCR op d n) (mk d n) := by
  have hx : (0#4 ++ n.extractLsb' 6 6 : BitVec 10).toNat = n.toNat / 64 := by
    have := n.isLt
    simp only [toNat_append_eq_add, BitVec.extractLsb'_toNat, Nat.shiftRight_eq_div_pow]
    norm_num
    omega
  refine decodes_ri_own hlook hd ?_ (immOwn_six n hx fun h => by rw [h]; rfl)
  split <;> cases low d <;> rfl

/-- The counts of WAITC stand in the four fields of its 16-bit immediate (R132). -/
theorem waitc_fields {ld st cp tl : BitVec 4} {n : BitVec 16} (hn : ld ++ st ++ cp ++ tl = n) :
    n.extractLsb' 12 4 = ld ∧ n.extractLsb' 8 4 = st ∧ n.extractLsb' 4 4 = cp ∧ n.extractLsb' 0 4 = tl := by
  subst hn
  refine ⟨?_, ?_, ?_, BitVec.extractLsb'_append_eq_right⟩
  · exact (BitVec.extractLsb'_append_eq_of_le (by decide)).trans ((BitVec.extractLsb'_append_eq_of_le (by decide)).trans
      BitVec.extractLsb'_append_eq_left)
  · exact (BitVec.extractLsb'_append_eq_of_le (by decide)).trans ((BitVec.extractLsb'_append_eq_of_le (by decide)).trans
      BitVec.extractLsb'_append_eq_right)
  · exact (BitVec.extractLsb'_append_eq_of_le (by decide)).trans BitVec.extractLsb'_append_eq_right

theorem decodes_waitc_own {ld st cp tl : BitVec 4} {n : BitVec 16} {i : BitVec 6} {p : Pxi} (hn : ld ++ st ++ cp ++ tl = n)
    (hp : p.length ≤ 1) (himm : immOwn p 6 i.toNat = n.toNat) : Decodes (encRI 0x18 0 i p) (.waitc ld st cp tl) := by
  obtain ⟨hld, hst, hcp, htl⟩ := waitc_fields hn
  refine decodes_ri (fun _ => rfl) ?_ ?_ ?_
  · simp [chainOk]
    omega
  · simpa [Ent.reasons_eq_nil, Ent.bare] using hp
  · simp [Ent.bare, himm, hld, hst, hcp, htl]

theorem decodes_waitc {ld st cp tl : BitVec 4} {ws : List IWord} (h : encode (.waitc ld st cp tl) = some ws) : Decodes ws (.waitc ld st cp tl) := by
  obtain rfl := Option.some.inj h
  have hx (n : BitVec 16) : (n.extractLsb' 6 10).toNat = n.toNat / 64 := by
    have := n.isLt
    simp only [BitVec.extractLsb'_toNat, Nat.shiftRight_eq_div_pow]
    omega
  refine decodes_waitc_own rfl ?_ (immOwn_six _ (hx _) id)
  split <;> simp

theorem decodes_fence {k : FenceKind} {c : FenceScope} : Decodes (encRI 0x17 0 (k.bits ++ c.bits) []) (.fence k c) := by
  have hk : (loRI 0#4 (k.bits ++ c.bits)).extractLsb' 3 3 = k.bits := by cases k <;> cases c <;> rfl
  have hc : (loRI 0#4 (k.bits ++ c.bits)).extractLsb' 0 3 = c.bits := by cases k <;> cases c <;> rfl
  have hk5 : k.bits.toNat < 5 := by cases k <;> decide
  have hc6 : c.bits.toNat < 6 := by cases c <;> decide
  refine decodes_ri (fun _ => rfl) rfl ?_ ?_
  · simp [-BitVec.extractLsb'_toNat, Ent.reasons_eq_nil, Ent.bare, hk, hc, hk5, hc6]
  · simp only [Ent.bare, riParts_lo, lo4_zero, BitVec.ofNat_eq_ofNat, hk, hc]
    cases k <;> cases c <;> rfl

/-! ## Control flow -/

theorem decodes_bc {c : BcCond} {s : Reg} {i : BitVec 4} {p : Pxi} (h : chainOk false (!low s) Pxs.none p = true) :
    Decodes (chain 0 0 false 0 (hi2 s) 0 Pxs.none p ++ [0x22#6 ++ (lo4 s ++ c.bits ++ i)]) (.bc c s i p) := by
  have hs : (lo4 s ++ c.bits ++ i : BitVec 10).extractLsb' 6 4 = lo4 s :=
    (BitVec.extractLsb'_append_eq_of_le (by decide)).trans BitVec.extractLsb'_append_eq_left
  have hc : (lo4 s ++ c.bits ++ i : BitVec 10).extractLsb' 4 2 = c.bits :=
    (BitVec.extractLsb'_append_eq_of_le (by decide)).trans BitVec.extractLsb'_append_eq_right
  have hi : (lo4 s ++ c.bits ++ i : BitVec 10).extractLsb' 0 4 = i := BitVec.extractLsb'_append_eq_right
  have hcond : (if c.bits = 0#2 then BcCond.z else if c.bits = 1#2 then .nz else if c.bits = 2#2 then .lz else .gez) = c := by cases c <;> rfl
  refine decodes_of_look (c := ⟨0, 0, false, 0, hi2 s, 0, Pxs.none, p⟩) (e := _) rfl ?_ ?_ ?_
  · rw [Chain.words_length]
    simpa [chainOk, Chain.hasP, Chain.hasR, Chain.hasS] using h
  · simp [Ent.reasons_eq_nil, Ent.bare, Chain.parts, Chain.hasS]
  · simp [Ent.bare, Chain.parts, Parts.s1, fD, hs, hc, hi, hcond]

theorem decodes_bcmp {c : BcmpCond} {d s : Reg} {p : Pxi} (h : (Instr.bcmp c d s p).wf = true) :
    Decodes (encRR 0 0 0x23 c.bits false d s 0 Pxs.none p) (.bcmp c d s p) := by
  simp only [wf_bcmp, Bool.and_eq_true] at h
  obtain ⟨hp, hlen⟩ := h
  have hp1 : 1 ≤ p.length := by simpa [Nat.one_le_iff_ne_zero] using hp
  refine decodes_rr rfl ?_ ?_ ?_
  · simpa using hlen
  · simpa [Ent.reasons_eq_nil, Ent.bare] using hp1
  · cases c <;> simp [Ent.bare, BcmpCond.bits]

/-! ## Atomic operations (R37, R264) -/

section
variable {op : AtOp} {ord : AtOrd} {w : AtW}

theorem atBits_op (x : BitVec 4) : (atBits x ord).extractLsb' 2 4 = x := BitVec.extractLsb'_append_eq_left
theorem atBits_ord (x : BitVec 4) : (atBits x ord).extractLsb' 0 2 = ord.bits := BitVec.extractLsb'_append_eq_right
@[simp] theorem atOpOf_bits : atOpOf op.bits = op := by cases op <;> rfl
@[simp] theorem atWOf_bits : atWOf w.bits = w := by cases w <;> rfl
@[simp] theorem atOrdOf_bits : atOrdOf ord.bits = ord := by cases ord <;> rfl

theorem AtOp.bits_le (op : AtOp) : op.bits.toNat ≤ 12 := by cases op <;> decide
theorem AtOp.bits_eq_twelve : op.bits = 12 ↔ op = .jdec := by cases op <;> decide

theorem atReasons_rr {page : BitVec 4} {d s t : Reg} {r : Bool} {o : BitVec 6} (h : op.agrees w = true) (ht : (op != .jdec || t == 0) = true) :
    atReasons (rrParts page (atBits op.bits ord) o w.bits r d s t Pxs.none []) = [] := by
  have hle := op.bits_le
  have ht' : op.bits = 12#4 → t = 0#6 := fun hj => by simpa [AtOp.bits_eq_twelve.mp hj] using ht
  simpa [atReasons, atBits_op, h, hle] using ht'

theorem decodes_amo {d s t : Reg} (h : (Instr.amo op w ord d s t).wf = true) :
    Decodes (encRR 0 (atBits op.bits ord) 0x28 w.bits false d s t Pxs.none []) (.amo op w ord d s t) := by
  simp only [wf_amo, Bool.and_eq_true] at h
  obtain ⟨⟨hd, hag⟩, ht⟩ := h
  refine decodes_rr_nil rfl ?_ ?_
  · simp [Ent.reasons_eq_nil, Ent.bare, hd, atReasons_rr hag ht]
  · simp [Ent.bare, atBits_op, atBits_ord]

theorem decodes_cas {w64 : Bool} {d s t : Reg} (hd : dstG d = true) :
    Decodes (encRR 0 (atBits 0 ord) 0x29 (0#1 ++ BitVec.ofBool w64) false d s t Pxs.none []) (.cas w64 ord d s t) := by
  have hm : atBits 0#4 ord &&& 60#6 = 0#6 := by cases ord <;> rfl
  cases w64 <;> refine decodes_rr_nil (e := _) rfl ?_ ?_ <;> simp [Ent.reasons_eq_nil, Ent.bare, hd, hm, atBits_ord]

theorem decodes_rupd {s t : Reg} (h : (Instr.rupd op w ord s t).wf = true) :
    Decodes (encRR 0 (atBits op.bits ord) 0x2A w.bits false 0 s t Pxs.none []) (.rupd op w ord s t) := by
  simp only [wf_rupd, Bool.and_eq_true] at h
  obtain ⟨⟨hag, ht⟩, ho⟩ := h
  have hm : (atBits op.bits ord)[0] = false := by
    have : ord = .relaxed ∨ ord = .rel := by simpa using ho
    obtain rfl | rfl := this <;> cases op <;> rfl
  refine decodes_rr_nil rfl ?_ ?_
  · simp [Ent.reasons_eq_nil, Ent.bare, atReasons_rr hag ht, hm]
  · simp [Ent.bare, atBits_op, atBits_ord]
end
end Sys2Proof
end

section
/-!
PROOFS. Words of page 0: threads, messages, and the instructions of the supervisor.
-/

namespace Sys2Proof

/-! ## Threads, messages and system instructions of page 0 -/

theorem decodes_spawn {n : SpawnN} {d s : Reg} : Decodes (enc0 0x2B n.bits d s) (.spawn n d s) := by
  cases n <;> exact decodes_ds rfl

theorem decodes_tadd {ty : AddTy} {d s : Reg} : Decodes (enc0 0x19 ty.bits d s) (.tadd ty d s) := by
  cases ty <;> exact decodes_ds rfl

theorem decodes_tmax {ty : MaxTy} {d s : Reg} : Decodes (enc0 0x1A ty.bits d s) (.tmax ty d s) := by
  cases ty <;> exact decodes_ds rfl

theorem decodes_tmin {ty : MaxTy} {d s : Reg} : Decodes (enc0 0x1B ty.bits d s) (.tmin ty d s) := by
  cases ty <;> exact decodes_ds rfl

theorem decodes_migr {s t : Reg} : Decodes (encRR 0 0 0x2C 0 false 0 s t Pxs.none []) (.migr s t) := by
  refine decodes_rr_nil rfl ?_ ?_
  · simp [Ent.reasons_eq_nil, Ent.bare]
  · simp [Ent.bare]

theorem decodes_send {d s t : Reg} (h : sendOk d s t = true) : Decodes (encRR 0 0 0x2D 0 true d s t Pxs.none []) (.send d s t) := by
  refine decodes_rr_nil rfl ?_ ?_
  · unfold sendOk at h
    split at h
    · next hd =>
      simp only [Bool.and_eq_true, decide_eq_true_eq] at h
      obtain ⟨⟨⟨ht1, ht8⟩, hs1⟩, hst⟩ := h
      have hmax : Nat.max t.toNat 1 = t.toNat := Nat.max_eq_left ht1
      simp [Ent.reasons_eq_nil, Ent.bare, hd, hmax]
      omega
    · next hd =>
      simp only [Bool.and_eq_true, decide_eq_true_eq] at h
      obtain ⟨hfill, ht⟩ := h
      simp [Ent.reasons_eq_nil, Ent.bare, hd]
      omega
  · simp [Ent.bare]

theorem decodes_qbind {d s : Reg} (h : isPort d = true) : Decodes (enc0 0x2D 1 d s) (.qbind d s) := by
  refine decodes_rr_nil rfl ?_ ?_
  · simp [Ent.reasons_eq_nil, Ent.bare, h]
  · simp [Ent.bare]

theorem decodes_qstat {d s : Reg} (hd : dstG d = true) (hs : isPort s = true) : Decodes (enc0 0x2D 2 d s) (.qstat d s) := by
  refine decodes_rr_nil rfl ?_ ?_
  · simp [Ent.reasons_eq_nil, Ent.bare, hd, hs]
  · simp [Ent.bare]

theorem decodes_halt : Decodes (enc0 0x31 2 0 0) .halt := by
  refine decodes_rr_nil rfl ?_ ?_
  · simp [Ent.reasons_eq_nil, Ent.bare]
  · simp [Ent.bare]

theorem decodes_haltRetain {s : Reg} : Decodes (encRR 0 1 0x31 2 false 0 s 0 Pxs.none []) (.haltRetain s) := by
  refine decodes_rr_nil rfl ?_ ?_
  · simp [Ent.reasons_eq_nil, Ent.bare]
  · simp [Ent.bare]

@[simp] theorem lo4_nReg (n : BitVec 4) : lo4 (nReg n) = n := BitVec.extractLsb'_append_eq_right
@[simp] theorem nReg_toNat (n : BitVec 4) : (nReg n).toNat = n.toNat := by
  rw [nReg, toNat_append_eq_add]; simp

theorem decodes_unit {mk : BitVec 4 → Reg → Instr} {f : BitVec 2} {u : BitVec 4} {s : Reg} (h : u.toNat ≤ 12)
    (hlook : look 0 0x33 f.toNat = .ent { Ent.bare (fun p => mk (fD p.lo) p.s) with
      r := .hi true true, more := fun p => atB (decide (12 < p.d.toNat)) 0x07 p }) : Decodes (enc0 0x33 f (nReg u) s) (mk u s) := by
  refine decodes_rr_nil hlook ?_ ?_
  · simp [Ent.reasons_eq_nil, Ent.bare, h]
  · simp [Ent.bare]

theorem decodes_nop : Decodes [0x0000] .nop := ⟨by decide, fun _ => rfl⟩
end Sys2Proof
end

section
/-!
PROOFS. Words of page 1 (R194): the type and the qualifier in m6, and the lane instructions of two sources.
-/

namespace Sys2Proof

/-! ## Lane instructions (R194-R214) -/

@[simp] theorem vtyOf_bits (ty : VTy) : vtyOf ty.bits = ty := by cases ty <;> rfl

section
variable {op : BitVec 6} {f : BitVec 2} {r : Bool} {d s t : Reg} {src : Src2} {q : Pxs} {p : Pxi} {ty : VTy} {ql : BitVec 3}

/-- The two halves of m6 on page 1 (R38). -/
theorem m6_high (x y : BitVec 3) : (x ++ y : BitVec 6).extractLsb' 3 3 = x := BitVec.extractLsb'_append_eq_left
theorem m6_low (x y : BitVec 3) : (x ++ y : BitVec 6).extractLsb' 0 3 = y := BitVec.extractLsb'_append_eq_right

@[simp] theorem rrParts_ty {page : BitVec 4} : (rrParts page (ty.bits ++ ql) op f r d s t q p).ty = ty := by
  simp only [Parts.ty, rrParts_m6, m6_high, vtyOf_bits]
@[simp] theorem rrParts_qual {page : BitVec 4} {x : BitVec 3} : (rrParts page (x ++ ql) op f r d s t q p).qual = ql := m6_low _ _
@[simp] theorem src2Parts_ty {page : BitVec 4} : (src2Parts page (ty.bits ++ ql) op f d s src q).ty = ty := rrParts_ty

/-- A type without a qualifier sets no other bit of m6. -/
theorem m6_plain (ty : VTy) : (ty.bits ++ 0#3 : BitVec 6) &&& 7#6 = 0#6 := by cases ty <;> rfl
/-- `.sat` is the one bit that it sets. -/
theorem m6_sat (ty : VTy) (sat : Bool) : (ty.bits ++ satBits sat : BitVec 6) &&& 6#6 = 0#6 := by cases ty <;> cases sat <;> rfl
theorem m6_sat_bit (ty : VTy) (sat : Bool) : (ty.bits ++ satBits sat : BitVec 6)[0] = sat := by cases ty <;> cases sat <;> rfl

theorem VBin.ok_iff {imm : Bool} {dOk : Reg → Bool} {o : VBin} : o.ok imm dOk = true ↔
    dOk o.d = true ∧ isV o.s = true ∧ o.q.sel.legal o.ty.isFloat = true ∧ o.src.fits true o.d o.s o.q = true ∧ isV o.src.t = true ∧
      (o.src.pxi ≠ [] → imm = true) := by
  obtain ⟨ty, d, s, src, q⟩ := o
  have h0 : isV 0#6 = true := rfl
  cases src with
  | two => simp [VBin.ok, Src2.fits, Src2.t, Src2.pxi, h0, and_assoc]
  | reg t => simp [VBin.ok, Src2.fits, Src2.t, Src2.pxi, and_assoc]
  | imm p =>
    simp [VBin.ok, Src2.fits, Src2.t, Src2.pxi, h0, and_assoc]
    tauto

theorem decodes_vBin {sat int raw imm b : Bool} {u : FUse} {dOk : Reg → Bool} {mk : Bool → VBin → Instr} {o : VBin}
    (hlook : look 1 op.toNat f.toNat = eVBin sat int raw u mk) (h : o.ok imm dOk = true)
    (hd : dOk o.d = true → ∀ fld P, u.reasons o.d fld P = []) (hsat : satOk b o.ty = true) (hb : b = true → sat = true)
    (hint : (int && o.ty.isFloat) = false) (himm : imm = true → (!raw && o.ty.isFloat) = false) :
    Decodes (o.enc (satBits b) op f) (mk b o) := by
  obtain ⟨hdOk, hs, hsel, hfits, ht, hpxi⟩ := VBin.ok_iff.mp h
  have hsat' : (b && sat && o.ty.isFloat) = false := by
    cases b <;> cases sat <;> simp_all [satOk]
  have hm : (o.ty.bits ++ satBits b : BitVec 6) &&& ~~~(if sat then 0x39 else 0x38) = 0#6 := by
    cases sat
    · have : b = false := by simpa using hb
      subst this
      exact m6_plain o.ty
    · exact m6_sat o.ty b
  have himm' : (!raw && o.ty.isFloat && !o.src.pxi.isEmpty) = false := by
    by_cases hp : o.src.pxi = []
    · simp [hp]
    · simp [himm (hpxi hp)]
  rw [VBin.enc_eq]
  refine decodes_src2 hlook hfits ?_ ?_
  · simp only [Ent.reasons_eq_nil, Ent.bare, src2Parts_m6, src2Parts_three, hm]
    simp [hd hdOk, hs, hsel, ht, m6_sat_bit, hsat', hint, himm']
  · simp [Ent.bare, Parts.vBin, src2Parts_src2 hfits, m6_sat_bit]
end
end Sys2Proof
end

section
/-!
PROOFS. Words of page 1: the lane instructions by their forms.
-/

namespace Sys2Proof

section
variable {op : BitVec 6} {f : BitVec 2} {d s t : Reg} {q : Pxs} {ty : VTy}

/-- A lane instruction of two sources without `.sat`. -/
theorem decodes_vBin_plain {int raw imm : Bool} {u : FUse} {dOk : Reg → Bool} {mk : VBin → Instr} {o : VBin}
    (hlook : look 1 op.toNat f.toNat = eVBin false int raw u (fun _ => mk)) (h : o.ok imm dOk = true)
    (hd : dOk o.d = true → ∀ fld P, u.reasons o.d fld P = []) (hint : (int && o.ty.isFloat) = false)
    (himm : imm = true → (!raw && o.ty.isFloat) = false) : Decodes (o.enc 0 op f) (mk o) :=
  decodes_vBin (b := false) hlook h hd rfl nofun hint himm

theorem reasons_v_nil (h : isV d = true) (fld : BitVec 4) (P : Parts) : FUse.reasons .v d fld P = [] := FUse.reasons_v.mpr h

/-- Arithmetic with `.sat`, whose PXI is for integer types. -/
theorem decodes_vArith {mk : Bool → VBin → Instr} {o : VBin} {sat : Bool} (hlook : look 1 op.toNat f.toNat = eVBin true false false .v mk)
    (h : (satOk sat o.ty && o.ok o.immInt isV) = true) : Decodes (o.enc (satBits sat) op f) (mk sat o) := by
  obtain ⟨hsat, ho⟩ := Bool.and_eq_true_iff.mp h
  exact decodes_vBin hlook ho reasons_v_nil hsat (fun _ => rfl) rfl (by simp [VBin.immInt])

/-- Arithmetic without `.sat`. -/
theorem decodes_vNum {mk : VBin → Instr} {o : VBin} (hlook : look 1 op.toNat f.toNat = eVBin false false false .v (fun _ => mk))
    (h : o.ok o.immInt isV = true) : Decodes (o.enc 0 op f) (mk o) :=
  decodes_vBin_plain hlook h reasons_v_nil rfl (by simp [VBin.immInt])

/-- The bitwise instructions, which take PXI on any type. -/
theorem decodes_vBits {mk : VBin → Instr} {o : VBin} (hlook : look 1 op.toNat f.toNat = eVBin false false true .v (fun _ => mk))
    (h : o.ok true isV = true) : Decodes (o.enc 0 op f) (mk o) :=
  decodes_vBin_plain hlook h reasons_v_nil rfl (fun _ => rfl)

/-- The shifts, which stand on integer types. -/
theorem decodes_vShift {mk : VBin → Instr} {o : VBin} (hlook : look 1 op.toNat f.toNat = eVBin false true true .v (fun _ => mk))
    (h : (!o.ty.isFloat && o.ok true isV) = true) : Decodes (o.enc 0 op f) (mk o) := by
  obtain ⟨hty, ho⟩ := Bool.and_eq_true_iff.mp h
  exact decodes_vBin_plain hlook ho reasons_v_nil (by simpa using hty) (fun _ => rfl)

theorem decodes_vcmp {c : VcmpCond} {o : VBin} (h : o.ok o.immInt (fun d => decide (1 ≤ d.toNat) && decide (d.toNat ≤ 7)) = true) :
    Decodes (o.enc 0 0x06 (match c with | .eq => 0 | .lt => 1 | .le => 2 | .ne => 3)) (.vcmp c o) := by
  have hd (hk : (decide (1 ≤ o.d.toNat) && decide (o.d.toNat ≤ 7)) = true) (fld : BitVec 4) (P : Parts) : FUse.reasons .kd o.d fld P = [] := by
    have h1 : o.d ≠ 0 := fun e => by rw [e] at hk; simp at hk
    have h8 : o.d.toNat < 8 := by simp at hk; omega
    exact FUse.reasons_kd.mpr ⟨h1, h8⟩
  cases c <;> exact decodes_vBin_plain (imm := o.immInt) rfl h hd rfl (by simp [VBin.immInt])

theorem decodes_vsel {o : VBin} (h : o.ok false isV = true) : Decodes (o.enc 0 0x07 0) (.vsel o) := by
  obtain ⟨hd, hs, hsel, hfits, ht, hpxi⟩ := VBin.ok_iff.mp h
  have hp : o.src.pxi = [] := by simpa using hpxi
  rw [VBin.enc_eq]
  refine decodes_src2 rfl hfits ?_ ?_
  · simp [Ent.reasons_eq_nil, Ent.bare, hd, hs, ht, hsel, hp, m6_plain]
  · simp [Ent.bare, Parts.vBin, src2Parts_src2 hfits]

theorem decodes_vperm {o : VBin} (h : (Instr.vperm o).wf = true) : Decodes (o.enc 0 0x07 1) (.vperm o) := by
  obtain ⟨hok, hidx⟩ := Bool.and_eq_true_iff.mp h
  obtain ⟨hd, hs, hsel, hfits, ht, hpxi⟩ := VBin.ok_iff.mp hok
  have hlt : immN o.src.pxi ≤ 15 := by
    cases hsrc : o.src with
    | imm p => rw [hsrc] at hidx; exact of_decide_eq_true hidx
    | _ => exact Nat.zero_le 15
  have himm (hf : o.ty.isFloat = true) : o.src.pxi = [] := by simpa [VBin.immInt, hf] using hpxi
  rw [VBin.enc_eq]
  refine decodes_src2 rfl hfits ?_ ?_
  · simp [Ent.reasons_eq_nil, Ent.bare, hd, hs, ht, hsel, m6_plain]
    exact ⟨decide_eq_false (Nat.not_lt.mpr hlt), himm⟩
  · simp [Ent.bare, Parts.vBin, src2Parts_src2 hfits]

theorem decodes_vscal {o : VBin} (h : (o.ty == .f32 && o.ok true isV) = true) : Decodes (o.enc 0 0x0A 3) (.vscal o) := by
  obtain ⟨hty, hok⟩ := Bool.and_eq_true_iff.mp h
  obtain ⟨hd, hs, hsel, hfits, ht, -⟩ := VBin.ok_iff.mp hok
  have hty' : o.ty = .f32 := by simpa using hty
  rw [VBin.enc_eq]
  refine decodes_src2 rfl hfits ?_ ?_
  · rw [hty'] at hsel
    simp [Ent.reasons_eq_nil, Ent.bare, hd, hs, ht, hsel, m6_plain, hty']
  · simp [Ent.bare, Parts.vBin, src2Parts_src2 hfits]

/-! ### One source -/

theorem decodes_vUn {sat f32 b : Bool} {mk : Bool → VUn → Instr} {o : VUn} (hlook : look 1 op.toNat f.toNat = eVUn sat f32 .v mk)
    (h : o.ok = true) (hsat : satOk b o.ty = true) (hb : b = true → sat = true) (hf32 : f32 = true → o.ty = .f32) :
    Decodes (o.enc (satBits b) op f) (mk b o) := by
  simp only [VUn.ok, Bool.and_eq_true] at h
  obtain ⟨⟨hd, hs⟩, hsel⟩ := h
  have hsat' : (b && sat && o.ty.isFloat) = false := by
    cases b <;> cases sat <;> simp_all [satOk]
  have hm : (o.ty.bits ++ satBits b : BitVec 6) &&& ~~~(if sat then 0x39 else 0x38) = 0#6 := by
    cases sat
    · have : b = false := by simpa using hb
      subst this
      exact m6_plain o.ty
    · exact m6_sat o.ty b
  refine decodes_rr_nil hlook ?_ ?_
  · simp only [Ent.reasons_eq_nil, Ent.bare, rrParts_m6, hm]
    simpa [hd, hs, hsel, m6_sat_bit, hsat'] using hf32
  · simp [Ent.bare, Parts.vUn, m6_sat_bit]

theorem decodes_vUn_plain {mk : VUn → Instr} {o : VUn} (hlook : look 1 op.toNat f.toNat = eVUn false false .v (fun _ => mk))
    (h : o.ok = true) : Decodes (o.enc 0 op f) (mk o) :=
  decodes_vUn (b := false) hlook h rfl nofun nofun

theorem decodes_vUn_sat {mk : Bool → VUn → Instr} {o : VUn} {sat : Bool} (hlook : look 1 op.toNat f.toNat = eVUn true false .v mk)
    (h : (satOk sat o.ty && o.ok) = true) : Decodes (o.enc (satBits sat) op f) (mk sat o) := by
  obtain ⟨hsat, ho⟩ := Bool.and_eq_true_iff.mp h
  exact decodes_vUn hlook ho hsat (fun _ => rfl) nofun

theorem decodes_vUn_f32 {mk : VUn → Instr} {o : VUn} (hlook : look 1 op.toNat f.toNat = eVUn false true .v (fun _ => mk))
    (h : (o.ty == .f32 && o.ok) = true) : Decodes (o.enc 0 op f) (mk o) := by
  obtain ⟨hty, ho⟩ := Bool.and_eq_true_iff.mp h
  exact decodes_vUn (b := false) hlook ho rfl nofun fun _ => by simpa using hty

theorem decodes_vred {r : VredOp} {o : VUn} : (Instr.vred r o).wf = true →
    Decodes (o.enc 0 0x08 (match r with | .add => 0 | .max => 1 | .min => 2 | .xadd => 3)) (.vred r o) := by
  intro h
  simp only [wf_vred, Bool.and_eq_true] at h
  obtain ⟨⟨⟨hty, hd⟩, hs⟩, hsel⟩ := h
  have hty' (h1 : ¬ o.ty = .f32) (h2 : ¬ o.ty = .s32) : o.ty = .n32 := by simpa [h1, h2] using hty
  cases r <;> refine decodes_rr_nil (e := _) rfl ?_ ?_ <;> simp [Ent.reasons_eq_nil, Ent.bare, m6_plain, Parts.vUn, hd, hs, hsel] <;>
    exact hty'

theorem decodes_vcvt {dst : VTy} {o : VUn} (h : (Instr.vcvt dst o).wf = true) : Decodes (o.enc dst.bits 0x0A 0) (.vcvt dst o) := by
  simp only [wf_vcvt, VUn.ok, Bool.and_eq_true] at h
  obtain ⟨⟨hgroup, hne⟩, ⟨hd, hs⟩, hsel⟩ := h
  refine decodes_rr_nil rfl ?_ ?_
  · simp_all [Ent.reasons_eq_nil, Ent.bare]
  · simp [Ent.bare, Parts.vUn]

/-! ### Three registers -/

theorem decodes_vTri {mk : VTri → Instr} {o : VTri} (hlook : look 1 2 f.toNat = eVTri mk) (h : o.ok = true) : Decodes (o.enc f) (mk o) := by
  simp only [VTri.ok, Bool.and_eq_true] at h
  obtain ⟨⟨⟨hd, hs⟩, ht⟩, hsel⟩ := h
  refine decodes_rr_nil hlook ?_ ?_
  · simp [Ent.reasons_eq_nil, Ent.bare, hd, hs, ht, hsel, m6_plain]
  · simp [Ent.bare, Parts.vTri]

theorem decodes_tri {u : SUse} {ok : Parts → Bool} {mk : Parts → Instr} {m6 : BitVec 6} {o : Tri} {i : Instr}
    (hlook : look 1 op.toNat f.toNat = eTri u ok mk) (h : o.ok (vtyOf (m6.extractLsb' 3 3)).isFloat = true)
    (hu : ∀ P : Parts, SUse.legalPxs P → P.mask = o.q.mask → u.reasons P = []) (hok : ∀ P : Parts, P.m6 = m6 → ok P = true)
    (hb : ∀ P : Parts, P.m6 = m6 → P.tri = o → mk P = i) : Decodes (o.enc m6 op f) i := by
  simp only [Tri.ok, Bool.and_eq_true] at h
  obtain ⟨⟨⟨hd, hs⟩, ht⟩, hsel⟩ := h
  refine decodes_rr_nil hlook ?_ (hb _ rfl ?_)
  · have hok' := hok (rrParts 1#4 m6 op f false o.d o.s o.t o.q []) rfl
    have hu' := hu (rrParts 1#4 m6 op f false o.d o.s o.t o.q []) rrParts_legalPxs rfl
    simp [Ent.reasons_eq_nil, Ent.bare, hd, hs, ht, hok', hu', Parts.ty, hsel]
  · simp [Parts.tri]

theorem lanes_nil (o : Tri) (P : Parts) (h : SUse.legalPxs P) (_ : P.mask = o.q.mask) : SUse.reasons .lanes P = [] :=
  SUse.reasons_lanes.mpr fun _ => h
end

theorem decodes_vpack {f : PackFmt} {o : Tri} (h : (Instr.vpack f o).wf = true) : Decodes (o.enc f.bits 0x0A 1) (.vpack f o) := by
  cases f <;> refine decodes_tri rfl h (lanes_nil o) ?_ ?_ <;> intro P hm <;> simp_all [Parts.ty, Parts.qual, PackFmt.bits, vtyOf, packOf]

theorem decodes_vdot4 {ty : Dot4Ty} {o : Tri} : (Instr.vdot4 ty o).wf = true →
    Decodes (o.enc (match ty with | .s8 => 0x30 | .n8 => 0x38 | .e4m3 => 0 | .e5m2 => 1) 0x0B 0) (.vdot4 ty o) := by
  intro h
  cases ty <;> refine decodes_tri rfl h (lanes_nil o) ?_ ?_ <;> intro P hm <;> simp_all

theorem decodes_vdot8 {ty : Dot8Ty} {o : Tri} : (Instr.vdot8 ty o).wf = true →
    Decodes (o.enc (match ty with | .s4 => 0x30 | .e2m1 => 0) 0x0B 1) (.vdot8 ty o) := by
  intro h
  cases ty <;> refine decodes_tri rfl h (lanes_nil o) ?_ ?_ <;> intro P hm <;> simp_all

theorem decodes_vdot2 {ty : Dot2Ty} {o : Tri} : (Instr.vdot2 ty o).wf = true →
    Decodes (o.enc (match ty with | .bf16 => 0x08 | .f16 => 0x10 | .s16 => 0x28) 0x0B 2) (.vdot2 ty o) := by
  intro h
  cases ty <;> refine decodes_tri rfl h (lanes_nil o) ?_ ?_ <;> intro P hm <;> simp_all

theorem decodes_vqnt {f : QntFmt} {o : Tri} : (Instr.vqnt f o).wf = true →
    Decodes (o.enc (match f with | .zx8 => 0 | .zx8e => 1 | .zx4 => 2 | .ecf8 => 3) 0x0B 3) (.vqnt f o) := by
  intro h
  obtain ⟨hmask, hok⟩ := Bool.and_eq_true_iff.mp h
  have hmask' : o.q.mask = 0 := by simpa using hmask
  have hu (P : Parts) (hl : SUse.legalPxs P) (hP : P.mask = o.q.mask) : SUse.reasons .noMask P = [] :=
    SUse.reasons_noMask.mpr fun _ => ⟨hl, hP.trans hmask'⟩
  cases f <;> refine decodes_tri rfl hok hu ?_ ?_ <;> intro P hm <;> simp_all
end Sys2Proof
end

section
/-!
PROOFS. Words of page 1: broadcasts and slides, vector memory, and the mask instructions.
-/

namespace Sys2Proof

/-! ### VBCAST, VEXT, VIOTA, VSLIDE, VUNPK -/

section
variable {d s t : Reg} {q : Pxs} {ty : VTy} {mask : BitVec 3} {p : Pxi}

/-- Without a selector every type is legal. -/
theorem legal_zero (flt : Bool) : (selOf 0#4).legal flt = true := rfl

theorem decodes_vbcast_reg (h : (Instr.vbcast { ty := ty, d := d, src := .reg s q, mask := mask }).wf = true) :
    Decodes (enc1 ty 0 0x00 1 false d s 0 { q with mask := mask } []) (.vbcast { ty := ty, d := d, src := .reg s q, mask := mask }) := by
  simp only [wf_vbcast_reg, Bool.and_eq_true, beq_iff_eq] at h
  obtain ⟨hd, hmask, hsel⟩ := h
  refine decodes_rr_nil rfl ?_ ?_
  · simp [Ent.reasons_eq_nil, Ent.bare, hd, hsel, m6_plain]
  · obtain ⟨m, smod, sel⟩ := q
    simp_all [Ent.bare]

theorem decodes_vbcast_imm (h : (Instr.vbcast { ty := ty, d := d, src := .imm p, mask := mask }).wf = true) :
    Decodes (enc1 ty 0 0x00 1 false d 0 0 { mask := mask, smod := .plain, sel := .all } p)
      (.vbcast { ty := ty, d := d, src := .imm p, mask := mask }) := by
  simp only [wf_vbcast_imm, Bool.and_eq_true] at h
  obtain ⟨hd, hp, hlen⟩ := h
  refine decodes_rr rfl ?_ ?_ ?_
  · simpa using hlen
  · simp_all [Ent.reasons_eq_nil, Ent.bare, m6_plain, SMod.bits, Sel.bits, legal_zero]
  · simp_all [Ent.bare]

theorem toNat_zero_append {v w : Nat} (x : BitVec w) : (0#v ++ x).toNat = x.toNat := by simp

/-- The immediate of one PXI. -/
theorem immN_one {n : Nat} {x : BitVec 10} (hx : x.toNat = n) : immN [x] = n := by simp [immN, hx]

theorem decodes_vext {o : VExtOp} (h : (Instr.vext o).wf = true) :
    Decodes (enc1 o.ty 0 0x00 2 false o.d o.s 0 o.q [0#6 ++ o.lane]) (.vext o) := by
  simp only [wf_vext, Bool.and_eq_true, beq_iff_eq] at h
  obtain ⟨⟨⟨⟨hd, hs⟩, hmask⟩, hsel⟩, hlen⟩ := h
  have hlane : immN [0#6 ++ o.lane] = o.lane.toNat := immN_one (toNat_zero_append _)
  have hlt : o.lane.toNat ≤ 15 := by omega
  refine decodes_rr rfl ?_ ?_ ?_
  · simpa [chainOk] using hlen
  · simp [Ent.reasons_eq_nil, Ent.bare, hd, hs, hmask, hsel, m6_plain, hlane]
    exact hlt
  · simp [Ent.bare, hlane]

theorem decodes_viota (hd : isV d = true) :
    Decodes (enc1 ty 0 0x00 3 false d 0 0 { mask := mask, smod := .plain, sel := .all } []) (.viota ty d mask) := by
  refine decodes_rr_nil rfl ?_ ?_
  · simp [Ent.reasons_eq_nil, Ent.bare, hd, m6_plain, SMod.bits, Sel.bits, legal_zero]
  · simp [Ent.bare]

theorem decodes_vslide {o : VSlideOp} (h : (Instr.vslide o).wf = true) :
    Decodes (enc1 o.ty 0 0x07 2 false o.d o.s o.t o.q [0#6 ++ o.n]) (.vslide o) := by
  simp only [wf_vslide, Bool.and_eq_true] at h
  obtain ⟨⟨⟨⟨hd, hs⟩, ht⟩, hsel⟩, hlen⟩ := h
  have hn : immN [0#6 ++ o.n] = o.n.toNat := immN_one (toNat_zero_append _)
  have hlt : o.n.toNat ≤ 15 := by omega
  refine decodes_rr rfl hlen ?_ ?_
  · simp [Ent.reasons_eq_nil, Ent.bare, hd, hs, ht, hsel, m6_plain, hn]
    exact hlt
  · simp [Ent.bare, hn]

/-- The type and the qualifier of VUNPK's m6 name its source (R211). -/
theorem unpkOf_bits (f : UnpkFmt) :
    unpkOf (vtyOf (f.bits.extractLsb' 3 3)) (f.bits.extractLsb' 0 3).toNat = some f ∧ (vtyOf (f.bits.extractLsb' 3 3)).isFloat = f.isFloat := by
  cases f <;> exact ⟨rfl, rfl⟩

theorem decodes_vunpk {f : UnpkFmt} {part : BitVec 3} (h : (Instr.vunpk f part d s q).wf = true) :
    Decodes (encRR 1 f.bits 0x0A 2 false d s 0 q [0#7 ++ part]) (.vunpk f part d s q) := by
  simp only [wf_vunpk, Bool.and_eq_true, decide_eq_true_eq] at h
  obtain ⟨⟨⟨⟨hpart, hd⟩, hs⟩, hsel⟩, hlen⟩ := h
  obtain ⟨hf, hflt⟩ := unpkOf_bits f
  have hn : immN [0#7 ++ part] = part.toNat := immN_one (toNat_zero_append _)
  refine decodes_rr rfl ?_ ?_ ?_
  · simpa [chainOk] using hlen
  · simp [-BitVec.extractLsb'_toNat, Ent.reasons_eq_nil, Ent.bare, hd, hs, hsel, Parts.ty, Parts.qual, hf, hflt, hn, hpart]
  · simp [-BitVec.extractLsb'_toNat, Ent.bare, Parts.ty, Parts.qual, hf, hn]

/-! ### Vector memory (R215, R216) -/

/-- The bits of m6 of VLD. -/
theorem m6_vld (fresh : Bool) (mask : BitVec 3) : (0#2 ++ BitVec.ofBool fresh ++ mask : BitVec 6) &&& 48#6 = 0#6 ∧
    (0#2 ++ BitVec.ofBool fresh ++ mask : BitVec 6)[3] = fresh ∧ (0#2 ++ BitVec.ofBool fresh ++ mask : BitVec 6).extractLsb' 0 3 = mask := by
  revert fresh mask; decide
/-- The bits of m6 of VST and VSTX. -/
theorem m6_vst (mask : BitVec 3) : (0#3 ++ mask : BitVec 6) &&& 56#6 = 0#6 := by revert mask; decide
/-- The bits of m6 of VLDX. -/
theorem m6_vldx (sx fresh : Bool) (mask : BitVec 3) : (0#1 ++ BitVec.ofBool sx ++ BitVec.ofBool fresh ++ mask : BitVec 6) &&& 32#6 = 0#6 ∧
    (0#1 ++ BitVec.ofBool sx ++ BitVec.ofBool fresh ++ mask : BitVec 6)[4] = sx ∧
    (0#1 ++ BitVec.ofBool sx ++ BitVec.ofBool fresh ++ mask : BitVec 6)[3] = fresh ∧
    (0#1 ++ BitVec.ofBool sx ++ BitVec.ofBool fresh ++ mask : BitVec 6).extractLsb' 0 3 = mask := by
  revert sx fresh mask; decide

theorem decodes_vld {w : VldW} {fresh : Bool} (h : (Instr.vld w fresh mask d s t p).wf = true) :
    Decodes (encRR 1 (0#2 ++ BitVec.ofBool fresh ++ mask) 0x0C w.bits false d s t Pxs.none p) (.vld w fresh mask d s t p) := by
  obtain ⟨hd, hlen⟩ := Bool.and_eq_true_iff.mp h
  have hm := m6_vld fresh mask
  refine decodes_rr rfl hlen ?_ ?_
  · cases w <;> simp [Ent.reasons_eq_nil, Ent.bare, hd, hm, VldW.bits]
  · cases w <;> simp [Ent.bare, hm, Parts.qual, vldW, VldW.bits]

theorem decodes_vst {w : VldW} (h : (Instr.vst w mask d s t p).wf = true) :
    Decodes (encRR 1 (0#3 ++ mask) 0x0D w.bits false d s t Pxs.none p) (.vst w mask d s t p) := by
  obtain ⟨hd, hlen⟩ := Bool.and_eq_true_iff.mp h
  refine decodes_rr rfl hlen ?_ ?_
  · cases w <;> simp [Ent.reasons_eq_nil, Ent.bare, hd, m6_vst, VldW.bits]
  · cases w <;> simp [Ent.bare, vldW, VldW.bits]

theorem decodes_vldx {sz : VxSize} {sx fresh : Bool} (h : (Instr.vldx sz sx fresh mask d s t).wf = true) :
    Decodes (encRR 1 (0#1 ++ BitVec.ofBool sx ++ BitVec.ofBool fresh ++ mask) 0x0E sz.bits false d s t Pxs.none [])
      (.vldx sz sx fresh mask d s t) := by
  simp only [wf_vldx, Bool.and_eq_true] at h
  obtain ⟨⟨hd, ht⟩, hsx⟩ := h
  have hm := m6_vldx sx fresh mask
  cases sz <;> refine decodes_rr_nil (e := _) rfl ?_ ?_ <;> simp_all [Ent.reasons_eq_nil, Ent.bare, Parts.qual, vxSize, VxSize.bits]

theorem decodes_vstx {sz : VxSize} (hd : isV d = true) (ht : isV t = true) :
    Decodes (encRR 1 (0#3 ++ mask) 0x0F sz.bits false d s t Pxs.none []) (.vstx sz mask d s t) := by
  cases sz <;> refine decodes_rr_nil (e := _) rfl ?_ ?_ <;> simp [Ent.reasons_eq_nil, Ent.bare, hd, ht, m6_vst, vxSize, VxSize.bits]

/-! ### Mask instructions (R217, R218) -/

@[simp] theorem kReg_low (k : BitVec 3) : (kReg k).extractLsb' 0 3 = k := BitVec.extractLsb'_append_eq_right
@[simp] theorem kReg_toNat (k : BitVec 3) : (kReg k).toNat = k.toNat := by rw [kReg, toNat_append_eq_add]; simp
@[simp] theorem kReg_eq_zero (k : BitVec 3) : kReg k = 0#6 ↔ k = 0#3 := by simp [← BitVec.toNat_inj]

theorem decodes_kop {o : KopOp} {d s : BitVec 3} {t : Option (BitVec 3)} (hd : (d != 0) = true) :
    Decodes (encRR 1 0 0x10 (match o with | .and => 0 | .or => 1 | .xor => 2 | .andn => 3) t.isSome (kReg d) (kReg s)
      (kReg (t.getD 0)) Pxs.none []) (.kop o d s t) := by
  have hlow (k : BitVec 3) : low (kReg k) = true := decide_eq_true (by rw [kReg_toNat]; omega)
  have hlt (k : BitVec 3) : k.toNat < 8 := k.isLt
  cases o <;> refine decodes_rr_nil (e := _) rfl ?_ ?_ <;> cases t <;> simp_all [Ent.reasons_eq_nil, Ent.bare]

section
variable {f : BitVec 2} {k : BitVec 3}

theorem decodes_toMask {mk : BitVec 3 → Reg → Instr} (hlook : look 1 0x11 f.toNat =
      .ent { Ent.bare (fun p => mk (p.d.extractLsb' 0 3) p.s) with r := .hi true true, d := .kd }) (hk : (k != 0) = true) :
    Decodes (encRR 1 0 0x11 f false (kReg k) s 0 Pxs.none []) (mk k s) := by
  have hlt : k.toNat < 8 := k.isLt
  refine decodes_rr_nil hlook ?_ ?_
  · simp_all [Ent.reasons_eq_nil, Ent.bare]
  · simp [-BitVec.extractLsb'_toNat, Ent.bare]

theorem decodes_fromMask {mk : Reg → BitVec 3 → Instr} (hlook : look 1 0x11 f.toNat =
      .ent { Ent.bare (fun p => mk p.d (p.s.extractLsb' 0 3)) with r := .hi true true, d := .gd, src := .k }) (hd : dstG d = true) :
    Decodes (encRR 1 0 0x11 f false d (kReg k) 0 Pxs.none []) (mk d k) := by
  have hlt : k.toNat < 8 := k.isLt
  refine decodes_rr_nil hlook ?_ ?_
  · simp_all [Ent.reasons_eq_nil, Ent.bare]
  · simp [-BitVec.extractLsb'_toNat, Ent.bare]
end
end
end Sys2Proof
end

section
/-!
PROOFS. Words of pages 2 to 4: the matrix instructions, the engine instructions and scalar floating point.
-/

namespace Sys2Proof

/-! ## Matrix instructions (R239-R256) -/

section
variable {f : BitVec 2} {m6 op : BitVec 6} {r : Bool} {d s t : Reg} {q : Pxs} {p : Pxi}

/-! The small register fields of page 2. -/

@[simp] theorem low_nReg (n : BitVec 4) : low (nReg n) = true := decide_eq_true (by rw [nReg_toNat]; omega)
@[simp] theorem lo4_mReg (m : BitVec 3) : lo4 (mReg m) = 0#1 ++ m := by revert m; decide
@[simp] theorem low_mReg (m : BitVec 3) : low (mReg m) = true := by revert m; decide
@[simp] theorem lo4_aReg (a : BitVec 2) : lo4 (aReg a) = 0#2 ++ a := by revert a; decide
@[simp] theorem low_aReg (a : BitVec 2) : low (aReg a) = true := by revert a; decide

theorem m_upTo (m : BitVec 3) : (0#1 ++ m : BitVec 4).toNat ≤ 7 := by revert m; decide
theorem a_upTo (a : BitVec 2) : (0#2 ++ a : BitVec 4).toNat ≤ 3 := by revert a; decide
theorem m_low (m : BitVec 3) : (0#1 ++ m : BitVec 4).extractLsb' 0 3 = m := BitVec.extractLsb'_append_eq_right
theorem a_low (a : BitVec 2) : (0#2 ++ a : BitVec 4).extractLsb' 0 2 = a := BitVec.extractLsb'_append_eq_right

@[simp] theorem rrParts_d3 {page : BitVec 4} {m : BitVec 3} : (rrParts page m6 op f r (mReg m) s t q p).d3 = m := by
  rw [Parts.d3, rrParts_fD, lo4_mReg, m_low]
@[simp] theorem rrParts_d2 {page : BitVec 4} {a : BitVec 2} : (rrParts page m6 op f r (aReg a) s t q p).d2 = a := by
  rw [Parts.d2, rrParts_fD, lo4_aReg, a_low]
@[simp] theorem rrParts_s3 {page : BitVec 4} {m : BitVec 3} : (rrParts page m6 op f r d (mReg m) t q p).s3 = m := by
  rw [Parts.s3, rrParts_fS, lo4_mReg, m_low]
@[simp] theorem rrParts_s2 {page : BitVec 4} {a : BitVec 2} : (rrParts page m6 op f r d (aReg a) t q p).s2 = a := by
  rw [Parts.s2, rrParts_fS, lo4_aReg, a_low]

theorem decodes_mcfg {m : BitVec 3} : Decodes (enc2 0 0x00 0 (mReg m) s 0 []) (.mcfg m s) := by
  refine decodes_rr_nil rfl ?_ ?_
  · simpa [Ent.reasons_eq_nil, Ent.bare] using m_upTo m
  · simp [Ent.bare]

theorem decodes_mfmt : Decodes (enc2 0 0x00 1 0 s 0 []) (.mfmt s) := by
  refine decodes_rr_nil rfl ?_ ?_
  · simp [Ent.reasons_eq_nil, Ent.bare]
  · simp [Ent.bare]

theorem decodes_mperm {n : BitVec 4} : Decodes (enc2 0 0x00 2 (nReg n) s 0 []) (.mperm n s) := by
  refine decodes_rr_nil rfl ?_ ?_
  · simp [Ent.reasons_eq_nil, Ent.bare]
  · simp [Ent.bare]

theorem decodes_mmeta {c : MetaCnt} {m : BitVec 3} : (Instr.mmeta c m s).wf = true →
    Decodes (enc2 (match c with | .c32 => 0 | .c64 => 1 | .c128 => 2) 0x00 3 (mReg m) s 0 []) (.mmeta c m s) := by
  intro h
  have h0 : (0#1 ++ m : BitVec 4)[0] = m.getLsbD 0 := by clear h; revert m; decide
  cases c <;> refine decodes_rr_nil (e := _) rfl ?_ ?_ <;> simp_all [Ent.reasons_eq_nil, Ent.bare, Parts.qual, m_upTo, wf_mmeta]

theorem decodes_mld {sc : Bool} {m : BitVec 3} : Decodes (enc2 (0#5 ++ BitVec.ofBool sc) 0x01 0 (mReg m) s t []) (.mld sc m s t) := by
  cases sc <;> refine decodes_rr_nil (e := _) rfl ?_ ?_ <;> simp [Ent.reasons_eq_nil, Ent.bare, m_upTo]

theorem decodes_mldc {m : BitVec 3} : Decodes (enc2 0 0x01 1 (mReg m) s t []) (.mldc m s t) := by
  refine decodes_rr_nil rfl ?_ ?_
  · simpa [Ent.reasons_eq_nil, Ent.bare] using m_upTo m
  · simp [Ent.bare]

theorem decodes_mzero {a : BitVec 2} : Decodes (enc2 0 0x01 2 (aReg a) 0 0 []) (.mzero a) := by
  refine decodes_rr_nil rfl ?_ ?_
  · simpa [Ent.reasons_eq_nil, Ent.bare] using a_upTo a
  · simp [Ent.bare]

theorem decodes_mqst {n : BitVec 4} (h : (dstG d && decide (n.toNat ≤ 8)) = true) : Decodes (enc2 0 0x01 3 d (nReg n) 0 []) (.mqst d n) := by
  simp only [Bool.and_eq_true, decide_eq_true_eq] at h
  obtain ⟨hd, hn⟩ := h
  refine decodes_rr_nil rfl ?_ ?_
  · simp [Ent.reasons_eq_nil, Ent.bare, hd, hn]
  · simp [Ent.bare]

theorem decodes_mma {mk : BitVec 2 → BitVec 3 → BitVec 3 → Instr} {a : BitVec 2} {m b : BitVec 3} (hlook : look 2 2 f.toNat = eMma mk) :
    Decodes (enc2 (0#3 ++ b) 0x02 f (aReg a) (mReg m) 0 []) (mk a m b) := by
  refine decodes_rr_nil hlook ?_ ?_
  · simp [Ent.reasons_eq_nil, Ent.bare, m_upTo, a_upTo, m6_vst]
  · simp [Ent.bare]

theorem decodes_mmas {a : BitVec 2} {m b x : BitVec 3} (hb : (!b.getLsbD 0) = true) :
    Decodes (enc2 (x ++ b) 0x02 1 (aReg a) (mReg m) 0 []) (.mmas a m b x) := by
  have h0 : (x ++ b : BitVec 6)[0] = b.getLsbD 0 := by clear hb; revert x b; decide
  refine decodes_rr_nil rfl ?_ ?_
  · simp_all [Ent.reasons_eq_nil, Ent.bare, m_upTo, a_upTo]
  · simp [Ent.bare, m6_high]

theorem decodes_ast {mk : BitVec 2 → Reg → Reg → Instr} {a : BitVec 2} (hlook : look 2 3 f.toNat = eAst mk) :
    Decodes (enc2 0 0x03 f (aReg a) s t []) (mk a s t) := by
  refine decodes_rr_nil hlook ?_ ?_
  · simp [Ent.reasons_eq_nil, Ent.bare, a_upTo]
  · simp [Ent.bare]

/-- The payload of AMOV and AMOVV holds the row and the half (R240). -/
theorem rowBits_fields (row : BitVec 5) (half : Bool) :
    immN [rowBits row half] < 64 ∧ BitVec.ofNat 5 (immN [rowBits row half]) = row ∧ (BitVec.ofNat 10 (immN [rowBits row half])).getLsbD 5 = half := by
  revert row half; decide

theorem decodes_amov {a : BitVec 2} {row : BitVec 5} {half : Bool} (hd : isV d = true) :
    Decodes (enc2 0 0x03 2 d (aReg a) 0 [rowBits row half]) (.amov d a row half) := by
  obtain ⟨hlt, hrow, hhalf⟩ := rowBits_fields row half
  refine decodes_rr rfl ?_ ?_ ?_
  · cases low d <;> simp [chainOk]
  · simp [Ent.reasons_eq_nil, Ent.bare, hd, a_upTo, rowBad]
    exact decide_eq_false (Nat.not_le.mpr hlt)
  · simp only [Ent.bare, rrParts_d, rrParts_s2, rrParts_pxi, hrow, hhalf]

theorem decodes_amovv {a : BitVec 2} {row : BitVec 5} {half : Bool} (hs : isV s = true) :
    Decodes (enc2 0 0x03 3 (aReg a) s 0 [rowBits row half]) (.amovv a s row half) := by
  obtain ⟨hlt, hrow, hhalf⟩ := rowBits_fields row half
  refine decodes_rr rfl ?_ ?_ ?_
  · cases low s <;> simp [chainOk]
  · simp [Ent.reasons_eq_nil, Ent.bare, hs, a_upTo, rowBad]
    exact decide_eq_false (Nat.not_le.mpr hlt)
  · simp only [Ent.bare, rrParts_s, rrParts_d2, rrParts_pxi, hrow, hhalf]

/-! ## Engine instructions (R94, R95) -/

theorem decodes_eng {mask : BitVec 6} {n : Nat} {mk : Parts → Instr} {more : Parts → List Illegal} {i : Instr}
    (hlook : look 3 op.toNat f.toNat = eEng mask n mk more) (h : engOk n d s = true) (hm : m6 &&& ~~~mask = 0)
    (hmore : ∀ P : Parts, P.m6 = m6 → more P = []) (hb : ∀ P : Parts, P.m6 = m6 → P.d = d → P.s = s → mk P = i) :
    Decodes (enc3 m6 op f d s) i := by
  have hmore' := hmore (rrParts 3#4 m6 op f false d s 0#6 Pxs.none []) rfl
  refine decodes_rr_nil hlook ?_ (hb _ rfl rrParts_d rrParts_s)
  simp only [Ent.reasons_eq_nil, rrParts_m6, hm]
  simp [Ent.bare, h, hmore']
end

section
variable {op : BitVec 6} {f : BitVec 2} {d s : Reg}

/-- A command without a qualifier. -/
theorem decodes_engPlain {n : Nat} {mk : Reg → Reg → Instr} (hlook : look 3 op.toNat f.toNat = eEng 0 n (fun p => mk p.d p.s) (fun _ => []))
    (h : engOk n d s = true) : Decodes (enc3 0 op f d s) (mk d s) :=
  decodes_eng hlook h rfl (fun _ _ => rfl) fun P _ hd hs => by rw [hd, hs]

/-- CPY and CPYX with their two qualifiers. -/
theorem decodes_cpy {n : Nat} {mk : Bool → Bool → Reg → Reg → Instr} {put fe : Bool}
    (hlook : look 3 op.toNat f.toNat = eEng 3 n (fun p => mk (p.m6.getLsbD 0) (p.m6.getLsbD 1) p.d p.s) (fun _ => []))
    (h : engOk n d s = true) : Decodes (enc3 (0#4 ++ BitVec.ofBool fe ++ BitVec.ofBool put) op f d s) (mk put fe d s) := by
  refine decodes_eng hlook h ?_ (fun _ _ => rfl) fun P hm hd hs => ?_
  · cases fe <;> cases put <;> rfl
  · rw [hm, hd, hs]
    cases fe <;> cases put <;> rfl

theorem decodes_cfill {x : Bool} {m : FillMark} (h : engOk 5 d s = true) :
    Decodes (enc3 (0#3 ++ (match m with | .keep => 0#2 | .empty => 1#2 | .full => 2#2) ++ BitVec.ofBool x) 0x00 3 d s) (.cfill x m d s) := by
  refine decodes_eng rfl h ?_ (fun P hm => ?_) fun P hm hd hs => ?_
  · cases m <;> cases x <;> rfl
  · rw [atP_eq_nil, hm]
    cases m <;> cases x <;> rfl
  · simp only [hm, hd, hs]
    cases m <;> cases x <;> rfl

theorem decodes_echk {r : BitVec 3} (h : engOk 4 d s = true) : Decodes (enc3 (0#3 ++ r) 0x01 2 d s) (.echk r d s) := by
  refine decodes_eng rfl h (m6_vst r) (fun _ _ => rfl) fun P hm hd hs => ?_
  rw [Parts.qual, hm, hd, hs, m6_low]
end

/-! ## Scalar floating-point instructions (R187-R192) -/

section
variable {m : SMod} {d s t : Reg} {dbl : Bool}

theorem decodes_fBin {mk : Parts → Instr} {m6 op : BitVec 6} {f : BitVec 1} {mask : BitVec 6} {o : FBin} {i : Instr}
    (hlook : ∀ b : Bool, look 4 op.toNat (f ++ BitVec.ofBool b).toNat =
      .ent { Ent.bare mk with m6 := mask, r := .role true true, s := .float, d := .gd })
    (hm : m6 &&& ~~~mask = 0) (hb : ∀ P : Parts, P.m6 = m6 → P.fBin = o → mk P = i)
    (h : (dstG o.d && (o.src.isSome || (low o.d && low o.s))) = true) : Decodes (o.enc m6 op f) i := by
  obtain ⟨dbl, d, s, src, m⟩ := o
  simp only [Bool.and_eq_true] at h
  obtain ⟨hd, hsrc⟩ := h
  have hdbl : (f ++ BitVec.ofBool dbl)[0] = dbl := by clear hb hlook; revert f dbl; decide
  refine decodes_rr_nil (hlook dbl) ?_ (hb _ rfl ?_)
  · simp only [Ent.reasons_eq_nil, rrParts_m6, hm]
    simp [Ent.bare, hd, fPxs, Sel.bits]
  · cases src with
    | none => simp_all [Parts.fBin, fPxs, Option.getD]
    | some t => simp [Parts.fBin, fPxs, hdbl]

theorem decodes_f2 {mk : FBin → Instr} {op : BitVec 6} {f : BitVec 1} {o : FBin}
    (hlook : ∀ b : Bool, look 4 op.toNat (f ++ BitVec.ofBool b).toNat = eF2 mk)
    (h : (dstG o.d && (o.src.isSome || (low o.d && low o.s))) = true) : Decodes (o.enc 0 op f) (mk o) :=
  decodes_fBin (mask := 0) hlook rfl (fun _ _ ho => congrArg mk ho) h

theorem decodes_fcmp {c : FPred} {o : FBin} (h : (dstG o.d && (o.src.isSome || (low o.d && low o.s))) = true) :
    Decodes (o.enc (match c with | .eq => 0 | .lt => 1 | .le => 2 | .un => 3) 0x04 0) (.fcmp c o) := by
  refine decodes_fBin (fun b => by cases b <;> rfl) ?_ (fun P hm ho => ?_) h
  · cases c <;> rfl
  · simp only [hm, ho]
    cases c <;> rfl

theorem decodes_f1 {mk : FUn → Instr} {op : BitVec 6} {o : FUn}
    (hlook : ∀ b : Bool, look 4 op.toNat (1#1 ++ BitVec.ofBool b).toNat = eF1 mk) (hd : dstG o.d = true) : Decodes (o.enc op) (mk o) := by
  obtain ⟨dbl, d, s, m⟩ := o
  have hdbl : (1#1 ++ BitVec.ofBool dbl)[0] = dbl := by cases dbl <;> rfl
  refine decodes_rr_nil (hlook dbl) ?_ ?_
  · simp [Ent.reasons_eq_nil, Ent.bare, hd, fPxs, Sel.bits]
  · simp [Ent.bare, Parts.fUn, hdbl, fPxs]

theorem decodes_fma (hd : dstG d = true) : Decodes (encRR 4 0 0x02 (0#1 ++ BitVec.ofBool dbl) false d s t (fPxs m) []) (.fma dbl d s t m) := by
  cases dbl <;> refine decodes_rr_nil (e := _) rfl ?_ ?_ <;> simp [Ent.reasons_eq_nil, Ent.bare, hd, fPxs, Sel.bits]

/-- f and m6 of FCVT for a direction and its formats (R192). -/
def CvtKind.fields : CvtKind → BitVec 2 × BitVec 6
  | .ff a b => (0, a.bits ++ b.bits)
  | .ns a b => (1, a.bits ++ b.bits)
  | .fi a z b => (2, a.bits ++ BitVec.ofBool z ++ b.bits)
  | .if_ a b => (3, 0#1 ++ a.bits ++ b.bits)

theorem cvtOf_fields (k : CvtKind) (h : k.ok = true) : cvtOf k.fields.1 k.fields.2 = some k := by
  cases k with
  | ff a b => cases a <;> cases b <;> rfl
  | ns a b =>
    have hb : b = .e4m3 ∨ b = .e5m2 := by simpa [CvtKind.ok] using h
    obtain rfl | rfl := hb <;> cases a <;> rfl
  | fi a z b => cases a <;> cases z <;> cases b <;> rfl
  | if_ a b => cases a <;> cases b <;> rfl

theorem decodes_fcvt {k : CvtKind} (h : (dstG d && k.ok) = true) : Decodes (k.enc d s m) (.fcvt k d s m) := by
  obtain ⟨hd, hk⟩ := Bool.and_eq_true_iff.mp h
  have hc := cvtOf_fields k hk
  have henc : k.enc d s m = encRR 4 k.fields.2 0x05 k.fields.1 false d s 0 (fPxs m) [] := by cases k <;> rfl
  rw [henc]
  refine decodes_rr_nil rfl ?_ ?_
  · simp [Ent.reasons_eq_nil, Ent.bare, hd, fPxs, Sel.bits, hc]
  · simp [Ent.bare, hc, fPxs]
end
end Sys2Proof
end

section
/-!
PROOFS. Decoding an encoded instruction gives it back (O56).
-/

namespace Sys2Proof

/-! ## Every instruction -/

theorem forall_some {ws : List IWord} {i : Instr} (h : Decodes ws i) : ∀ vs, some ws = some vs → Decodes vs i :=
  fun _ e => Option.some.inj e ▸ h

theorem any_nil {r : Reg} (fld : BitVec 4) (P : Parts) : FUse.reasons .any r fld P = [] := rfl

theorem gd_nil {r : Reg} (h : dstG r = true) (fld : BitVec 4) (P : Parts) : FUse.reasons .gd r fld P = [] := FUse.reasons_gd.mpr h

/-- The words of a well-formed instruction decode to it, by the lemma of its form. -/
theorem decodes_encode (i : Instr) (h : i.wf = true) : ∀ ws, encode i = some ws → Decodes ws i := by
  cases i with
  | nop => exact forall_some decodes_nop
  | mov o | clz o | ctz o | popc o => exact forall_some (decodes_intUn rfl h)
  | add o | sub o | and o | or o | xor o | andn o | min o | max o | minn o | maxn o | sel o | shl o | shra o | shrl o | rotl o
  | mul o | mulh o | mulhn o | div o | divn o | rem o | remn o => exact forall_some (decodes_intBin rfl h)
  | sext o | zext o =>
    obtain ⟨hd, hmask⟩ := Bool.and_eq_true_iff.mp h
    exact forall_some (decodes_ext (fun _ => rfl) hd (beq_iff_eq.mp hmask))
  | cmp c inv o => exact forall_some (decodes_cmp h)
  | addImm o | movImm o => exact forall_some (decodes_ri_dst (fun _ => rfl) h)
  | extb o | insb o => exact forall_some (decodes_field rfl h)
  | lea o => exact forall_some (decodes_lea h)
  | bnd d s len =>
    cases len with
    | size f => exact forall_some (decodes_bnd_size (Bool.and_eq_true_iff.mp h).1)
    | imm p => exact forall_some (decodes_bnd_imm h)
  | ld m q | ldw m q | ldt m q => exact forall_some (decodes_load (fun _ => rfl) h)
  | st m r | stf m r => exact forall_some (decodes_store (fun _ => rfl) h)
  | femarkEmpty d s | femarkFull d s | tor d s | txor d s | tand d s | cinv d s | rett d s | ctxs d s | ctxl d s | slotx d s
  | audw d s => exact forall_some (decodes_ds rfl)
  | feq d s | tevict d s | tstat d s | tsync d s | hbar d s | hstat d s | qdrain d s => exact forall_some (decodes_ds_dst rfl h)
  | pftL1 s | pftL2 s | tpin s | tunpin s | tfetch s => exact forall_some (decodes_s0 rfl)
  | fence k c => exact forall_some decodes_fence
  | waitc ld st cp tl => exact fun _ => decodes_waitc
  | tadd ty d s => exact forall_some decodes_tadd
  | tmax ty d s => exact forall_some decodes_tmax
  | tmin ty d s => exact forall_some decodes_tmin
  | br i p | call i p | join i p =>
    exact forall_some (decodes_j (fun _ => rfl) (of_decide_eq_true h) fun P hl hp => by simp only [hl, hp])
  | bqb b i p =>
    refine forall_some (decodes_j (fun _ => rfl) (of_decide_eq_true h) fun P hl hp => ?_)
    have hb : (BitVec.ofBool b ++ i : BitVec 10).getLsbD 9 = b := by clear hl hp h; revert b i; decide
    have hi : (BitVec.ofBool b ++ i : BitVec 10).extractLsb' 0 9 = i := BitVec.extractLsb'_append_eq_right
    rw [hl, hp, hb, hi]
  | bc c s i p => exact forall_some (decodes_bc h)
  | bcmp c d s p => exact forall_some (decodes_bcmp h)
  | jmp s | callr s => exact forall_some (decodes_jump rfl)
  | ret => exact forall_some decodes_ret
  | crd d n => exact forall_some (decodes_cr (fun _ => rfl) (gd_nil h))
  | cwr d n => exact forall_some (decodes_cr (fun _ => rfl) any_nil)
  | amo op w ord d s t => exact forall_some (decodes_amo h)
  | cas w64 ord d s t => exact forall_some (decodes_cas h)
  | rupd op w ord s t => exact forall_some (decodes_rupd h)
  | spawn n d s => exact forall_some decodes_spawn
  | migr s t => exact forall_some decodes_migr
  | migrHome s | hwait s | waitw s | trap s | sysc s | aown s => exact forall_some (decodes_s rfl)
  | migrPivot | migrBack | detach => exact forall_some (decodes_none rfl)
  | send d s t => exact forall_some (decodes_send h)
  | qbind d s => exact forall_some (decodes_qbind h)
  | qstat d s => exact forall_some (decodes_qstat (Bool.and_eq_true_iff.mp h).1 (Bool.and_eq_true_iff.mp h).2)
  | halt => exact forall_some decodes_halt
  | haltRetain s => exact forall_some decodes_haltRetain
  | aspill u s | afill u s => exact forall_some (decodes_unit (of_decide_eq_true h) rfl)
  | vmov o => exact forall_some (decodes_vUn_plain rfl h)
  | vbcast o =>
    obtain ⟨ty, d, src, mask⟩ := o
    cases src with
    | reg s q => exact forall_some (decodes_vbcast_reg h)
    | imm p => exact forall_some (decodes_vbcast_imm h)
  | vext o => exact forall_some (decodes_vext h)
  | viota ty d mask => exact forall_some (decodes_viota h)
  | vadd sat o | vsub sat o | vmul sat o => exact forall_some (decodes_vArith rfl h)
  | vdiv o | vmin o | vmax o => exact forall_some (decodes_vNum rfl h)
  | vfma o | vfms o | vfnma o => exact forall_some (decodes_vTri rfl h)
  | vabs sat o | vneg sat o => exact forall_some (decodes_vUn_sat rfl h)
  | vand o | vor o | vxor o | vandn o => exact forall_some (decodes_vBits rfl h)
  | vshl o | vshra o | vshrl o | vrotl o => exact forall_some (decodes_vShift rfl h)
  | vcmp c o => exact forall_some (decodes_vcmp h)
  | vsel o => exact forall_some (decodes_vsel h)
  | vperm o => exact forall_some (decodes_vperm h)
  | vslide o => exact forall_some (decodes_vslide h)
  | vred op o => exact forall_some (decodes_vred h)
  | vrcp o | vrsq o | vexp2 o | vlog2 o => exact forall_some (decodes_vUn_f32 rfl h)
  | vcvt dst o => exact forall_some (decodes_vcvt h)
  | vpack f o => exact forall_some (decodes_vpack h)
  | vunpk f part d s q => exact forall_some (decodes_vunpk h)
  | vscal o => exact forall_some (decodes_vscal h)
  | vdot4 ty o => exact forall_some (decodes_vdot4 h)
  | vdot8 ty o => exact forall_some (decodes_vdot8 h)
  | vdot2 ty o => exact forall_some (decodes_vdot2 h)
  | vqnt f o => exact forall_some (decodes_vqnt h)
  | vld w fresh mask d b t p => exact forall_some (decodes_vld h)
  | vst w mask d b t p => exact forall_some (decodes_vst h)
  | vldx sz sx fresh mask d s t => exact forall_some (decodes_vldx h)
  | vstx sz mask d s t => exact forall_some (decodes_vstx (Bool.and_eq_true_iff.mp h).1 (Bool.and_eq_true_iff.mp h).2)
  | kop op d s t => exact forall_some (decodes_kop h)
  | kmovToMask d s | klow d s => exact forall_some (decodes_toMask rfl h)
  | kmovFromMask d s | kpop d s => exact forall_some (decodes_fromMask rfl h)
  | mcfg d s => exact forall_some decodes_mcfg
  | mfmt s => exact forall_some decodes_mfmt
  | mperm d s => exact forall_some decodes_mperm
  | mmeta c d s => exact forall_some (decodes_mmeta h)
  | mld sc d s t => exact forall_some decodes_mld
  | mldc d s t => exact forall_some decodes_mldc
  | mzero d => exact forall_some decodes_mzero
  | mqst d n => exact forall_some (decodes_mqst h)
  | mma d s b | mman d s b => exact forall_some (decodes_mma rfl)
  | mmas d s b x => exact forall_some (decodes_mmas h)
  | ast d s t | ald d s t => exact forall_some (decodes_ast rfl)
  | amov d s row half => exact forall_some (decodes_amov h)
  | amovv d s row half => exact forall_some (decodes_amovv h)
  | cpy put fe d s | cpyx put fe d s => exact forall_some (decodes_cpy rfl h)
  | cpyc d s | gath d s | scat d s | coll d s | cgrp d s | cabt d s => exact forall_some (decodes_engPlain rfl h)
  | cfill x m d s => exact forall_some (decodes_cfill h)
  | echk r d s => exact forall_some (decodes_echk h)
  | fadd o | fsub o | fmul o | fdiv o | fmin o | fmax o => exact forall_some (decodes_f2 (fun b => by cases b <;> rfl) h)
  | fma dbl d s t m => exact forall_some (decodes_fma h)
  | fsqrt o | fclass o => exact forall_some (decodes_f1 (fun b => by cases b <;> rfl) h)
  | fcmp c o => exact forall_some (decodes_fcmp h)
  | fcvt k d s m => exact forall_some (decodes_fcvt h)
  | _ => exact nofun

/-- Settles O56: the canonical chain is what the scan finds, and the entry of the opcode map accepts it and builds the instruction. -/
theorem decodeOfEncode : Obligations.DecodeOfEncode := by
  unfold Obligations.DecodeOfEncode
  intro i ws rest h he
  obtain ⟨hlen, hdec⟩ := decodes_encode i h ws he
  exact ⟨hlen, hdec rest⟩
end Sys2Proof
end

section
/-!
PROOFS. What the scan shows of any words (R32-R34, R40): the fields of absent words of the chain are zero, the chain has at most four words,
and each reason has its code and its place.
-/

namespace Sys2Proof

/-! ## Reasons -/

/-- A reason of R40 at a word of the chain or at the base word. -/
def Illegal.InRange (x : Illegal) : Prop := 1 ≤ x.code ∧ x.code ≤ 14 ∧ x.idx ≤ 4

/-- Every reason of a list is one. -/
def InRange (l : List Illegal) : Prop := ∀ x ∈ l, x.InRange

theorem inRange_nil : InRange [] := nofun
theorem InRange.append {l r : List Illegal} (hl : InRange l) (hr : InRange r) : InRange (l ++ r) :=
  fun x hx => (List.mem_append.mp hx).elim (hl x) (hr x)
theorem InRange.ite {c : Prop} [Decidable c] {l r : List Illegal} (hl : InRange l) (hr : InRange r) : InRange (if c then l else r) := by
  split
  · exact hl
  · exact hr
theorem inRange_one {k i : Nat} (hk : 1 ≤ k ∧ k ≤ 14) (hi : i ≤ 4) : InRange [⟨k, i⟩] := by
  intro x hx
  obtain rfl := List.mem_singleton.mp hx
  exact ⟨hk.1, hk.2, hi⟩

/-- The reason that counts is one of those found. -/
theorem mem_of_lowest {l : List Illegal} {x : Illegal} (h : lowest l = some x) : x ∈ l := by
  induction l generalizing x with
  | nil => cases h
  | cons a r ih =>
    simp only [lowest] at h
    split at h
    · cases h; exact List.mem_cons_self
    · next b hb =>
      split at h
      · cases h; exact List.mem_cons_self
      · cases h; exact List.mem_cons_of_mem _ (ih hb)

theorem inRange_lowest {l : List Illegal} (h : InRange l) : ((lowest l).getD ⟨0x0C, 0⟩).InRange := by
  cases hl : lowest l with
  | none => exact ⟨by decide, by decide, by decide⟩
  | some x => exact h x (mem_of_lowest hl)

/-! ## What a scan has found -/

/-- What the scan has found in the first `i` words, none of them a base word: a word that is absent has no fields, and each that is there has
its index. -/
structure Parts.Before (i : Nat) (p : Parts) : Prop where
  pxp : p.pxp = none → p.page = 0 ∧ p.m6 = 0
  pxr : p.pxr = none → p.dh = 0 ∧ p.sh = 0 ∧ p.t = 0
  pxs : p.pxs = none → p.mask = 0 ∧ p.smod = 0 ∧ p.sel = 0
  count : p.pxp.isSome.toNat + p.pxr.isSome.toNat + p.pxs.isSome.toNat + p.pxi.length ≤ i
  atP : ∀ j ∈ p.pxp, j ≤ 4
  atR : ∀ j ∈ p.pxr, j ≤ 4
  atS : ∀ j ∈ p.pxs, j ≤ 4
  atI : p.pxiAt ≤ 4

/-- The same of a chain of at most four words and its base word. -/
structure Parts.Chained (p : Parts) : Prop extends Parts.Before 4 p where
  base : p.base ≤ 4

theorem before_zero : Parts.Before 0 Parts.zero :=
  ⟨fun _ => ⟨rfl, rfl⟩, fun _ => ⟨rfl, rfl, rfl⟩, fun _ => ⟨rfl, rfl, rfl⟩, Nat.le_refl _, nofun, nofun, nofun, Nat.zero_le _⟩

theorem Parts.Before.mono {i j : Nat} {p : Parts} (h : p.Before i) (hij : i ≤ j) : p.Before j :=
  { h with count := h.count.trans hij }

/-- A word added to the chain. -/
theorem Parts.Before.addPfx {i k : Nat} {p : Parts} (h : p.Before i) (hi : i ≤ 4) (w : IWord) : (p.addPfx k i w).Before (i + 1) := by
  have hc := h.count
  unfold Parts.addPfx
  split
  · split
    · exact h.mono (Nat.le_succ _)
    · next hn =>
      refine { h with pxp := nofun, count := ?_, atP := by simpa using hi }
      simp_all
      omega
  · split
    · exact h.mono (Nat.le_succ _)
    · next hn =>
      refine { h with pxr := nofun, count := ?_, atR := by simpa using hi }
      simp_all
      omega
  · split
    · exact h.mono (Nat.le_succ _)
    · next hn =>
      refine { h with pxs := nofun, count := ?_, atS := by simpa using hi }
      simp_all
      omega
  · refine { h with count := ?_, atI := ?_ }
    · simp only [List.length_append, List.length_singleton]
      omega
    · dsimp only
      split
      · exact hi
      · exact h.atI

theorem inRange_pfxReasons {k last i : Nat} {w : IWord} (hi : i ≤ 4) : InRange (pfxReasons k last i w) :=
  ((InRange.ite (inRange_one (by decide) hi) inRange_nil).append (.ite (inRange_one (by decide) hi) inRange_nil)).append
    (.ite (inRange_one (by decide) hi) inRange_nil)

/-- The scan ends at a base word of a chain of at most four words, or has a reason for ending elsewhere. -/
theorem scan_sound {n i last : Nat} {p : Parts} {ws : List IWord} (h : p.Before i) (hn : i + n = 4) :
    (∀ q ∈ (scan n i last p ws).1, q.Chained ∧ q.base < i + ws.length) ∧ InRange (scan n i last p ws).2 := by
  have hchain (op : BitVec 6) (lo : BitVec 10) : ({ p with base := i, op := op, lo := lo } : Parts).Chained :=
    { h.mono (by omega : i ≤ 4) with base := by dsimp only; omega }
  induction ws generalizing n i last p with
  | nil =>
    have hs : scan n i last p [] = (none, [⟨0x0C, i⟩]) := by cases n <;> rfl
    rw [hs]
    exact ⟨nofun, inRange_one (by decide) (by omega)⟩
  | cons w ws ih =>
    cases hk : pfxRank w with
    | none =>
      have hs : scan n i last p (w :: ws) = (some { p with base := i, op := opOf w, lo := loOf w }, []) := by
        cases n <;> simp [scan, hk]
      rw [hs]
      refine ⟨fun q hq => ?_, inRange_nil⟩
      cases hq
      exact ⟨hchain _ _, by simp⟩
    | some k =>
      cases n with
      | zero =>
        simp only [scan, hk]
        exact ⟨nofun, (inRange_pfxReasons (by omega)).append (inRange_one (by decide) (by omega))⟩
      | succ n =>
        have hadd := h.addPfx (k := k) (by omega) w
        obtain ⟨hparts, hreasons⟩ := ih (last := Nat.max last k) hadd (n := n) (by omega) fun op lo =>
          { hadd.mono (by omega : i + 1 ≤ 4) with base := by dsimp only; omega }
        simp only [scan, hk]
        refine ⟨fun q hq => ?_, (inRange_pfxReasons (by omega)).append hreasons⟩
        obtain ⟨hq1, hq2⟩ := hparts q hq
        exact ⟨hq1, by simp only [List.length_cons]; omega⟩

end Sys2Proof
end

section
/-!
PROOFS. What each entry of the opcode map builds from a chain that it accepts is a well-formed instruction, which has an encoding (R34-R40).
-/

namespace Sys2Proof

/-! ## What a chain gives -/

namespace Parts.Chained
variable {p : Parts}

/-- The mask of an absent PXS is 000. -/
theorem mask_eq_zero (h : p.Chained) (hm : p.pxs.isSome = true → p.mask = 0) : p.mask = 0 := by
  cases hs : p.pxs with
  | none => exact (h.pxs hs).1
  | some i => exact hm (by rw [hs]; rfl)

/-- Without PXS the instruction has no mask, modifier or selector. -/
theorem q_eq_none (h : p.Chained) (hs : p.pxs = none) : p.q = Pxs.none := by
  obtain ⟨hm, hsm, hsel⟩ := h.pxs hs
  simp only [Parts.q, hm, hsm, hsel]
  rfl

/-- Without PXR the numbers are low, and t is zero. -/
theorem low_of_none (h : p.Chained) (hr : p.pxr = none) : low p.d = true ∧ low p.s = true ∧ low p.s1 = true ∧ p.t = 0 := by
  obtain ⟨hd, hs, ht⟩ := h.pxr hr
  have hlow (x : BitVec 4) : low (0#2 ++ x) = true := by revert x; decide
  simp only [Parts.d, Parts.s, Parts.s1, hd, hs]
  exact ⟨hlow _, hlow _, hlow _, ht⟩

/-- A chain of words that are all there is not too long. -/
theorem chainOk {a b : Bool} {q : Pxs} (h : p.Chained) (ha : a = true → p.pxp.isSome = true) (hb : b = true → p.pxr.isSome = true)
    (hq : q ≠ Pxs.none → p.pxs.isSome = true) : chainOk a b q p.pxi = true := by
  have hc := h.count
  have ha' : a.toNat ≤ p.pxp.isSome.toNat := Bool.toNat_le_toNat ha
  have hb' : b.toNat ≤ p.pxr.isSome.toNat := Bool.toNat_le_toNat hb
  have hq' : (if q = Pxs.none then 0 else 1) ≤ p.pxs.isSome.toNat := by
    split
    · exact Nat.zero_le _
    · next hn => rw [hq hn]; exact Nat.le_refl 1
  exact decide_eq_true (by omega)

/-- A bit of m6 comes from a PXP. -/
theorem pxp_of_m6 {i : Nat} (h : p.Chained) (hm : p.m6.getLsbD i = true) : p.pxp.isSome = true := by
  by_contra hn
  have h0 := (h.pxp (by simpa using hn)).2
  simp [h0] at hm

theorem pxr_of_high (h : p.Chained) (hn : (!(low p.d && low p.s && p.t == 0)) = true) : p.pxr.isSome = true := by
  by_contra hr
  obtain ⟨hd, hs, -, ht⟩ := h.low_of_none (by simpa using hr)
  simp [hd, hs, ht] at hn

theorem pxr_of_high_d (h : p.Chained) (hn : (!low p.d) = true) : p.pxr.isSome = true :=
  h.pxr_of_high (by simp_all)

theorem pxr_of_high_ds (h : p.Chained) (hn : (!(low p.d && low p.s)) = true) : p.pxr.isSome = true :=
  h.pxr_of_high (by simp_all)

theorem pxs_of_q (h : p.Chained) (hq : p.q ≠ Pxs.none) : p.pxs.isSome = true := by
  by_contra hs
  exact hq (h.q_eq_none (by simpa using hs))

/-- The two-source form that the chain shows. -/
theorem fits {a : Bool} (h : p.Chained) (ha : a = true → p.pxp.isSome = true) : p.src2.fits a p.d p.s p.q = true := by
  unfold Parts.src2
  split
  · next hp =>
    simp only [Src2.fits, Bool.and_eq_true]
    exact ⟨hp, h.chainOk ha h.pxr_of_high_ds h.pxs_of_q⟩
  · split
    · rfl
    · next hr =>
      obtain ⟨hd, hs, -⟩ := h.low_of_none (by simpa using hr)
      simp [Src2.fits, hd, hs]

end Parts.Chained

theorem src2_pxi {p : Parts} : p.src2.pxi = p.pxi := by
  unfold Parts.src2
  split
  · rfl
  · next hp =>
    have : p.pxi = [] := by simpa using hp
    split <;> simp [Src2.pxi, this]

theorem isV_src2_t {p : Parts} (h : isV p.t = true) : isV p.src2.t = true := by
  unfold Parts.src2
  split
  · rfl
  · split
    · exact h
    · rfl

/-! ## Entries -/

/-- The instruction is well-formed and has an encoding. -/
def Encodable (i : Instr) : Prop := i.wf = true ∧ (encode i).isSome = true

/-- What an entry of the opcode map answers to a chain: instructions that can be encoded, and reasons of R40. On the pages above 0 there is
a PXP. -/
structure Ent.Sound (e : Ent) (pxp : Bool) : Prop where
  more : ∀ p : Parts, p.Chained → InRange (e.more p)
  build : ∀ p : Parts, p.Chained → (pxp = true → p.pxp.isSome = true) → e.reasons p = [] → Encodable (e.build p)

/-- The same of what is found at a place of the opcode map. -/
def Look.Sound (l : Look) (pxp : Bool) : Prop := ∀ e, l = .ent e → e.Sound pxp

variable {b : Bool} {f : Nat}

theorem Ent.Sound.look {e : Ent} (h : e.Sound b) : (Look.ent e).Sound b := fun _ he => Look.ent.inj he ▸ h
theorem sound_noF : Look.noF.Sound b := fun _ h => by cases h
theorem sound_noOp : Look.noOp.Sound b := fun _ h => by cases h
theorem sound_noPage : Look.noPage.Sound b := fun _ h => by cases h

/-- Reasons at a base word, at PXP, at PXR or at PXI. -/
theorem inRange_atB {p : Parts} (hp : p.Chained) {c : Bool} {k : Nat} (hk : 1 ≤ k ∧ k ≤ 14) : InRange (atB c k p) :=
  .ite (inRange_one hk hp.base) inRange_nil
theorem getD_le {o : Option Nat} {n : Nat} (ho : ∀ j ∈ o, j ≤ 4) (hn : n ≤ 4) : o.getD n ≤ 4 := by
  cases o with
  | none => exact hn
  | some j => exact ho j rfl
theorem inRange_atP {p : Parts} (hp : p.Chained) {c : Bool} : InRange (atP c p) :=
  .ite (inRange_one (by decide) (getD_le hp.atP hp.base)) inRange_nil
theorem inRange_atR {p : Parts} (hp : p.Chained) {c : Bool} : InRange (atR c p) :=
  .ite (inRange_one (by decide) (getD_le hp.atR hp.base)) inRange_nil
theorem inRange_atX {p : Parts} (hp : p.Chained) {c : Bool} : InRange (atX c p) :=
  .ite (inRange_one (by decide) (getD_le hp.atR hp.base)) inRange_nil
theorem inRange_selBad {p : Parts} (hp : p.Chained) {flt : Bool} : InRange (selBad flt p) := inRange_atB hp (by decide)
theorem inRange_pxi {p : Parts} (hp : p.Chained) : InRange [⟨0x0A, p.pxiAt⟩] := inRange_one (by decide) hp.atI
theorem inRange_pxs {p : Parts} (hp : p.Chained) : InRange (match p.pxs with | some i => [⟨0x0A, i⟩] | none => []) := by
  split
  · next i hi => exact inRange_one (by decide) (hp.atS i hi)
  · exact inRange_nil

theorem inRange_RUse {p : Parts} (hp : p.Chained) {u : RUse} : InRange (u.reasons p) := by
  cases u with
  | three => exact inRange_atB hp (by decide)
  | _ => exact inRange_atR hp
theorem inRange_FUse {p : Parts} (hp : p.Chained) {u : FUse} {r : Reg} {fld : BitVec 4} : InRange (u.reasons r fld p) := by
  cases u with
  | any => exact inRange_nil
  | nil => exact (inRange_atX hp).append (inRange_atB hp (by decide))
  | _ => exact inRange_atB hp (by decide)
theorem inRange_IUse {p : Parts} (hp : p.Chained) {u : IUse} : InRange (u.reasons p) := by
  cases u with
  | no => exact .ite inRange_nil (inRange_pxi hp)
  | any => exact inRange_nil
  | _ => exact inRange_atB hp (by decide)
theorem inRange_SUse {p : Parts} (hp : p.Chained) {u : SUse} : InRange (u.reasons p) := by
  unfold SUse.reasons
  split
  · exact inRange_nil
  · next i hi =>
    have hbad (k : Nat) (c : Bool) (hk : 1 ≤ k ∧ k ≤ 14) : InRange (if c then [⟨k, i⟩] else []) :=
      .ite (inRange_one hk (hp.atS i hi)) inRange_nil
    cases u with
    | no => exact inRange_one (by decide) (hp.atS i hi)
    | free => exact inRange_nil
    | lanes => exact hbad _ _ (by decide)
    | zero => exact ((hbad _ _ (by decide)).append (hbad _ _ (by decide))).append (hbad _ _ (by decide))
    | _ => exact (hbad _ _ (by decide)).append (hbad _ _ (by decide))

/-- Every reason of an entry is one of R40 where its further ones are. -/
theorem Ent.Sound.reasons {e : Ent} {b : Bool} (h : e.Sound b) {p : Parts} (hp : p.Chained) : InRange (e.reasons p) :=
  (((((((inRange_atP hp).append (inRange_RUse hp)).append (inRange_SUse hp)).append (inRange_IUse hp)).append (inRange_FUse hp)).append
    (inRange_FUse hp)).append (inRange_FUse hp)).append (h.more p hp)

/-! ### Integer instructions -/

theorem eBin_sound {mk : IntBin → Instr} (hmk : ∀ o, o.ok false = true → Encodable (mk o)) : (eBin mk).Sound b := by
  refine Ent.Sound.look ⟨fun _ _ => inRange_nil, fun p hp _ hr => ?_⟩
  obtain ⟨-, -, hs, -, hd, -⟩ := Ent.reasons_eq_nil.mp hr
  have hmask := hp.mask_eq_zero fun h => (SUse.reasons_scalar.mp hs h).2
  exact hmk _ (IntBin.ok_iff.mpr ⟨FUse.reasons_gd.mp hd, hmask, hp.fits nofun⟩)

theorem eCmp_sound : (eCmp f).Sound b := by
  refine Ent.Sound.look ⟨fun _ _ => inRange_nil, fun p hp _ hr => ⟨?_, rfl⟩⟩
  obtain ⟨-, -, hs, -, hd, -⟩ := Ent.reasons_eq_nil.mp hr
  have hmask := hp.mask_eq_zero fun h => (SUse.reasons_scalar.mp hs h).2
  exact IntBin.ok_iff.mpr ⟨FUse.reasons_gd.mp hd, hmask, hp.fits hp.pxp_of_m6⟩

theorem eUn_sound {mk : IntUn → Instr} (hmk : ∀ o, o.ok = true → Encodable (mk o)) : (eUn mk).Sound b := by
  refine Ent.Sound.look ⟨fun p hp => ?_, fun p hp _ hr => hmk _ ?_⟩
  · exact .ite inRange_nil (((inRange_atB hp (by decide)).append (inRange_atR hp)).append (inRange_pxs hp))
  · obtain ⟨-, -, hs, -, hd, -⟩ := Ent.reasons_eq_nil.mp hr
    have hmask := hp.mask_eq_zero fun h => (SUse.reasons_scalar.mp hs h).2
    have hd' := FUse.reasons_gd.mp hd
    have hlen : chainOk false (!low p.d) Pxs.none p.pxi = true := hp.chainOk nofun hp.pxr_of_high_d nofun
    by_cases hpxi : p.pxi.isEmpty = true
    · simp [IntUn.ok, Parts.intUn, hpxi, hd', Pxs.scalar, Parts.q, hmask]
    · simp [IntUn.ok, Parts.intUn, hpxi, hd', hlen]

theorem eExt_sound {mk : ExtOp → Instr} (hmk : ∀ o, (dstG o.d && o.q.scalar) = true → Encodable (mk o)) : (eExt mk f).Sound b := by
  unfold eExt
  split
  · exact sound_noF
  · refine Ent.Sound.look ⟨fun p hp => .ite inRange_nil (inRange_pxs hp), fun p hp _ hr => hmk _ ?_⟩
    obtain ⟨-, -, hs, -, hd, -⟩ := Ent.reasons_eq_nil.mp hr
    have hmask := hp.mask_eq_zero fun h => (SUse.reasons_scalar.mp hs h).2
    have hd' := FUse.reasons_gd.mp hd
    simp [hd', Pxs.scalar, Parts.q, hmask]

theorem eField_sound {mk : FieldOp → Instr}
    (hmk : ∀ o : FieldOp, (o.ok && chainOk false (!(low o.d && low o.s)) o.q [0, 0]) = true → Encodable (mk o)) : (eField mk).Sound b := by
  refine Ent.Sound.look ⟨fun p hp => inRange_atB hp (by decide), fun p hp _ hr => hmk _ ?_⟩
  obtain ⟨-, -, hs, hi, hd, -, -, hmore⟩ := Ent.reasons_eq_nil.mp hr
  have hmask := hp.mask_eq_zero fun h => (SUse.reasons_scalar.mp hs h).2
  have hd' := FUse.reasons_gd.mp hd
  have hn := atB_eq_nil.mp hmore
  have hlen := hp.chainOk (a := false) nofun hp.pxr_of_high_ds hp.pxs_of_q
  have hlen2 : chainOk false (!(low p.d && low p.s)) p.q [0, 0] = true := by
    have h2 : p.pxi.length = 2 := IUse.reasons_exact.mp hi
    exact (congrArg (fun k => decide (_ + k ≤ 4)) h2.symm).trans hlen
  simp only [decide_eq_false_iff_not, not_or, not_le, not_lt] at hn
  obtain ⟨h4096, hwid, hpos⟩ := hn
  refine Bool.and_eq_true_iff.mpr ⟨?_, hlen2⟩
  simp [FieldOp.ok, hd', Pxs.scalar, Parts.q, hmask]
  omega

theorem eRI_sound {mk : RegImm → Instr} (hmk : ∀ o, o.ok = true → Encodable (mk o)) : (eRI mk).Sound b := by
  refine Ent.Sound.look ⟨fun _ _ => inRange_nil, fun p hp _ hr => hmk _ ?_⟩
  obtain ⟨-, -, -, -, hd, -⟩ := Ent.reasons_eq_nil.mp hr
  exact Bool.and_eq_true_iff.mpr ⟨FUse.reasons_gd.mp hd, hp.chainOk nofun hp.pxr_of_high_d nofun⟩

theorem lea_sound : (entry0 0x0E f).Sound b := by
  refine Ent.Sound.look ⟨fun _ _ => inRange_nil, fun p hp _ hr => ⟨?_, rfl⟩⟩
  obtain ⟨-, -, -, -, hd, -⟩ := Ent.reasons_eq_nil.mp hr
  exact Bool.and_eq_true_iff.mpr ⟨FUse.reasons_gd.mp hd, hp.chainOk nofun hp.pxr_of_high nofun⟩

theorem bnd_sound : (entry0 0x0F f).Sound b := by
  refine Ent.Sound.look ⟨fun p hp => inRange_atB hp (by decide), fun p hp _ hr => ?_⟩
  obtain ⟨-, -, -, -, hd, -, -, hmore⟩ := Ent.reasons_eq_nil.mp hr
  have hd' := FUse.reasons_gd.mp hd
  have hn := atB_eq_nil.mp hmore
  have hlen : chainOk false (!(low p.d && low p.s)) Pxs.none p.pxi = true := hp.chainOk nofun hp.pxr_of_high_ds nofun
  by_cases hpxi : p.pxi.isEmpty = true
  · simp only [Ent.bare, if_pos hpxi]
    exact ⟨by rw [wf_bnd_size, hd', Bool.true_and], rfl⟩
  · have himm : immN p.pxi ≠ 0 := by
      intro h0
      simp [hpxi, h0] at hn
    simp only [Ent.bare, if_neg hpxi]
    refine ⟨?_, rfl⟩
    simp only [wf_bnd_imm, hd', hlen, hpxi, himm, ne_eq, not_false_eq_true, decide_true, Bool.not_false, Bool.and_self]

/-! ### Loads, stores, and plain words of page 0 -/

theorem eLoad_sound {mk : MemOp → LoadQ → Instr} (hmk : ∀ m q, (m.ok true q.any && q.ok m.w) = true → Encodable (mk m q)) :
    (eLoad mk).Sound b := by
  refine Ent.Sound.look ⟨fun p hp => inRange_atB hp (by decide), fun p hp _ hr => hmk _ _ ?_⟩
  obtain ⟨-, -, -, -, hd, -, -, hmore⟩ := Ent.reasons_eq_nil.mp hr
  have hany (h : p.loadQ.any = true) : p.pxp.isSome = true := by
    simp only [LoadQ.any, Parts.loadQ, Bool.or_eq_true] at h
    obtain (h | h) | h := h <;> exact hp.pxp_of_m6 h
  have hlen : chainOk p.loadQ.any (!(low p.d && low p.s && p.t == 0)) Pxs.none p.pxi = true := hp.chainOk hany hp.pxr_of_high nofun
  have hq : p.loadQ.ok p.f = true := by
    rw [LoadQ.ok]
    exact (Bool.not_eq_true' _).mpr (atB_eq_nil.mp hmore)
  have hd' := FUse.reasons_gd.mp hd
  simp only [MemOp.ok, Parts.memOp, Bool.and_eq_true]
  exact ⟨⟨hd', hlen⟩, hq⟩

theorem eStore_sound {mk : MemOp → Bool → Instr} (hmk : ∀ m r, m.ok false r = true → Encodable (mk m r)) : (eStore mk).Sound b := by
  refine Ent.Sound.look ⟨fun _ _ => inRange_nil, fun p hp _ hr => hmk _ _ ?_⟩
  exact hp.chainOk hp.pxp_of_m6 hp.pxr_of_high nofun

theorem eDS_sound {mk : Reg → Reg → Instr} (hmk : ∀ d s, Encodable (mk d s)) : (eDS .any mk).Sound b :=
  Ent.Sound.look ⟨fun _ _ => inRange_nil, fun _ _ _ _ => hmk _ _⟩

theorem eDS_dst_sound {mk : Reg → Reg → Instr} (hmk : ∀ d s, dstG d = true → Encodable (mk d s)) : (eDS .gd mk).Sound b := by
  refine Ent.Sound.look ⟨fun _ _ => inRange_nil, fun p hp _ hr => hmk _ _ ?_⟩
  obtain ⟨-, -, -, -, hd, -⟩ := Ent.reasons_eq_nil.mp hr
  exact FUse.reasons_gd.mp hd

theorem eS_sound {mk : Reg → Instr} (hmk : ∀ s, Encodable (mk s)) : (eS mk).Sound b :=
  Ent.Sound.look ⟨fun _ _ => inRange_nil, fun _ _ _ _ => hmk _⟩

theorem eS0_sound {mk : Reg → Instr} (hmk : ∀ s, Encodable (mk s)) : (eS0 mk).Sound b :=
  Ent.Sound.look ⟨fun _ _ => inRange_nil, fun _ _ _ _ => hmk _⟩

theorem eJmp_sound {mk : Reg → Instr} (hmk : ∀ s, Encodable (mk s)) : (eJmp mk).Sound b :=
  Ent.Sound.look ⟨fun _ hp => inRange_atX hp, fun _ _ _ _ => hmk _⟩

theorem eRet_sound : eRet.Sound b := Ent.Sound.look ⟨fun _ hp => inRange_atX hp, fun _ _ _ _ => ⟨rfl, rfl⟩⟩

theorem eNone_sound {i : Instr} (hi : Encodable i) : (eNone i).Sound b := Ent.Sound.look ⟨fun _ _ => inRange_nil, fun _ _ _ _ => hi⟩

theorem eJ_sound {mk : BitVec 10 → Pxi → Instr} (hmk : ∀ i p, decide (p.length ≤ 4) = true → Encodable (mk i p)) : (eJ mk).Sound b := by
  refine Ent.Sound.look ⟨fun _ _ => inRange_nil, fun p hp _ _ => hmk _ _ (decide_eq_true ?_)⟩
  have := hp.count
  omega

theorem eCR_sound {mk : Reg → BitVec 12 → Instr} (hmk : ∀ d n, Encodable (mk d n)) : (eCR .any mk).Sound b :=
  Ent.Sound.look ⟨fun _ hp => inRange_atB hp (by decide), fun _ _ _ _ => hmk _ _⟩

theorem eCR_dst_sound {mk : Reg → BitVec 12 → Instr} (hmk : ∀ d n, dstG d = true → Encodable (mk d n)) : (eCR .gd mk).Sound b := by
  refine Ent.Sound.look ⟨fun _ hp => inRange_atB hp (by decide), fun p hp _ hr => hmk _ _ ?_⟩
  obtain ⟨-, -, -, -, hd, -⟩ := Ent.reasons_eq_nil.mp hr
  exact FUse.reasons_gd.mp hd

/-! ### Page 0 -/

theorem inRange_atReasons {p : Parts} (hp : p.Chained) : InRange (atReasons p) :=
  ((inRange_atP hp).append (inRange_atB hp (by decide))).append (inRange_atR hp)

theorem atReasons_eq_nil {p : Parts} (h : atReasons p = []) :
    (atOpOf (p.m6.extractLsb' 2 4)).agrees (atWOf p.f) = true ∧ (atOpOf (p.m6.extractLsb' 2 4) != .jdec || p.t == 0) = true := by
  obtain ⟨h12, h3⟩ := List.append_eq_nil_iff.mp h
  obtain ⟨h1, h2⟩ := List.append_eq_nil_iff.mp h12
  have hle : (p.m6.extractLsb' 2 4).toNat ≤ 12 := Nat.not_lt.mp (of_decide_eq_false (atP_eq_nil.mp h1))
  have hag : (decide ((p.m6.extractLsb' 2 4).toNat ≤ 12) && !(atOpOf (p.m6.extractLsb' 2 4)).agrees (atWOf p.f)) = false := atB_eq_nil.mp h2
  have hj : (p.m6.extractLsb' 2 4 == 12 && p.t != 0) = false := atR_eq_nil.mp h3
  rw [decide_eq_true hle] at hag
  refine ⟨by simpa using hag, ?_⟩
  by_cases hop : atOpOf (p.m6.extractLsb' 2 4) = .jdec
  · have h12 : p.m6.extractLsb' 2 4 = 12 := by
      generalize p.m6.extractLsb' 2 4 = x at hop hle
      revert x; decide
    simp [h12] at hj
    simp [hj]
  · simp [hop]

theorem amo_sound : (entry0b 0x28 f).Sound b := by
  refine Ent.Sound.look ⟨fun _ => inRange_atReasons, fun p _ _ hr => ⟨?_, rfl⟩⟩
  obtain ⟨-, -, -, -, hd, -, -, hmore⟩ := Ent.reasons_eq_nil.mp hr
  obtain ⟨hag, ht⟩ := atReasons_eq_nil hmore
  exact Bool.and_eq_true_iff.mpr ⟨Bool.and_eq_true_iff.mpr ⟨FUse.reasons_gd.mp hd, hag⟩, ht⟩

theorem cas_sound : (entry0b 0x29 f).Sound b := by
  simp only [entry0b]
  split
  · exact sound_noF
  · refine Ent.Sound.look ⟨fun _ _ => inRange_nil, fun p _ _ hr => ⟨?_, rfl⟩⟩
    obtain ⟨-, -, -, -, hd, -⟩ := Ent.reasons_eq_nil.mp hr
    exact FUse.reasons_gd.mp hd

/-- An order that is no acquire is relaxed or a release. -/
theorem atOrdOf_of_not_acq (x : BitVec 2) (h : x.getLsbD 0 = false) : (atOrdOf x == .relaxed || atOrdOf x == .rel) = true := by
  revert x; decide

theorem rupd_sound : (entry0b 0x2A f).Sound b := by
  refine Ent.Sound.look ⟨fun p hp => (inRange_atReasons hp).append (inRange_atP hp), fun p _ _ hr => ⟨?_, rfl⟩⟩
  obtain ⟨-, -, -, -, -, -, -, hmore⟩ := Ent.reasons_eq_nil.mp hr
  obtain ⟨hat, hacq⟩ := List.append_eq_nil_iff.mp hmore
  obtain ⟨hag, ht⟩ := atReasons_eq_nil hat
  have h0 : (p.m6.extractLsb' 0 2).getLsbD 0 = false := by
    rw [BitVec.getLsbD_extractLsb']
    simpa using atP_eq_nil.mp hacq
  exact Bool.and_eq_true_iff.mpr ⟨Bool.and_eq_true_iff.mpr ⟨hag, ht⟩, atOrdOf_of_not_acq _ h0⟩

theorem bc_sound : (entry0b 0x22 f).Sound b := by
  refine Ent.Sound.look ⟨fun _ _ => inRange_nil, fun p hp _ _ => ⟨?_, rfl⟩⟩
  refine hp.chainOk nofun (fun hs => ?_) nofun
  by_contra hr
  obtain ⟨-, -, hs1, -⟩ := hp.low_of_none (by simpa using hr)
  simp [hs1] at hs

theorem bcmp_sound : (entry0b 0x23 f).Sound b := by
  refine Ent.Sound.look ⟨fun _ _ => inRange_nil, fun p hp _ hr => ⟨?_, rfl⟩⟩
  obtain ⟨-, -, -, hi, -⟩ := Ent.reasons_eq_nil.mp hr
  have hpxi : (!p.pxi.isEmpty) = true := by
    have := IUse.reasons_atLeast.mp hi
    cases hx : p.pxi with
    | nil => simp [hx] at this
    | cons => rfl
  exact Bool.and_eq_true_iff.mpr ⟨hpxi, hp.chainOk nofun hp.pxr_of_high_ds nofun⟩

theorem bqb_sound : (entry0b 0x25 f).Sound b := by
  refine Ent.Sound.look ⟨fun _ _ => inRange_nil, fun p hp _ _ => ⟨decide_eq_true ?_, rfl⟩⟩
  have := hp.count
  omega

theorem migr_sound : (entry0b 0x2C 0).Sound b := Ent.Sound.look ⟨fun _ _ => inRange_nil, fun _ _ _ _ => ⟨rfl, rfl⟩⟩

theorem send_sound : (entry0b 0x2D 0).Sound b := by
  refine Ent.Sound.look ⟨fun p hp => ?_, fun p _ _ hr => ⟨?_, rfl⟩⟩
  · refine .append (.ite ?_ (.ite ?_ inRange_nil)) (inRange_atB hp (by decide))
    · exact inRange_one (by decide) hp.base
    · exact inRange_one (by decide) (getD_le hp.atR hp.base)
  · obtain ⟨-, -, -, -, -, -, -, hmore⟩ := Ent.reasons_eq_nil.mp hr
    obtain ⟨ht, hds⟩ := List.append_eq_nil_iff.mp hmore
    have hds' := atB_eq_nil.mp hds
    simp only [wf_send, Ent.bare, sendOk]
    by_cases hchan : 56 ≤ p.d.toNat ∧ p.d.toNat ≤ 59
    · simp [hchan, Nat.max_def] at ht hds' ⊢
      split at ht
      · cases ht
      · split at ht
        · cases ht
        · split at hds' <;> omega
    · simp [hchan] at ht hds' ⊢
      split at ht
      · cases ht
      · split at ht
        · cases ht
        · omega

theorem qbind_sound : (entry0b 0x2D 1).Sound b := by
  refine Ent.Sound.look ⟨fun _ hp => inRange_atB hp (by decide), fun p _ _ hr => ⟨?_, rfl⟩⟩
  obtain ⟨-, -, -, -, -, -, -, hmore⟩ := Ent.reasons_eq_nil.mp hr
  exact (Bool.not_eq_false' ..).mp (atB_eq_nil.mp hmore)

theorem qstat_sound : (entry0b 0x2D 2).Sound b := by
  refine Ent.Sound.look ⟨fun _ hp => inRange_atB hp (by decide), fun p _ _ hr => ⟨?_, rfl⟩⟩
  obtain ⟨-, -, -, -, hd, -, -, hmore⟩ := Ent.reasons_eq_nil.mp hr
  exact Bool.and_eq_true_iff.mpr ⟨FUse.reasons_gd.mp hd, (Bool.not_eq_false' ..).mp (atB_eq_nil.mp hmore)⟩

theorem halt_sound : (entry0b 0x31 2).Sound b := by
  refine Ent.Sound.look ⟨fun p hp => .ite inRange_nil ((inRange_atB hp (by decide)).append (inRange_atR hp)), fun p _ _ _ => ?_⟩
  simp only [Ent.bare]
  split <;> exact ⟨rfl, rfl⟩

/-- An ASPILL or AFILL unit (R307). -/
theorem unit_sound {mk : BitVec 4 → Reg → Instr} (hmk : ∀ u s, decide (u.toNat ≤ 12) = true → Encodable (mk u s)) :
    (Look.ent { Ent.bare (fun p => mk (fD p.lo) p.s) with
      r := .hi true true, more := fun p => atB (decide (12 < p.d.toNat)) 0x07 p }).Sound b := by
  refine Ent.Sound.look ⟨fun _ hp => inRange_atB hp (by decide), fun p _ _ hr => hmk _ _ ?_⟩
  obtain ⟨-, -, -, -, -, -, -, hmore⟩ := Ent.reasons_eq_nil.mp hr
  have hle (x : BitVec 2) (y : BitVec 4) : y.toNat ≤ (x ++ y).toNat := by revert x y; decide
  exact decide_eq_true ((hle _ _).trans (Nat.not_lt.mp (of_decide_eq_false (atB_eq_nil.mp hmore))))

theorem entry0b_sound {op f : Nat} : (entry0b op f).Sound false := by
  unfold entry0b
  split
  · exact eJ_sound fun _ _ h => ⟨h, rfl⟩
  · exact eJ_sound fun _ _ h => ⟨h, rfl⟩
  · exact bc_sound (f := 0)
  · exact bcmp_sound (f := f)
  · split
    · exact eJmp_sound fun _ => ⟨rfl, rfl⟩
    · exact eJmp_sound fun _ => ⟨rfl, rfl⟩
    · exact eRet_sound
    · exact sound_noF
  · exact bqb_sound (f := 0)
  · exact eCR_dst_sound fun _ _ h => ⟨h, rfl⟩
  · exact eCR_sound fun _ _ => ⟨rfl, rfl⟩
  · exact amo_sound (f := 0)
  · exact cas_sound (f := f)
  · exact rupd_sound (f := 0)
  · exact eDS_sound fun _ _ => ⟨rfl, rfl⟩
  · split
    · exact migr_sound
    · exact eS_sound fun _ => ⟨rfl, rfl⟩
    · exact eNone_sound ⟨rfl, rfl⟩
    · exact eNone_sound ⟨rfl, rfl⟩
  · split
    · exact send_sound
    · exact qbind_sound
    · exact qstat_sound
    · exact sound_noF
  · split
    · exact eDS_dst_sound fun _ _ h => ⟨h, rfl⟩
    · exact eS_sound fun _ => ⟨rfl, rfl⟩
    · exact eDS_dst_sound fun _ _ h => ⟨h, rfl⟩
    · exact sound_noF
  · exact eJ_sound fun _ _ h => ⟨h, rfl⟩
  · split
    · exact eNone_sound ⟨rfl, rfl⟩
    · exact eS_sound fun _ => ⟨rfl, rfl⟩
    · exact halt_sound
    · exact eS_sound fun _ => ⟨rfl, rfl⟩
  · split
    · exact eDS_sound fun _ _ => ⟨rfl, rfl⟩
    · exact eS_sound fun _ => ⟨rfl, rfl⟩
    · exact eDS_sound fun _ _ => ⟨rfl, rfl⟩
    · exact eDS_sound fun _ _ => ⟨rfl, rfl⟩
  · split
    · exact eS_sound fun _ => ⟨rfl, rfl⟩
    · exact unit_sound fun _ _ h => ⟨h, rfl⟩
    · exact unit_sound fun _ _ h => ⟨h, rfl⟩
    · exact eDS_sound fun _ _ => ⟨rfl, rfl⟩
  · split
    · exact eDS_dst_sound fun _ _ h => ⟨h, rfl⟩
    · exact eDS_sound fun _ _ => ⟨rfl, rfl⟩
    · exact sound_noF
  · exact sound_noOp

theorem nop_sound : (entry0 0x00 0).Sound b :=
  Ent.Sound.look ⟨fun _ hp => inRange_atB hp (by decide), fun _ _ _ _ => ⟨rfl, rfl⟩⟩

theorem fence_sound : (entry0 0x17 f).Sound b :=
  Ent.Sound.look ⟨fun _ hp => inRange_atB hp (by decide), fun _ _ _ _ => ⟨rfl, rfl⟩⟩

theorem waitc_sound : (entry0 0x18 f).Sound b := Ent.Sound.look ⟨fun _ _ => inRange_nil, fun _ _ _ _ => ⟨rfl, rfl⟩⟩

theorem entry0_sound {op f : Nat} : (entry0 op f).Sound false := by
  unfold entry0
  split
  · split
    · exact nop_sound
    · exact sound_noF
  · split <;> exact eUn_sound fun _ h => ⟨h, rfl⟩
  · split <;> exact eBin_sound fun _ h => ⟨h, rfl⟩
  · split <;> exact eBin_sound fun _ h => ⟨h, rfl⟩
  · split
    · exact eBin_sound fun _ h => ⟨h, rfl⟩
    · exact eBin_sound fun _ h => ⟨h, rfl⟩
    · exact eBin_sound fun _ h => ⟨h, rfl⟩
    · exact sound_noF
  · split <;> exact eBin_sound fun _ h => ⟨h, rfl⟩
  · split
    · exact eBin_sound fun _ h => ⟨h, rfl⟩
    · exact eBin_sound fun _ h => ⟨h, rfl⟩
    · exact eBin_sound fun _ h => ⟨h, rfl⟩
    · exact sound_noF
  · split <;> exact eBin_sound fun _ h => ⟨h, rfl⟩
  · exact eExt_sound fun _ h => ⟨h, rfl⟩
  · exact eExt_sound fun _ h => ⟨h, rfl⟩
  · split
    · exact eField_sound fun _ h => ⟨h, rfl⟩
    · exact eField_sound fun _ h => ⟨h, rfl⟩
    · exact sound_noF
  · exact eCmp_sound
  · exact eRI_sound fun _ h => ⟨h, rfl⟩
  · exact eRI_sound fun _ h => ⟨h, rfl⟩
  · exact lea_sound (f := 0)
  · exact bnd_sound (f := 0)
  · exact eLoad_sound fun _ _ h => ⟨h, rfl⟩
  · exact eStore_sound fun _ _ h => ⟨h, rfl⟩
  · exact eLoad_sound fun _ _ h => ⟨h, rfl⟩
  · exact eLoad_sound fun _ _ h => ⟨h, rfl⟩
  · exact eStore_sound fun _ _ h => ⟨h, rfl⟩
  · split
    · exact eDS_sound fun _ _ => ⟨rfl, rfl⟩
    · exact eDS_sound fun _ _ => ⟨rfl, rfl⟩
    · exact eDS_dst_sound fun _ _ h => ⟨h, rfl⟩
    · exact sound_noF
  · split
    · exact eS0_sound fun _ => ⟨rfl, rfl⟩
    · exact eS0_sound fun _ => ⟨rfl, rfl⟩
    · exact sound_noF
  · exact fence_sound (f := 0)
  · exact waitc_sound (f := 0)
  · split
    · exact sound_noF
    · exact eDS_sound fun _ _ => ⟨rfl, rfl⟩
  · exact eDS_sound fun _ _ => ⟨rfl, rfl⟩
  · exact eDS_sound fun _ _ => ⟨rfl, rfl⟩
  · split
    · exact eDS_sound fun _ _ => ⟨rfl, rfl⟩
    · exact eDS_sound fun _ _ => ⟨rfl, rfl⟩
    · exact eDS_sound fun _ _ => ⟨rfl, rfl⟩
    · exact sound_noF
  · split
    · exact eS0_sound fun _ => ⟨rfl, rfl⟩
    · exact eS0_sound fun _ => ⟨rfl, rfl⟩
    · exact eS0_sound fun _ => ⟨rfl, rfl⟩
    · exact eDS_dst_sound fun _ _ h => ⟨h, rfl⟩
  · split
    · exact eDS_dst_sound fun _ _ h => ⟨h, rfl⟩
    · exact eDS_dst_sound fun _ _ h => ⟨h, rfl⟩
    · exact eDS_sound fun _ _ => ⟨rfl, rfl⟩
    · exact sound_noF
  · exact entry0b_sound

end Sys2Proof
end

section
/-!
PROOFS. The entries of page 1 build well-formed instructions (R194-R218).
-/

namespace Sys2Proof

/-! ## Lane instructions by their forms -/

/-- A selector that the type allows. -/
theorem Parts.Chained.legal {p : Parts} {flt : Bool} (h : p.Chained) (hsel : selBad flt p = []) : p.q.sel.legal flt = true := by
  cases hs : p.pxs with
  | none => rw [h.q_eq_none hs]; rfl
  | some i => exact selBad_eq_nil.mp hsel (by rw [hs]; rfl)

theorem chainOk_of_length {a b : Bool} {q : Pxs} {p r : Pxi} (h : chainOk a b q p = true) (hl : p.length = r.length) : chainOk a b q r = true :=
  (congrArg (fun k => decide (_ + k ≤ 4)) hl.symm).trans h

theorem inRange_pxiFloat {p : Parts} (hp : p.Chained) {c : Bool} : InRange (if c then [⟨0x0A, p.pxiAt⟩] else []) :=
  .ite (inRange_pxi hp) inRange_nil

section
variable {f : Nat}

theorem eVBin_sound {sat int raw : Bool} {u : FUse} {dOk : Reg → Bool} {mk : Bool → VBin → Instr}
    (hu : ∀ r fld p, u.reasons r fld p = [] → dOk r = true)
    (hmk : ∀ x o, ((x && sat && o.ty.isFloat) || (int && o.ty.isFloat)) = false → o.ok (raw || !o.ty.isFloat) dOk = true → Encodable (mk x o)) :
    (eVBin sat int raw u mk).Sound true := by
  refine Ent.Sound.look ⟨fun p hp => ((inRange_atP hp).append (inRange_selBad hp)).append (inRange_pxiFloat hp), fun p hp hpxp hr => ?_⟩
  obtain ⟨-, -, -, -, hd, hs, ht, hmore⟩ := Ent.reasons_eq_nil.mp hr
  obtain ⟨h12, hpxi⟩ := List.append_eq_nil_iff.mp hmore
  obtain ⟨hty, hsel⟩ := List.append_eq_nil_iff.mp h12
  refine hmk _ _ (atP_eq_nil.mp hty) (VBin.ok_iff.mpr ⟨hu _ _ _ hd, FUse.reasons_v.mp hs, hp.legal hsel, hp.fits hpxp, ?_, fun hne => ?_⟩)
  · exact isV_src2_t (FUse.reasons_v.mp ht)
  · have hne' : p.pxi ≠ [] := src2_pxi ▸ hne
    revert hpxi
    cases raw <;> simp [Parts.vBin, hne']

theorem v_of_nil (r : Reg) (fld : BitVec 4) (p : Parts) (h : FUse.reasons .v r fld p = []) : isV r = true := FUse.reasons_v.mp h

/-- `.sat` does not stand on a floating type. -/
theorem satOk_of {x c : Bool} {ty : VTy} (h : ((x && true && ty.isFloat) || (false && c)) = false) : satOk x ty = true := by
  cases x with
  | false => rfl
  | true => simpa [satOk] using h

/-- Arithmetic with `.sat`, whose PXI is for integer types. -/
theorem vArith_sound {mk : Bool → VBin → Instr} (hmk : ∀ x o, (satOk x o.ty && o.ok o.immInt isV) = true → Encodable (mk x o)) :
    (eVBin true false false .v mk).Sound true :=
  eVBin_sound v_of_nil fun x o hty ho => hmk x o (Bool.and_eq_true_iff.mpr ⟨satOk_of hty, ho⟩)

/-- Arithmetic without `.sat`. -/
theorem vNum_sound {mk : VBin → Instr} (hmk : ∀ o, o.ok o.immInt isV = true → Encodable (mk o)) :
    (eVBin false false false .v (fun _ => mk)).Sound true := eVBin_sound v_of_nil fun _ o _ ho => hmk o ho

/-- The bitwise instructions, which take PXI on any type. -/
theorem vBits_sound {mk : VBin → Instr} (hmk : ∀ o, o.ok true isV = true → Encodable (mk o)) :
    (eVBin false false true .v (fun _ => mk)).Sound true := eVBin_sound v_of_nil fun _ o _ ho => hmk o ho

/-- The shifts, which stand on integer types. -/
theorem vShift_sound {mk : VBin → Instr} (hmk : ∀ o : VBin, (!o.ty.isFloat && o.ok true isV) = true → Encodable (mk o)) :
    (eVBin false true true .v (fun _ => mk)).Sound true :=
  eVBin_sound v_of_nil fun _ o hty ho => hmk o (Bool.and_eq_true_iff.mpr ⟨by simpa using hty, ho⟩)

theorem eVcmp_sound : (eVcmp f).Sound true := by
  refine eVBin_sound (dOk := fun d => decide (1 ≤ d.toNat) && decide (d.toNat ≤ 7)) (fun r _ _ h => ?_) fun _ _ _ ho => ⟨ho, rfl⟩
  obtain ⟨h0, h8⟩ := FUse.reasons_kd.mp h
  have hpos : r.toNat ≠ 0 := fun e => h0 (BitVec.eq_of_toNat_eq e)
  simp
  omega

theorem eVUn_sound {sat f32 : Bool} {mk : Bool → VUn → Instr}
    (hmk : ∀ x o, ((x && sat && o.ty.isFloat) || (f32 && o.ty != .f32)) = false → o.ok = true → Encodable (mk x o)) :
    (eVUn sat f32 .v mk).Sound true := by
  refine Ent.Sound.look ⟨fun p hp => (inRange_atP hp).append (inRange_selBad hp), fun p hp _ hr => ?_⟩
  obtain ⟨-, -, -, -, hd, hs, -, hmore⟩ := Ent.reasons_eq_nil.mp hr
  obtain ⟨hty, hsel⟩ := List.append_eq_nil_iff.mp hmore
  refine hmk _ _ (atP_eq_nil.mp hty) ?_
  simp only [VUn.ok, Bool.and_eq_true]
  exact ⟨⟨FUse.reasons_v.mp hd, FUse.reasons_v.mp hs⟩, hp.legal hsel⟩

theorem eVUn_sat_sound {mk : Bool → VUn → Instr} (hmk : ∀ x o, (satOk x o.ty && o.ok) = true → Encodable (mk x o)) :
    (eVUn true false .v mk).Sound true :=
  eVUn_sound fun x o hty ho => hmk x o (Bool.and_eq_true_iff.mpr ⟨satOk_of hty, ho⟩)

theorem eVUn_f32_sound {mk : VUn → Instr} (hmk : ∀ o : VUn, (o.ty == .f32 && o.ok) = true → Encodable (mk o)) :
    (eVUn false true .v (fun _ => mk)).Sound true :=
  eVUn_sound fun _ o hty ho => hmk o (Bool.and_eq_true_iff.mpr ⟨by simpa using hty, ho⟩)

theorem eVTri_sound {mk : VTri → Instr} (hmk : ∀ o, o.ok = true → Encodable (mk o)) : (eVTri mk).Sound true := by
  refine Ent.Sound.look ⟨fun p hp => inRange_selBad hp, fun p hp _ hr => hmk _ ?_⟩
  obtain ⟨-, -, -, -, hd, hs, ht, hsel⟩ := Ent.reasons_eq_nil.mp hr
  simp only [VTri.ok, Bool.and_eq_true]
  exact ⟨⟨⟨FUse.reasons_v.mp hd, FUse.reasons_v.mp hs⟩, FUse.reasons_v.mp ht⟩, hp.legal hsel⟩

theorem eVred_sound : (eVred f).Sound true := by
  refine Ent.Sound.look ⟨fun p hp => (inRange_atP hp).append (inRange_selBad hp), fun p hp _ hr => ⟨?_, rfl⟩⟩
  obtain ⟨-, -, -, -, hd, hs, -, hmore⟩ := Ent.reasons_eq_nil.mp hr
  obtain ⟨hty, hsel⟩ := List.append_eq_nil_iff.mp hmore
  simp only [wf_vred, Ent.bare, Bool.and_eq_true]
  exact ⟨⟨⟨(Bool.not_eq_false' ..).mp (atP_eq_nil.mp hty), FUse.reasons_gd.mp hd⟩, FUse.reasons_v.mp hs⟩, hp.legal hsel⟩

theorem eTri_sound {u : SUse} {ok : Parts → Bool} {mk : Parts → Instr}
    (hmk : ∀ p : Parts, p.Chained → u.reasons p = [] → ok p = true → p.tri.ok p.ty.isFloat = true → Encodable (mk p)) :
    (eTri u ok mk).Sound true := by
  refine Ent.Sound.look ⟨fun p hp => (inRange_atP hp).append (inRange_selBad hp), fun p hp _ hr => ?_⟩
  obtain ⟨-, -, hq, -, hd, hs, ht, hmore⟩ := Ent.reasons_eq_nil.mp hr
  obtain ⟨hok, hsel⟩ := List.append_eq_nil_iff.mp hmore
  refine hmk p hp hq ((Bool.not_eq_false' ..).mp (atP_eq_nil.mp hok)) ?_
  simp only [Tri.ok, Bool.and_eq_true]
  exact ⟨⟨⟨FUse.reasons_v.mp hd, FUse.reasons_v.mp hs⟩, FUse.reasons_v.mp ht⟩, hp.legal hsel⟩

/-! ## Primaries 0x00 and 0x07 -/

theorem vbcast_sound : (entry1 0x00 1).Sound true := by
  refine Ent.Sound.look ⟨fun p hp => ?_, fun p hp hpxp hr => ?_⟩
  · exact (inRange_selBad hp).append (.ite inRange_nil (((inRange_atB hp (by decide)).append (inRange_atR hp)).append (inRange_SUse hp)))
  obtain ⟨-, -, -, -, hd, -, -, hmore⟩ := Ent.reasons_eq_nil.mp hr
  obtain ⟨hsel, -⟩ := List.append_eq_nil_iff.mp hmore
  have hd' := FUse.reasons_v.mp hd
  by_cases hpxi : p.pxi.isEmpty = true
  · simp only [Ent.bare, if_pos hpxi]
    refine ⟨?_, rfl⟩
    simp only [wf_vbcast_reg, Bool.and_eq_true]
    exact ⟨hd', rfl, hp.legal hsel⟩
  · simp only [Ent.bare, if_neg hpxi]
    refine ⟨?_, rfl⟩
    have hmask (hq : ({ mask := p.mask, smod := .plain, sel := .all } : Pxs) ≠ Pxs.none) : p.pxs.isSome = true := by
      by_contra hs
      have h0 := (hp.pxs (by simpa using hs)).1
      exact hq (by rw [h0]; rfl)
    simp only [wf_vbcast_imm, Bool.and_eq_true]
    exact ⟨hd', by simpa using hpxi, hp.chainOk hpxp hp.pxr_of_high_d hmask⟩

theorem vext_sound : (entry1 0x00 2).Sound true := by
  refine Ent.Sound.look ⟨fun p hp => (inRange_selBad hp).append (inRange_atB hp (by decide)), fun p hp hpxp hr => ⟨?_, rfl⟩⟩
  obtain ⟨-, -, hq, hi, hd, hs, -, hmore⟩ := Ent.reasons_eq_nil.mp hr
  obtain ⟨hsel, -⟩ := List.append_eq_nil_iff.mp hmore
  have hmask := hp.mask_eq_zero fun h => (SUse.reasons_noMask.mp hq h).2
  have hlen := chainOk_of_length (r := [0]) (hp.chainOk hpxp hp.pxr_of_high_ds hp.pxs_of_q) (IUse.reasons_exact.mp hi)
  simp only [wf_vext, Ent.bare, Bool.and_eq_true, beq_iff_eq]
  exact ⟨⟨⟨⟨FUse.reasons_gd.mp hd, FUse.reasons_v.mp hs⟩, hmask⟩, hp.legal hsel⟩, hlen⟩

theorem viota_sound : (entry1 0x00 3).Sound true := by
  refine Ent.Sound.look ⟨fun p hp => inRange_selBad hp, fun p _ _ hr => ⟨?_, rfl⟩⟩
  obtain ⟨-, -, -, -, hd, -⟩ := Ent.reasons_eq_nil.mp hr
  exact FUse.reasons_v.mp hd

theorem vsel_sound : (entry1 0x07 0).Sound true := by
  refine Ent.Sound.look ⟨fun p hp => inRange_selBad hp, fun p hp hpxp hr => ⟨?_, rfl⟩⟩
  obtain ⟨-, -, -, hi, hd, hs, ht, hsel⟩ := Ent.reasons_eq_nil.mp hr
  refine VBin.ok_iff.mpr ⟨FUse.reasons_v.mp hd, FUse.reasons_v.mp hs, hp.legal hsel, hp.fits hpxp, isV_src2_t (FUse.reasons_v.mp ht), fun hne => ?_⟩
  exact absurd (src2_pxi.trans (IUse.reasons_no.mp hi)) hne

theorem vperm_sound : (entry1 0x07 1).Sound true := by
  refine Ent.Sound.look ⟨fun p hp => ((inRange_selBad hp).append (inRange_atB hp (by decide))).append (inRange_pxiFloat hp),
    fun p hp hpxp hr => ⟨Bool.and_eq_true_iff.mpr ⟨?_, ?_⟩, rfl⟩⟩
  all_goals
    obtain ⟨-, -, -, -, hd, hs, ht, hmore⟩ := Ent.reasons_eq_nil.mp hr
    obtain ⟨h12, hpxi⟩ := List.append_eq_nil_iff.mp hmore
    obtain ⟨hsel, hidx⟩ := List.append_eq_nil_iff.mp h12
  · refine VBin.ok_iff.mpr
      ⟨FUse.reasons_v.mp hd, FUse.reasons_v.mp hs, hp.legal hsel, hp.fits hpxp, isV_src2_t (FUse.reasons_v.mp ht), fun hne => ?_⟩
    have hne' : p.pxi ≠ [] := src2_pxi ▸ hne
    simpa [VBin.immInt, Parts.vBin, hne'] using hpxi
  · have hle : immN p.pxi ≤ 15 := Nat.not_lt.mp (of_decide_eq_false (atB_eq_nil.mp hidx))
    have hx : immN p.src2.pxi ≤ 15 := src2_pxi.symm ▸ hle
    cases h : p.src2 with
    | imm x => rw [h] at hx; simp only [Parts.vBin, h]; exact decide_eq_true hx
    | _ => simp only [Parts.vBin, h]

theorem vslide_sound : (entry1 0x07 2).Sound true := by
  refine Ent.Sound.look ⟨fun p hp => (inRange_selBad hp).append (inRange_atB hp (by decide)), fun p hp hpxp hr => ⟨?_, rfl⟩⟩
  obtain ⟨-, -, -, hi, hd, hs, ht, hmore⟩ := Ent.reasons_eq_nil.mp hr
  obtain ⟨hsel, -⟩ := List.append_eq_nil_iff.mp hmore
  have hlen := chainOk_of_length (r := [0]) (hp.chainOk hpxp hp.pxr_of_high hp.pxs_of_q) (IUse.reasons_exact.mp hi)
  simp only [wf_vslide, Ent.bare, Bool.and_eq_true]
  exact ⟨⟨⟨⟨FUse.reasons_v.mp hd, FUse.reasons_v.mp hs⟩, FUse.reasons_v.mp ht⟩, hp.legal hsel⟩, hlen⟩

/-! ## Primaries 0x0A and 0x0B -/

theorem vcvt_sound : (entry1b 0x0A 0).Sound true := by
  refine Ent.Sound.look ⟨fun p hp => (inRange_atP hp).append (inRange_selBad hp), fun p hp _ hr => ⟨?_, rfl⟩⟩
  obtain ⟨-, -, -, -, hd, hs, -, hmore⟩ := Ent.reasons_eq_nil.mp hr
  obtain ⟨hty, hsel⟩ := List.append_eq_nil_iff.mp hmore
  have hty' := atP_eq_nil.mp hty
  simp only [Bool.or_eq_false_iff] at hty'
  obtain ⟨hgroup, hne⟩ := hty'
  simp only [wf_vcvt, VUn.ok, Ent.bare, Bool.and_eq_true]
  exact ⟨⟨by simpa [Parts.vUn] using hgroup, by simpa [Parts.vUn] using hne⟩, ⟨FUse.reasons_v.mp hd, FUse.reasons_v.mp hs⟩, hp.legal hsel⟩

/-- The type of VPACK is floating where its destination is no integer format (R210). -/
theorem packOf_isFloat {ty : VTy} {n : Nat} (x : PackFmt) :
    packOf ty n = some x → (match x with | .s16 | .s8 | .s4 | .n16 | .n8 => false | _ => true) = ty.isFloat := by
  intro h
  unfold packOf at h
  split at h <;> cases h <;> rfl

theorem vpack_sound : (entry1b 0x0A 1).Sound true := by
  refine eTri_sound fun p _ _ hok h => ⟨?_, rfl⟩
  obtain ⟨x, hx⟩ := Option.isSome_iff_exists.mp hok
  simp only [hx, Option.getD_some]
  exact (congrArg p.tri.ok (packOf_isFloat x hx)).trans h

/-- The type of VUNPK is floating where its source is (R211), which has at most eight parts. -/
theorem unpkOf_isFloat {ty : VTy} {n : Nat} {x : UnpkFmt} (h : unpkOf ty n = some x) : x.isFloat = ty.isFloat ∧ x.parts ≤ 8 := by
  unfold unpkOf at h
  split at h <;> cases h <;> exact ⟨rfl, by decide⟩

theorem vunpk_sound : (entry1b 0x0A 2).Sound true := by
  refine Ent.Sound.look ⟨fun p hp => ((inRange_atP hp).append (inRange_selBad hp)).append (inRange_atB hp (by decide)),
    fun p hp hpxp hr => ⟨?_, rfl⟩⟩
  obtain ⟨-, -, -, hi, hd, hs, -, hmore⟩ := Ent.reasons_eq_nil.mp hr
  obtain ⟨h12, hpart⟩ := List.append_eq_nil_iff.mp hmore
  obtain ⟨hfmt, hsel⟩ := List.append_eq_nil_iff.mp h12
  obtain ⟨x, hx⟩ : ∃ x, unpkOf p.ty p.qual.toNat = some x := by
    simpa [Option.isNone_eq_false_iff, Option.isSome_iff_exists] using atP_eq_nil.mp hfmt
  obtain ⟨hflt, hparts⟩ := unpkOf_isFloat hx
  have hn : immN p.pxi < x.parts := by simpa [hx] using hpart
  have hmod : immN p.pxi % 8 = immN p.pxi := Nat.mod_eq_of_lt (by omega)
  have hlen := chainOk_of_length (r := [0]) (hp.chainOk hpxp hp.pxr_of_high_ds hp.pxs_of_q) (IUse.reasons_exact.mp hi)
  simp only [wf_vunpk, Ent.bare, hx, Option.getD_some, Bool.and_eq_true, decide_eq_true_eq, BitVec.toNat_ofNat]
  exact ⟨⟨⟨⟨hmod.symm ▸ hn, FUse.reasons_v.mp hd⟩, FUse.reasons_v.mp hs⟩, hflt ▸ hp.legal hsel⟩, hlen⟩

theorem vscal_sound : (entry1b 0x0A 3).Sound true := by
  refine Ent.Sound.look ⟨fun p hp => (inRange_atP hp).append (inRange_selBad hp), fun p hp hpxp hr => ⟨?_, rfl⟩⟩
  obtain ⟨-, -, -, -, hd, hs, ht, hmore⟩ := Ent.reasons_eq_nil.mp hr
  obtain ⟨hty, hsel⟩ := List.append_eq_nil_iff.mp hmore
  refine Bool.and_eq_true_iff.mpr ⟨by simpa [Ent.bare, Parts.vBin] using hty, VBin.ok_iff.mpr ?_⟩
  exact ⟨FUse.reasons_v.mp hd, FUse.reasons_v.mp hs, hp.legal hsel, hp.fits hpxp, isV_src2_t (FUse.reasons_v.mp ht), fun _ => rfl⟩

/-- The selector is legal under the type that a whole m6 says. -/
theorem tri_ok_of_m6 {p : Parts} {n : Nat} {x : BitVec 6} (h : p.tri.ok p.ty.isFloat = true) (hm : p.m6.toNat = n) (hx : x.toNat = n) :
    p.tri.ok (vtyOf (x.extractLsb' 3 3)).isFloat = true := by
  rwa [Parts.ty, BitVec.eq_of_toNat_eq (hm.trans hx.symm)] at h

theorem vdot4_sound : (entry1b 0x0B 0).Sound true := by
  refine eTri_sound fun p _ _ hok h => ⟨?_, rfl⟩
  obtain h1 | h1 | h1 | h1 := of_decide_eq_true hok
  · simp only [h1]; exact tri_ok_of_m6 (x := 0x30) h h1 rfl
  · simp only [h1]; exact tri_ok_of_m6 (x := 0x38) h h1 rfl
  · simp only [h1]; exact tri_ok_of_m6 (x := 0) h h1 rfl
  · simp only [h1]; exact tri_ok_of_m6 (x := 1) h h1 rfl

theorem vdot8_sound : (entry1b 0x0B 1).Sound true := by
  refine eTri_sound fun p _ _ hok h => ⟨?_, rfl⟩
  obtain h1 | h1 := of_decide_eq_true hok
  · simp only [h1]; exact tri_ok_of_m6 (x := 0x30) h h1 rfl
  · simp only [h1]; exact tri_ok_of_m6 (x := 0) h h1 rfl

theorem vdot2_sound : (entry1b 0x0B 2).Sound true := by
  refine eTri_sound fun p _ _ hok h => ⟨?_, rfl⟩
  obtain h1 | h1 | h1 := of_decide_eq_true hok
  · simp only [h1]; exact tri_ok_of_m6 (x := 0x08) h h1 rfl
  · simp only [h1]; exact tri_ok_of_m6 (x := 0x10) h h1 rfl
  · simp only [h1]; exact tri_ok_of_m6 (x := 0x28) h h1 rfl

theorem vqnt_sound : (entry1b 0x0B 3).Sound true := by
  refine eTri_sound fun p hp hu hok h => ⟨?_, rfl⟩
  have hmask := hp.mask_eq_zero fun hs => (SUse.reasons_noMask.mp hu hs).2
  have hty (x : BitVec 6) (hx : x.toNat ≤ 3) : (vtyOf (x.extractLsb' 3 3)).isFloat = true := by revert x; decide
  have hflt : p.ty.isFloat = true := hty _ (of_decide_eq_true hok)
  rw [hflt] at h
  exact Bool.and_eq_true_iff.mpr ⟨beq_iff_eq.mpr hmask, h⟩

/-! ## Vector memory and the mask instructions -/

theorem vld_sound : (entry1b 0x0C f).Sound true := by
  refine Ent.Sound.look ⟨fun p hp => inRange_atB hp (by decide), fun p hp hpxp hr => ⟨?_, rfl⟩⟩
  obtain ⟨-, -, -, -, hd, -⟩ := Ent.reasons_eq_nil.mp hr
  exact Bool.and_eq_true_iff.mpr ⟨FUse.reasons_v.mp hd, hp.chainOk hpxp hp.pxr_of_high nofun⟩

theorem vst_sound : (entry1b 0x0D f).Sound true := by
  refine Ent.Sound.look ⟨fun p hp => inRange_atB hp (by decide), fun p hp hpxp hr => ⟨?_, rfl⟩⟩
  obtain ⟨-, -, -, -, hd, -⟩ := Ent.reasons_eq_nil.mp hr
  exact Bool.and_eq_true_iff.mpr ⟨FUse.reasons_v.mp hd, hp.chainOk hpxp hp.pxr_of_high nofun⟩

theorem vxSize_b4 : vxSize f = .b4 → f = 0 := by
  unfold vxSize
  split
  · exact fun _ => ‹_›
  · split <;> exact nofun

theorem vldx_sound : (entry1b 0x0E f).Sound true := by
  simp only [entry1b]
  split
  · exact sound_noF
  refine Ent.Sound.look ⟨fun p hp => inRange_atP hp, fun p _ _ hr => ⟨?_, rfl⟩⟩
  obtain ⟨-, -, -, -, hd, -, ht, hmore⟩ := Ent.reasons_eq_nil.mp hr
  have hsx : (p.m6.getLsbD 4 && vxSize f == .b4) = false := by
    have h4 : (p.m6.getLsbD 4 && f == 0) = false := atP_eq_nil.mp hmore
    by_cases hsz : vxSize f = .b4
    · have hf := vxSize_b4 hsz
      rw [hf] at h4 ⊢
      exact h4
    · rw [beq_eq_false_iff_ne.mpr hsz, Bool.and_false]
  simp only [wf_vldx, Ent.bare, Bool.and_eq_true]
  exact ⟨⟨FUse.reasons_v.mp hd, FUse.reasons_v.mp ht⟩, (Bool.not_eq_true' _).mpr hsx⟩

theorem vstx_sound : (entry1b 0x0F f).Sound true := by
  simp only [entry1b]
  split
  · exact sound_noF
  refine Ent.Sound.look ⟨fun p hp => inRange_nil, fun p _ _ hr => ⟨?_, rfl⟩⟩
  obtain ⟨-, -, -, -, hd, -, ht, -⟩ := Ent.reasons_eq_nil.mp hr
  exact Bool.and_eq_true_iff.mpr ⟨FUse.reasons_v.mp hd, FUse.reasons_v.mp ht⟩

/-- The number of a `k` destination is not zero. -/
theorem kd_ne_zero {r : Reg} {fld : BitVec 4} {p : Parts} (h : FUse.reasons .kd r fld p = []) : (r.extractLsb' 0 3 != 0) = true := by
  have hr := FUse.reasons_kd.mp h
  clear h
  revert r; decide

theorem kop_sound : (entry1b 0x10 f).Sound true := by
  refine Ent.Sound.look ⟨fun p hp => inRange_nil, fun p _ _ hr => ⟨?_, rfl⟩⟩
  obtain ⟨-, -, -, -, hd, -⟩ := Ent.reasons_eq_nil.mp hr
  exact kd_ne_zero hd

theorem toMask_sound {mk : BitVec 3 → Reg → Instr} (hmk : ∀ d s, (d != 0) = true → Encodable (mk d s)) :
    (Look.ent { Ent.bare (fun p => mk (p.d.extractLsb' 0 3) p.s) with r := .hi true true, d := .kd }).Sound true := by
  refine Ent.Sound.look ⟨fun p hp => inRange_nil, fun p _ _ hr => hmk _ _ ?_⟩
  obtain ⟨-, -, -, -, hd, -⟩ := Ent.reasons_eq_nil.mp hr
  exact kd_ne_zero hd

theorem fromMask_sound {mk : Reg → BitVec 3 → Instr} (hmk : ∀ d s, dstG d = true → Encodable (mk d s)) :
    (Look.ent { Ent.bare (fun p => mk p.d (p.s.extractLsb' 0 3)) with r := .hi true true, d := .gd, src := .k }).Sound true := by
  refine Ent.Sound.look ⟨fun p hp => inRange_nil, fun p _ _ hr => hmk _ _ ?_⟩
  obtain ⟨-, -, -, -, hd, -⟩ := Ent.reasons_eq_nil.mp hr
  exact FUse.reasons_gd.mp hd

/-! ## Page 1 -/

theorem entry1b_sound {op f : Nat} : (entry1b op f).Sound true := by
  unfold entry1b
  split
  · split
    · exact vcvt_sound
    · exact vpack_sound
    · exact vunpk_sound
    · exact vscal_sound
  · split
    · exact vdot4_sound
    · exact vdot8_sound
    · exact vdot2_sound
    · exact vqnt_sound
  · exact vld_sound (f := 0)
  · exact vst_sound (f := 0)
  · exact vldx_sound (f := f)
  · exact vstx_sound (f := f)
  · exact kop_sound (f := f)
  · split
    · exact toMask_sound fun _ _ h => ⟨h, rfl⟩
    · exact fromMask_sound fun _ _ h => ⟨h, rfl⟩
    · exact toMask_sound fun _ _ h => ⟨h, rfl⟩
    · exact fromMask_sound fun _ _ h => ⟨h, rfl⟩
  · exact sound_noOp

theorem entry1_sound {op f : Nat} : (entry1 op f).Sound true := by
  unfold entry1
  split
  · split
    · exact eVUn_sound fun _ _ _ h => ⟨h, rfl⟩
    · exact vbcast_sound
    · exact vext_sound
    · exact viota_sound
  · split
    · exact vArith_sound fun _ _ h => ⟨h, rfl⟩
    · exact vArith_sound fun _ _ h => ⟨h, rfl⟩
    · exact vArith_sound fun _ _ h => ⟨h, rfl⟩
    · exact vNum_sound fun _ h => ⟨h, rfl⟩
  · split
    · exact eVTri_sound fun _ h => ⟨h, rfl⟩
    · exact eVTri_sound fun _ h => ⟨h, rfl⟩
    · exact eVTri_sound fun _ h => ⟨h, rfl⟩
    · exact sound_noF
  · split
    · exact vNum_sound fun _ h => ⟨h, rfl⟩
    · exact vNum_sound fun _ h => ⟨h, rfl⟩
    · exact eVUn_sat_sound fun _ _ h => ⟨h, rfl⟩
    · exact eVUn_sat_sound fun _ _ h => ⟨h, rfl⟩
  · split <;> exact vBits_sound fun _ h => ⟨h, rfl⟩
  · split <;> exact vShift_sound fun _ h => ⟨h, rfl⟩
  · exact eVcmp_sound
  · split
    · exact vsel_sound
    · exact vperm_sound
    · exact vslide_sound
    · exact sound_noF
  · exact eVred_sound
  · split <;> exact eVUn_f32_sound fun _ h => ⟨h, rfl⟩
  · exact entry1b_sound

end
end Sys2Proof
end

section
/-!
PROOFS. The entries of pages 2, 3 and 4 build well-formed instructions, and with them every place of the opcode map (O57).
-/

namespace Sys2Proof

section
variable {b : Bool} {f : Nat}

/-! ## Page 2 -/

theorem mcfg_sound : (entry2 0x00 0).Sound b := Ent.Sound.look ⟨fun _ _ => inRange_nil, fun _ _ _ _ => ⟨rfl, rfl⟩⟩
theorem mfmt_sound : (entry2 0x00 1).Sound b := Ent.Sound.look ⟨fun _ _ => inRange_nil, fun _ _ _ _ => ⟨rfl, rfl⟩⟩
theorem mperm_sound : (entry2 0x00 2).Sound b := Ent.Sound.look ⟨fun _ _ => inRange_nil, fun _ _ _ _ => ⟨rfl, rfl⟩⟩

/-- Under the 128-bit form the `m` register is even (R245). -/
theorem mmeta_even (m6 : BitVec 6) (x : BitVec 4) (hm : m6 &&& ~~~3 = 0) :
    let q := m6.extractLsb' 0 3
    (q.extractLsb' 0 2 == 3) = false → (q.extractLsb' 0 2 == 2 && x.getLsbD 0) = false →
      (!((if q = 0 then MetaCnt.c32 else if q = 1 then .c64 else .c128) == .c128 && (x.extractLsb' 0 3).getLsbD 0)) = true := by
  revert m6 x; decide

theorem mmeta_sound : (entry2 0x00 3).Sound b := by
  refine Ent.Sound.look ⟨fun _ hp => (inRange_atP hp).append (inRange_atB hp (by decide)), fun p _ _ hr => ⟨?_, rfl⟩⟩
  obtain ⟨hm, -, -, -, -, -, -, hmore⟩ := Ent.reasons_eq_nil.mp hr
  obtain ⟨h3, heven⟩ := List.append_eq_nil_iff.mp hmore
  exact mmeta_even p.m6 (fD p.lo) hm (atP_eq_nil.mp h3) (atB_eq_nil.mp heven)

theorem mld_sound : (entry2 0x01 0).Sound b := Ent.Sound.look ⟨fun _ _ => inRange_nil, fun _ _ _ _ => ⟨rfl, rfl⟩⟩
theorem mldc_sound : (entry2 0x01 1).Sound b := Ent.Sound.look ⟨fun _ _ => inRange_nil, fun _ _ _ _ => ⟨rfl, rfl⟩⟩
theorem mzero_sound : (entry2 0x01 2).Sound b := Ent.Sound.look ⟨fun _ _ => inRange_nil, fun _ _ _ _ => ⟨rfl, rfl⟩⟩

theorem mqst_sound : (entry2 0x01 3).Sound b := by
  refine Ent.Sound.look ⟨fun _ _ => inRange_nil, fun p _ _ hr => ⟨?_, rfl⟩⟩
  obtain ⟨-, -, -, -, hd, hs, -⟩ := Ent.reasons_eq_nil.mp hr
  exact Bool.and_eq_true_iff.mpr ⟨FUse.reasons_gd.mp hd, decide_eq_true (FUse.reasons_upTo.mp hs)⟩

theorem eMma_sound {mk : BitVec 2 → BitVec 3 → BitVec 3 → Instr} (hmk : ∀ d s q, Encodable (mk d s q)) : (eMma mk).Sound b :=
  Ent.Sound.look ⟨fun _ _ => inRange_nil, fun _ _ _ _ => hmk _ _ _⟩

theorem mmas_sound : (entry2 0x02 1).Sound b := by
  refine Ent.Sound.look ⟨fun _ hp => inRange_atB hp (by decide), fun p _ _ hr => ⟨?_, rfl⟩⟩
  obtain ⟨-, -, -, -, -, -, -, hmore⟩ := Ent.reasons_eq_nil.mp hr
  have h0 : p.qual.getLsbD 0 = p.m6.getLsbD 0 := by simp [Parts.qual]
  exact (congrArg (!·) (h0.trans (atB_eq_nil.mp hmore)))

theorem eAst_sound {mk : BitVec 2 → Reg → Reg → Instr} (hmk : ∀ d s t, Encodable (mk d s t)) : (eAst mk).Sound b :=
  Ent.Sound.look ⟨fun _ _ => inRange_nil, fun _ _ _ _ => hmk _ _ _⟩

theorem amov_sound : (entry2 0x03 2).Sound b := by
  refine Ent.Sound.look ⟨fun _ hp => inRange_atB hp (by decide), fun p _ _ hr => ⟨?_, rfl⟩⟩
  obtain ⟨-, -, -, -, hd, -⟩ := Ent.reasons_eq_nil.mp hr
  exact FUse.reasons_v.mp hd

theorem amovv_sound : (entry2 0x03 3).Sound b := by
  refine Ent.Sound.look ⟨fun _ hp => inRange_atB hp (by decide), fun p _ _ hr => ⟨?_, rfl⟩⟩
  obtain ⟨-, -, -, -, -, hs, -⟩ := Ent.reasons_eq_nil.mp hr
  exact FUse.reasons_v.mp hs

theorem entry2_sound {op f : Nat} : (entry2 op f).Sound b := by
  unfold entry2
  split
  · split
    · exact mcfg_sound
    · exact mfmt_sound
    · exact mperm_sound
    · exact mmeta_sound
  · split
    · exact mld_sound
    · exact mldc_sound
    · exact mzero_sound
    · exact mqst_sound
  · split
    · exact eMma_sound fun _ _ _ => ⟨rfl, rfl⟩
    · exact mmas_sound
    · exact eMma_sound fun _ _ _ => ⟨rfl, rfl⟩
    · exact sound_noF
  · split
    · exact eAst_sound fun _ _ _ => ⟨rfl, rfl⟩
    · exact eAst_sound fun _ _ _ => ⟨rfl, rfl⟩
    · exact amov_sound
    · exact amovv_sound
  · exact sound_noOp

/-! ## Page 3 -/

theorem eEng_sound {m6 : BitVec 6} {n : Nat} {mk : Parts → Instr} {more : Parts → List Illegal} (hmore : ∀ p : Parts, p.Chained → InRange (more p))
    (hmk : ∀ p : Parts, engOk n p.d p.s = true → Encodable (mk p)) : (eEng m6 n mk more).Sound b := by
  refine Ent.Sound.look ⟨fun p hp => (inRange_atB hp (by decide)).append (hmore p hp), fun p _ _ hr => hmk _ ?_⟩
  obtain ⟨-, -, -, -, -, -, -, h⟩ := Ent.reasons_eq_nil.mp hr
  exact (Bool.not_eq_false' ..).mp (atB_eq_nil.mp (List.append_eq_nil_iff.mp h).1)

/-- One with no further reasons. -/
theorem eEng_plain_sound {m6 : BitVec 6} {n : Nat} {mk : Parts → Instr} (hmk : ∀ p : Parts, engOk n p.d p.s = true → Encodable (mk p)) :
    (eEng m6 n mk fun _ => []).Sound b := eEng_sound (fun _ _ => inRange_nil) hmk

theorem entry3_sound {op f : Nat} : (entry3 op f).Sound b := by
  unfold entry3
  split
  · split
    · exact eEng_plain_sound fun _ h => ⟨h, rfl⟩
    · exact eEng_plain_sound fun _ h => ⟨h, rfl⟩
    · exact eEng_plain_sound fun _ h => ⟨h, rfl⟩
    · exact eEng_sound (fun _ hp => inRange_atP hp) fun _ h => ⟨h, rfl⟩
  · split
    · exact eEng_plain_sound fun _ h => ⟨h, rfl⟩
    · exact eEng_plain_sound fun _ h => ⟨h, rfl⟩
    · exact eEng_plain_sound fun _ h => ⟨h, rfl⟩
    · exact sound_noF
  · split
    · exact eEng_plain_sound fun _ h => ⟨h, rfl⟩
    · exact eEng_plain_sound fun _ h => ⟨h, rfl⟩
    · exact eEng_plain_sound fun _ h => ⟨h, rfl⟩
    · exact sound_noF
  · exact sound_noOp

/-! ## Page 4 -/

/-- Without PXR the registers of a binary floating-point instruction are low. -/
theorem fBin_ok {p : Parts} (hp : p.Chained) (hd : dstG p.d = true) :
    (dstG p.fBin.d && (p.fBin.src.isSome || (low p.fBin.d && low p.fBin.s))) = true := by
  refine Bool.and_eq_true_iff.mpr ⟨hd, ?_⟩
  by_cases hr : p.pxr.isSome = true
  · simp [Parts.fBin, hr]
  · obtain ⟨hdl, hsl, -⟩ := hp.low_of_none (by simpa using hr)
    simp [Parts.fBin, hdl, hsl]

theorem eF2_sound {mk : FBin → Instr} (hmk : ∀ o, (dstG o.d && (o.src.isSome || (low o.d && low o.s))) = true → Encodable (mk o)) :
    (eF2 mk).Sound b := by
  refine Ent.Sound.look ⟨fun _ _ => inRange_nil, fun p hp _ hr => hmk _ ?_⟩
  obtain ⟨-, -, -, -, hd, -⟩ := Ent.reasons_eq_nil.mp hr
  exact fBin_ok hp (FUse.reasons_gd.mp hd)

theorem eF1_sound {mk : FUn → Instr} (hmk : ∀ o, dstG o.d = true → Encodable (mk o)) : (eF1 mk).Sound b := by
  refine Ent.Sound.look ⟨fun _ _ => inRange_nil, fun p _ _ hr => hmk _ ?_⟩
  obtain ⟨-, -, -, -, hd, -⟩ := Ent.reasons_eq_nil.mp hr
  exact FUse.reasons_gd.mp hd

theorem fma_sound (hf : f < 2) : (entry4 0x02 f).Sound b := by
  simp only [entry4, if_pos hf]
  refine Ent.Sound.look ⟨fun _ _ => inRange_nil, fun p _ _ hr => ⟨?_, rfl⟩⟩
  obtain ⟨-, -, -, -, hd, -⟩ := Ent.reasons_eq_nil.mp hr
  exact FUse.reasons_gd.mp hd

theorem fcmp_sound (hf : f < 2) : (entry4 0x04 f).Sound b := by
  simp only [entry4, if_pos hf]
  refine Ent.Sound.look ⟨fun _ _ => inRange_nil, fun p hp _ hr => ⟨?_, rfl⟩⟩
  obtain ⟨-, -, -, -, hd, -⟩ := Ent.reasons_eq_nil.mp hr
  exact fBin_ok hp (FUse.reasons_gd.mp hd)

/-- What f and m6 select is a combination of formats (R192). -/
theorem cvtOf_ok {x : BitVec 2} {m6 : BitVec 6} {k : CvtKind} (h : cvtOf x m6 = some k) : k.ok = true := by
  unfold cvtOf at h
  dsimp only at h
  split at h
  · cases h; rfl
  · cases h; rfl
  · cases h; rfl
  · cases h; rfl
  · split at h
    · cases h
    · cases h; rfl
  · cases h

theorem fcvt_sound : (entry4 0x05 f).Sound b := by
  refine Ent.Sound.look ⟨fun _ hp => inRange_atP hp, fun p _ _ hr => ⟨?_, rfl⟩⟩
  obtain ⟨-, -, -, -, hd, -, -, hmore⟩ := Ent.reasons_eq_nil.mp hr
  obtain ⟨k, hk⟩ : ∃ k, cvtOf p.f p.m6 = some k := by
    simpa [Option.isNone_eq_false_iff, Option.isSome_iff_exists] using atP_eq_nil.mp hmore
  simp only [wf_fcvt, Ent.bare, hk, Option.getD_some]
  exact Bool.and_eq_true_iff.mpr ⟨FUse.reasons_gd.mp hd, cvtOf_ok hk⟩

theorem entry4_sound {op f : Nat} : (entry4 op f).Sound b := by
  unfold entry4
  split
  · split <;> exact eF2_sound fun _ h => ⟨h, rfl⟩
  · split <;> exact eF2_sound fun _ h => ⟨h, rfl⟩
  · split
    · next hf => simpa only [entry4, if_pos hf] using fma_sound hf
    · exact eF1_sound fun _ h => ⟨h, rfl⟩
  · split <;> exact eF2_sound fun _ h => ⟨h, rfl⟩
  · split
    · next hf => simpa only [entry4, if_pos hf] using fcmp_sound hf
    · exact eF1_sound fun _ h => ⟨h, rfl⟩
  · exact fcvt_sound (f := 0)
  · exact sound_noOp
end

/-! ## The opcode map -/

/-- Every entry builds well-formed instructions from a chain that it accepts. -/
theorem look_sound {page op f : Nat} : (look page op f).Sound (page != 0) := by
  unfold look
  split
  · exact entry0_sound
  · exact entry1_sound
  · exact entry2_sound
  · exact entry3_sound
  · exact entry4_sound
  · exact sound_noPage

/-- On the pages above 0 there is a PXP. -/
theorem Parts.Chained.pxp_of_page {p : Parts} (h : p.Chained) (hpage : (p.page.toNat != 0) = true) : p.pxp.isSome = true := by
  by_contra hn
  have h0 := (h.pxp (by simpa using hn)).1
  simp [h0] at hpage

/-- A chain is an instruction that can be encoded, or has reasons of R40. -/
theorem instr_sound {p : Parts} (hp : p.Chained) : (∀ i, p.instr = .ok i → Encodable i) ∧ ∀ l, p.instr = .error l → InRange l := by
  have hsound : (look p.page.toNat p.op.toNat p.f.toNat).Sound (p.page.toNat != 0) := look_sound
  unfold Parts.instr
  generalize look p.page.toNat p.op.toNat p.f.toNat = l at hsound
  cases l with
  | noPage => exact ⟨fun _ h => by (cases h), fun _ h => Except.error.inj h ▸ inRange_nil⟩
  | noOp | noF => exact ⟨fun _ h => by (cases h), fun _ h => Except.error.inj h ▸ inRange_one (by decide) hp.base⟩
  | ent e =>
    have he := hsound e rfl
    dsimp only
    split
    · next hr => exact ⟨fun i h => Except.ok.inj h ▸ he.build p hp hp.pxp_of_page (List.isEmpty_iff.mp hr), fun _ h => by cases h⟩
    · exact ⟨fun _ h => by (cases h), fun _ h => Except.error.inj h ▸ he.reasons hp⟩

/-- What the decoder answers: an instruction that can be encoded, with its number of words, or a reason of R40. -/
theorem decodeWords_sound {ws : List IWord} :
    (∀ i n, decodeWords ws = .ok (i, n) → Encodable i ∧ 1 ≤ n ∧ n ≤ 5 ∧ n ≤ ws.length) ∧ ∀ v, decodeWords ws = .error v → v.InRange := by
  obtain ⟨hparts, hreasons⟩ := scan_sound (ws := ws) (last := 0) before_zero (Nat.zero_add 4)
  unfold decodeWords
  dsimp only
  split
  · exact ⟨fun _ _ h => by (cases h), fun _ h => Except.error.inj h ▸ inRange_lowest hreasons⟩
  · next p hp =>
    obtain ⟨hchain, hlen⟩ := hparts p hp
    obtain ⟨hok, herr⟩ := instr_sound hchain
    have hbase := hchain.base
    split
    · next i hi _ =>
      refine ⟨fun _ _ h => ?_, fun _ h => by cases h⟩
      obtain ⟨rfl, rfl⟩ := Prod.mk.inj (Except.ok.inj h)
      exact ⟨hok i hi, by omega, by omega, by omega⟩
    · next v _ hv => exact ⟨fun _ _ h => by (cases h), fun _ h => Except.error.inj h ▸ hreasons v (mem_of_lowest hv)⟩
    · next l hl => exact ⟨fun _ _ h => by (cases h), fun _ h => Except.error.inj h ▸ inRange_lowest (hreasons.append (herr l hl))⟩

/-- An instruction that can be encoded has words that decode to it. -/
theorem Encodable.decodes {i : Instr} (h : Encodable i) : ∃ e, encode i = some e ∧ decodeWords e = .ok (i, e.length) := by
  obtain ⟨e, he⟩ := Option.isSome_iff_exists.mp h.2
  have hd := (decodes_encode i h.1 e he).2 []
  rw [List.append_nil] at hd
  exact ⟨e, he, hd⟩

/-- Settles O57: what the scan finds has no fields of absent words, so that the entry of the opcode map builds a well-formed instruction of it or
has a reason against it. -/
theorem decodedIsWellFormed : Obligations.DecodedIsWellFormed := by
  unfold Obligations.DecodedIsWellFormed
  intro ws
  obtain ⟨hok, herr⟩ := decodeWords_sound (ws := ws)
  cases h : decodeWords ws with
  | ok r =>
    obtain ⟨i, n⟩ := r
    obtain ⟨henc, hpos, hle, hlen⟩ := hok i n h
    exact ⟨henc.1, hpos, hle, hlen, henc.decodes⟩
  | error v => exact herr v h

end Sys2Proof
end

section
/-!
PROOFS. Reading and writing the registers of the slot in its turn (O59): `g0`, the plain registers, the ports and the branch-outcome queue.
-/

namespace Sys2Proof.Machine

variable {s : State} {r y : Reg} {x : Word}

/-! ## Which rule a register number has -/

theorem readG_eq_readPlain (hport : isPort r = false) (h0 : r ≠ 0) : readG r = readPlain r := by
  have h60 : r ≠ 60 := fun e => by rw [e] at hport; cases hport
  rw [readG, if_neg h0, if_neg h60, hport]
  rfl

theorem readSync_eq_readG (h : (isPort r || alwaysFull r) = true) : readSync r = readG r := by simp [readSync, h]

theorem readSync_eq_bind (h : (isPort r || alwaysFull r) = false) :
    readSync r = (readPlain r >>= fun v => modS (fun s => s.modMe (fun c => { c with gFull := c.gFull &&& ~~~(1#64 <<< r.toNat) })) >>= fun _ => pure v) := by
  simp [readSync, h]

theorem writeG_eq_plain (hport : isPort r = false) (h0 : r ≠ 0) :
    writeG r x s = if s.me.gPend.getLsbD r.toNat then .error .park else .ok ((), s.modMe fun c => c.setG r x) := by
  have h60 : r ≠ 60 := fun e => by rw [e] at hport; cases hport
  rw [writeG, if_neg h0, if_neg h60, hport]
  rfl

/-- The registers 56 to 59 are the ports. -/
theorem port_of_toNat {k : Fin 4} (h : r.toNat = 56 + k) : isPort r = true ∧ r ≠ 0 ∧ r ≠ 60 ∧ portOf r = k := by
  have hk := k.isLt
  refine ⟨?_, fun e => ?_, fun e => ?_, Fin.ext ?_⟩
  · simp [isPort, h]; omega
  · rw [e] at h
    exact absurd h (Nat.ne_of_lt (by omega : 0 < 56 + k.val))
  · rw [e] at h
    exact absurd h (Nat.ne_of_gt (by omega : 56 + k.val < 60))
  · simp [portOf, h]

theorem readG_port {k : Fin 4} (h : r.toNat = 56 + k) : readG r = popPort k := by
  obtain ⟨hport, h0, h60, hk⟩ := port_of_toNat h
  rw [readG, if_neg h0, if_neg h60, if_pos hport, hk]

theorem writeG_port {k : Fin 4} (h : r.toNat = 56 + k) : writeG r x = sendPort k [x] := by
  obtain ⟨hport, h0, h60, hk⟩ := port_of_toNat h
  rw [writeG, if_neg h0, if_neg h60, if_pos hport, hk]

/-! ## Plain registers -/

theorem readPlain_empty (hf : alwaysFull r = false) (he : s.me.gFull.getLsbD r.toNat = false) : readPlain r s = .error .park := by
  simp [readPlain, hf, he]

theorem readPlain_poisoned (hf : alwaysFull r = true ∨ s.me.gFull.getLsbD r.toNat = true) (hp : s.me.gPoison.getLsbD r.toNat = true) :
    readPlain r s = .error (.trap .memErr (BitVec.ofNat 64 (2 ^ 63 + r.toNat)) 7) := by
  have hn : (!alwaysFull r && !s.me.gFull.getLsbD r.toNat) = false := by obtain h | h := hf <;> simp [h]
  simp [readPlain, hn, hp]

theorem readPlain_full (hf : alwaysFull r = true ∨ s.me.gFull.getLsbD r.toNat = true) (hp : s.me.gPoison.getLsbD r.toNat = false) :
    readPlain r s = .ok (s.me.g[r.toNat], s) := by
  have hn : (!alwaysFull r && !s.me.gFull.getLsbD r.toNat) = false := by obtain h | h := hf <;> simp [h]
  simp [readPlain, hn, hp]

/-- A synchronised read empties its register and no other. -/
theorem readSync_full (hport : isPort r = false) (hf : alwaysFull r = false) (he : s.me.gFull.getLsbD r.toNat = true)
    (hp : s.me.gPoison.getLsbD r.toNat = false) :
    readSync r s = .ok (s.me.g[r.toNat], s.modMe fun c => { c with gFull := c.gFull &&& ~~~(1#64 <<< r.toNat) }) := by
  rw [readSync_eq_bind (by simp [hport, hf]), op_bind_ok (readPlain_full (.inr he) hp)]
  rfl

theorem readSync_empty (hport : isPort r = false) (hf : alwaysFull r = false) (he : s.me.gFull.getLsbD r.toNat = false) :
    readSync r s = .error .park := by
  rw [readSync_eq_bind (by simp [hport, hf]), op_bind_error (readPlain_empty hf he)]

/-! ### One bit of a word of bits -/

theorem getLsbD_bit {i j : Nat} (hi : i < 64) : (1#64 <<< i).getLsbD j = decide (j = i) := by
  by_cases h : j = i
  · simp [h, hi]
  · simp [h]
    omega

theorem getLsbD_or_bit {a : BitVec 64} {i j : Nat} (hi : i < 64) : (a ||| 1#64 <<< i).getLsbD j = (a.getLsbD j || decide (j = i)) := by
  rw [BitVec.getLsbD_or, getLsbD_bit hi]

theorem getLsbD_andNot_bit {a : BitVec 64} {i j : Nat} (hi : i < 64) :
    (a &&& ~~~(1#64 <<< i)).getLsbD j = (a.getLsbD j && !decide (j = i)) := by
  rw [BitVec.getLsbD_and, BitVec.getLsbD_not, getLsbD_bit hi]
  by_cases hj : j < 64
  · simp [hj]
  · simp [BitVec.getLsbD_of_ge a j (by omega)]

/-- A register written reads as the value. -/
theorem readG_setG (hport : isPort r = false) (h0 : r ≠ 0) :
    readG r (s.modMe fun c => c.setG r x) = .ok (x, s.modMe fun c => c.setG r x) := by
  have hfull : (s.modMe fun c => c.setG r x).me.gFull.getLsbD r.toNat = true := by simp [getLsbD_or_bit r.isLt]
  have hpoison : (s.modMe fun c => c.setG r x).me.gPoison.getLsbD r.toNat = false := by simp [getLsbD_andNot_bit r.isLt]
  rw [readG_eq_readPlain hport h0, readPlain_full (.inr hfull) hpoison]
  simp

/-- Every other register stays as it was. -/
theorem setG_other (c : Ctx) (h : y ≠ r) :
    (c.setG r x).g[y.toNat] = c.g[y.toNat] ∧ (c.setG r x).gFull.getLsbD y.toNat = c.gFull.getLsbD y.toNat ∧
      (c.setG r x).gPend.getLsbD y.toNat = c.gPend.getLsbD y.toNat ∧ (c.setG r x).gPoison.getLsbD y.toNat = c.gPoison.getLsbD y.toNat := by
  have hne : y.toNat ≠ r.toNat := fun e => h (BitVec.eq_of_toNat_eq e)
  simp [getLsbD_or_bit r.isLt, getLsbD_andNot_bit r.isLt, hne, Vector.getElem_set_ne _ _ hne.symm]

/-! ## Ports -/

section
variable {k : Fin 4}

theorem popPort_unbound (h : s.me.streams[k].inn.bound = false) : popPort k s = .error (.trap .port 0 (portInfo false k 1)) := by
  simp only [popPort, h]
  rfl

theorem popPort_empty (hb : s.me.streams[k].inn.bound = true) (h : s.me.streams[k].inn.msgs = []) : popPort k s = .error .park := by
  simp only [popPort, hb, h]
  rfl

theorem popPort_word {m : Msg} {l : List Msg} {w : Word} {ws : List Word} (hb : s.me.streams[k].inn.bound = true)
    (h : s.me.streams[k].inn.msgs = m :: l) (hw : m.words = w :: ws) : popPort k s = .ok (w, s.popWord s.me k) := by
  simp only [popPort, hb, h, hw]
  rfl

/-- Streams changed at the place of the context in its turn. -/
theorem place_streams (hlive : s.me.live = true) (v : Vector StreamSt 4) :
    s.place { s.me with streams := v } = s.modMe fun c => { c with streams := v } := State.place_of_me hlive rfl rfl

/-- The last word of a message returns one unit of allowance to its sender (R270). -/
theorem popWord_last {m : Msg} {l : List Msg} {w : Word} (hlive : s.me.live = true) (h : s.me.streams[k].inn.msgs = m :: l) (hw : m.words = [w]) :
    s.popWord s.me k =
      { s with
        me := { s.me with streams := s.me.streams.set k { s.me.streams[k] with inn := { s.me.streams[k].inn with msgs := l } } }
        allowances := s.allowances ++ [(m.core, m.slot, m.strm)] } := by
  simp only [State.popWord, h, hw, place_streams hlive]
  rfl

/-- Another word leaves the rest of its message. -/
theorem popWord_more {m : Msg} {l : List Msg} {w v : Word} {ws : List Word} (hlive : s.me.live = true) (h : s.me.streams[k].inn.msgs = m :: l)
    (hw : m.words = w :: v :: ws) :
    s.popWord s.me k =
      { s with
        me := { s.me with
          streams := s.me.streams.set k
            { s.me.streams[k] with inn := { s.me.streams[k].inn with msgs := { m with words := v :: ws } :: l } } } } := by
  simp only [State.popWord, h, hw, place_streams hlive]
  rfl

theorem sendPort_unbound {ws : List Word} (h : s.me.streams[k].out.bound = false) :
    sendPort k ws s = .error (.trap .port 0 (portInfo false k 1)) := by
  simp only [sendPort, h]
  rfl

theorem sendPort_noAllowance {ws : List Word} (hb : s.me.streams[k].out.bound = true) (hlen : ws.length ≤ s.me.streams[k].out.wlim)
    (h : s.me.streams[k].out.allow = 0) : sendPort k ws s = .error .park := by
  simp only [sendPort, hb, h, if_neg (Nat.not_lt.mpr hlen)]
  rfl

/-- A message sent on outbound stream `k`. -/
def outMsg (s : State) (k : Fin 4) (ws : List Word) : StreamMsg :=
  { core := s.me.streams[k].out.core, slot := s.me.streams[k].out.slot, k := s.me.streams[k].out.pstrm,
    msg := { core := s.me.core, slot := s.me.slot, strm := k, words := ws }, tenid := s.me.tenid, sender := s.me.cid, pc := s.me.pc }

theorem sendPort_ok {ws : List Word} (hb : s.me.streams[k].out.bound = true) (hlen : ws.length ≤ s.me.streams[k].out.wlim)
    (h : s.me.streams[k].out.allow ≠ 0) :
    sendPort k ws s = .ok ((), { (s.modMe fun c =>
      { c with streams := c.streams.set k { s.me.streams[k] with out := { s.me.streams[k].out with allow := s.me.streams[k].out.allow - 1 } } })
      with streamQ := s.streamQ ++ [outMsg s k ws] }) := by
  simp only [sendPort, hb, if_neg (Nat.not_lt.mpr hlen), if_neg h]
  rfl
end

/-! ## The clauses -/

theorem plain_access (hport : isPort r = false) (h0 : r ≠ 0) :
    (alwaysFull r = false → s.me.gFull.getLsbD r.toNat = false → readG r s = .error .park ∧ readSync r s = .error .park) ∧
    (alwaysFull r = true ∨ s.me.gFull.getLsbD r.toNat = true →
      (s.me.gPoison.getLsbD r.toNat = true → readG r s = .error (.trap .memErr (BitVec.ofNat 64 (2 ^ 63 + r.toNat)) 7)) ∧
      (s.me.gPoison.getLsbD r.toNat = false → readG r s = .ok (s.me.g[r.toNat], s) ∧
        (alwaysFull r = false → ∃ t : State, readSync r s = .ok (s.me.g[r.toNat], t) ∧ t.me.gFull.getLsbD r.toNat = false ∧
          t.me.g = s.me.g ∧ ∀ n, n ≠ r.toNat → t.me.gFull.getLsbD n = s.me.gFull.getLsbD n) ∧
        (alwaysFull r = true → readSync r s = .ok (s.me.g[r.toNat], s)))) := by
  rw [readG_eq_readPlain hport h0]
  refine ⟨fun hf he => ⟨readPlain_empty hf he, readSync_empty hport hf he⟩, fun hfull => ⟨readPlain_poisoned hfull, fun hp => ?_⟩⟩
  have hread := readPlain_full hfull hp
  refine ⟨hread, fun hf => ?_, fun hf => ?_⟩
  · have he : s.me.gFull.getLsbD r.toNat = true := hfull.resolve_left (by simp [hf])
    refine ⟨_, readSync_full hport hf he hp, ?_, rfl, fun n hn => ?_⟩
    · simp [getLsbD_andNot_bit r.isLt]
    · simp [getLsbD_andNot_bit r.isLt, hn]
  · rw [readSync_eq_readG (by simp [hf]), readG_eq_readPlain hport h0, hread]

theorem plain_write (hport : isPort r = false) (h0 : r ≠ 0) (x : Word) :
    (s.me.gPend.getLsbD r.toNat = true → writeG r x s = .error .park) ∧
    (s.me.gPend.getLsbD r.toNat = false → ∃ t : State, writeG r x s = .ok ((), t) ∧ readG r t = .ok (x, t) ∧
      (∀ y : Reg, y ≠ r → t.me.g[y.toNat] = s.me.g[y.toNat] ∧ t.me.gFull.getLsbD y.toNat = s.me.gFull.getLsbD y.toNat ∧
        t.me.gPend.getLsbD y.toNat = s.me.gPend.getLsbD y.toNat ∧ t.me.gPoison.getLsbD y.toNat = s.me.gPoison.getLsbD y.toNat) ∧
      t.me.v = s.me.v ∧ t.me.fcs = s.me.fcs ∧ t.mem = s.mem) := by
  rw [writeG_eq_plain hport h0]
  refine ⟨fun hp => if_pos hp, fun hp => ⟨s.modMe fun c => c.setG r x, ?_, readG_setG hport h0, fun y hy => setG_other s.me hy, rfl, rfl, rfl⟩⟩
  rw [hp]
  rfl

section
variable {k : Fin 4}

theorem port_read (hlive : s.me.live = true) (hb : s.me.streams[k].inn.bound = true) {m : Msg} {l : List Msg} {w : Word} {ws : List Word}
    (hm : s.me.streams[k].inn.msgs = m :: l) (hw : m.words = w :: ws) :
    ∃ t : State, popPort k s = .ok (w, t) ∧ t.mem = s.mem ∧ t.me.g = s.me.g ∧
      (ws = [] → t.me.streams[k].inn.msgs = l ∧ t.allowances = s.allowances ++ [(m.core, m.slot, m.strm)]) ∧
      (ws ≠ [] → t.me.streams[k].inn.msgs = { m with words := ws } :: l ∧ t.allowances = s.allowances) := by
  refine ⟨_, popPort_word hb hm hw, ?_⟩
  cases ws with
  | nil =>
    rw [popWord_last hlive hm hw]
    exact ⟨rfl, rfl, fun _ => ⟨by simp, rfl⟩, fun h => absurd rfl h⟩
  | cons v vs =>
    rw [popWord_more hlive hm hw]
    exact ⟨rfl, rfl, nofun, fun _ => ⟨by simp, rfl⟩⟩

theorem port_write (hb : s.me.streams[k].out.bound = true) (hlim : 1 ≤ s.me.streams[k].out.wlim) (x : Word)
    (hallow : s.me.streams[k].out.allow ≠ 0) :
    ∃ (t : State) (m : StreamMsg), sendPort k [x] s = .ok ((), t) ∧ t.streamQ = s.streamQ ++ [m] ∧
      m.core = s.me.streams[k].out.core ∧ m.slot = s.me.streams[k].out.slot ∧ m.k = s.me.streams[k].out.pstrm ∧ m.msg.words = [x] ∧
      t.me.streams[k].out.allow = s.me.streams[k].out.allow - 1 ∧ t.me.g = s.me.g ∧ t.mem = s.mem :=
  ⟨_, outMsg s k [x], sendPort_ok hb hlim hallow, rfl, rfl, rfl, rfl, rfl, by simp, rfl, rfl⟩
end

theorem popBq_cons {b : Bool} {l : List Bool} (h : s.me.bq.q = b :: l) :
    popBq s = .ok (if b then 1 else 0, s.modMe fun c => { c with bq := { c.bq with q := l } }) := by
  simp only [popBq, h]

theorem pushBq_own {b : Bool} (hb : s.me.bq.bound = false) (hl : s.me.bq.q.length < 16) :
    pushBq b s = .ok ((), s.modMe fun c => { c with bq := { c.bq with q := c.bq.q ++ [b] } }) := by
  simp only [pushBq, hb, ge_iff_le, if_neg (Nat.not_le.mpr hl)]
  rfl

theorem bq_access (s : State) (x : Word) :
    (s.me.bq.q = [] → readG 60 s = .error .park) ∧
    (∀ (b : Bool) (l : List Bool), s.me.bq.q = b :: l →
      ∃ t : State, readG 60 s = .ok (if b then 1 else 0, t) ∧ t.me.bq.q = l ∧ t.me.g = s.me.g ∧ t.mem = s.mem) ∧
    (s.me.bq.bound = false →
      (16 ≤ s.me.bq.q.length → writeG 60 x s = .error .park) ∧
      (s.me.bq.q.length < 16 → ∃ t : State, writeG 60 x s = .ok ((), t) ∧ t.me.bq.q = s.me.bq.q ++ [x.getLsbD 0] ∧ t.mem = s.mem)) := by
  have hread : readG 60 = popBq := rfl
  have hwrite : writeG 60 x = pushBq (x.getLsbD 0) := rfl
  rw [hread, hwrite]
  refine ⟨fun h => by simp [popBq, h], fun b l h => ⟨_, popBq_cons h, rfl, rfl, rfl⟩, fun hb => ⟨fun hl => ?_, fun hl => ?_⟩⟩
  · simp [pushBq, hb, hl]
  · exact ⟨_, pushBq_own hb hl, rfl, rfl⟩

/-- Settles O59: each kind of register by its own rule. -/
theorem registerAccess : Obligations.RegisterAccess := by
  unfold Obligations.RegisterAccess
  refine ⟨fun s x => ⟨rfl, rfl⟩, fun s r x hport h0 => ?_, fun s r x k hlive hr => ?_, fun s x => bq_access s x⟩
  · obtain ⟨hempty, hfull⟩ := plain_access (s := s) hport h0
    obtain ⟨hpend, hfree⟩ := plain_write (s := s) hport h0 x
    exact ⟨hempty, hfull, hpend, hfree⟩
  · rw [readG_port hr, writeG_port hr]
    refine ⟨fun h => ?_, fun hb => ⟨popPort_empty hb, fun m l w ws hm hw => port_read hlive hb hm hw⟩, fun h => ?_, fun hb hlim =>
      ⟨sendPort_noAllowance hb hlim, port_write hb hlim x⟩⟩
    · rw [popPort_unbound h]
      simp [portInfo, Nat.mul_comm]
    · rw [sendPort_unbound h]
      simp [portInfo, Nat.mul_comm]

end Sys2Proof.Machine
end

section
/-!
PROOFS. The frame of a part of a register-only instruction (O60): what stays as it was in its context and in the state, one rule for each access to
a register.
-/

namespace Sys2Proof.Machine

/-! ## The frame of a context -/

section
variable {w : Names} {c c' c'' : Ctx}

/-- A change of what the frame leaves open beside the registers. -/
theorem Names.frame_of_open (h : c' = { c with
    pc := c'.pc, npc := c'.npc, ctrs := c'.ctrs, consumed := c'.consumed, att := c'.att, inHand := c'.inHand, wait := c'.wait,
    bubbled := c'.bubbled, issues := c'.issues, streams := c'.streams, bq := c'.bq }) : w.frame c c' := by
  rw [h]
  exact ⟨fun _ _ => ⟨rfl, rfl, rfl, fun _ => rfl⟩, fun _ _ => ⟨rfl, rfl, rfl, fun _ => rfl⟩, fun _ _ => ⟨rfl, rfl⟩, fun _ => rfl, rfl,
    BitVec.and_self, rfl⟩

theorem Names.frame_refl : w.frame c c := Names.frame_of_open rfl

theorem Names.frame_trans (h : w.frame c c') (h' : w.frame c' c'') : w.frame c c'' := by
  obtain ⟨hg, hv, hk, hf, hmode, hup, hrest⟩ := h
  obtain ⟨hg', hv', hk', hf', hmode', hup', hrest'⟩ := h'
  refine ⟨fun r hr => ?_, fun n hn => ?_, fun n hn => ?_, fun hw => (hf' hw).trans (hf hw), hmode'.trans hmode, ?_, ?_⟩
  · obtain ⟨hval, hpend, hpoison, hfull⟩ := hg r hr
    obtain ⟨hval', hpend', hpoison', hfull'⟩ := hg' r hr
    exact ⟨hval'.trans hval, hpend'.trans hpend, hpoison'.trans hpoison, fun he => (hfull' he).trans (hfull he)⟩
  · obtain ⟨hval, hpend, hpoison, hfull⟩ := hv n hn
    obtain ⟨hval', hpend', hpoison', hfull'⟩ := hv' n hn
    exact ⟨hval'.trans hval, hpend'.trans hpend, hpoison'.trans hpoison, fun he => (hfull' he).trans (hfull he)⟩
  · exact ⟨(hk' n hn).1.trans (hk n hn).1, (hk' n hn).2.trans (hk n hn).2⟩
  · calc c.fcs &&& c''.fcs = c.fcs &&& c'.fcs &&& c''.fcs := by rw [hup]
      _ = c.fcs &&& (c'.fcs &&& c''.fcs) := BitVec.and_assoc ..
      _ = c.fcs := by rw [hup', hup]
  · exact hrest'.trans (by rw [hrest])

/-- The frame keeps the place of the context. -/
theorem Names.frame_place (h : w.frame c c') : c'.live = c.live ∧ c'.core = c.core ∧ c'.slot = c.slot := by
  obtain ⟨-, -, -, -, -, -, h⟩ := h
  rw [h]
  exact ⟨rfl, rfl, rfl⟩

/-- A `g` register that the instruction names is written. -/
theorem Names.frame_setG {x : Reg} {v : Word} (hx : x ∈ w.g) : w.frame c (c.setG x v) := by
  refine ⟨fun r hr => ?_, fun _ _ => ⟨rfl, rfl, rfl, fun _ => rfl⟩, fun _ _ => ⟨rfl, rfl⟩, fun _ => rfl, rfl, BitVec.and_self, rfl⟩
  obtain ⟨hval, hfull, hpend, hpoison⟩ := setG_other (x := v) c (fun e : r = x => hr (e ▸ hx))
  exact ⟨hval, hpend, hpoison, fun _ => hfull⟩

/-- A `g` register that a synchronised read of the instruction empties. -/
theorem Names.frame_emptyG {x : Reg} (hx : x ∈ w.emptyG) : w.frame c { c with gFull := c.gFull &&& ~~~(1#64 <<< x.toNat) } := by
  refine ⟨fun r _ => ⟨rfl, rfl, rfl, fun he => ?_⟩, fun _ _ => ⟨rfl, rfl, rfl, fun _ => rfl⟩, fun _ _ => ⟨rfl, rfl⟩, fun _ => rfl, rfl,
    BitVec.and_self, rfl⟩
  have hne : r.toNat ≠ x.toNat := fun e => he (BitVec.eq_of_toNat_eq e ▸ hx)
  simp [getLsbD_andNot_bit x.isLt, hne]

/-! ### One bit of a word of 32 or of 8 bits -/

theorem getLsbD_bit_ne {m i j : Nat} (h : j ≠ i) : (1#m <<< i).getLsbD j = false := by
  rw [BitVec.getLsbD_shiftLeft, BitVec.getLsbD_one]
  simp
  omega

theorem getLsbD_or_bit_ne {m i j : Nat} {a : BitVec m} (h : j ≠ i) : (a ||| 1#m <<< i).getLsbD j = a.getLsbD j := by
  rw [BitVec.getLsbD_or, getLsbD_bit_ne h, Bool.or_false]

theorem getLsbD_andNot_bit_ne {m i j : Nat} {a : BitVec m} (h : j ≠ i) : (a &&& ~~~(1#m <<< i)).getLsbD j = a.getLsbD j := by
  rw [BitVec.getLsbD_and, BitVec.getLsbD_not, getLsbD_bit_ne h]
  by_cases hj : j < m
  · simp [hj]
  · simp [BitVec.getLsbD_of_ge a j (by omega)]

/-- A number of a vector or mask register that is not in a list differs from each of the list. -/
theorem toNat_ne_of_not_mem {l : List Reg} {n : Nat} {x : Reg} (h : BitVec.ofNat 6 n ∉ l) (hx : x ∈ l) : n ≠ x.toNat := by
  intro e
  rw [e, BitVec.ofNat_toNat, BitVec.setWidth_eq] at h
  exact h hx

/-- A vector register that the instruction names is written. -/
theorem Names.frame_setV {x : Reg} {mask : BitVec 16} {v : VWord} (hx : x ∈ w.v) (hv : isV x = true) : w.frame c (c.setV x mask v) := by
  refine ⟨fun _ _ => ⟨rfl, rfl, rfl, fun _ => rfl⟩, fun n hn => ?_, fun _ _ => ⟨rfl, rfl⟩, fun _ => rfl, rfl, BitVec.and_self, rfl⟩
  have hne := toNat_ne_of_not_mem hn hx
  have hmod : x.toNat % 32 = x.toNat := Nat.mod_eq_of_lt (of_decide_eq_true hv)
  refine ⟨?_, getLsbD_andNot_bit_ne hne, ?_, fun _ => getLsbD_or_bit_ne hne⟩
  · exact Vector.getElem_set_ne (Nat.mod_lt _ (by decide)) _ (by omega)
  · simp only [Ctx.setV]
    split
    · exact getLsbD_andNot_bit_ne hne
    · rfl

/-- A vector register that a synchronised read of the instruction empties. -/
theorem Names.frame_emptyV {x : Reg} (hx : x ∈ w.emptyV) : w.frame c { c with vFull := c.vFull &&& ~~~(1#32 <<< x.toNat) } := by
  refine ⟨fun _ _ => ⟨rfl, rfl, rfl, fun _ => rfl⟩, fun n _ => ⟨rfl, rfl, rfl, fun he => ?_⟩, fun _ _ => ⟨rfl, rfl⟩, fun _ => rfl, rfl,
    BitVec.and_self, rfl⟩
  exact getLsbD_andNot_bit_ne (toNat_ne_of_not_mem he hx)

/-- A mask register that the instruction names is written. -/
theorem Names.frame_setK {x : BitVec 3} {v : BitVec 16} (hx : 0#3 ++ x ∈ w.k) :
    w.frame c { c with k := c.k.set x.toNat v, kPoison := c.kPoison &&& ~~~(1#8 <<< x.toNat) } := by
  refine ⟨fun _ _ => ⟨rfl, rfl, rfl, fun _ => rfl⟩, fun _ _ => ⟨rfl, rfl, rfl, fun _ => rfl⟩, fun n hn => ?_, fun _ => rfl, rfl,
    BitVec.and_self, rfl⟩
  have hne : n.val ≠ x.toNat := toNat_zero_append (v := 3) x ▸ toNat_ne_of_not_mem hn hx
  exact ⟨Vector.getElem_set_ne x.isLt _ hne.symm, getLsbD_andNot_bit_ne hne⟩

/-- A word of flags of `fcs` (R144). -/
def IsFlags (f : Word) : Prop := f &&& ~~~0x1F0#64 = 0

/-- Flags are raised where the instruction may raise them. -/
theorem Names.frame_raise {f : Word} (hw : w.fcs = true) (hf : IsFlags f) : w.frame c { c with fcs := c.fcs ||| f } := by
  refine ⟨fun _ _ => ⟨rfl, rfl, rfl, fun _ => rfl⟩, fun _ _ => ⟨rfl, rfl, rfl, fun _ => rfl⟩, fun _ _ => ⟨rfl, rfl⟩, fun hn => ?_, ?_, ?_, rfl⟩
  · rw [hw] at hn; cases hn
  · show (c.fcs ||| f) &&& ~~~0x1F0#64 = c.fcs &&& ~~~0x1F0#64
    rw [BitVec.and_or_distrib_right, hf]
    exact BitVec.or_zero
  · show c.fcs &&& (c.fcs ||| f) = c.fcs
    ext i
    simp
    exact Or.inl
end

/-! ## The frame of a state -/

/-- From `s` to `t` nothing changes but the context in its turn, by its frame, the branch-outcome queues of other slots, and what goes out and comes back
on streams. -/
structure Near (w : Names) (s t : State) : Prop where
  frame : w.frame s.me t.me
  rest : t = { s with me := t.me, slots := t.slots, streamQ := t.streamQ, allowances := t.allowances }
  slots : ∀ n, Tbl.find? t.slots n = Tbl.find? s.slots n ∨
    ∃ c c' : Ctx, Tbl.find? s.slots n = some c ∧ Tbl.find? t.slots n = some c' ∧ c' = { c with bq := c'.bq }
  keyed : t.slotsOk = true

section
variable {w : Names} {s t u : State}

theorem Near.refl (h : s.slotsOk = true) : Near w s s := ⟨Names.frame_refl, rfl, fun _ => .inl rfl, h⟩

theorem Near.trans (h : Near w s t) (h' : Near w t u) : Near w s u := by
  refine ⟨Names.frame_trans h.frame h'.frame, h'.rest.trans (by rw [h.rest]), fun n => ?_, h'.keyed⟩
  obtain hn | ⟨c, c', hc, hc', heq⟩ := h.slots n
  · rw [← hn]; exact h'.slots n
  · obtain hn' | ⟨d, d', hd, hd', heq'⟩ := h'.slots n
    · exact .inr ⟨c, c', hc, hn'.trans hc', heq⟩
    · have hdc : d = c' := Option.some.inj (hd.symm.trans hc')
      exact .inr ⟨c, d', hc, hd', heq'.trans (by rw [hdc, heq])⟩

/-- The context in its turn is still in its slot. -/
theorem Near.live (h : Near w s t) : t.me.live = s.me.live := (Names.frame_place h.frame).1

theorem near_modMe {f : Ctx → Ctx} (h : s.slotsOk = true) (hf : w.frame s.me (f s.me)) : Near w s (s.modMe f) :=
  ⟨hf, rfl, fun _ => .inl rfl, h⟩

/-- The first word of a port leaves it. -/
theorem near_popWord {k : Fin 4} (hlive : s.me.live = true) (h : s.slotsOk = true) : Near w s (s.popWord s.me k) := by
  simp only [State.popWord, place_streams hlive]
  split
  · exact Near.refl h
  · split <;> exact ⟨Names.frame_of_open rfl, rfl, fun _ => .inl rfl, h⟩

/-- An entry of the table of slots stands under its own key. -/
theorem key_of_find? {n : Nat} {c : Ctx} (h : s.slotsOk = true) (hc : Tbl.find? s.slots n = some c) : n = slotKey c.core c.slot := by
  obtain ⟨-, hall⟩ := Bool.and_eq_true_iff.mp h
  simpa using List.all_eq_true.mp hall _ (Tbl.mem_of_find? hc)

/-- An entry of the table of slots changed in its branch-outcome queue alone. -/
theorem near_putSlot {n : Nat} {c c' : Ctx} (h : s.slotsOk = true) (hc : Tbl.find? s.slots n = some c) (heq : c' = { c with bq := c'.bq }) :
    Near w s { s with slots := Tbl.put s.slots n c' } := by
  obtain ⟨hsorted, hall⟩ := Bool.and_eq_true_iff.mp h
  have hkey : n = slotKey c'.core c'.slot := (key_of_find? h hc).trans (by rw [heq])
  refine ⟨Names.frame_refl, rfl, fun m => ?_, Bool.and_eq_true_iff.mpr ⟨Tbl.sorted_put _ _ hsorted, Tbl.all_put hall (by simp [hkey])⟩⟩
  by_cases hm : m = n
  · rw [hm]
    exact .inr ⟨c, c', hc, Tbl.find?_put_self _ _ _, heq⟩
  · exact .inl (Tbl.find?_put_ne _ _ hm)

/-- The branch-outcome queue of a slot of the core is changed. -/
theorem near_placeBq {slot : Nat} {c : Ctx} {q : BqSt} (hlive : s.me.live = true) (h : s.slotsOk = true) (hc : s.at? s.me.core slot = some c) :
    Near w s (s.place { c with bq := q }) := by
  unfold State.at? at hc
  split at hc
  · cases hc
    have hplace : s.place { s.me with bq := q } = s.modMe fun c => { c with bq := q } := State.place_of_me hlive rfl rfl
    rw [hplace]
    exact near_modMe h (Names.frame_of_open rfl)
  · next hme =>
    split at hc
    · next d hd =>
      split at hc
      · cases hc
        have hkey := key_of_find? h hd
        have hother : (s.me.live && s.me.core == c.core && s.me.slot == c.slot) = false := by
          simp only [slotKey, hlive, beq_self_eq_true, Bool.true_and, beq_iff_eq] at hme hkey ⊢
          simp only [Bool.and_eq_false_iff, beq_eq_false_iff_ne]
          omega
        have hplace : s.place { c with bq := q } = { s with slots := Tbl.put s.slots (slotKey s.me.core slot) { c with bq := q } } := by
          rw [hkey]
          simp only [State.place, hother]
          rfl
        rw [hplace]
        exact near_putSlot h hd rfl
      · cases hc
    · cases hc
end

end Sys2Proof.Machine
end

section
/-!
PROOFS. What the parts of a register-only instruction keep (O60): the reads and writes of registers, the gates and the checks.
-/

namespace Sys2Proof.Machine

variable {w : Names} {s : State}

section
variable {α β : Type}

/-- How a part of a register-only instruction ends: in a state within the frame, or parked, with a trap, or with its thread sent home. -/
def Framed (w : Names) (s : State) : Except Stop (α × State) → Prop
  | .ok r => Near w s r.2
  | .error (.go _) => False
  | .error _ => True

/-- A part of a meaning that stays within the frame. -/
def Frames (w : Names) (m : Op α) : Prop := ∀ s : State, s.me.live = true → s.slotsOk = true → Framed w s (m s)

theorem Frames.pure {a : α} : Frames w (pure a : Op α) := fun _ _ h => Near.refl h

theorem Frames.bind {m : Op α} {f : α → Op β} (hm : Frames w m) (hf : ∀ a, Frames w (f a)) : Frames w (m >>= f) := by
  intro s hlive h
  have hms := hm s hlive h
  rw [op_bind]
  split
  · next r e =>
    rw [e] at hms
    have hnear : Near w s r.2 := hms
    have hfr := hf r.1 r.2 (hnear.live.trans hlive) hnear.keyed
    cases hu : f r.1 r.2 with
    | ok q => rw [hu] at hfr; exact hnear.trans hfr
    | error x => rw [hu] at hfr; cases x <;> exact hfr
  · next x e => rw [e] at hms; cases x <;> exact hms

theorem Frames.ite {c : Prop} [Decidable c] {m n : Op α} (hm : Frames w m) (hn : Frames w n) : Frames w (if c then m else n) := by
  split
  · exact hm
  · exact hn

theorem frames_getS : Frames w getS := fun _ _ h => Near.refl h

theorem Frames.modMe {f : Ctx → Ctx} (hf : ∀ c, w.frame c (f c)) : Frames w (modS fun s => s.modMe f) := fun s _ h => near_modMe h (hf s.me)

theorem Frames.trapOp {c : TrapClass} {a i : Word} : Frames w (trapOp c a i : Op α) := fun _ _ _ => trivial
end

/-! ## Checks and gates -/

theorem frames_parkUntil {b : Bool} : Frames w (parkUntil b) := by
  intro s _ h
  unfold parkUntil
  split
  · exact Near.refl h
  · exact trivial

theorem frames_trapIf {b : Bool} {c : TrapClass} {addr info : Word} : Frames w (trapIf b c addr info) := by
  intro s _ h
  unfold trapIf
  split
  · exact trivial
  · exact Near.refl h

theorem frames_illegalIf {b : Bool} : Frames w (illegalIf b) := by
  intro s _ h
  unfold illegalIf
  split
  · exact trivial
  · exact Near.refl h

theorem frames_needUnit {unit : Nat} : Frames w (needUnit unit) := by
  intro s _ h
  unfold needUnit
  split
  · exact trivial
  · split
    · exact Near.refl h
    · exact trivial

theorem frames_illegalFirst {unit bad : Op Unit} (hunit : Frames w unit) : Frames w (illegalFirst unit bad) := by
  intro s hlive h
  unfold illegalFirst
  split
  · split <;> exact trivial
  · exact hunit s hlive h

theorem frames_gate {rs : List Reg} : Frames w (gate rs) := by
  intro s hlive h
  unfold gate
  split
  · exact frames_needUnit s hlive h
  · exact Near.refl h

theorem frames_modeOp : Frames w modeOp := fun _ _ h => Near.refl h

theorem frames_branchOp {a : Word} : Frames w (branchOp a) := Frames.modMe fun _ => Names.frame_of_open rfl

theorem frames_branchIf {b : Bool} {off : Word} : Frames w (branchIf b off) := by
  intro s hlive h
  unfold branchIf
  split
  · exact frames_branchOp s hlive h
  · exact Near.refl h

/-! ## Reads -/

theorem frames_readPlain {x : Reg} : Frames w (readPlain x) := by
  intro s _ h
  unfold readPlain
  split
  · exact trivial
  · split
    · exact trivial
    · exact Near.refl h

theorem frames_popPort {k : Fin 4} : Frames w (popPort k) := by
  intro s hlive h
  dsimp only [popPort]
  split
  · exact trivial
  · split
    · exact trivial
    · split
      · exact trivial
      · exact near_popWord hlive h

theorem frames_popBq : Frames w popBq := by
  intro s _ h
  dsimp only [popBq]
  split
  · exact trivial
  · exact ⟨Names.frame_of_open rfl, rfl, fun _ => .inl rfl, h⟩

theorem frames_readG {x : Reg} : Frames w (readG x) := Frames.ite .pure (.ite frames_popBq (.ite frames_popPort frames_readPlain))

theorem frames_readSync {x : Reg} (hx : x ∈ w.emptyG) : Frames w (readSync x) :=
  Frames.ite frames_readG (.bind frames_readPlain fun _ => .bind (.modMe fun _ => Names.frame_emptyG hx) fun _ => .pure)

theorem frames_readV {x : Reg} : Frames w (readV x) := by
  intro s _ h
  unfold readV
  split
  · exact trivial
  · split
    · exact trivial
    · exact Near.refl h

theorem frames_readVSync {x : Reg} (hx : x ∈ w.emptyV) : Frames w (readVSync x) :=
  Frames.bind frames_readV fun _ => .bind (.modMe fun _ => Names.frame_emptyV hx) fun _ => .pure

theorem frames_readK {x : BitVec 3} : Frames w (readK x) := by
  intro s _ h
  unfold readK
  split
  · exact Near.refl h
  · split
    · exact trivial
    · exact Near.refl h

/-! ## Writes -/

theorem frames_sendPort {k : Fin 4} {ws : List Word} : Frames w (sendPort k ws) := by
  intro s _ h
  dsimp only [sendPort]
  split
  · exact trivial
  · split
    · exact trivial
    · split
      · exact trivial
      · exact ⟨Names.frame_of_open rfl, rfl, fun _ => .inl rfl, h⟩

theorem frames_pushBq {b : Bool} : Frames w (pushBq b) := by
  intro s hlive h
  dsimp only [pushBq]
  split
  · split
    · exact trivial
    · next c hc =>
      split
      · exact trivial
      · exact near_placeBq hlive h hc
  · split
    · exact trivial
    · exact ⟨Names.frame_of_open rfl, rfl, fun _ => .inl rfl, h⟩

theorem frames_writeG {x : Reg} {v : Word} (hx : x ∈ w.g) : Frames w (writeG x v) := by
  unfold writeG
  refine Frames.ite .pure (.ite frames_pushBq (.ite frames_sendPort ?_))
  intro s _ h
  dsimp only
  split
  · exact trivial
  · exact ⟨Names.frame_setG hx, rfl, fun _ => .inl rfl, h⟩

theorem frames_freeV {x : Reg} : Frames w (freeV x) := by
  intro s _ h
  unfold freeV
  split
  · exact trivial
  · exact Near.refl h

theorem frames_writeV {x : Reg} {mask : BitVec 16} {v : VWord} (hx : x ∈ w.v) (hv : isV x = true) : Frames w (writeV x mask v) :=
  Frames.bind frames_freeV fun _ => .modMe fun _ => Names.frame_setV hx hv

theorem frames_writeK {x : BitVec 3} {v : BitVec 16} (hx : 0#3 ++ x ∈ w.k) : Frames w (writeK x v) := Frames.modMe fun _ => Names.frame_setK hx

theorem frames_raiseFlags {f : Word} (hw : w.fcs = true) (hf : IsFlags f) : Frames w (raiseFlags f) := Frames.modMe fun _ => Names.frame_raise hw hf

/-! ## Operands (R165, R187, R195) -/

/-- A source that a synchronised read may empty. -/
theorem mem_syncOf {m : SMod} {r : Reg} (h : m = .sync) : r ∈ syncOf m r := by simp [syncOf, h]

/-- The names of the instruction hold those of a source. -/
theorem frames_syncG {m : SMod} {r : Reg} (hs : syncOf m r ⊆ w.emptyG) : Frames w (if m = .sync then readSync r else readG r) := by
  split
  · next h => exact frames_readSync (hs (mem_syncOf h))
  · exact frames_readG

theorem frames_syncV {m : SMod} {r : Reg} (hs : syncOf m r ⊆ w.emptyV) : Frames w (if m = .sync then readVSync r else readV r) := by
  split
  · next h => exact frames_readVSync (hs (mem_syncOf h))
  · exact frames_readV

/-- A choice of the first part of a meaning, which the do-notation puts before the rest. -/
theorem Frames.bindIte {α β : Type} {c : Prop} [Decidable c] {m n : Op α} {f : α → Op β} (h : Frames w (if c then m else n)) (hf : ∀ a, Frames w (f a)) :
    Frames w (if c then m >>= f else n >>= f) := by
  by_cases hc : c
  · rw [if_pos hc] at h ⊢
    exact .bind h hf
  · rw [if_neg hc] at h ⊢
    exact .bind h hf

theorem frames_readS {r : Reg} {q : Pxs} {signed : Bool} (hs : syncOf q.smod r ⊆ w.emptyG) : Frames w (readS r q signed) :=
  Frames.bindIte (frames_syncG hs) fun _ => .pure

theorem frames_intOperands {o : IntBin} {signed : Bool} (hs : syncOf o.q.smod o.s ⊆ w.emptyG) : Frames w (intOperands o signed) := by
  unfold intOperands
  split
  · exact Frames.bind (frames_readS hs) fun _ => .pure
  · exact Frames.bind (frames_readS hs) fun _ => .bind frames_readG fun _ => .pure
  · exact Frames.bind (frames_readS hs) fun _ => .bind frames_readG fun _ => .pure

theorem frames_readF {dbl : Bool} {r : Reg} {m : SMod} (hs : syncOf m r ⊆ w.emptyG) : Frames w (readF dbl r m) :=
  Frames.bindIte (frames_syncG hs) fun _ => .pure

theorem frames_fltOperands {o : FBin} (hs : syncOf o.m o.s ⊆ w.emptyG) : Frames w (fltOperands o) := by
  unfold fltOperands
  split
  · exact Frames.bind (frames_readF hs) fun _ => .bind frames_readG fun _ => .pure
  · exact Frames.bind (frames_readF hs) fun _ => .bind frames_readG fun _ => .pure

theorem frames_readVS {t : VTy} {r : Reg} {q : Pxs} (hs : syncOf q.smod r ⊆ w.emptyV) : Frames w (readVS t r q) :=
  Frames.bindIte (frames_syncV hs) fun _ => .pure

theorem frames_vecOperands {o : VBin} (hs : syncOf o.q.smod o.s ⊆ w.emptyV) : Frames w (vecOperands o) := by
  unfold vecOperands
  split
  · exact Frames.bind (frames_readVS hs) fun _ => .pure
  · exact Frames.bind (frames_readVS hs) fun _ => .bind frames_readV fun _ => .pure
  · exact Frames.bind (frames_readVS hs) fun _ => .bind frames_readV fun _ => .pure

end Sys2Proof.Machine
end

section
/-!
PROOFS. Every operation of floating point raises flags of R144 and nothing else.
-/

namespace Sys2Proof.Machine

/-! ## Words of flags -/

theorem isFlags_zero : IsFlags 0 := rfl
theorem isFlags_nv : IsFlags flagNv := rfl
theorem isFlags_dz : IsFlags flagDz := rfl
theorem isFlags_of : IsFlags flagOf := rfl
theorem isFlags_uf : IsFlags flagUf := rfl
theorem isFlags_nx : IsFlags flagNx := rfl

theorem IsFlags.or {a b : Word} (ha : IsFlags a) (hb : IsFlags b) : IsFlags (a ||| b) := by
  unfold IsFlags at *
  rw [BitVec.and_or_distrib_right, ha, hb]
  rfl

theorem isFlags_if {b : Bool} {f : Word} (hf : IsFlags f) : IsFlags (flagIf b f) := by
  unfold flagIf
  split
  · exact hf
  · exact isFlags_zero

/-- Flags gathered over a list. -/
theorem isFlags_foldl {α : Type} {l : List α} {g : Word → α → Word} (hg : ∀ a x, IsFlags a → IsFlags (g a x)) {a : Word} (ha : IsFlags a) :
    IsFlags (l.foldl g a) := by
  induction l generalizing a with
  | nil => exact ha
  | cons x l ih => exact ih (hg a x ha)

/-- Flags OR-ed over a list. -/
theorem isFlags_gather {α : Type} {l : List α} {g : α → Word} (hg : ∀ x, IsFlags (g x)) : IsFlags (l.foldl (fun a x => a ||| g x) 0) :=
  isFlags_foldl (fun _ x ha => ha.or (hg x)) isFlags_zero

/-- The flags of a list together. -/
theorem isFlags_orAll {l : List Word} (hl : ∀ x ∈ l, IsFlags x) {a : Word} (ha : IsFlags a) : IsFlags (l.foldl (· ||| ·) a) := by
  induction l generalizing a with
  | nil => exact ha
  | cons x l ih =>
    obtain ⟨hx, hl⟩ := List.forall_mem_cons.mp hl
    exact ih hl (ha.or hx)

/-- A result with flags, which are flags of R144. -/
def Flagged {α : Type} (r : α × Word) : Prop := IsFlags r.2

theorem flagged_ite {α : Type} {c : Prop} [Decidable c] {a b : α × Word} (ha : Flagged a) (hb : Flagged b) : Flagged (if c then a else b) := by
  split
  · exact ha
  · exact hb

/-- A result without flags, with `nv`, and with `nv` on a condition. -/
theorem flagged_none {α : Type} {a : α} : Flagged (a, 0) := isFlags_zero
theorem flagged_nv {α : Type} {a : α} : Flagged (a, flagNv) := isFlags_nv
theorem flagged_dz {α : Type} {a : α} : Flagged (a, flagDz) := isFlags_dz
theorem flagged_ifNv {α : Type} {a : α} {b : Bool} : Flagged (a, flagIf b flagNv) := isFlags_if isFlags_nv

/-! ## Formats (R145-R150, R188-R190) -/

variable {f : Fmt} {m : Rm}

theorem flagged_round {ov : Over} {neg : Bool} {n : Nat} {e : Int} : Flagged (f.round m ov neg n e) := by
  unfold Fmt.round
  split
  · exact flagged_none
  · exact flagged_ite (isFlags_of.or isFlags_nx) ((isFlags_if isFlags_uf).or (isFlags_if isFlags_nx))

theorem flagged_enc {x : Fp} : Flagged (f.enc m x) := by
  unfold Fmt.enc
  split
  · exact flagged_ifNv
  · exact flagged_none
  · exact flagged_round

theorem flagged_conv {ns : Bool} {x : Fp} : Flagged (f.conv m ns x) := by
  unfold Fmt.conv
  split
  · dsimp only
    split
    · exact flagged_ifNv
    · split
      · exact flagged_none
      · exact flagged_nv
    · exact flagged_round
  · exact flagged_enc

theorem flagged_sum {l : List Fp} {nv : Bool} : Flagged (f.sum m l nv) := flagged_enc.or (isFlags_if isFlags_nv)

theorem flagged_add {x y : Nat} : Flagged (f.add m x y) := flagged_sum
theorem flagged_sub {x y : Nat} : Flagged (f.sub m x y) := flagged_sum
theorem flagged_mul {x y : Nat} : Flagged (f.mul m x y) := flagged_enc.or (isFlags_if isFlags_nv)
theorem flagged_fma {np nc : Bool} {p q c : Nat} : Flagged (f.fma m np nc p q c) := flagged_sum

theorem flagged_div {x y : Nat} : Flagged (f.div m x y) := by
  unfold Fmt.div
  split
  · exact flagged_ifNv
  · exact flagged_ifNv
  · exact flagged_ifNv
  · exact flagged_nv
  · exact flagged_none
  · exact flagged_none
  · split
    · exact flagged_ite flagged_nv flagged_dz
    · exact flagged_round

theorem flagged_sqrt {a : Nat} : Flagged (f.sqrt m a) := by
  unfold Fmt.sqrt
  split
  · exact flagged_ifNv
  · split
    · exact flagged_nv
    · exact flagged_none
  · split
    · exact flagged_none
    · split
      · exact flagged_nv
      · exact flagged_round

theorem flagged_minmax {isMax : Bool} {x y : Nat} : Flagged (f.minmax isMax x y) := by
  unfold Fmt.minmax
  dsimp only
  split
  · exact flagged_ifNv
  · split <;> exact flagged_ifNv

theorem flagged_compare {c : FPred} {x y : Nat} : Flagged (f.compare c x y) := by
  unfold Fmt.compare
  cases c <;> exact flagged_ifNv

theorem flagged_toIntIn {lo hi : Int} {x : Fp} : Flagged (toIntIn m lo hi x) := by
  unfold toIntIn
  split
  · exact flagged_nv
  · exact flagged_nv
  · exact flagged_ite flagged_nv (flagged_ite flagged_nv (isFlags_if isFlags_nx))

theorem flagged_ofInt {i : Int} : Flagged (f.ofInt m i) := flagged_conv

theorem flagged_cvt {k : CvtKind} {q : SMod} {x : Word} : Flagged (cvt k m q x) := by
  unfold cvt
  split
  · exact flagged_conv
  · exact flagged_conv
  · exact flagged_toIntIn
  · exact flagged_ofInt

/-! ## Approximations (R208) -/

theorem flagged_approxRcp {a : Nat} : Flagged (approxRcp a) := by
  unfold approxRcp
  split
  · exact flagged_ifNv
  · exact flagged_none
  · split
    · exact flagged_dz
    · exact flagged_round

theorem flagged_approxRsq {a : Nat} : Flagged (approxRsq a) := by
  unfold approxRsq
  split
  · exact flagged_ifNv
  · split
    · exact flagged_nv
    · exact flagged_none
  · split
    · exact flagged_dz
    · split
      · exact flagged_nv
      · exact flagged_round

theorem flagged_approxBetween {op a : Nat} {neg : Bool} {lo hi : Nat} {e : Int} : Flagged (approxBetween op a neg lo hi e) := by
  unfold approxBetween
  dsimp only
  split
  · exact flagged_round
  · exact isFlags_nx

theorem flagged_approxExp2 {a : Nat} : Flagged (approxExp2 a) := by
  unfold approxExp2
  split
  · exact flagged_ifNv
  · exact flagged_none
  · split
    · exact flagged_none
    · dsimp only
      refine flagged_ite ?_ ?_
      · exact flagged_round
      · exact flagged_approxBetween

theorem flagged_approxLog2 {a : Nat} : Flagged (approxLog2 a) := by
  unfold approxLog2
  split
  · exact flagged_ifNv
  · split
    · exact flagged_nv
    · exact flagged_none
  · split
    · exact flagged_dz
    · split
      · exact flagged_nv
      · dsimp only
        refine flagged_ite ?_ (flagged_ite ?_ ?_)
        · exact flagged_round
        · exact flagged_approxBetween
        · exact flagged_approxBetween

/-! ## Lanes (R147, R195-R214) -/

theorem flagged_onLanes {k : BitVec 16} {g : Nat → BitVec 32 × Word} (hg : ∀ i, Flagged (g i)) : Flagged (onLanes k g) := isFlags_gather hg

theorem flagged_onElems {t : VTy} {g : Nat → BitVec 32 × Word} (hg : ∀ j, Flagged (g j)) : Flagged (onElems t g) := isFlags_gather hg

/-- Elements of lanes. -/
theorem flagged_lanes {k : BitVec 16} {t : VTy} {g : Nat → Nat → BitVec 32 × Word} (hg : ∀ i j, Flagged (g i j)) :
    Flagged (onLanes k fun i => onElems t (g i)) := flagged_onLanes fun i => flagged_onElems (hg i)

theorem flagged_byType {t : VTy} {sat : Bool} {op : Fmt → Nat → Nat → Nat × Word} {g : Int → Int → Int} {x y : BitVec 32}
    (hop : ∀ f a b, Flagged (op f a b)) : Flagged (byType t sat op g x y) := by
  unfold byType
  split
  · exact hop _ _ _
  · exact flagged_none

theorem flagged_vcmpElem {t : VTy} {c : VcmpCond} {x y : BitVec 32} : Flagged (vcmpElem t c x y) := by
  unfold vcmpElem
  split
  · cases c <;> exact flagged_compare
  · cases c <;> exact flagged_none

theorem flagged_pairUp {op : Nat → Nat → Nat × Word} (hop : ∀ a b, Flagged (op a b)) : ∀ l, Flagged (pairUp op l)
  | [] => isFlags_zero
  | [_] => isFlags_zero
  | a :: b :: r => (hop a b).or (flagged_pairUp hop r)

theorem flagged_treeOf {op : Nat → Nat → Nat × Word} (hop : ∀ a b, Flagged (op a b)) {n : Nat} {l : List Nat} : Flagged (treeOf op n l) := by
  induction n generalizing l with
  | zero => exact flagged_none
  | succ n ih => exact (flagged_pairUp hop l).or ih

theorem flagged_vredF {op : VredOp} {k : BitVec 16} {a : VWord} : Flagged (vredF op m k a) := by
  unfold vredF
  cases op with
  | add => exact flagged_treeOf fun _ _ => flagged_add
  | max => exact flagged_treeOf fun _ _ => flagged_minmax
  | min => exact flagged_treeOf fun _ _ => flagged_minmax
  | xadd => exact flagged_sum

theorem flagged_vcvtElem {src dst : VTy} {x : BitVec 32} : Flagged (vcvtElem src dst m x) := by
  unfold vcvtElem
  split
  · dsimp only
    split
    · exact flagged_conv
    · exact flagged_toIntIn
  · split
    · exact flagged_ofInt
    · exact flagged_none

theorem flagged_packElem {g : PackFmt} {x : BitVec 32} : Flagged (packElem g m x) := by
  cases g with
  | bf16 | f16 | e4m3 | e5m2 | e2m1 | e4m3ns | e5m2ns => exact flagged_conv
  | s16 | s8 | s4 | n16 | n8 => exact flagged_none

theorem flagged_unpkElem {g : UnpkFmt} {x : Nat} : Flagged (unpkElem g x) := by
  cases g with
  | bf16 | f16 | e4m3 | e5m2 | e2m1 => exact flagged_conv
  | s16 | s8 | s4 | n16 | n8 | n4 => exact flagged_none

theorem flagged_scalB {x : BitVec 32} {y : Int} : Flagged (scalB m x y) := flagged_enc

theorem flagged_quantise {g : QntFmt} {xs : List Nat} : Flagged (quantise g xs) := by
  unfold quantise
  extract_lets vs bad a e scale rs codes fl
  have hrs : ∀ x ∈ rs.map Prod.snd, IsFlags x := by
    intro x hx
    obtain ⟨r, hr, rfl⟩ := List.mem_map.mp hx
    obtain ⟨v, -, rfl⟩ := List.mem_map.mp hr
    refine flagged_ite flagged_none ?_
    split
    · exact flagged_conv
    · exact flagged_none
  have hfl : IsFlags fl := by
    dsimp only [fl]
    split
    · exact isFlags_if isFlags_nv
    · exact isFlags_orAll hrs isFlags_zero
  exact hfl

end Sys2Proof.Machine
end

section
/-!
PROOFS. The frame of every register-only instruction (O60): each meaning from the rules of its parts, and each way its turn may end.
-/

namespace Sys2Proof.Machine

/-! ## Integer instructions (R165-R175) -/

section
variable {o : IntBin} {d r : Reg} {q : Pxs} {p : Pxi}

theorem mem_self {x : Reg} : x ∈ [x] := List.mem_singleton_self x

theorem sub_self {l : List Reg} : l ⊆ l := List.Subset.refl l

theorem frames_intBin {signed : Bool} {f : Word → Word → Word} : Frames (intNames [o.d] (syncOf o.q.smod o.s)) (intBin signed f o) :=
  Frames.bind frames_gate fun _ => .bind (frames_intOperands sub_self) fun _ => frames_writeG mem_self

theorem frames_intUn_reg {f : Word → Word} : Frames (intNames [d] (syncOf q.smod r)) (intUn f { d := d, src := .reg r q }) :=
  Frames.bind frames_gate fun _ => .bind (frames_readS sub_self) fun _ => frames_writeG mem_self

theorem frames_intUn_imm {f : Word → Word} : Frames (intNames [d] []) (intUn f { d := d, src := .imm p }) :=
  Frames.bind frames_gate fun _ => .bind .pure fun _ => frames_writeG mem_self
end

/-- A turn that issues a meaning within the frame of the names. -/
def IssuesWithin (i : Instr) (s : State) (w : Names) : Prop := ∃ m, exec i s = issueOp m s ∧ Frames w m

section
variable {s : State}

theorem sel_within {o : IntBin} : IssuesWithin (.sel o) s (intNames [o.d] (syncOf o.q.smod o.s)) := by
  refine ⟨_, rfl, Frames.bind frames_gate fun _ => .bind (frames_readS sub_self) fun _ => ?_⟩
  split
  · exact Frames.bind .pure fun _ => .bind frames_readG fun _ => frames_writeG mem_self
  · exact Frames.bind frames_readG fun _ => .bind frames_readG fun _ => frames_writeG mem_self
  · exact Frames.bind .pure fun _ => .bind frames_readG fun _ => frames_writeG mem_self

theorem sext_within {o : ExtOp} : IssuesWithin (.sext o) s (intNames [o.d] (syncOf o.q.smod o.s)) :=
  ⟨_, rfl, Frames.bind frames_gate fun _ => .bind (frames_readS sub_self) fun _ => frames_writeG mem_self⟩

theorem zext_within {o : ExtOp} : IssuesWithin (.zext o) s (intNames [o.d] (syncOf o.q.smod o.s)) :=
  ⟨_, rfl, Frames.bind frames_gate fun _ => .bind (frames_readS sub_self) fun _ => frames_writeG mem_self⟩

theorem addImm_within {o : RegImm} : IssuesWithin (.addImm o) s (intNames [o.d] []) :=
  ⟨_, rfl, Frames.bind frames_gate fun _ => .bind frames_readG fun _ => frames_writeG mem_self⟩

theorem movImm_within {o : RegImm} : IssuesWithin (.movImm o) s (intNames [o.d] []) :=
  ⟨_, rfl, Frames.bind frames_gate fun _ => frames_writeG mem_self⟩

theorem extb_within {o : FieldOp} : IssuesWithin (.extb o) s (intNames [o.d] (syncOf o.q.smod o.s)) :=
  ⟨_, rfl, Frames.bind frames_gate fun _ => .bind (frames_readS sub_self) fun _ => frames_writeG mem_self⟩

theorem insb_within {o : FieldOp} : IssuesWithin (.insb o) s (intNames [o.d] (syncOf o.q.smod o.s)) :=
  ⟨_, rfl, Frames.bind frames_gate fun _ => .bind (frames_readS sub_self) fun _ => .bind frames_readG fun _ => frames_writeG mem_self⟩

theorem lea_within {o : LeaOp} : IssuesWithin (.lea o) s (intNames [o.d] []) :=
  ⟨_, rfl, Frames.bind frames_gate fun _ => .bind frames_readG fun _ => .bind frames_readG fun _ => frames_writeG mem_self⟩

theorem bnd_within {d r : Reg} {len : BndLen} : IssuesWithin (.bnd d r len) s (intNames [d] []) :=
  ⟨_, rfl, Frames.bind frames_gate fun _ => .bind frames_readG fun _ => .bind frames_readG fun _ => .bind frames_readG fun _ =>
    .bind frames_trapIf fun _ => frames_writeG mem_self⟩

/-! ## Branches, waits and control registers (R176-R186) -/

section
variable {w : Names} {d r : Reg}

theorem waitc_within {ld st cp tl : BitVec 4} : IssuesWithin (.waitc ld st cp tl) s w :=
  ⟨_, rfl, Frames.bind frames_getS fun _ => frames_parkUntil⟩

theorem call_within {i : BitVec 10} {p : Pxi} : IssuesWithin (.call i p) s (intNames [63] []) :=
  ⟨_, rfl, Frames.bind (frames_writeG mem_self) fun _ => frames_branchIf⟩

theorem bc_within {c : BcCond} {i : BitVec 4} {p : Pxi} : IssuesWithin (.bc c r i p) s w :=
  ⟨_, rfl, Frames.bind frames_gate fun _ => .bind frames_readG fun _ => frames_branchIf⟩

theorem bcmp_within {c : BcmpCond} {p : Pxi} : IssuesWithin (.bcmp c d r p) s w :=
  ⟨_, rfl, Frames.bind frames_gate fun _ => .bind frames_readG fun _ => .bind frames_readG fun _ => frames_branchIf⟩

theorem jmp_within : IssuesWithin (.jmp r) s w :=
  ⟨_, rfl, Frames.bind frames_gate fun _ => .bind frames_readG fun _ => .bind frames_trapIf fun _ => frames_branchOp⟩

theorem callr_within : IssuesWithin (.callr r) s (intNames [63] []) :=
  ⟨_, rfl, Frames.bind frames_gate fun _ => .bind frames_readG fun _ => .bind frames_trapIf fun _ =>
    .bind (frames_writeG mem_self) fun _ => frames_branchOp⟩

theorem ret_within : IssuesWithin .ret s w :=
  ⟨_, rfl, Frames.bind frames_readG fun _ => .bind frames_trapIf fun _ => frames_branchOp⟩

theorem bqb_within {sense : Bool} {i : BitVec 9} {p : Pxi} : IssuesWithin (.bqb sense i p) s w :=
  ⟨_, rfl, Frames.bind frames_gate fun _ => .bind frames_readG fun _ => frames_branchIf⟩

theorem crd_within {n : BitVec 12} : IssuesWithin (.crd d n) s (intNames [d] []) :=
  ⟨_, rfl, Frames.bind frames_gate fun _ => .bind frames_getS fun _ => frames_writeG mem_self⟩

theorem qstat_within : IssuesWithin (.qstat d r) s (intNames [d] []) :=
  ⟨_, rfl, Frames.bind frames_needUnit fun _ => .bind frames_getS fun _ => frames_writeG mem_self⟩

theorem hwait_within : IssuesWithin (.hwait r) s w :=
  ⟨_, rfl, Frames.bind (frames_illegalFirst frames_needUnit) fun _ =>
    .bind (.bind frames_readG fun _ => .bind frames_illegalIf fun _ => .pure) fun _ => .bind frames_getS fun _ => frames_parkUntil⟩

theorem hstat_within : IssuesWithin (.hstat d r) s (intNames [d] []) :=
  ⟨_, rfl, Frames.bind (frames_illegalFirst frames_needUnit) fun _ =>
    .bind (.bind frames_readG fun _ => .bind frames_illegalIf fun _ => .pure) fun _ => .bind frames_getS fun _ => frames_writeG mem_self⟩

theorem detach_within : IssuesWithin .detach s w := ⟨_, rfl, Frames.modMe fun _ => Names.frame_of_open rfl⟩

theorem trap_within : IssuesWithin (.trap r) s w :=
  ⟨_, rfl, Frames.bind frames_gate fun _ => .bind frames_readG fun _ => .trapOp⟩
end

/-! ## Floating point (R187-R192) -/

theorem frames_putF {d : Reg} {e : List Reg} {r : Nat × Word} (hr : Flagged r) : Frames (fltNames [d] e) (putF d r) :=
  Frames.bind (frames_writeG mem_self) fun _ => frames_raiseFlags rfl hr

theorem frames_fltBin {o : FBin} {f : Fmt → Rm → Nat → Nat → Nat × Word} (hf : ∀ g m x y, Flagged (f g m x y)) :
    Frames (fltNames [o.d] (syncOf o.m o.s)) (fltBin f o) :=
  Frames.bind frames_gate fun _ => .bind (frames_fltOperands sub_self) fun _ => .bind frames_modeOp fun _ => frames_putF (hf _ _ _ _)

theorem fma_within {dbl : Bool} {d r t : Reg} {m : SMod} : IssuesWithin (.fma dbl d r t m) s (fltNames [d] (syncOf m r)) :=
  ⟨_, rfl, Frames.bind frames_gate fun _ => .bind (frames_readF sub_self) fun _ => .bind frames_readG fun _ => .bind frames_readG fun _ =>
    .bind frames_modeOp fun _ => frames_putF flagged_fma⟩

theorem fsqrt_within {o : FUn} : IssuesWithin (.fsqrt o) s (fltNames [o.d] (syncOf o.m o.s)) :=
  ⟨_, rfl, Frames.bind frames_gate fun _ => .bind (frames_readF sub_self) fun _ => .bind frames_modeOp fun _ => frames_putF flagged_sqrt⟩

theorem fclass_within {o : FUn} : IssuesWithin (.fclass o) s (fltNames [o.d] (syncOf o.m o.s)) :=
  ⟨_, rfl, Frames.bind frames_gate fun _ => .bind (frames_readF sub_self) fun _ => frames_putF flagged_none⟩

theorem fcvt_within {k : CvtKind} {d r : Reg} {m : SMod} : IssuesWithin (.fcvt k d r m) s (fltNames [d] (syncOf m r)) :=
  ⟨_, rfl, Frames.bind frames_gate fun _ => .bindIte (frames_syncG sub_self) fun _ => .bind frames_modeOp fun _ =>
    .bind (frames_writeG mem_self) fun _ => frames_raiseFlags rfl flagged_cvt⟩

end

end Sys2Proof.Machine
end

section
/-!
PROOFS. The frame of the vector and mask instructions (O60, R194-R218).
-/

namespace Sys2Proof.Machine

variable {s : State}

/-! ## Destinations of well-formed lane instructions -/

theorem dst_of_vBin {imm : Bool} {o : VBin} (h : o.ok imm isV = true) : isV o.d = true := (VBin.ok_iff.mp h).1

theorem dst_of_vUn {o : VUn} (h : o.ok = true) : isV o.d = true := by
  simp only [VUn.ok, Bool.and_eq_true] at h
  exact h.1.1

theorem dst_of_vTri {o : VTri} (h : o.ok = true) : isV o.d = true := by
  simp only [VTri.ok, Bool.and_eq_true] at h
  exact h.1.1.1

theorem dst_of_tri {flt : Bool} {o : Tri} (h : o.ok flt = true) : isV o.d = true := by
  simp only [Tri.ok, Bool.and_eq_true] at h
  exact h.1.1.1

/-! ## Lane instructions by their forms -/

theorem frames_putV {d : Reg} {e : List Reg} {mask : BitVec 16} {r : VWord × Word} (hd : isV d = true) (hr : Flagged r) :
    Frames (vecNames [d] e) (putV d mask r) := Frames.bind (frames_writeV mem_self hd) fun _ => frames_raiseFlags rfl hr

theorem frames_vecBin {o : VBin} {f : Rm → BitVec 32 → BitVec 32 → BitVec 32 × Word} (hd : isV o.d = true) (hf : ∀ m x y, Flagged (f m x y)) :
    Frames (vecNames [o.d] (syncOf o.q.smod o.s)) (vecBin f o) :=
  Frames.bind frames_needUnit fun _ => .bind (frames_vecOperands sub_self) fun _ => .bind frames_readK fun _ => .bind frames_modeOp fun _ =>
    frames_putV hd (flagged_lanes fun _ _ => hf _ _ _)

theorem frames_vecUn {o : VUn} {f : Rm → BitVec 32 → BitVec 32 × Word} (hd : isV o.d = true) (hf : ∀ m x, Flagged (f m x)) :
    Frames (vecNames [o.d] (syncOf o.q.smod o.s)) (vecUn f o) :=
  Frames.bind frames_needUnit fun _ => .bind (frames_readVS sub_self) fun _ => .bind frames_readK fun _ => .bind frames_modeOp fun _ =>
    frames_putV hd (flagged_lanes fun _ _ => hf _ _)

theorem frames_vecFma {np nc : Bool} {o : VTri} (hd : isV o.d = true) :
    Frames (vecNames [o.d] (syncOf o.q.smod o.s)) (vecFma np nc o) :=
  Frames.bind frames_needUnit fun _ => .bind (frames_readVS sub_self) fun _ => .bind frames_readV fun _ => .bind frames_readV fun _ =>
    .bind frames_readK fun _ => .bind frames_modeOp fun _ => frames_putV hd (flagged_lanes fun _ _ => flagged_ite flagged_fma flagged_none)

theorem frames_vecDotI {t : VTy} {sx : Bool} {n k : Nat} {o : Tri} (hd : isV o.d = true) :
    Frames (vecNames [o.d] (syncOf o.q.smod o.s)) (vecDotI t sx n k o) :=
  Frames.bind frames_needUnit fun _ => .bind (frames_readVS sub_self) fun _ => .bind frames_readV fun _ => .bind frames_readV fun _ =>
    .bind frames_readK fun _ => frames_writeV mem_self hd

theorem frames_vecDotF {t : VTy} {f : FFmt} {n : Nat} {o : Tri} (hd : isV o.d = true) :
    Frames (vecNames [o.d] (syncOf o.q.smod o.s)) (vecDotF t f n o) :=
  Frames.bind frames_needUnit fun _ => .bind (frames_readVS sub_self) fun _ => .bind frames_readV fun _ => .bind frames_readV fun _ =>
    .bind frames_readK fun _ => .bind frames_modeOp fun _ => frames_putV hd (flagged_onLanes fun _ => flagged_sum)

/-! ## The instructions -/

theorem vbcast_reg_within {ty : VTy} {d r : Reg} {q : Pxs} {mask : BitVec 3} (hd : isV d = true) :
    IssuesWithin (.vbcast { ty := ty, d := d, src := .reg r q, mask := mask }) s { vecNames [d] [] with emptyG := syncOf q.smod r } :=
  ⟨_, rfl, Frames.bind frames_needUnit fun _ => .bindIte (frames_syncG sub_self) fun _ => .bind .pure fun _ => .bind frames_readK fun _ =>
    frames_writeV mem_self hd⟩

theorem vbcast_imm_within {ty : VTy} {d : Reg} {p : Pxi} {mask : BitVec 3} (hd : isV d = true) :
    IssuesWithin (.vbcast { ty := ty, d := d, src := .imm p, mask := mask }) s { vecNames [d] [] with emptyG := [] } :=
  ⟨_, rfl, Frames.bind frames_needUnit fun _ => .bind .pure fun _ => .bind frames_readK fun _ => frames_writeV mem_self hd⟩

theorem vext_within {o : VExtOp} : IssuesWithin (.vext o) s { vecNames [] (syncOf o.q.smod o.s) with g := [o.d] } :=
  ⟨_, rfl, Frames.bind frames_needUnit fun _ => .bind (frames_readVS sub_self) fun _ => frames_writeG mem_self⟩

theorem viota_within {ty : VTy} {d : Reg} {mask : BitVec 3} (hd : isV d = true) : IssuesWithin (.viota ty d mask) s (vecNames [d] []) :=
  ⟨_, rfl, Frames.bind frames_needUnit fun _ => .bind frames_readK fun _ => frames_writeV mem_self hd⟩

/-- The number of a `k` destination from its low bits. -/
theorem kReg_of_le (d : Reg) (h : d.toNat ≤ 7) : 0#3 ++ d.extractLsb' 0 3 = d := by revert d; decide

theorem vcmp_within {c : VcmpCond} {o : VBin} (hd : o.d.toNat ≤ 7) :
    IssuesWithin (.vcmp c o) s { vecNames [] (syncOf o.q.smod o.s) with k := [o.d] } :=
  ⟨_, rfl, Frames.bind frames_needUnit fun _ => .bind (frames_vecOperands sub_self) fun _ => .bind frames_readK fun _ =>
    .bind (frames_writeK (List.mem_singleton.mpr (kReg_of_le o.d hd))) fun _ =>
    frames_raiseFlags rfl (isFlags_foldl (fun _ _ ha => isFlags_foldl (fun _ _ hb => hb.or flagged_vcmpElem) ha) isFlags_zero)⟩

theorem vsel_within {o : VBin} (hd : isV o.d = true) : IssuesWithin (.vsel o) s (vecNames [o.d] (syncOf o.q.smod o.s)) := by
  refine ⟨_, rfl, Frames.bind frames_needUnit fun _ => .bind (frames_readVS sub_self) fun _ => ?_⟩
  split
  · exact Frames.bind frames_readV fun _ => .bind frames_readK fun _ => frames_writeV mem_self hd
  · exact Frames.bind frames_readV fun _ => .bind frames_readK fun _ => frames_writeV mem_self hd
  · exact Frames.bind .pure fun _ => .bind frames_readK fun _ => frames_writeV mem_self hd

theorem vperm_within {o : VBin} (hd : isV o.d = true) : IssuesWithin (.vperm o) s (vecNames [o.d] (syncOf o.q.smod o.s)) := by
  refine ⟨_, rfl, Frames.bind frames_needUnit fun _ => ?_⟩
  split
  · exact Frames.bind (frames_readVS sub_self) fun _ => .bind .pure fun _ => .bind frames_readK fun _ => frames_writeV mem_self hd
  · exact Frames.bind (frames_vecOperands sub_self) fun _ => .bind frames_readK fun _ => frames_writeV mem_self hd

theorem vslide_within {o : VSlideOp} (hd : isV o.d = true) : IssuesWithin (.vslide o) s (vecNames [o.d] (syncOf o.q.smod o.s)) :=
  ⟨_, rfl, Frames.bind frames_needUnit fun _ => .bind (frames_readVS sub_self) fun _ => .bind frames_readV fun _ => .bind frames_readK fun _ =>
    frames_writeV mem_self hd⟩

theorem vred_within {op : VredOp} {o : VUn} : IssuesWithin (.vred op o) s { vecNames [] (syncOf o.q.smod o.s) with g := [o.d] } :=
  ⟨_, rfl, Frames.bind frames_needUnit fun _ => .bind (frames_readVS sub_self) fun _ => .bind frames_readK fun _ => .bind frames_modeOp fun _ =>
    .ite (.bind (frames_writeG mem_self) fun _ => frames_raiseFlags rfl flagged_vredF) (frames_writeG mem_self)⟩

theorem vpack_within {f : PackFmt} {o : Tri} (hd : isV o.d = true) : IssuesWithin (.vpack f o) s (vecNames [o.d] (syncOf o.q.smod o.s)) :=
  ⟨_, rfl, Frames.bind frames_needUnit fun _ => .bind (frames_readVS sub_self) fun _ => .bind frames_readV fun _ => .bind frames_readK fun _ =>
    .bind frames_modeOp fun _ => frames_putV hd (flagged_onLanes fun _ => isFlags_gather fun _ => flagged_ite flagged_packElem flagged_none)⟩

theorem vunpk_within {f : UnpkFmt} {part : BitVec 3} {d r : Reg} {q : Pxs} (hd : isV d = true) :
    IssuesWithin (.vunpk f part d r q) s (vecNames [d] (syncOf q.smod r)) :=
  ⟨_, rfl, Frames.bind frames_needUnit fun _ => .bind (frames_readVS sub_self) fun _ => .bind frames_readK fun _ =>
    frames_putV hd (flagged_onLanes fun _ => flagged_unpkElem)⟩

theorem vdot4_within {ty : Dot4Ty} {o : Tri} (hd : isV o.d = true) : IssuesWithin (.vdot4 ty o) s (vecNames [o.d] (syncOf o.q.smod o.s)) := by
  refine ⟨_, rfl, ?_⟩
  cases ty with
  | s8 | n8 => exact frames_vecDotI hd
  | e4m3 | e5m2 => exact frames_vecDotF hd

theorem vdot8_within {ty : Dot8Ty} {o : Tri} (hd : isV o.d = true) : IssuesWithin (.vdot8 ty o) s (vecNames [o.d] (syncOf o.q.smod o.s)) := by
  refine ⟨_, rfl, ?_⟩
  cases ty with
  | s4 => exact frames_vecDotI hd
  | e2m1 => exact frames_vecDotF hd

theorem vdot2_within {ty : Dot2Ty} {o : Tri} (hd : isV o.d = true) : IssuesWithin (.vdot2 ty o) s (vecNames [o.d] (syncOf o.q.smod o.s)) := by
  refine ⟨_, rfl, ?_⟩
  cases ty with
  | bf16 | f16 => exact frames_vecDotF hd
  | s16 => exact frames_vecDotI hd

theorem vqnt_within {f : QntFmt} {o : Tri} (hd : isV o.d = true) : IssuesWithin (.vqnt f o) s (vecNames [o.d] (syncOf o.q.smod o.s)) :=
  ⟨_, rfl, Frames.bind frames_needUnit fun _ => .bind (frames_readVS sub_self) fun _ => .bind frames_readV fun _ =>
    .bind (frames_writeV mem_self hd) fun _ => frames_raiseFlags rfl flagged_quantise⟩

/-! ## Masks (R217, R218) -/

theorem kop_within {op : KopOp} {d r : BitVec 3} {t : Option (BitVec 3)} :
    IssuesWithin (.kop op d r t) s { intNames [] [] with k := [0#3 ++ d] } :=
  ⟨_, rfl, Frames.bind frames_needUnit fun _ => .bind frames_readK fun _ => .bind frames_readK fun _ => frames_writeK mem_self⟩

theorem kmovToMask_within {d : BitVec 3} {r : Reg} : IssuesWithin (.kmovToMask d r) s { intNames [] [] with k := [0#3 ++ d] } :=
  ⟨_, rfl, Frames.bind frames_needUnit fun _ => .bind frames_readG fun _ => frames_writeK mem_self⟩

theorem klow_within {d : BitVec 3} {r : Reg} : IssuesWithin (.klow d r) s { intNames [] [] with k := [0#3 ++ d] } :=
  ⟨_, rfl, Frames.bind frames_needUnit fun _ => .bind frames_readG fun _ => frames_writeK mem_self⟩

theorem kmovFromMask_within {d : Reg} {r : BitVec 3} : IssuesWithin (.kmovFromMask d r) s (intNames [d] []) :=
  ⟨_, rfl, Frames.bind frames_needUnit fun _ => .bind frames_readK fun _ => frames_writeG mem_self⟩

theorem kpop_within {d : Reg} {r : BitVec 3} : IssuesWithin (.kpop d r) s (intNames [d] []) :=
  ⟨_, rfl, Frames.bind frames_needUnit fun _ => .bind frames_readK fun _ => frames_writeG mem_self⟩

end Sys2Proof.Machine
end

section
/-!
PROOFS. Every register-only instruction stays within its names, and so does each way its turn may end (O60).
-/

namespace Sys2Proof.Machine

/-! ## Every instruction -/

section
variable {s : State}

/-- What holds with the names of an instruction holds with any names that it has. -/
theorem IssuesWithin.of_names {i : Instr} {w : Names} (h : IssuesWithin i s w) : ∀ w', some w = some w' → IssuesWithin i s w' :=
  fun _ e => Option.some.inj e ▸ h

/-- The last part of a condition. -/
theorem last_of_and {a b : Bool} (h : (a && b) = true) : b = true := (Bool.and_eq_true_iff.mp h).2

/-- The first part of a condition. -/
theorem first_of_and {a b : Bool} (h : (a && b) = true) : a = true := (Bool.and_eq_true_iff.mp h).1

theorem intUn_within {f : Word → Word} {o : IntUn} :
    Frames (intNames [o.d] (match o.src with | .reg s q => syncOf q.smod s | .imm _ => [])) (intUn f o) := by
  obtain ⟨d, src⟩ := o
  cases src with
  | reg => exact frames_intUn_reg
  | imm => exact frames_intUn_imm

theorem vbcast_within {o : VBcastOp} (hwf : (Instr.vbcast o).wf = true) :
    IssuesWithin (.vbcast o) s { vecNames [o.d] [] with emptyG := (match o.src with | .reg s q => syncOf q.smod s | .imm _ => []) } := by
  obtain ⟨ty, d, src, mask⟩ := o
  cases src with
  | reg => exact vbcast_reg_within (first_of_and (wf_vbcast_reg.symm.trans hwf))
  | imm => exact vbcast_imm_within (first_of_and (wf_vbcast_imm.symm.trans hwf))

theorem dst_of_vslide {o : VSlideOp} (hwf : (Instr.vslide o).wf = true) : isV o.d = true := by
  rw [wf_vslide] at hwf
  simp only [Bool.and_eq_true] at hwf
  exact hwf.1.1.1.1

theorem dst_of_vunpk {f : UnpkFmt} {part : BitVec 3} {d r : Reg} {q : Pxs} (hwf : (Instr.vunpk f part d r q).wf = true) : isV d = true := by
  rw [wf_vunpk] at hwf
  simp only [Bool.and_eq_true] at hwf
  exact hwf.1.1.1.2

theorem dst_of_vcmp {c : VcmpCond} {o : VBin} (hwf : (Instr.vcmp c o).wf = true) : o.d.toNat ≤ 7 := by
  have hok : o.ok o.immInt (fun d => decide (1 ≤ d.toNat) && decide (d.toNat ≤ 7)) = true := hwf
  exact of_decide_eq_true (last_of_and (VBin.ok_iff.mp hok).1)

/-- A well-formed register-only instruction issues a meaning that stays within the frame of its names (R42). -/
theorem issuesWithin_of_namesOf (i : Instr) (hwf : i.wf = true) : ∀ w, namesOf i = some w → IssuesWithin i s w := by
  cases i with
  | nop => exact IssuesWithin.of_names ⟨_, rfl, .pure⟩
  | mov o | clz o | ctz o | popc o => exact IssuesWithin.of_names ⟨_, rfl, intUn_within⟩
  | add o | sub o | and o | or o | xor o | andn o | min o | max o | minn o | maxn o | shl o | shra o | shrl o | rotl o
  | mul o | mulh o | mulhn o | div o | divn o | rem o | remn o => exact IssuesWithin.of_names ⟨_, rfl, frames_intBin⟩
  | cmp c inv o => exact IssuesWithin.of_names ⟨_, rfl, frames_intBin⟩
  | sel o => exact sel_within.of_names
  | sext o => exact sext_within.of_names
  | zext o => exact zext_within.of_names
  | addImm o => exact addImm_within.of_names
  | movImm o => exact movImm_within.of_names
  | extb o => exact extb_within.of_names
  | insb o => exact insb_within.of_names
  | lea o => exact lea_within.of_names
  | bnd d r len => exact bnd_within.of_names
  | waitc => exact waitc_within.of_names
  | br => exact IssuesWithin.of_names ⟨_, rfl, frames_branchIf⟩
  | call => exact call_within.of_names
  | bc => exact bc_within.of_names
  | bcmp => exact bcmp_within.of_names
  | jmp => exact jmp_within.of_names
  | callr => exact callr_within.of_names
  | ret => exact ret_within.of_names
  | bqb => exact bqb_within.of_names
  | crd => exact crd_within.of_names
  | qstat => exact qstat_within.of_names
  | hwait => exact hwait_within.of_names
  | hstat => exact hstat_within.of_names
  | detach => exact detach_within.of_names
  | trap => exact trap_within.of_names
  | fadd o => exact IssuesWithin.of_names ⟨_, rfl, frames_fltBin fun _ _ _ _ => flagged_add⟩
  | fsub o => exact IssuesWithin.of_names ⟨_, rfl, frames_fltBin fun _ _ _ _ => flagged_sub⟩
  | fmul o => exact IssuesWithin.of_names ⟨_, rfl, frames_fltBin fun _ _ _ _ => flagged_mul⟩
  | fdiv o => exact IssuesWithin.of_names ⟨_, rfl, frames_fltBin fun _ _ _ _ => flagged_div⟩
  | fmin o | fmax o => exact IssuesWithin.of_names ⟨_, rfl, frames_fltBin fun _ _ _ _ => flagged_minmax⟩
  | fcmp c o => exact IssuesWithin.of_names ⟨_, rfl, frames_fltBin fun _ _ _ _ => flagged_compare⟩
  | fma => exact fma_within.of_names
  | fsqrt o => exact fsqrt_within.of_names
  | fclass o => exact fclass_within.of_names
  | fcvt => exact fcvt_within.of_names
  | vmov o => exact IssuesWithin.of_names ⟨_, rfl, frames_vecUn (dst_of_vUn hwf) fun _ _ => flagged_none⟩
  | vbcast o => exact (vbcast_within hwf).of_names
  | vext o => exact vext_within.of_names
  | viota => exact (viota_within hwf).of_names
  | vadd sat o =>
    exact IssuesWithin.of_names ⟨_, rfl, frames_vecBin (dst_of_vBin (last_of_and hwf)) fun _ _ _ => flagged_byType fun _ _ _ => flagged_add⟩
  | vsub sat o =>
    exact IssuesWithin.of_names ⟨_, rfl, frames_vecBin (dst_of_vBin (last_of_and hwf)) fun _ _ _ => flagged_byType fun _ _ _ => flagged_sub⟩
  | vmul sat o =>
    exact IssuesWithin.of_names ⟨_, rfl, frames_vecBin (dst_of_vBin (last_of_and hwf)) fun _ _ _ => flagged_byType fun _ _ _ => flagged_mul⟩
  | vdiv o => exact IssuesWithin.of_names ⟨_, rfl, frames_vecBin (dst_of_vBin hwf) fun _ _ _ => flagged_byType fun _ _ _ => flagged_div⟩
  | vmin o | vmax o =>
    exact IssuesWithin.of_names ⟨_, rfl, frames_vecBin (dst_of_vBin hwf) fun _ _ _ => flagged_byType fun _ _ _ => flagged_minmax⟩
  | vand o | vor o | vxor o | vandn o => exact IssuesWithin.of_names ⟨_, rfl, frames_vecBin (dst_of_vBin hwf) fun _ _ _ => flagged_none⟩
  | vshl o | vshra o | vshrl o | vrotl o =>
    exact IssuesWithin.of_names ⟨_, rfl, frames_vecBin (dst_of_vBin (last_of_and hwf)) fun _ _ _ => flagged_none⟩
  | vscal o => exact IssuesWithin.of_names ⟨_, rfl, frames_vecBin (dst_of_vBin (last_of_and hwf)) fun _ _ _ => flagged_scalB⟩
  | vabs sat o | vneg sat o =>
    exact IssuesWithin.of_names ⟨_, rfl, frames_vecUn (dst_of_vUn (last_of_and hwf)) fun _ _ =>
      flagged_ite flagged_none (flagged_ite flagged_none flagged_none)⟩
  | vrcp o => exact IssuesWithin.of_names ⟨_, rfl, frames_vecUn (dst_of_vUn (last_of_and hwf)) fun _ _ => flagged_approxRcp⟩
  | vrsq o => exact IssuesWithin.of_names ⟨_, rfl, frames_vecUn (dst_of_vUn (last_of_and hwf)) fun _ _ => flagged_approxRsq⟩
  | vexp2 o => exact IssuesWithin.of_names ⟨_, rfl, frames_vecUn (dst_of_vUn (last_of_and hwf)) fun _ _ => flagged_approxExp2⟩
  | vlog2 o => exact IssuesWithin.of_names ⟨_, rfl, frames_vecUn (dst_of_vUn (last_of_and hwf)) fun _ _ => flagged_approxLog2⟩
  | vcvt dst o => exact IssuesWithin.of_names ⟨_, rfl, frames_vecUn (dst_of_vUn (last_of_and hwf)) fun _ _ => flagged_vcvtElem⟩
  | vfma o | vfms o | vfnma o => exact IssuesWithin.of_names ⟨_, rfl, frames_vecFma (dst_of_vTri hwf)⟩
  | vcmp c o => exact (vcmp_within (dst_of_vcmp hwf)).of_names
  | vsel o => exact (vsel_within (dst_of_vBin hwf)).of_names
  | vperm o => exact (vperm_within (dst_of_vBin (first_of_and hwf))).of_names
  | vslide o => exact (vslide_within (dst_of_vslide hwf)).of_names
  | vred op o => exact vred_within.of_names
  | vpack f o => exact (vpack_within (dst_of_tri hwf)).of_names
  | vunpk f part d r q => exact (vunpk_within (dst_of_vunpk hwf)).of_names
  | vdot4 ty o => exact (vdot4_within (dst_of_tri hwf)).of_names
  | vdot8 ty o => exact (vdot8_within (dst_of_tri hwf)).of_names
  | vdot2 ty o => exact (vdot2_within (dst_of_tri hwf)).of_names
  | vqnt f o => exact (vqnt_within (dst_of_tri (last_of_and hwf))).of_names
  | kop => exact kop_within.of_names
  | kmovToMask => exact kmovToMask_within.of_names
  | klow => exact klow_within.of_names
  | kmovFromMask => exact kmovFromMask_within.of_names
  | kpop => exact kpop_within.of_names
  | _ => exact fun _ h => nomatch h
end

/-! ## The end of a turn -/

/-- From `s` to `t` nothing changes but the context in its turn, by its frame, the trap records of the cores, the branch-outcome queues of other
slots, streams, and threads on their way home. -/
structure TurnFrame (w : Names) (s t : State) : Prop where
  frame : w.frame s.me t.me
  rest : t = { s with me := t.me, slots := t.slots, cores := t.cores, streamQ := t.streamQ, allowances := t.allowances, threads := t.threads }
  cores : ∀ c, t.core c = { s.core c with trapQ := (t.core c).trapQ, held := (t.core c).held }
  slots : ∀ n, Tbl.find? t.slots n = Tbl.find? s.slots n ∨
    ∃ c c' : Ctx, Tbl.find? s.slots n = some c ∧ Tbl.find? t.slots n = some c' ∧ c' = { c with bq := c'.bq }

section
variable {w : Names} {s t : State}

theorem Near.turnFrame (h : Near w s t) : TurnFrame w s t := by
  obtain ⟨hframe, hrest, hslots, -⟩ := h
  have hcores : t.cores = s.cores := by rw [hrest]
  have hthreads : t.threads = s.threads := by rw [hrest]
  exact ⟨hframe, by rw [hcores, hthreads]; exact hrest, fun c => by simp only [State.core, hcores], hslots⟩

/-- A context that changes in what the frame leaves open. -/
theorem turnFrame_modMe {f : Ctx → Ctx} (hf : w.frame s.me (f s.me)) : TurnFrame w s (s.modMe f) :=
  ⟨hf, rfl, fun _ => rfl, fun _ => .inl rfl⟩

/-- A record goes to the queue of its core or is held. -/
theorem core_queueTrap {n c : Nat} {r : TrapRec} :
    (s.queueTrap n r).core c = { s.core c with trapQ := ((s.queueTrap n r).core c).trapQ, held := ((s.queueTrap n r).core c).held } := by
  unfold State.queueTrap
  by_cases hc : c = n
  · rw [hc, State.modCore_core_self]
    split <;> rfl
  · rw [State.modCore_core_ne _ _ hc]

theorem turnFrame_takeTrap {cls : TrapClass} {addr info : Word} {fetch : Bool} (hlive : s.me.live = true) (hslot : s.me.slot ≠ 15) :
    TurnFrame w s (s.takeTrap cls addr info fetch) := by
  rw [State.takeTrap_eq cls addr info fetch hlive hslot]
  exact ⟨Names.frame_of_open rfl, rfl, fun c => core_queueTrap, fun _ => .inl rfl⟩

/-- A thread on its way leaves its slot waiting. -/
theorem turnFrame_launch {th : Ctx} {core : Nat} {slot : Option Nat} {dest pc : Word} {back : Bool} {pops : List Reg} (hlive : s.me.live = true) :
    TurnFrame w s (s.launch s.me th core slot dest pc back pops) := by
  have hplace : s.place { s.me with wait := .moving, att := false, inHand := none } =
      { s with me := { s.me with wait := .moving, att := false, inHand := none } } := State.place_of_me hlive rfl rfl
  unfold State.launch
  rw [hplace]
  exact ⟨Names.frame_of_open rfl, rfl, fun _ => rfl, fun _ => .inl rfl⟩

theorem turnFrame_bubble : TurnFrame w s (s.modMe Ctx.bubble) := turnFrame_modMe (Names.frame_of_open rfl)

theorem turnFrame_autoReturn (hlive : s.me.live = true) : TurnFrame w s s.autoReturn := by
  unfold State.autoReturn
  dsimp only
  split
  · exact turnFrame_launch hlive
  · exact turnFrame_bubble

/-- A turn whose meaning stays within the frame. -/
theorem turnFrame_runOp {m : Op Unit} (hm : Frames w m) (hlive : s.me.live = true) (hslot : s.me.slot ≠ 15) (hkeyed : s.slotsOk = true) :
    TurnFrame w s (runOp m s) := by
  have h := hm s hlive hkeyed
  unfold runOp
  split
  · next r e =>
    rw [e] at h
    have hnear : Near w s r.2 := h
    exact (hnear.trans (near_modMe hnear.keyed (Names.frame_of_open rfl))).turnFrame
  · exact turnFrame_bubble
  · exact turnFrame_takeTrap hlive hslot
  · exact turnFrame_autoReturn hlive
  · next e => rw [e] at h; exact h.elim
end

/-- Settles O60: each instruction's meaning is made of parts that keep the frame of its names, and so does each way in which its turn ends. -/
theorem frameOfRegisterInstructions : Obligations.FrameOfRegisterInstructions := by
  unfold Obligations.FrameOfRegisterInstructions
  intro i w s t hnames hwf hlive hslot hkeyed hexec
  obtain ⟨m, hissue, hm⟩ := issuesWithin_of_namesOf i hwf w hnames
  have ht : runOp m s = t := Host.Outcome.next.inj (hissue.symm.trans hexec)
  obtain ⟨hframe, hrest, hcores, hslots⟩ := ht ▸ turnFrame_runOp hm hlive hslot hkeyed
  exact ⟨hframe, hrest, hcores, hslots⟩

end Sys2Proof.Machine
end

section
/-!
PROOFS. The words of the manual's own examples (O58).
-/

namespace Sys2Proof.Manual

/-- Settles O58: a finite fact about the decoder, which evaluates on each of the words. -/
theorem decodeWords : Obligations.DecodeWords := by
  unfold Obligations.DecodeWords
  decide

end Sys2Proof.Manual
end

section
/-!
PROOFS. The context of a place, of a number and of a save area, the entry of a channel and of a partition: what each update of them leaves.
-/

namespace Sys2Proof.Machine

variable {s : State}

/-! ## Places, channels and partitions -/

/-- Placing a context changes the context in its turn or the table of slots, and nothing else. -/
theorem State.place_eq (s : State) (c : Ctx) : ∃ m l, s.place c = { s with me := m, slots := l } := by
  unfold State.place
  split
  · exact ⟨c, s.slots, rfl⟩
  · exact ⟨s.me, _, rfl⟩

/-- A live context stands in its place once it has been placed there. -/
theorem State.at?_place {c : Ctx} (hlive : c.live = true) : (s.place c).at? c.core c.slot = some c := by
  unfold State.place
  split
  · simp [State.at?, hlive]
  · next hme => simp [State.at?, hme, hlive]

/-- A running context of a number is live. -/
theorem State.live_of_byCid {n : Nat} {c : Ctx} (h : s.byCid n = some c) : c.live = true := by
  have hmem : c ∈ s.ctxs := List.mem_of_find?_eq_some h
  rw [State.ctxs, List.mem_append, List.mem_filter] at hmem
  rcases hmem with hme | ⟨-, hlive⟩
  · split at hme
    · next hlive => rwa [List.mem_singleton.mp hme]
    · cases hme
  · exact hlive

/-- The channel just changed. -/
@[simp] theorem State.modChan_chan_self (s : State) (c : Nat) (f : ChanSt → ChanSt) : (s.modChan c f).chan c = f (s.chan c) :=
  Tbl.getD_put_self _ _ _ _

/-- The partition just changed. -/
@[simp] theorem State.modPartn_partn_self (s : State) (p : Nat) (f : PartSt → PartSt) : (s.modPartn p f).partn p = f (s.partn p) :=
  Tbl.getD_put_self _ _ _ _

/-! ## Contexts by number -/

/-- A change of a running context of a number is made in its place. -/
theorem State.modLive_eq {c : Ctx} {f : Ctx → Ctx} (hc : s.byCid c.cid = some c) : s.modLive c.cid f = s.place (f c) := by
  simp [State.modLive, hc]

theorem State.modLive_upd (s : State) (cid : Nat) (f : Ctx → Ctx) : ∃ m l, s.modLive cid f = { s with me := m, slots := l } := by
  unfold State.modLive
  split
  · exact s.place_eq _
  · exact ⟨s.me, s.slots, rfl⟩

/-- A change of a context that no save area holds leaves memory and the save areas as they are. -/
theorem State.onCtx_of_noArea {cid : Nat} (h : s.areaOf cid = none) (f : Ctx → Ctx) :
    (s.onCtx cid f).mem = s.mem ∧ (s.onCtx cid f).areaOf cid = none := by
  unfold State.onCtx
  split
  · next c _ =>
    obtain ⟨m, l, e⟩ := s.place_eq (f c)
    exact e ▸ ⟨rfl, h⟩
  · rw [h]
    exact ⟨rfl, h⟩

end Sys2Proof.Machine
end

section
/-!
PROOFS. Home cores (O23): a request that is taken, an update that reaches its tile unit, and what leaves the lists at a reissue or a withdrawal.
-/

namespace Sys2Proof.Machine

variable {s : State}

/-! ## Requests at a home core (R51, R267) -/

/-- With no report due, none is made. -/
theorem State.reportEvicted_of_nil (h : s.evicted = []) : s.reportEvicted = s := by
  rw [State.reportEvicted, h, List.foldl_nil, ← h]

/-- A home core that may take a request takes it. -/
theorem State.homeStep_of_pick {s s1 w : State} {ch : Nat} {r : HomeReq}
    (hpick : s.pick (headsOf HomeReq.core ((s.chan ch).hq.filter (fun q => (s.chan ch).copying != some (s.pageOf q.addr) && !s.sliceBefore ch q))) =
      some (r, s1))
    (htake : (s1.modChan ch (fun c => { c with hq := c.hq.filter (fun q => q.seq != r.seq) })).homeTake r = some w) : s.homeStep ch = w := by
  unfold State.homeStep
  dsimp only
  rw [hpick]
  dsimp only
  rw [htake]

theorem HomeOp.traps_of_counted {o : HomeOp} (h : o.counted = true) : o.traps = false := by
  cases o with
  | femark _ _ | rupd _ _ _ => rfl
  | _ => cases h

theorem HomeOp.ready_of_counted {o : HomeOp} (h : o.counted = true) (full : Bool) : o.ready full = true := by
  cases o with
  | femark _ _ | rupd _ _ _ => rfl
  | _ => cases h

/-- A counted request is performed as soon as its line is ready: it neither traps on poison nor waits (R128, R267). -/
theorem State.homeTake_of_counted {r : HomeReq} (hown : s.refused46 r.ptag r.addr = false)
    (hseal : r.op.changes = true → s.sealedAt r.addr r.span = false) (hready : (s.homeReady r.addr r.op.changes).1 = true)
    (hcounted : r.op.counted = true) :
    s.homeTake r = some ((((s.homeReady r.addr r.op.changes).2.perform r.op r.key r.addr r.size).s.ackHome r none).serveHomes
      ((s.homeReady r.addr r.op.changes).2.perform r.op r.key r.addr r.size).grans) := by
  have hopen : (r.op.changes && s.sealedAt r.addr r.span) = false := by
    cases hc : r.op.changes
    · rfl
    · exact hseal hc
  simp [State.homeTake, hown, hopen, hready, hcounted, HomeOp.traps_of_counted, HomeOp.ready_of_counted]

/-- Of a counted request to another partition's home, a refusal is all that comes about (R46, R123). -/
theorem State.homeTake_refused {r : HomeReq} (hown : s.refused46 r.ptag r.addr = true) (hcounted : r.op.counted = true) :
    s.homeTake r = some (s.ackHome r (some (.confine, 3))) := by
  simp [State.homeTake, hown, State.homeFail, hcounted]

/-- An update in flight to a tile unit that is performed or appended there leaves the list (R267). -/
theorem State.rupdStep_of_tile {s s1 : State} {q : Nat} {r : HomeReq}
    (hpick : s.pick (headsOf (fun (p : Nat × HomeReq) => p.2.core) (s.rupds.filter (fun p => p.1 == 4096 + q))) = some ((4096 + q, r), s1))
    (hdone : (State.rupdTile { s1 with rupds := s1.rupds.filter (fun p => p.2.seq != r.seq) } r).2 = true) :
    s.rupdStep (4096 + q) = (State.rupdTile { s1 with rupds := s1.rupds.filter (fun p => p.2.seq != r.seq) } r).1 := by
  have htile : ¬ 4096 + q < 4096 := by omega
  have hfilter : ∀ p : Nat × HomeReq, (p.1 == 4096 + q && (decide (4096 ≤ 4096 + q) || !s.sliceBefore (4096 + q) p.2)) = (p.1 == 4096 + q) := by
    simp
  simp only [State.rupdStep, hfilter, hpick, State.rupdTake, if_neg htile, hdone, if_true]

/-! ## Reissue and withdrawal (R51, R122) -/

/-- Taking a context's requests off the lists leaves memory as it is unless the context has been saved (R122). -/
theorem State.unlist_mem {cid : Nat} (h : s.areaOf cid = none) : (s.unlist cid).mem = s.mem := by
  have hkeep := List.foldlRecOn (s.listedOf cid) (fun (t : State) (r : HomeReq) => t.onCtx cid (fun c => c.unlisted r.op.dest r.wasFull))
    (motive := fun (t : State) => t.mem = s.mem ∧ t.areaOf cid = none) ⟨rfl, h⟩ fun t ht r _ => by
      obtain ⟨hmem, harea⟩ := ht
      obtain ⟨hm, ha⟩ := t.onCtx_of_noArea harea (fun c => c.unlisted r.op.dest r.wasFull)
      exact ⟨hm.trans hmem, ha⟩
  exact hkeep.1

/-- Of the rejected requests of a context only counted ones outlive its withdrawal (R122). -/
theorem State.counted_of_mem_unlist {cid : Nat} {r : HomeReq} (h : r ∈ (s.unlist cid).rejected) (hcid : r.cid = cid) : r.op.counted = true := by
  have hout := (List.mem_filter.mp h).2
  simpa [hcid] using hout

theorem exec_requestReissue {c : Ctx} (hc : s.byCid c.cid = some c) (hwait : c.wait = .rejected)
    (hrej : s.rejected.any (fun r => r.cid == c.cid) = true) :
    exec (.requestReissue c.cid) s =
      .next (({ s with rejected := s.rejected.filter (fun r => r.cid != c.cid) } : State).place { c with wait := .none }) := by
  show execRequestReissue c.cid s = _
  have hc' : ({ s with rejected := s.rejected.filter (fun r => r.cid != c.cid) } : State).byCid c.cid = some c := hc
  rw [execRequestReissue, if_pos hrej, State.modLive_eq hc']
  simp [hwait]

theorem exec_withdrawal {cid : Nat} (h : s.withdrawn.contains cid = true) :
    exec (.withdrawal cid) s = .next (({ s.unlist cid with withdrawn := s.withdrawn.filter (fun x => x != cid) } : State).modLive cid
      (fun c => if c.wait == Wait.listed || c.wait == Wait.rejected then { c with wait := .none } else c)) := by
  show execWithdrawal cid s = _
  rw [execWithdrawal, if_pos h]

/-- Settles O23: a taken request is what `homeStep` ends in, and a counted one is answered at once; the lists are filtered by number. -/
theorem homeUnitsTakeRequests : Obligations.HomeUnitsTakeRequests := by
  unfold Obligations.HomeUnitsTakeRequests
  refine ⟨?taken, ?refused, ?performed, ?tile, ?reissue, ?withdrawal⟩
  case taken =>
    intro s s1 w ch r hpick htake
    have hstep : exec (.homeRequest ch) s = .next w.reportEvicted := by
      rw [← State.homeStep_of_pick hpick htake]; rfl
    exact ⟨hstep, fun hnone => by rw [hstep, State.reportEvicted_of_nil hnone]⟩
  case refused =>
    intro s r hown hcounted hquiet
    exact ⟨_, _, State.homeTake_refused hown hcounted, rfl, rfl, by simp [hquiet]⟩
  case performed =>
    intro s r hown hseal hready hcounted
    exact ⟨_, State.homeTake_of_counted hown hseal hready hcounted, rfl⟩
  case tile =>
    intro s s1 q r hpick hdone
    rw [← State.rupdStep_of_tile hpick hdone]; rfl
  case reissue =>
    intro s c hc _ hwait hrej
    have hlive : c.live = true := State.live_of_byCid hc
    refine ⟨_, { c with wait := .none }, exec_requestReissue hc hwait hrej, State.at?_place hlive, rfl, rfl, ?_⟩
    obtain ⟨m, l, e⟩ := State.place_eq { s with rejected := s.rejected.filter (fun r => r.cid != c.cid) } { c with wait := .none }
    rw [e]
    exact ⟨by simp, rfl⟩
  case withdrawal =>
    intro s cid hmem
    refine ⟨_, exec_withdrawal hmem, ?_⟩
    obtain ⟨m, l, e⟩ := State.modLive_upd { s.unlist cid with withdrawn := s.withdrawn.filter (fun x => x != cid) } cid
      (fun c => if c.wait == Wait.listed || c.wait == Wait.rejected then { c with wait := .none } else c)
    rw [e]
    exact ⟨by simp, State.unlist_mem, fun r hr => State.counted_of_mem_unlist hr⟩

end Sys2Proof.Machine
end

section
/-!
PROOFS. Partitions, resets, boot, power and device time, and the writes to control space (O51): one rule for each operation.
-/

namespace Sys2Proof.Machine

variable {s : State}

/-! ## Management changes (R388) -/

theorem State.manage_of_holds {h : BitVec 2} (hh : s.holds h = true) (t : State) : s.manage h t = t := if_pos hh

theorem State.manage_of_not_holds {h : BitVec 2} (hh : s.holds h = false) (t : State) : s.manage h t = s.reject := if_neg (by simp [hh])

/-! ## Partitions (R419-R421) -/

theorem exec_partitionConfigWrite {p : Nat} {r : PartReg} {v : Word} (hp : p < 32) (hheld : s.holds 3 = true) :
    exec (.partitionConfigWrite p r v) s = .next ((s.configWrite p r v).getD s) :=
  congrArg Host.Outcome.next ((State.manage_of_holds hheld _).trans (if_pos hp))

theorem exec_partitionActivate {p : Nat} (hheld : s.holds 3 = true) : exec (.partitionActivate p) s = .next (s.activatePart p) :=
  congrArg Host.Outcome.next (State.manage_of_holds hheld _)

theorem exec_partitionDrain {p : Nat} (hheld : s.holds 3 = true) (h : (s.partn p).pstate ≠ .draining) :
    exec (.partitionDrain p) s = .next (s.drainPart p) :=
  congrArg Host.Outcome.next ((if_neg h).trans (State.manage_of_holds hheld _))

theorem State.configWrite_of_not_free {p : Nat} {r : PartReg} {v : Word} (h : (s.partn p).pstate ≠ .free) : s.configWrite p r v = none := if_pos h

theorem State.configWrite_pchan {p : Nat} {v : Word} (h : (s.partn p).pstate = .free)
    (hrange : rangeOk (fld v 11 0) (fld v 15 12) s.part.squads = true)
    (hclaim : s.claimedBy p PartSt.chanRange (fld v 11 0) (fld v 11 0 + 2 ^ fld v 15 12) = false) :
    s.configWrite p .pchan v = some (s.modPartn p (fun x => { x with pchan := v &&& 0xFFFF#64 })) := by
  simp [State.configWrite, h, hrange, hclaim]

/-- The supervisors of a partition are placed again where they stand. -/
theorem State.tagSupervisors_eq (s : State) (p : Nat) : ∃ m l, s.tagSupervisors p = { s with me := m, slots := l } := by
  unfold State.tagSupervisors
  refine List.foldlRecOn _ _ (motive := fun (t : State) => ∃ m l, t = { s with me := m, slots := l }) ⟨s.me, s.slots, rfl⟩ fun t ht c _ => ?_
  obtain ⟨m, l, rfl⟩ := ht
  exact State.place_eq _ _

/-- A FREE partition whose tree is in order becomes ACTIVE with its function enabled (R420). -/
theorem State.activatePart_of_free {p : Nat} (hp : p < 32) (h : (s.partn p).pstate = .free) (htree : s.rcbTreeOk p = true) :
    ((s.activatePart p).partn p).pstate = .active ∧ ((s.activatePart p).partn p).vf = true ∧ (s.activatePart p).mem = s.mem := by
  obtain ⟨m, l, e⟩ := (s.modPartn p fun x => { x with pstate := .active, vf := true }).tagSupervisors_eq p
  have hself := State.modPartn_partn_self s p fun x => { x with pstate := .active, vf := true }
  rw [State.activatePart, if_pos ⟨hp, h, htree⟩, e]
  exact ⟨congrArg PartSt.pstate hself, congrArg PartSt.vf hself, rfl⟩

theorem State.activatePart_refused {p : Nat} (h : ¬ ((s.partn p).pstate = .free ∧ s.rcbTreeOk p = true)) : s.activatePart p = s :=
  if_neg fun hall => h hall.2

theorem State.drainPart_of_not_active {p : Nat} (h : (s.partn p).pstate ≠ .active) : s.drainPart p = s := if_neg h

/-- Without contexts there is no core to pause. -/
theorem State.pausePart_of_no_ctxs {p : Nat} (h : s.ctxs = []) : s.pausePart p = s := by
  simp [State.pausePart, State.partLoaded, h, State.sendAll]

/-- Without a queue table there is no command to drop. -/
theorem State.dropCommands_of_no_queues {p : Nat} (h : (s.partn p).qtab = []) : s.dropCommands p = s := by
  simp [State.dropCommands, h]

theorem State.drainPart_of_idle {p : Nat} (h : (s.partn p).pstate = .active) (hq : (s.partn p).qtab = []) (hc : s.ctxs = []) :
    ((s.drainPart p).partn p).pstate = .draining ∧ (s.drainPart p).mem = s.mem := by
  have hself := State.modPartn_partn_self s p fun x => { x with pstate := .draining }
  rw [State.drainPart, if_pos h]
  dsimp only
  rw [State.dropCommands_of_no_queues, State.pausePart_of_no_ctxs]
  · exact ⟨congrArg PartSt.pstate hself, rfl⟩
  · exact hc
  · exact (congrArg PartSt.qtab hself).trans hq

/-! ## Resets (R422) -/

/-- With nothing dirty in a cache, a reset loses nothing. -/
theorem State.dropDirty_of_clean (hl2 : s.l2 = []) (hmsc : s.msc = []) : s.dropDirty = s := by
  cases s
  cases hl2
  cases hmsc
  rfl

/-! ## Interrupts, power and heat (R360, R426) -/

/-- An event changes routing entries, and may send a message or a signal. -/
theorem State.raiseIrq_eq (s : State) (n : Nat) : ∃ e m g, s.raiseIrq n = { s with irqs := e, msix := m, signals := g } := by
  unfold State.raiseIrq
  dsimp only
  split
  · exact ⟨s.irqs, s.msix, s.signals, rfl⟩
  · split
    · exact ⟨_, _, _, rfl⟩
    · split
      · exact ⟨_, _, _, rfl⟩
      · exact ⟨_, _, _, rfl⟩
      · exact ⟨_, _, _, rfl⟩

@[simp] theorem State.raiseIrq_mem (s : State) (n : Nat) : (s.raiseIrq n).mem = s.mem := by
  obtain ⟨e, m, g, h⟩ := s.raiseIrq_eq n
  rw [h]

@[simp] theorem State.raiseIrq_boot (s : State) (n : Nat) : (s.raiseIrq n).boot = s.boot := by
  obtain ⟨e, m, g, h⟩ := s.raiseIrq_eq n
  rw [h]

@[simp] theorem State.modIrq_irq_self (s : State) (n : Nat) (f : Irq → Irq) : (s.modIrq n f).irq n = f (s.irq n) := Tbl.getD_put_self _ _ _ _

theorem State.modIrq_irq_ne (s : State) {n m : Nat} (f : Irq → Irq) (h : m ≠ n) : (s.modIrq n f).irq m = s.irq m := Tbl.getD_put_ne _ _ _ h

/-- Within the entries that the part has, an event is counted (R360). -/
theorem State.raiseIrq_events {n : Nat} (h : n < 1094) : ((s.raiseIrq n).irq n).events = (s.irq n).events + 1 := by
  unfold State.raiseIrq
  rw [if_neg (by omega)]
  dsimp only
  split
  · simp
  · split <;> simp [State.irq, State.modIrq, State.sendMsix]

/-- An event leaves every other entry as it is. -/
theorem State.raiseIrq_irq_ne {n m : Nat} (h : m ≠ n) : (s.raiseIrq n).irq m = s.irq m := by
  unfold State.raiseIrq
  dsimp only
  split
  · rfl
  · split
    · exact State.modIrq_irq_ne _ _ h
    · split <;> simp [State.irq, State.modIrq, State.sendMsix, Tbl.getD_put_ne _ _ _ h]

theorem State.choose_eq (s : State) (n : Nat) : ∃ o, (s.choose n).2 = { s with oracle := o } := by
  unfold State.choose
  split
  · exact ⟨s.oracle, rfl⟩
  · exact ⟨_, rfl⟩

/-- A lower matrix budget is a choice of the policy core's, and changes a squad alone. -/
theorem State.lowerBudget_eq (s : State) (q : Nat) : ∃ l o, s.lowerBudget q = { s with squads := l, oracle := o } := by
  unfold State.lowerBudget
  dsimp only
  generalize (if (s.squad q).mbudget.toNat = 0 then 2 ^ 32 else (s.squad q).mbudget.toNat) = n
  split
  · exact ⟨s.squads, s.oracle, rfl⟩
  · obtain ⟨o, e⟩ := s.choose_eq (n - 1)
    rw [e]
    exact ⟨_, o, rfl⟩

theorem State.lowerBudgets_eq (s : State) (l : List Nat) : ∃ q o, l.foldl State.lowerBudget s = { s with squads := q, oracle := o } := by
  refine List.foldlRecOn l _ (motive := fun (t : State) => ∃ q o, t = { s with squads := q, oracle := o }) ⟨s.squads, s.oracle, rfl⟩ fun t ht n _ => ?_
  obtain ⟨q, o, rfl⟩ := ht
  exact State.lowerBudget_eq _ n

/-- A part that is throttled lowers its clock by 100 MHz while it has them (R426). -/
theorem State.throttle_slows (s : State) :
    s.throttle.mem = s.mem ∧ s.throttle.me = s.me ∧ s.throttle.boot.mhz = if 100 < s.boot.mhz then s.boot.mhz - 100 else s.boot.mhz := by
  unfold State.throttle
  split
  · obtain ⟨q, o, e⟩ := s.lowerBudgets_eq (List.range s.part.squads)
    rw [e]
    exact ⟨rfl, rfl, rfl⟩
  · exact ⟨rfl, rfl, rfl⟩

/-- Of the four events of THERMAL_TRIP the first counts one in its entry, which the others leave as it is (R426). -/
theorem State.trip_events (s : State) : (([1089, 1090, 1091, 1092].foldl State.raiseIrq s).irq 1089).events = (s.irq 1089).events + 1 := by
  simp only [List.foldl_cons, List.foldl_nil]
  rw [State.raiseIrq_irq_ne (by decide), State.raiseIrq_irq_ne (by decide), State.raiseIrq_irq_ne (by decide), State.raiseIrq_events (by decide)]

/-! ## Firmware updates (R425) -/

/-- An image that is committed to its slot, with its version. -/
def State.committed (s : State) (b : List Byte) : State :=
  { s with boot := { s.boot with image := b, version := fieldAt b 8 8, rollback := fieldAt b 8 8 } }

theorem exec_firmwareUpdate {h : BitVec 2} {b : List Byte} (hheld : s.holds h = true) :
    exec (.firmwareUpdate h b) s = .next ((if s.imageOk b then s.committed b else s).raiseIrq 1093) :=
  congrArg Host.Outcome.next (State.manage_of_holds hheld _)

/-! ## Writes to control space (R3, R47, R73) -/

theorem inBlock_unit {b n k i r : Nat} (hi : i < n) (hr : r < k) : inBlock (b + k * i + r) b n k = some (i, r) := by
  have hlt : k * i + r < n * k := by
    calc k * i + r < k * (i + 1) := by rw [Nat.mul_succ]; omega
      _ ≤ k * n := Nat.mul_le_mul_left k hi
      _ = n * k := Nat.mul_comm k n
  have hk : 0 < k := by omega
  rw [inBlock, if_pos (by omega), show b + k * i + r - b = r + k * i by omega, Nat.add_mul_div_left _ _ hk, Nat.div_eq_of_lt hr,
    Nat.add_mul_mod_self_left, Nat.mod_eq_of_lt hr, Nat.zero_add]

theorem Part.squads_le (p : Part) : p.squads ≤ 512 := by cases p <;> decide

/-- The agents whose writes go by the blocks of device control space. -/
def agentByBlocks : Agent → Bool
  | .firmware | .policy | .port _ => true
  | .context _ _ | .rcb _ => false

theorem State.ctlWrite_chanBlock {a : Agent} {ch r : Nat} {v : Word} (ha : agentByBlocks a = true) (hch : ch < s.part.squads) (hr : r < 0x100) :
    s.ctlWrite a (0x100000 + 0x100 * ch + r) v = s.writeChanBlock a ch r v := by
  have hin : inBlock (0x100000 + 0x100 * ch + r) 0x100000 s.part.squads 0x100 = some (ch, r) := inBlock_unit hch hr
  cases a with
  | firmware | policy | port _ => simp only [State.ctlWrite, hin]
  | context _ _ | rcb _ => cases ha

theorem State.ctlWrite_tileBlock {a : Agent} {q r : Nat} {v : Word} (ha : agentByBlocks a = true) (hq : q < s.part.squads) (hr : r < 0x100) :
    s.ctlWrite a (0x200000 + 0x100 * q + r) v = s.writeTileBlock a q r v := by
  have hsquads : s.part.squads ≤ 512 := s.part.squads_le
  have hout : inBlock (0x200000 + 0x100 * q + r) 0x100000 s.part.squads 0x100 = none := if_neg (by omega)
  have hin : inBlock (0x200000 + 0x100 * q + r) 0x200000 s.part.squads 0x100 = some (q, r) := inBlock_unit hq hr
  cases a with
  | firmware | policy | port _ => simp only [State.ctlWrite, hout, hin]
  | context _ _ | rcb _ => cases ha

/-- A flushed memory-side cache leaves memory as it is: only reports become due (R48, R363). -/
theorem State.flushMsc_eq (s : State) (ch : Nat) : ∃ c e, s.flushMsc ch = { s with msc := c, evicted := e } := by
  unfold State.flushMsc
  refine List.foldlRecOn _ _ (motive := fun (t : State) => ∃ c e, t = { s with msc := c, evicted := e }) ⟨_, s.evicted, rfl⟩ fun t ht l _ => ?_
  obtain ⟨c, e, rfl⟩ := ht
  unfold State.leftCache
  split
  · exact ⟨_, _, rfl⟩
  · exact ⟨_, _, rfl⟩

theorem State.writeChown_of_unused {ch : Nat} {v : Word} (h : s.chanUsed ch = false) :
    ((s.writeChown ch v).chan ch).own = v.getLsbD 8 ∧ ((s.writeChown ch v).chan ch).part = fld v 4 0 ∧ (s.writeChown ch v).mem = s.mem := by
  rw [State.writeChown, if_neg (by simp [h])]
  obtain ⟨c, e, hflush⟩ := s.flushMsc_eq ch
  rw [State.modChan_chan_self, hflush]
  exact ⟨rfl, rfl, rfl⟩

/-- Settles O51: each clause is the rule of its operation, for the agent that may ask for it and for one that may not. -/
theorem partitionsResetsAndPower : Obligations.PartitionsResetsAndPower := by
  unfold Obligations.PartitionsResetsAndPower
  refine ⟨?configured, ?unheld, ?drained, ?resets, ?boot, ?update, ?power, ?time, ?control⟩
  case configured =>
    intro s p hp hheld
    refine ⟨fun hfree => ⟨fun v hrange hclaim => ?_, fun htree => ?_, fun htree => ?_⟩, fun hbusy r v => ⟨?_, ?_⟩, fun hfree => ?_,
      fun hactive hq hc => ?_⟩
    · rw [exec_partitionConfigWrite hp hheld, State.configWrite_pchan hfree hrange hclaim]
      exact ⟨_, rfl, by simp, rfl⟩
    · exact ⟨_, exec_partitionActivate hheld, State.activatePart_of_free hp hfree htree⟩
    · rw [exec_partitionActivate hheld, State.activatePart_refused (by simp [htree])]
    · rw [exec_partitionConfigWrite hp hheld, State.configWrite_of_not_free hbusy]
      rfl
    · rw [exec_partitionActivate hheld, State.activatePart_refused (by simp [hbusy])]
    · rw [exec_partitionDrain hheld (by simp [hfree]), State.drainPart_of_not_active (by simp [hfree])]
    · exact ⟨_, exec_partitionDrain hheld (by simp [hactive]), State.drainPart_of_idle hactive hq hc⟩
  case unheld =>
    intro s p r v hheld
    exact ⟨congrArg _ (State.manage_of_not_holds hheld _), congrArg _ (State.manage_of_not_holds hheld _)⟩
  case drained =>
    intro s p
    refine ⟨fun h => congrArg Host.Outcome.next (if_pos (.inl h)), fun hdrain hload hqueues hsquads => ?_⟩
    refine ⟨_, congrArg Host.Outcome.next (if_neg (by simp [hdrain, hload, hqueues, hsquads])), ?_⟩
    rw [State.modPartn_partn_self]
    exact ⟨rfl, rfl⟩
  case resets =>
    intro s
    refine ⟨⟨s.powerReset, rfl, rfl, rfl, rfl, rfl, rfl, rfl, rfl, rfl⟩, fun hl2 hmsc => ⟨s.partReset, rfl, ?_⟩⟩
    have hclean : s.dropDirty = s := State.dropDirty_of_clean hl2 hmsc
    unfold State.partReset
    rw [hclean]
    exact ⟨rfl, rfl, rfl, rfl, rfl, rfl, rfl, rfl⟩
  case boot =>
    intro s hrec
    rw [show exec .bootStepComplete s = execBootStepComplete s from rfl]
    simp only [execBootStepComplete, hrec, Bool.false_eq_true, if_false]
    refine ⟨fun hstep hok => ?_, fun hstep hbad => ?_, fun t hstep ht => ?_, fun hstep => ?_, fun hstep => ?_, fun hstep => ?_⟩
    · simp [hstep, hok]
    · exact ⟨{ s with boot := { s.boot with recovery := true } }, by simp [hstep, hbad], rfl, hstep⟩
    · simp [hstep, ht]
    · exact ⟨({ s with servo := { s.servo with run := true } } : State).stepDone, by simp [hstep], rfl, congrArg (· + 1) hstep⟩
    · rcases hstep with h | h | h
      · simp [h]
      · simp [h]
      · simp [h]
    · split
      · omega
      · omega
      · omega
      · rw [if_neg (by omega)]
  case update =>
    intro s h b
    refine ⟨fun hheld hok => ⟨_, exec_firmwareUpdate hheld, ?_⟩, fun hheld hbad => ⟨_, exec_firmwareUpdate hheld, ?_⟩,
      fun hheld => congrArg Host.Outcome.next (State.manage_of_not_holds hheld _)⟩
    · rw [if_pos hok, State.raiseIrq_boot]
      exact ⟨rfl, rfl, rfl⟩
    · rw [if_neg (by simp [hbad]), State.raiseIrq_boot]
  case power =>
    intro s n
    refine ⟨fun h => congrArg Host.Outcome.next (if_neg (by omega)), fun h => congrArg Host.Outcome.next (if_neg (by omega)),
      fun h => congrArg Host.Outcome.next (if_pos h), fun h => ⟨_, congrArg Host.Outcome.next (if_pos h), s.throttle_slows⟩,
      fun h => ⟨_, congrArg Host.Outcome.next (if_pos h), s.throttle_slows⟩, fun h => ⟨_, congrArg Host.Outcome.next (if_neg (by omega)), ?_⟩⟩
    exact ⟨by simp, by simp, State.trip_events _⟩
  case time =>
    intro s o b hrun
    have hon : ¬ (!s.servo.run) = true := by simp [hrun]
    exact ⟨fun h => ⟨_, congrArg Host.Outcome.next ((if_neg hon).trans (if_pos h)), rfl, rfl, rfl⟩,
      fun h => ⟨_, congrArg Host.Outcome.next ((if_neg hon).trans (if_neg (by omega))), rfl, rfl, rfl⟩⟩
  case control =>
    intro s ch v hch
    have hwrite {a : Agent} {off : Nat} {t : State} (h : s.ctlWrite a off v = t) : exec (.controlRegisterWrite a off v) s = .next t :=
      congrArg Host.Outcome.next h
    have hchown {a : Agent} (ha : agentByBlocks a = true) : s.ctlWrite a (0x100000 + 256 * ch) v = s.manageAs a (s.writeChown ch v) :=
      State.ctlWrite_chanBlock (r := 0) ha hch (by decide)
    have htbase {a : Agent} (ha : agentByBlocks a = true) : s.ctlWrite a (0x200000 + 256 * ch) v =
        s.portManages a (s.modSquad ch fun k => { k with tbase := v &&& 0x000000FFFC000000#64 }) := State.ctlWrite_tileBlock (r := 0) ha hch (by decide)
    refine ⟨⟨_, hwrite (State.ctlWrite_chanBlock rfl hch (by decide)), ?_, rfl⟩, ⟨_, hwrite (htbase rfl), ?_, rfl⟩,
      fun hheld => hwrite ((htbase rfl).trans (State.manage_of_not_holds hheld _)), hwrite (hchown rfl),
      fun hheld => hwrite ((hchown rfl).trans (State.manage_of_not_holds hheld _)), fun hheld hfree => ?_⟩
    · exact congrArg ChanSt.snapt (State.modChan_chan_self s ch fun c => { c with snapt := v })
    · exact congrArg SquadSt.tbase (State.modSquad_squad_self s ch fun k => { k with tbase := v &&& 0x000000FFFC000000#64 })
    · exact ⟨_, hwrite ((hchown rfl).trans (State.manage_of_holds hheld _)), State.writeChown_of_unused hfree⟩

end Sys2Proof.Machine
end

section
/-!
PROOFS. The start of a snapshot (O24). The statement speaks of every state, also of one whose table of channels is not in rising order. There
`State.modChan` lists a channel a second time, before its old entry; a partition that owns both entries then starts at another channel and counts
one more of them, so that the bitmap is cleared in other lines than those that the area had before.
-/

namespace Sys2Proof.Machine

variable {s t : State}

/-! ## Bytes of a snapshot area (R54) -/

/-- Where the lines of a channel lie is a matter of the channels' owners alone (R60). -/
theorem State.mapOf_congr (h : s.chans = t.chans) (a : Nat) : s.mapOf a = t.mapOf a := by
  unfold State.mapOf State.partChans State.chan
  rw [h]

theorem State.lineAt_congr (h : s.chans = t.chans) (ch cl : Nat) : s.lineAt ch cl = t.lineAt ch cl := by
  unfold State.lineAt
  rw [State.mapOf_congr h]

@[simp] theorem State.rekey_chans (s : State) (key g : Nat) : (s.rekey key g).chans = s.chans := by
  unfold State.rekey
  split
  · rfl
  · rfl

@[simp] theorem State.areaByte_chans (s : State) (ch o : Nat) (b : Byte) : (s.areaByte ch o b).chans = s.chans := State.rekey_chans ..

/-- The address of byte `o` of a channel's snapshot area (R54). -/
def State.areaAddr (s : State) (ch o : Nat) : Nat := 128 * s.lineAt ch (512 * (s.chan ch).abase + o / 128) + o % 128

theorem State.areaAddr_congr (h : s.chans = t.chans) (ch o : Nat) : s.areaAddr ch o = t.areaAddr ch o := by
  simp only [State.areaAddr, State.lineAt_congr h, State.chan, h]

/-- A byte of the area reads back in a memory of canonical form. -/
theorem State.rd8_areaByte {ch o : Nat} {b : Byte} (h : Wf s) : rd8 (s.areaByte ch o b).mem (s.areaAddr ch o) = b := rd8_wr8_self _ _ h.rekey.mem

/-- The last byte of a cleared bitmap is 0. -/
theorem State.rd8_cleared {ch n : Nat} (h : Wf s) :
    rd8 ((List.range (n + 1)).foldl (fun t o => t.areaByte ch o 0) s).mem (s.areaAddr ch n) = 0 := by
  have hkeep : ∀ l : List Nat, Wf (l.foldl (fun t o => t.areaByte ch o 0) s) ∧ (l.foldl (fun t o => t.areaByte ch o 0) s).chans = s.chans :=
    fun l => List.foldlRecOn l (fun (t : State) o => t.areaByte ch o 0) (motive := fun (t : State) => Wf t ∧ t.chans = s.chans) ⟨h, rfl⟩
      fun t ⟨hwf, hchans⟩ o _ => ⟨hwf.areaByte, (t.areaByte_chans ch o 0).trans hchans⟩
  obtain ⟨hwf, hchans⟩ := hkeep (List.range n)
  rw [List.range_succ, List.foldl_append, ← State.areaAddr_congr hchans]
  exact State.rd8_areaByte hwf

/-! ## A table of channels that is not in order -/

/-- Channels 1 and 0 of partition 0, listed in this order; the snapshot of channel 0 is armed. Byte 7807 is the last of the lines in which the
bitmap of channel 0 lies once its entry stands before that of channel 1. -/
def disordered : State :=
  { State.reset with
    chans := [(1, { ChanSt.reset with own := true }), (0, { ChanSt.reset with own := true, snap := .armed })], mem := [(7807, 1)] }

/-- The start of the snapshot lists channel 0 once more. -/
def disorderedStarted : State :=
  disordered.modChan 0 (fun c => { c with snap := .active, bitmap := [], copies := [], ncopies := 0 })

theorem disorderedStarted_areaAddr : disorderedStarted.areaAddr 0 4095 = 7807 := by decide +kernel

theorem exec_snapshotStart_disordered :
    exec (.snapshotStart 0) disordered = .next ((List.range 4096).foldl (fun t o => t.areaByte 0 o 0) disorderedStarted) :=
  congrArg Host.Outcome.next (if_pos ⟨rfl, Nat.zero_le _⟩)

/-- No line of the area of channel 0 as it stands before the start holds byte 7807. -/
theorem disordered_lineAt_ne : ∀ i, i < 32 → 7807 / 128 ≠ disordered.lineAt 0 (512 * (disordered.chan 0).abase + i) := by decide +kernel

/-- Refutes O24: in a state whose table of channels is not in rising order, the start of a snapshot clears byte 7807, which lies in no line of the
channel's snapshot area. -/
theorem not_snapshotAndCacheSteps : ¬ Obligations.SnapshotAndCacheSteps := by
  unfold Obligations.SnapshotAndCacheSteps
  intro h
  obtain ⟨hsnap, -⟩ := h
  obtain ⟨-, -, -, hstart, -⟩ := hsnap disordered 0
  obtain ⟨w, hw, -, -, -, hframe⟩ := hstart rfl (Nat.zero_le _)
  obtain rfl : _ = w := Host.Outcome.next.inj (exec_snapshotStart_disordered.symm.trans hw)
  have hkept := hframe (by decide) 7807 disordered_lineAt_ne
  have hwf : Wf disorderedStarted := wf_iff_inv.mpr (by decide)
  have hcleared := State.rd8_cleared (ch := 0) (n := 4095) hwf
  rw [disorderedStarted_areaAddr, hkept] at hcleared
  exact absurd hcleared (by decide)

end Sys2Proof.Machine
end

section
/-!
PROOFS. Programmed access of the host (O47). A store through the aperture is performed line by line, and what a line does to a later one shows in
it: here the first line is the RCB of a tenant, whose save address it sets to the next line. That line is then the control block of the tenant's
spill queue (R355), and software's bytes do not change its `head` and `tail` (`State.blockByte`).
-/

namespace Sys2Proof.Machine

/-- An aperture that answers performs the access (R389, R420). -/
theorem exec_apertureAccess {s : State} {p off n : Nat} {b : Option (List Byte)} (h : s.barOpen (.aperture p) = true) :
    exec (.hostProgrammedAccess (.aperture p) off b n) s = .next (s.apertureAccess p off b n) :=
  congrArg Host.Outcome.next (if_neg (by simp [h]))

/-- Partition 0 with its root RCB at 0x1000 and the RCB of one tenant below it at 0x1100, which gives group 11 itself and names no save area yet.
Window 0 opens the first 64 KiB to the host's stores. -/
def twoNodes : State :=
  { State.reset with
    chans := [(0, { ChanSt.reset with own := true })],
    parts := [(0, { PartSt.reset with pstate := .active, vf := true, prcb := 0x1000, wins := [(0, { w0 := 0, w1 := 0x8018000000010000, w2 := 0 })] })],
    -- the root's first child; the node's parent, its own groups and its level
    mem := [(0x1009, 0x11), (0x1101, 0x10), (0x1119, 0x08), (0x1124, 0x10)],
    keys := (List.range 512).map (fun i => (i, 0)), boot := { State.reset.boot with step := 5 } }

/-- 48 bytes from the node's save address on: the address of the next line, what is left of the node's line, and 16 bytes of the next line. -/
def saveStore : List Byte := toBytes 8 0x1180 ++ List.replicate 24 0 ++ List.replicate 16 1

theorem twoNodes_tenantNodes : twoNodes.tenantNodes 0 = [0x1100] := by decide +kernel

theorem twoNodes_save : (twoNodes.rcbEff 0x1100).save = 0 := by decide +kernel

/-- The root names key slot 0, under which the memory stands. -/
theorem twoNodes_key : (twoNodes.rcbEff (fld (twoNodes.partn 0).prcb 55 0)).key = 0 := by decide +kernel

/-- Before the store no line is the control block of a spill queue. -/
theorem twoNodes_spillBlockAt (l : Nat) : twoNodes.spillBlockAt l = false := by
  show (false || ((twoNodes.tenantNodes 0).any (fun n => l != 0 && (twoNodes.rcbEff n).save == l) || false)) = false
  rw [twoNodes_tenantNodes]
  cases l with
  | zero => rfl
  | succ n => simp [twoNodes_save]

/-- The store does not read back: bytes 7 to 15 of the second line are as they were. -/
theorem twoNodes_store_lost : (twoNodes.apertureAccess 0 0x1160 (some saveStore) 48).rdMain 0 0x1160 saveStore.length ≠ saveStore := by decide +kernel

/-- Refutes O47: a store whose first line makes its second line the control block of a spill queue does not read back. -/
theorem not_hostPortsAndInterfaces : ¬ Obligations.HostPortsAndInterfaces := by
  unfold Obligations.HostPortsAndInterfaces
  intro h
  obtain ⟨-, -, haccess, -⟩ := h
  obtain ⟨-, -, hstore, -⟩ := haccess twoNodes 0 0x1160 48 0x1160 0 _ _ (by decide) (by decide) rfl (by decide +kernel) rfl (by decide +kernel)
  obtain ⟨w, hw, hread⟩ := hstore saveStore (by decide) (by decide +kernel) (by decide +kernel) (by decide +kernel) (by decide +kernel) (by decide)
    (by decide) twoNodes_spillBlockAt
  have hexec := exec_apertureAccess (s := twoNodes) (p := 0) (off := 0x1160) (n := 48) (b := some saveStore) (by decide)
  have hw' : twoNodes.apertureAccess 0 0x1160 (some saveStore) 48 = w := Host.Outcome.next.inj (hexec.symm.trans hw)
  rw [twoNodes_key, ← hw'] at hread
  exact twoNodes_store_lost hread

end Sys2Proof.Machine
end

section
/-!
PROOFS. Loads and stores of tile space, the vault window and control space (O12): a check that holds leaves the state as it is, and the turn then
completes with what the unit of the region answers.
-/

namespace Sys2Proof.Machine

variable {s s1 s2 u : State}

/-! ## Checks that hold -/

/-- A unit of the core on which the slot is anchored (R1, R259). -/
theorem needUnit_ok {unit : Nat} (h : s.atAnchor) : needUnit unit s = .ok ((), s) := by
  obtain ⟨haway, hbarrel⟩ := h
  simp [needUnit, haway, hbarrel]

theorem alignTo_ok {n op a : Nat} (h : a % n = 0) : alignTo n op a s = .ok ((), s) := by rw [alignTo, if_pos h]; rfl

/-- The region of an address at which nothing stands in the way of an access (R119). -/
theorem accRegion_ok {op a : Nat} {ctl : Bool} {g : Region} (hg : regionOf s.part a = g) (hwhy : regionWhy g ctl = none) :
    accRegion op ctl a s = .ok (g, s) := by
  simp only [accRegion, hg, hwhy]

/-- A release that has nothing to wait for (R126). -/
theorem releaseWait_ok {rel : Bool} (h : rel = true → s.me.ld = 0 ∧ s.me.st = 0) : releaseWait rel s = .ok ((), s) := by
  unfold releaseWait
  cases rel with
  | false => rfl
  | true =>
    obtain ⟨hld, hst⟩ := h rfl
    simp [hld, hst]

/-- A register that takes the value 0 has room for a value. -/
theorem roomG_ok_of_writeG {x : Reg} {r : Unit × State} (h : writeG x 0 s = .ok r) : roomG x s = .ok ((), s) := by
  unfold roomG
  rw [h]

/-! ## LD and ST outside main memory -/

/-- A region whose accesses a tile unit performs: a tile or the vault window (R83, R87). -/
def Region.ofTileUnit : Region → Prop
  | .tile _ _ _ | .vault _ _ => True
  | _ => False

section
variable {m : MemOp} {a : Nat} (hn : s.namesOk [m.d, m.b, m.t]) (hea : memEa m s = .ok (a, s1)) (ha : a % m.size = 0)
include hn hea ha

/-- A load of control space writes what the register at its offset reads (R3, R125). -/
theorem ld_control {q : LoadQ} {off : Nat} (hg : regionOf s1.part a = .control off) :
    writesG (.ld m q) s s1 m.d
      (extend q.sx m.size (ofBytes (s1.ctlBytes (s1.privileged s1.me) s1.me.tenid s1.me.ptag off m.size))) := by
  intro t ht
  refine issueOp_ok ?_
  rw [op_bind_ok (gate_ok hn), op_bind_ok hea, op_bind_ok (alignTo_ok ha), op_bind_ok (accRegion_ok hg rfl)]
  exact ht

/-- A load of a tile or of the vault window writes what its unit answers (R87). -/
theorem ld_unit {q : LoadQ} {g : Region} {b : List Byte} (hg : regionOf s1.part a = g) (hwhy : regionWhy g true = none) (hunit : g.ofTileUnit)
    (hroom : roomG m.d s1 = .ok ((), s1)) (hb : tileBytes s g 0 a m.size s1 = .ok (b, u)) :
    writesG (.ld m q) s u m.d (extend q.sx m.size (ofBytes b)) := by
  intro t ht
  refine issueOp_ok ?_
  rw [op_bind_ok (gate_ok hn), op_bind_ok hea, op_bind_ok (alignTo_ok ha), op_bind_ok (accRegion_ok hg hwhy)]
  cases g with
  | tile _ _ _ | vault _ _ => exact (op_bind_ok hroom).trans ((op_bind_ok hb).trans ht)
  | _ => exact hunit.elim

variable {rel : Bool} {x : Word} (hrel : rel = true → s1.me.ld = 0 ∧ s1.me.st = 0) (hx : readG m.d s1 = .ok (x, s2))
include hrel hx

/-- A store of 8 bytes to control space writes the register at its offset, and a smaller one nothing (R3). -/
theorem st_control {off : Nat} (hg : regionOf s1.part a = .control off) :
    completes (.st m rel) s (if m.size = 8 then s2.ctlStore (s2.privileged s2.me) s2.me.tenid off x else s2) := by
  refine issueOp_ok ?_
  rw [op_bind_ok (gate_ok hn), op_bind_ok hea, op_bind_ok (alignTo_ok ha), op_bind_ok (accRegion_ok hg rfl)]
  show (releaseWait rel >>= _) s1 = _
  rw [op_bind_ok (releaseWait_ok hrel), op_bind_ok hx]
  split <;> rfl

/-- A store to a tile or to the vault window completes with what its unit makes of the bytes (R83). -/
theorem st_unit {g : Region} (hg : regionOf s1.part a = g) (hwhy : regionWhy g true = none) (hunit : g.ofTileUnit)
    (hw : tileWrite s g 1 a (fun b => storeUpds ((List.range m.size).map (b + ·) |>.zip (toBytes m.size x.toNat))) s2 = .ok ((), u)) :
    completes (.st m rel) s u := by
  refine issueOp_ok ?_
  rw [op_bind_ok (gate_ok hn), op_bind_ok hea, op_bind_ok (alignTo_ok ha), op_bind_ok (accRegion_ok hg hwhy)]
  cases g with
  | tile _ _ _ | vault _ _ => exact (op_bind_ok (releaseWait_ok hrel)).trans ((op_bind_ok hx).trans hw)
  | _ => exact hunit.elim
end

/-- Settles O12: by the region of the address, which is control space, a tile or the vault window. -/
theorem tileAndControlAccessCompletes : Obligations.TileAndControlAccessCompletes := by
  unfold Obligations.TileAndControlAccessCompletes
  refine ⟨fun s s1 u m q a g b hn hea ha hg hwhy hmain hans => ?_, fun s s1 s2 m rel a g x hn hea ha hg hwhy hmain hrel hx => ?_⟩
  · cases g with
    | main => exact absurd rfl hmain
    | malformed | host _ _ => cases hwhy
    | control off =>
      obtain ⟨rfl, rfl⟩ := hans
      exact ld_control hn hea ha hg
    | tile k t o => exact ld_unit hn hea ha hg hwhy trivial hans.1 hans.2
    | vault k o => exact ld_unit hn hea ha hg hwhy trivial hans.1 hans.2
  · cases g with
    | main => exact absurd rfl hmain
    | malformed | host _ _ => cases hwhy
    | control off => exact st_control hn hea ha hrel hx hg
    | tile k t o => exact fun u hw => st_unit hn hea ha hrel hx hg hwhy trivial hw
    | vault k o => exact fun u hw => st_unit hn hea ha hrel hx hg hwhy trivial hw

end Sys2Proof.Machine
end

section
/-!
PROOFS. Updates of tiles (O18): what the tile unit does with an update by the state of the tile (R72, R77, R83-R86), and what an update of a frame
leaves of memory.
-/

namespace Sys2Proof.Machine

variable {s s0 s1 u w : State} {q t b a code : Nat}

/-! ## Bytes of a granule -/

theorem length_toBytes (n x : Nat) : (toBytes n x).length = n := by
  induction n generalizing x with
  | zero => rfl
  | succ n ih => rw [toBytes, List.length_cons, ih]

theorem ofBytes_toBytes (n x : Nat) : ofBytes (toBytes n x) = x % 256 ^ n := by
  induction n generalizing x with
  | zero => rw [Nat.pow_zero, Nat.mod_one]; rfl
  | succ n ih =>
    rw [Nat.pow_succ', Nat.mod_mul, toBytes, ofBytes, ih, BitVec.toNat_ofNat]

/-- A granule just written, in a memory of canonical form. -/
theorem granOf_wrBytes {m : List Host.Cell} {g : Nat} (x : Granule) (h : memWf m = true) :
    granOf (wrBytes m (16 * g) (toBytes 16 x.toNat)) g = x := by
  have hread := rdBytes_wrBytes (16 * g) (toBytes 16 x.toNat) h
  rw [length_toBytes] at hread
  have hlt : x.toNat < 256 ^ 16 := x.isLt
  rw [granOf, hread, ofBytes_toBytes, Nat.mod_eq_of_lt hlt, BitVec.ofNat_toNat, BitVec.setWidth_eq]

/-! ## The frame of a tile (R85) -/

/-- The caches below the L1 hold no granule of a vault (R48). -/
theorem State.noteBits_vault {g : Nat} (h : 2 ^ 44 ≤ g) : s.noteBits g = s := if_neg (Nat.not_lt.mpr h)

/-- The poison of a granule of a vault changes nothing else (R67). -/
theorem State.setPoison_vault (p : Bool) (h : 2 ^ 48 ≤ a) :
    s.setPoison a p = { s with poison := if p then insNat (a / 16) s.poison else delNat (a / 16) s.poison } := by
  have hkey : poisonKey a = a / 16 := if_neg (Nat.not_lt.mpr h)
  have hnote : s.noteBits (a / 16) = s := State.noteBits_vault (by omega)
  simp only [State.setPoison, hkey, hnote]

/-- An update of data, one that is no FILL and no EMPTY, at a granule of a vault: its bytes, and the poison that a whole STORE clears (R79, R85). -/
theorem State.applyUpd_data {ty op : Nat} {mask : BitVec 16} {data : Granule} (whole : Bool) (ha : 2 ^ 48 ≤ a) (hfill : op ≠ opFill)
    (hempty : op ≠ opEmpty) :
    s.applyUpd a ty op mask data whole =
      { s with mem := wrBytes s.mem a (toBytes 16 (applyData (granOf s.mem (a / 16)) ty op mask data).toNat),
               poison := if whole then delNat (a / 16) s.poison else s.poison } := by
  rw [State.applyUpd, if_neg hfill, if_neg hempty]
  cases whole with
  | false => rfl
  | true => exact State.setPoison_vault false ha

/-- Such an update alone in a frame: it changes no full/empty bit, so that no wait list is served (R88). -/
theorem State.applyUpds_data {base : Nat} {x : Upd} (ha : 2 ^ 48 ≤ base + 16 * x.gran) (hfill : x.op ≠ opFill) (hempty : x.op ≠ opEmpty) :
    s.applyUpds q base [x] = s.applyUpd (base + 16 * x.gran) x.ty x.op x.mask x.data (x.op == opStore && x.mask == BitVec.allOnes 16) := by
  rw [State.applyUpds, List.foldl_cons, List.foldl_nil]
  dsimp only
  rw [State.applyUpd_data _ ha hfill hempty]
  exact if_pos (beq_self_eq_true _)

/-- Every frame lies in a vault, at a multiple of 16. -/
theorem TileEnt.base_eq (e : TileEnt) (q : Nat) : e.base q = 16 * (2 ^ 44 + q * 2 ^ 18 + 256 * e.frame) := by
  simp only [TileEnt.base, vaultAddr]
  omega

/-! ## The tile unit (R72, R77, R83) -/

theorem tileWrite_refused {us : Nat → List Upd} {why : Nat} (h : s.tileRefused s.me.ptag s.me.tenid q t = some why) :
    tileWrite s0 (.tile q t b) code a us s = .error (.trap .confine (BitVec.ofNat 64 a) (accInfo code why false)) := by
  simp only [tileWrite, h]
  rfl

section
variable {us : Nat → List Upd} (hown : s.tileRefused s.me.ptag s.me.tenid q t = none) (hclear : s.tileClear s.me.core q = true)
include hown hclear

theorem tileWrite_done (h : s.tileUpdate q t (us b) = .done w) : tileWrite s0 (.tile q t b) code a us s = .ok ((), w) := by
  simp only [tileWrite, hown, hclear, h]
  rfl

theorem tileWrite_hold (h : s.tileUpdate q t (us b) = .hold w) :
    tileWrite s0 (.tile q t b) code a us s = holdOn s0 q t (((s.squad q).tile t).st != .leaving) s := by
  simp only [tileWrite, hown, hclear, h]
  rfl
end

theorem State.tileUpdate_resident {us : List Upd} (h : ((s.squad q).tile t).st = .resident) :
    s.tileUpdate q t us = .done ((s.touch q t).applyUpds q (((s.squad q).tile t).base q) us) := by
  simp only [State.tileUpdate, h]

theorem State.tileUpdate_leaving {us : List Upd} (h : ((s.squad q).tile t).st = .leaving) : s.tileUpdate q t us = .hold s := by
  simp only [State.tileUpdate, h]

theorem State.tileUpdate_logged {us : List Upd} (h : ((s.squad q).tile t).st = .absent ∨ ((s.squad q).tile t).st = .arriving)
    (hlog : s.append? q t us = some w) : s.tileUpdate q t us = .done w := by
  obtain h | h := h <;> simp only [State.tileUpdate, h, hlog]

/-- The entry just changed. -/
@[simp] theorem State.modTile_tile_self (s : State) (q t : Nat) (f : TileEnt → TileEnt) :
    ((s.modTile q t f).squad q).tile t = f ((s.squad q).tile t) := by
  rw [State.modTile, State.modSquad_squad_self]
  exact Tbl.getD_put_self _ _ _ _

/-- An update that a log takes changes the log of its tile: no byte of memory, and not the tile's state (R83, R84). -/
theorem State.append?_one {x : Upd} (h : s.append? q t [x] = some w) :
    w.mem = s.mem ∧ ((w.squad q).tile t).st = ((s.squad q).tile t).st := by
  unfold State.append? at h
  extract_lets step r at h
  obtain ⟨o, ho⟩ := s.choose_eq 8192
  have hsquad : (s.choose 8192).2.squad q = s.squad q := by rw [ho]; rfl
  split at h
  · rw [← Option.some.inj h]
    refine ⟨?_, ?_⟩
    · show (s.choose 8192).2.mem = s.mem
      rw [ho]
    · rw [← hsquad]
      simp only [r, step, List.foldl_cons, List.foldl_nil, State.modSquad_squad_self, SquadSt.tile, SquadSt.modTile, Tbl.getD_put_self]
  · cases h

/-! ## The instructions (R133, R134) -/

theorem tileAt_ok (h : regionOf s.part a = .tile q t b) : tileAt code a s = .ok ((q, t, b), s) := by
  simp only [tileAt, h]

/-- The update of `n` bytes of `y` at byte `o` of a tile (R133, R134). -/
def updAt (ty op n : Nat) (y : Word) (o : Nat) : List Upd :=
  [{ gran := o / 16, ty := ty, op := op, mask := maskOf (o % 16) n, data := BitVec.ofNat 128 (y.toNat % 256 ^ n * 256 ^ (o % 16)) }]

theorem tileUpd_ok {op ty n : Nat} {d sr : Reg} {x y : Word} (hs : s.atAnchor) (hx : readG sr s = .ok (x, s1)) (ha : addr56 x % n = 0)
    (ht : regionOf s1.part (addr56 x) = .tile q t b) (hy : readG d s1 = .ok (y, u))
    (hw : tileWrite s (.tile q t b) 7 (addr56 x) (updAt ty op n y) u = .ok ((), w)) :
    tileUpd op ty n d sr s = .next (w.modMe Ctx.issue) := by
  refine issueOp_ok ?_
  rw [op_bind_ok (needUnit_ok hs), op_bind_ok hx, op_bind_ok (alignTo_ok ha), op_bind_ok (tileAt_ok ht), op_bind_ok hy]
  exact hw

/-- Settles O18: every update instruction is `tileUpd`, and the tile unit does with an update what the state of the tile says. -/
theorem tileUpdates : Obligations.TileUpdates := by
  unfold Obligations.TileUpdates
  refine ⟨fun s s1 u w d sr x y q t b hs hx => ?instructions, fun s0 s q t b code a x hmem hb hx => ⟨fun why => tileWrite_refused,
    fun hown hclear => ⟨fun hres hfill hempty => ?resident, fun hst r hr => ?logged, fun hst => ?leaving⟩⟩⟩
  case instructions =>
    intro a ht hy upd
    and_intros <;> exact fun ha hw => tileUpd_ok hs hx ha ht hy hw
  case resident =>
    have hbase : ((s.squad q).tile t).base q + 16 * x.gran = 16 * (2 ^ 44 + q * 2 ^ 18 + 256 * ((s.squad q).tile t).frame + x.gran) := by
      rw [TileEnt.base_eq]
      omega
    have hdone := State.tileUpdate_resident (us := [x]) hres
    rw [State.applyUpds_data (by omega) hfill hempty, State.applyUpd_data _ (by omega) hfill hempty] at hdone
    refine ⟨_, tileWrite_done hown hclear hdone, ?_, fun i hi => ?_⟩
    · show granOf (wrBytes s.mem (((s.squad q).tile t).base q + 16 * x.gran) _) _ = _
      rw [hbase, Nat.mul_div_cancel_left _ (by decide)]
      exact granOf_wrBytes _ hmem
    · exact rd8_wrBytes_out _ _ (by rw [length_toBytes]; exact hi)
  case logged =>
    exact ⟨tileWrite_done hown hclear (State.tileUpdate_logged hst hr), State.append?_one hr⟩
  case leaving =>
    refine ⟨s0.modMe (fun c => ({ c with wait := .tile q t } : Ctx).bubble),
      (tileWrite_hold hown hclear (State.tileUpdate_leaving hst)).trans ?_, rfl, rfl⟩
    rw [hst]
    rfl

end Sys2Proof.Machine
end

section
/-!
PROOFS. Pins, fetches and departures of tiles (O19): what a claim of a frame changes (R78), and with it the fetches; then the turn of each
instruction.
-/

namespace Sys2Proof.Machine

variable {s u : State} {q t v : Nat}

/-! ## Entries of a squad -/

/-- A change of an entry keeps, of every entry of the squad, what it keeps of that one. -/
theorem State.modTile_tile_keeps {α : Type} {f : TileEnt → TileEnt} (p : TileEnt → α) (hf : ∀ e, p (f e) = p e) :
    p (((s.modTile q v f).squad q).tile t) = p ((s.squad q).tile t) := by
  by_cases h : t = v
  · rw [h, State.modTile_tile_self, hf]
  · rw [State.modTile, State.modSquad_squad_self]
    exact congrArg p (Tbl.getD_put_ne _ _ _ h)

/-- Every other entry. -/
theorem State.modTile_tile_ne {f : TileEnt → TileEnt} (h : t ≠ v) : ((s.modTile q v f).squad q).tile t = (s.squad q).tile t := by
  rw [State.modTile, State.modSquad_squad_self]
  exact Tbl.getD_put_ne _ _ _ h

/-! ## Victims and claims (R76, R78) -/

theorem oldest_mem {l : List (Nat × TileEnt)} {p : Nat × TileEnt} (h : oldest l = some p) : p ∈ l := by
  induction l generalizing p with
  | nil => cases h
  | cons x r ih =>
    simp only [oldest] at h
    split at h
    · cases h
      exact List.mem_cons_self
    · next y hy =>
      split at h <;> cases h
      · exact List.mem_cons_self
      · exact List.mem_cons_of_mem _ (ih hy)

/-- A victim is not held (R78). -/
theorem State.held_of_victim (h : s.victim q = some v) : s.held q v = false := by
  obtain ⟨p, hp, rfl⟩ := Option.map_eq_some_iff.mp h
  have hcond := (List.mem_filter.mp (oldest_mem hp)).2
  simpa using (Bool.and_eq_true_iff.mp hcond).2

/-- A claim takes a free frame, starts the departure of a victim, or finds neither (R78). -/
theorem State.claim_cases (s : State) (q t : Nat) :
    (∃ o n, s.claim q t = ({ s with oracle := o } : State).modTile q t (fun e => { e with frame := n, framed := true })) ∨
      (∃ v, s.victim q = some v ∧ s.claim q t = s.depart q v) ∨ s.claim q t = s := by
  unfold State.claim
  split
  · next f r _ =>
    obtain ⟨o, ho⟩ := s.choose_eq (r.length + 1)
    exact .inl ⟨o, (f :: r).getD (s.choose (r.length + 1)).1 f, by rw [← ho]⟩
  · split
    · next v hv => exact .inr (.inl ⟨v, hv, rfl⟩)
    · exact .inr (.inr rfl)

/-- A claim changes the entries of the squad and the list of choices alone. -/
theorem State.claim_eq (s : State) (q t : Nat) : ∃ o l, s.claim q t = { s with oracle := o, squads := l } := by
  obtain ⟨o, n, h⟩ | ⟨v, -, h⟩ | h := s.claim_cases q t
  · exact ⟨o, _, h⟩
  · exact ⟨s.oracle, _, h⟩
  · exact ⟨s.oracle, s.squads, h⟩

/-- A claim keeps, of every entry, what neither the gain of a frame nor the start of a departure changes. -/
theorem State.claim_tile_keeps {α : Type} (p : TileEnt → α) (hframe : ∀ e n, p { e with frame := n, framed := true } = p e)
    (hleave : ∀ e, p { e with st := .leaving } = p e) : p (((s.claim q v).squad q).tile t) = p ((s.squad q).tile t) := by
  obtain ⟨o, n, h⟩ | ⟨x, -, h⟩ | h := s.claim_cases q v
  · rw [h]
    exact State.modTile_tile_keeps p fun e => hframe e n
  · rw [h]
    exact State.modTile_tile_keeps p hleave
  · rw [h]

/-- No claim starts the departure of a tile that is held (R76). -/
theorem State.claim_st_of_held (h : s.held q t = true) : (((s.claim q v).squad q).tile t).st = ((s.squad q).tile t).st := by
  obtain ⟨o, n, hc⟩ | ⟨x, hx, hc⟩ | hc := s.claim_cases q v
  · rw [hc]
    exact State.modTile_tile_keeps TileEnt.st fun _ => rfl
  · have hne : t ≠ x := fun e => by rw [e, State.held_of_victim hx] at h; cases h
    rw [hc, State.depart, State.modTile_tile_ne hne]
  · rw [hc]

/-! ## Fetches (R77, R78) -/

theorem State.startFetch_eq (s : State) (q t : Nat) : ∃ o l, s.startFetch q t = { s with oracle := o, squads := l } :=
  State.claim_eq _ q t

/-- A tile whose fetch has started is ARRIVING: an arriving tile is held, so that its own claim evicts another (R76, R78). -/
theorem State.startFetch_st : (((s.startFetch q t).squad q).tile t).st = .arriving := by
  have hst : (((s.modTile q t (fun e => { e with st := .arriving, framed := false })).squad q).tile t).st = .arriving := by simp
  have hheld : (s.modTile q t (fun e => { e with st := .arriving, framed := false })).held q t = true := by
    simp only [State.held, hst]
    simp
  rw [State.startFetch, State.claim_st_of_held hheld, hst]

theorem State.startFetch_pins : (((s.startFetch q t).squad q).tile t).pins = ((s.squad q).tile t).pins :=
  (State.claim_tile_keeps TileEnt.pins (fun _ _ => rfl) (fun _ => rfl)).trans (State.modTile_tile_keeps TileEnt.pins fun _ => rfl)

/-- A fetch that an access forces changes squads and the list of choices alone. -/
theorem State.forceFetch_eq (s : State) (q t : Nat) : ∃ o l, s.forceFetch q t = { s with oracle := o, squads := l } := by
  unfold State.forceFetch
  split
  · obtain ⟨o, l, h⟩ := s.startFetch_eq q t
    rw [h]
    exact ⟨o, _, rfl⟩
  · exact ⟨s.oracle, s.squads, rfl⟩

/-- The fetches that try again for a frame change no byte of memory and no pin count. -/
theorem State.retryClaims_keeps (s : State) (q t : Nat) :
    (s.retryClaims q).mem = s.mem ∧ (((s.retryClaims q).squad q).tile t).pins = ((s.squad q).tile t).pins := by
  unfold State.retryClaims
  refine List.foldlRecOn _ _ (motive := fun (x : State) => x.mem = s.mem ∧ ((x.squad q).tile t).pins = ((s.squad q).tile t).pins)
    ⟨rfl, rfl⟩ fun x ⟨hmem, hpins⟩ p _ => ⟨?_, ?_⟩
  · obtain ⟨o, l, h⟩ := x.claim_eq q p.1
    rw [h]
    exact hmem
  · exact (State.claim_tile_keeps TileEnt.pins (fun _ _ => rfl) (fun _ => rfl)).trans hpins

/-- A count of an arrival changes neither the state nor the pins of the tile. -/
theorem State.countArrival_tile :
    (((s.countArrival q t).squad q).tile t).st = ((s.squad q).tile t).st ∧
      (((s.countArrival q t).squad q).tile t).pins = ((s.squad q).tile t).pins :=
  ⟨State.modTile_tile_keeps TileEnt.st fun _ => rfl, State.modTile_tile_keeps TileEnt.pins fun _ => rfl⟩

/-! ## Checks of the tile instructions -/

/-- A read of a register changes no byte of memory. -/
theorem readG_mem {d : Reg} {x : Word} (h : readG d s = .ok (x, u)) : u.mem = s.mem := by
  have hplace (c : Ctx) : (s.place c).mem = s.mem := by
    obtain ⟨m, l, e⟩ := s.place_eq c
    rw [e]
  have hpop (k : Fin 4) : (s.popWord s.me k).mem = s.mem := by
    unfold State.popWord
    dsimp only
    split
    · rfl
    · split <;> exact hplace _
  unfold readG at h
  split at h
  · cases h; rfl
  split at h
  · unfold popBq at h
    split at h <;> cases h
    rfl
  split at h
  · unfold popPort at h
    dsimp only at h
    split at h
    · cases h
    split at h
    · cases h
    split at h <;> cases h
    exact hpop _
  · unfold readPlain at h
    split at h
    · cases h
    split at h <;> cases h
    rfl

theorem roomTl_ok (h : s.me.tl < 63) : roomTl s = .ok ((), s) := if_pos h

theorem illegalIf_ok {c : Bool} (h : c = false) : illegalIf c s = .ok ((), s) := by rw [h]; rfl

/-- A tile that the issuer may use, with no earlier update of its core under way to it (R68, R72). -/
theorem owned_ok {code a : Nat} (hown : s.tileRefused s.me.ptag s.me.tenid q t = none) (hclear : s.tileClear s.me.core q = true) :
    owned code a q t s = .ok ((), s) := by
  simp only [owned, hown, hclear]
  rfl

/-! ## The instructions -/

/-- TPIN of a tile that is not LEAVING: one pin more; an ABSENT tile whose pins count is fetched, and an arrival is counted (R76, R135). -/
def State.pinTile (s : State) (q t : Nat) : State :=
  let e := (s.squad q).tile t
  let s1 := s.modTile q t (fun e => { e with pins := e.pins + 1 })
  let s2 := if e.st = .absent ∧ e.sus = false then s1.startFetch q t else s1
  if ((s2.squad q).tile t).st = .arriving then s2.countArrival q t else s2

theorem State.pinTile_pins : (((s.pinTile q t).squad q).tile t).pins = ((s.squad q).tile t).pins + 1 := by
  have hself : (((s.modTile q t (fun e => { e with pins := e.pins + 1 })).squad q).tile t).pins = ((s.squad q).tile t).pins + 1 := by simp
  unfold State.pinTile
  extract_lets e s1 s2
  have h2 : ((s2.squad q).tile t).pins = ((s.squad q).tile t).pins + 1 := by
    simp only [s2]
    split
    · exact State.startFetch_pins.trans hself
    · exact hself
  split
  · exact State.countArrival_tile.2.trans h2
  · exact h2

theorem State.pinTile_mem : (s.pinTile q t).mem = s.mem := by
  unfold State.pinTile
  extract_lets e s1 s2
  have h2 : s2.mem = s.mem := by
    simp only [s2]
    split
    · obtain ⟨o, l, h⟩ := s1.startFetch_eq q t
      rw [h]
      rfl
    · rfl
  split
  · exact h2
  · exact h2

/-- A pin of a tile that is not ABSENT starts no fetch, and counts the arrival of one that is under way. -/
theorem State.pinTile_tl (h : ((s.squad q).tile t).st ≠ .absent) :
    (s.pinTile q t).me.tl = if ((s.squad q).tile t).st = .arriving then s.me.tl + 1 else s.me.tl := by
  have hst : (((s.modTile q t (fun e => { e with pins := e.pins + 1 })).squad q).tile t).st = ((s.squad q).tile t).st := by simp
  simp only [State.pinTile, h, false_and, if_false, hst]
  split <;> rfl

/-- TFETCH of a tile that is not RESIDENT: an ABSENT one is fetched, and the arrival is counted (R135). -/
def State.fetchTile (s : State) (q t : Nat) : State :=
  (if ((s.squad q).tile t).st = .absent then s.startFetch q t else s).countArrival q t

theorem State.fetchTile_keeps : (s.fetchTile q t).mem = s.mem ∧ (s.fetchTile q t).me.tl = s.me.tl + 1 := by
  unfold State.fetchTile
  split
  · obtain ⟨o, l, h⟩ := s.startFetch_eq q t
    rw [h]
    exact ⟨rfl, rfl⟩
  · exact ⟨rfl, rfl⟩

theorem State.fetchTile_st (h : ((s.squad q).tile t).st = .absent) : (((s.fetchTile q t).squad q).tile t).st = .arriving := by
  rw [State.fetchTile, if_pos h, State.countArrival_tile.1, State.startFetch_st]

/-- TEVICT of a tile that may depart: it is LEAVING, and its end is counted (R135). -/
def State.evictTile (s : State) (q t : Nat) : State :=
  ((s.depart q t).modTile q t (fun e => { e with tlAbs := e.tlAbs ++ [s.me.cid] })).modMe (fun c => { c with tl := c.tl + 1 })

theorem State.evictTile_st : (((s.evictTile q t).squad q).tile t).st = .leaving := by
  show ((((s.depart q t).modTile q t _).squad q).tile t).st = _
  rw [State.modTile_tile_self, State.depart, State.modTile_tile_self]

section
variable {d sr : Reg} {x : Word} {b : Nat} (hs : s.atAnchor) (hx : readG sr s = .ok (x, u)) (ht : regionOf u.part (addr56 x) = .tile q t b)
include hs hx ht

/-- The start of every instruction of a tile: its register is read, and names the tile (R1, R119). -/
theorem op_tile {code : Nat} {f : Word → Nat × Nat × Nat → Op Unit} :
    (needUnit 3 >>= fun _ => readG sr >>= fun y => tileAt code (addr56 y) >>= f y) s = f x (q, t, b) u := by
  rw [op_bind_ok (needUnit_ok hs), op_bind_ok hx, op_bind_ok (tileAt_ok ht)]

theorem tunpin_none (hpins : ((u.squad q).tile t).pins = 0) :
    exec (.tunpin sr) s = .next (s.takeTrap .illegal 0 (illegalInfo u 0x0E) false) := by
  refine issueOp_trap ?_
  refine (op_tile hs hx ht).trans ?_
  rw [op_bind_ok (getS_apply u)]
  refine op_bind_error ?_
  rw [hpins]
  rfl

variable (hown : u.tileRefused u.me.ptag u.me.tenid q t = none) (hclear : u.tileClear u.me.core q = true)
include hown hclear

/-- The same, up to the owner test (R72). -/
theorem op_ownedTile {code : Nat} {f : Word → Nat × Nat × Nat → Op Unit} :
    (needUnit 3 >>= fun _ => readG sr >>= fun y => tileAt code (addr56 y) >>= fun z => owned code (addr56 y) z.1 z.2.1 >>= fun _ => f y z) s =
      f x (q, t, b) u := by
  rw [op_tile hs hx ht, op_bind_ok (owned_ok hown hclear)]

theorem tpin_completes (hst : ((u.squad q).tile t).st ≠ .leaving) (hpins : ((u.squad q).tile t).pins < 255)
    (hframes : (u.squad q).pinnedTiles < 1016) (htl : u.me.tl < 63) : completes (.tpin sr) s (u.pinTile q t) := by
  have hlegal : (decide (((u.squad q).tile t).pins ≥ 255) ||
      (!((u.squad q).tile t).sus && ((u.squad q).tile t).pins == 0 && decide ((u.squad q).pinnedTiles ≥ 1016))) = false := by
    simp [hpins, hframes]
  refine issueOp_ok ?_
  refine (op_tile hs hx ht).trans ?_
  rw [op_bind_ok (getS_apply u), op_bind_ok (illegalIf_ok hlegal), op_bind_ok (owned_ok hown hclear), if_neg hst]
  split
  · rw [op_bind_ok (roomTl_ok htl)]
    rfl
  · rfl

theorem tunpin_completes (hpins : 0 < ((u.squad q).tile t).pins) :
    completes (.tunpin sr) s ((u.modTile q t (fun e => { e with pins := e.pins - 1 })).retryClaims q) := by
  have hlegal : (((u.squad q).tile t).pins == 0) = false := by simp; omega
  refine issueOp_ok ?_
  refine (op_tile hs hx ht).trans ?_
  rw [op_bind_ok (getS_apply u), op_bind_ok (illegalIf_ok hlegal), op_bind_ok (owned_ok hown hclear)]
  rfl

theorem tfetch_resident (hst : ((u.squad q).tile t).st = .resident) : completes (.tfetch sr) s u := by
  refine issueOp_ok ?_
  refine (op_ownedTile hs hx ht hown hclear).trans ?_
  rw [op_bind_ok (getS_apply u), if_pos hst]
  rfl

theorem tfetch_completes (hst : ((u.squad q).tile t).st ≠ .resident) (htl : u.me.tl < 63) : completes (.tfetch sr) s (u.fetchTile q t) := by
  refine issueOp_ok ?_
  refine (op_ownedTile hs hx ht hown hclear).trans ?_
  rw [op_bind_ok (getS_apply u), if_neg hst, op_bind_ok (roomTl_ok htl)]
  rfl

theorem tevict_departs (hst : ((u.squad q).tile t).st = .resident) (hheld : u.held q t = false) (htl : u.me.tl < 63) :
    writesG (.tevict d sr) s (u.evictTile q t) d 1 := by
  intro w hw
  refine issueOp_ok ?_
  refine (op_ownedTile hs hx ht hown hclear).trans ?_
  rw [op_bind_ok (getS_apply u), if_pos ⟨hst, hheld⟩, op_bind_ok (roomTl_ok htl)]
  exact hw

theorem tevict_stays (h : ((u.squad q).tile t).st ≠ .resident ∨ u.held q t = true) : writesG (.tevict d sr) s u d 0 := by
  have hno : ¬ (((u.squad q).tile t).st = .resident ∧ u.held q t = false) := fun ⟨hst, hheld⟩ =>
    h.elim (· hst) fun hh => by rw [hheld] at hh; cases hh
  intro w hw
  refine issueOp_ok ?_
  refine (op_ownedTile hs hx ht hown hclear).trans ?_
  rw [op_bind_ok (getS_apply u), if_neg hno, hw]

theorem tstat_writes : writesG (.tstat d sr) s u d ((u.squad q).tile t).word := by
  intro w hw
  refine issueOp_ok ?_
  refine (op_ownedTile hs hx ht hown hclear).trans ?_
  rw [op_bind_ok (getS_apply u), hw]

theorem tsync_resident (hst : ((u.squad q).tile t).st = .resident) : writesG (.tsync d sr) s u d 0 := by
  intro w hw
  refine issueOp_ok ?_
  refine (op_ownedTile hs hx ht hown hclear).trans ?_
  rw [op_bind_ok (roomG_ok_of_writeG hw), op_bind_ok (getS_apply u)]
  dsimp only
  rw [hst]
  exact hw

theorem tsync_waits (hst : ((u.squad q).tile t).st = .absent ∨ ((u.squad q).tile t).st = .arriving) (hroom : roomG d u = .ok ((), u)) :
    exec (.tsync d sr) s = .next ((s.forceFetch q t).modMe (fun c => ({ c with wait := .tsync q t d (popsOf [sr]) } : Ctx).bubble)) := by
  refine issueOp_go ?_
  refine (op_ownedTile hs hx ht hown hclear).trans ?_
  rw [op_bind_ok hroom, op_bind_ok (getS_apply u)]
  dsimp only
  obtain h | h := hst <;> rw [h] <;> rfl
end

/-- Settles O19: one rule for each instruction and state of the tile. -/
theorem tileResidencyControl : Obligations.TileResidencyControl := by
  unfold Obligations.TileResidencyControl
  intro s u d sr x q t b hs hx a e ht hown hclear
  have hmem := readG_mem hx
  refine ⟨fun hst hpins hframes htl => ?tpin, fun hpins => ?tunpin, tunpin_none hs hx ht, tfetch_resident hs hx ht hown hclear,
    fun hst htl => ?tfetch, fun hst hheld htl => ?tevict, tevict_stays hs hx ht hown hclear, tstat_writes hs hx ht hown hclear,
    tsync_resident hs hx ht hown hclear, fun hst hroom => ?tsync⟩
  case tpin =>
    refine ⟨_, tpin_completes hs hx ht hown hclear hst hpins hframes htl, State.pinTile_pins, State.pinTile_mem.trans hmem, fun h => ?_,
      fun h => ?_⟩
    · rw [State.pinTile_tl (by rw [h]; decide), h]
      rfl
    · rw [State.pinTile_tl (by rw [h]; decide), h]
      rfl
  case tunpin =>
    obtain ⟨hm, hp⟩ := State.retryClaims_keeps (u.modTile q t (fun e => { e with pins := e.pins - 1 })) q t
    exact ⟨_, tunpin_completes hs hx ht hown hclear hpins, hp.trans (by rw [State.modTile_tile_self]), hm.trans hmem⟩
  case tfetch =>
    obtain ⟨hm, htl'⟩ := u.fetchTile_keeps (q := q) (t := t)
    exact ⟨_, tfetch_completes hs hx ht hown hclear hst htl, htl', hm.trans hmem, State.fetchTile_st⟩
  case tevict =>
    exact ⟨_, tevict_departs hs hx ht hown hclear hst hheld htl, rfl, State.evictTile_st, hmem⟩
  case tsync =>
    obtain ⟨o, l, h⟩ := s.forceFetch_eq q t
    refine ⟨_, tsync_waits hs hx ht hown hclear hst hroom, rfl, ?_, ?_⟩ <;> rw [h] <;> rfl

end Sys2Proof.Machine
end

section
/-!
PROOFS. The end of a departure (O25). The statement speaks of every state, also of one whose table of residency entries lists a tile twice. There a
fetch that waits for a frame may take the second entry, which is RESIDENT, as its victim, and start the departure of the tile that has just become
ABSENT.
-/

namespace Sys2Proof.Machine

/-- Squad 0 lists tile 0 twice, in state `st` and RESIDENT, then the entries `l`, and then tile 1,025, which waits for a frame. -/
def doubled (st : TileSt) (l : Tbl TileEnt) : State :=
  { State.reset with
    squads := [(0, { SquadSt.reset with
      tiles := (0, { TileEnt.reset with st := st }) :: (0, { TileEnt.reset with st := .resident }) ::
        (l ++ [(1025, { TileEnt.reset with st := .arriving })]) })] }

/-- Tiles 1 to 1,024 are LEAVING, one in each frame. -/
def busyFrames : Tbl TileEnt := (List.range 1024).map (fun i => (i + 1, { TileEnt.reset with st := .leaving, frame := i }))

theorem busyFrames_leaving : ∀ x ∈ busyFrames, x.2.st = .leaving := by
  intro x hx
  obtain ⟨i, -, rfl⟩ := List.mem_map.mp hx
  rfl

theorem busyFrames_frame {i : Nat} (h : i < 1024) : ∃ x ∈ busyFrames, x.2.frame = i :=
  ⟨_, List.mem_map.mpr ⟨i, List.mem_range.mpr h, rfl⟩, rfl⟩

/-- A claim in a squad without a free frame starts the departure of the victim (R78). -/
theorem State.claim_of_victim {s : State} {q t v : Nat} (hfull : (s.squad q).freeFrames = []) (hv : s.victim q = some v) :
    s.claim q t = s.depart q v := by
  unfold State.claim
  split
  · next hf => rw [hfull] at hf; cases hf
  · rw [hv]

section
variable {st : TileSt} {l : Tbl TileEnt}

/-! ## The write-back -/

/-- No channel has an owner, so that the home of every line refuses a request (R46). -/
theorem doubled_refused46 (part a : Nat) : (doubled st l).refused46 part a = true := rfl

theorem doubled_linesOut (part key src dst : Nat) (r : List Nat) :
    r.foldl (fun u i => u.lineOut part key (src + 128 * i) (dst + 128 * i)) (doubled st l) = doubled st l := by
  refine List.foldl_fixed' (fun i => ?_) r
  rw [State.lineOut, doubled_refused46]
  rfl

/-- No snapshot is taken and no slice holds a line, so that every line is ready. -/
theorem doubled_linesReady (a n : Nat) : (doubled st l).linesReady a true n = some (doubled st l) := by
  induction n with
  | zero => rfl
  | succ n ih =>
    rw [State.linesReady, ih]
    rfl

/-! ## The fetch that waits for a frame -/

/-- The entries of squad 0 that are RESIDENT or ARRIVING, with what else a test asks, stand before and after those of LEAVING tiles. -/
theorem doubled_filter {p : Nat × TileEnt → Bool} (hl : ∀ x ∈ l, p x = false) :
    ((doubled st l).squad 0).tiles.filter p =
      [(0, { TileEnt.reset with st := st }), (0, { TileEnt.reset with st := .resident }), (1025, { TileEnt.reset with st := .arriving })].filter p := by
  have hnone : l.filter p = [] := List.filter_eq_nil_iff.mpr fun x hx => by simp [hl x hx]
  show List.filter p ([_, _] ++ (l ++ [_])) = List.filter p ([_, _] ++ [_])
  rw [List.filter_append, List.filter_append, hnone, List.filter_append]
  rfl

variable (hleave : ∀ x ∈ l, x.2.st = .leaving) (hframe : ∀ i, i < 1024 → ∃ x ∈ l, x.2.frame = i)
include hleave

/-- The second entry of tile 0 is the one that may depart. -/
theorem doubled_victim : (doubled .absent l).victim 0 = some 0 := by
  have hheld : (doubled .absent l).held 0 0 = false := rfl
  rw [State.victim, doubled_filter fun x hx => by simp [hleave x hx]]
  simp [hheld, TileEnt.reset, oldest]

theorem doubled_waiting : ((doubled .absent l).squad 0).tiles.filter (fun p => p.2.st == .arriving && !p.2.framed) =
    [(1025, { TileEnt.reset with st := .arriving })] := by
  rw [doubled_filter fun x hx => by simp [hleave x hx]]
  rfl

include hframe

theorem doubled_freeFrames : ((doubled st l).squad 0).freeFrames = [] := by
  refine List.filter_eq_nil_iff.mpr fun i hi => ?_
  obtain ⟨x, hx, rfl⟩ := hframe i (List.mem_range.mp hi)
  have hmem : x ∈ ((doubled st l).squad 0).tiles := List.mem_cons_of_mem _ (List.mem_cons_of_mem _ (List.mem_append_left _ hx))
  have hused : ((doubled st l).squad 0).frameUsed x.2.frame = true := List.any_eq_true.mpr ⟨x, hmem, by simp [hleave x hx]⟩
  simp [hused]

/-- With no frame free, tile 1,025 starts the departure of its victim. -/
theorem doubled_retryClaims : (doubled .absent l).retryClaims 0 = (doubled .absent l).depart 0 0 := by
  rw [State.retryClaims, doubled_waiting hleave, List.foldl_cons, List.foldl_nil,
    State.claim_of_victim (doubled_freeFrames hleave hframe) (doubled_victim hleave)]

/-- The departure of tile 0 ends, and starts once more. -/
theorem doubled_tileDeparted : (doubled .leaving l).tileDeparted 0 0 = (doubled .absent l).depart 0 0 := by
  have hst : (((doubled .leaving l).squad 0).tile 0).st = .leaving := rfl
  have hnone : ((doubled .absent l).depart 0 0).ctxs.filter (fun c => c.wait == .tile 0 0) = [] := by
    show State.reset.ctxs.filter _ = []
    decide +kernel
  unfold State.tileDeparted
  dsimp only
  rw [if_pos hst, doubled_linesReady]
  dsimp only
  rw [doubled_linesOut]
  show State.wake ((doubled .absent l).retryClaims 0) 0 0 = _
  rw [doubled_retryClaims hleave hframe, State.wake, hnone]
  rfl
end

/-- Refutes O25: where the table of entries lists the tile twice, the end of its departure may leave it LEAVING. -/
theorem not_tileUnitSteps : ¬ Obligations.TileUnitSteps := by
  unfold Obligations.TileUnitSteps
  intro h
  obtain ⟨-, -, -, hdeparted⟩ := h
  obtain ⟨w, hw, hst⟩ := hdeparted (doubled .leaving busyFrames) (doubled .leaving busyFrames) 0 0 rfl (doubled_linesReady ..)
  have hw' : (doubled .leaving busyFrames).tileDeparted 0 0 = w := Host.Outcome.next.inj hw
  rw [← hw', doubled_tileDeparted busyFrames_leaving fun i => busyFrames_frame] at hst
  cases hst

end Sys2Proof.Machine
end

section
/-!
PROOFS. Engine commands, groups and packets: what each update of them leaves of the rest of the state.
-/

namespace Sys2Proof.Machine

/-! ## Commands (R104) -/

/-- A change of a command changes the table of squads, and nothing else. -/
theorem State.modCmd_eq (s : State) (id : Nat) (f : Cmd → Cmd) : ∃ l, s.modCmd id f = { s with squads := l } := by
  unfold State.modCmd
  split
  · exact ⟨s.squads, rfl⟩
  · exact ⟨_, rfl⟩

section
variable (s : State) (id status bytes detail : Nat) (part : Bool)

theorem State.endCmd_eq : ∃ l, s.endCmd id status bytes part detail = { s with squads := l } := s.modCmd_eq id _

@[simp] theorem State.endCmd_mem : (s.endCmd id status bytes part detail).mem = s.mem := by
  obtain ⟨l, e⟩ := s.endCmd_eq id status bytes detail part
  rw [e]

@[simp] theorem State.endCmd_fab : (s.endCmd id status bytes part detail).fab = s.fab := by
  obtain ⟨l, e⟩ := s.endCmd_eq id status bytes detail part
  rw [e]
end

/-! ## Groups (R411) -/

/-- The group just changed. -/
@[simp] theorem State.modGroup_group_self (s : State) (part gid : Nat) (f : Group → Group) :
    (s.modGroup part gid f).group part gid = f (s.group part gid) := Tbl.getD_put_self _ _ _ _

@[simp] theorem State.modGroup_mem (s : State) (part gid : Nat) (f : Group → Group) : (s.modGroup part gid f).mem = s.mem := rfl

/-! ## Packets taken up (R404, R411) -/

@[simp] theorem State.takeUp_mem (s : State) (p : Packet) : (s.takeUp p).mem = s.mem := rfl
@[simp] theorem State.takeUp_clk (s : State) (p : Packet) : (s.takeUp p).clk = s.clk := rfl
@[simp] theorem State.takeUp_group (s : State) (p : Packet) (part gid : Nat) : (s.takeUp p).group part gid = s.group part gid := rfl

/-- A packet of an older generation is counted at its group. -/
@[simp] theorem State.stalePacket_stale (s : State) (part gid via : Nat) :
    ((s.stalePacket part gid via).group part gid).stale = satInc (s.group part gid).stale :=
  congrArg Group.stale (s.modGroup_group_self part gid (fun g => { g with stale := satInc g.stale }))

/-! ## Packets that leave (R406, R409) -/

/-- From `s` to `t` only the fabric has changed, and no group of it. -/
def SameGroups (s t : State) : Prop := ∃ f : Fabric, t = { s with fab := f } ∧ f.groups = s.fab.groups

variable {s t u : State}

theorem SameGroups.refl (s : State) : SameGroups s s := ⟨s.fab, rfl, rfl⟩

theorem SameGroups.trans (h : SameGroups s t) (h' : SameGroups t u) : SameGroups s u := by
  obtain ⟨f, rfl, hf⟩ := h
  obtain ⟨f', rfl, hf'⟩ := h'
  exact ⟨f', rfl, hf'.trans hf⟩

theorem SameGroups.mem (h : SameGroups s t) : t.mem = s.mem := by
  obtain ⟨f, rfl, -⟩ := h
  rfl

theorem SameGroups.group (h : SameGroups s t) (part gid : Nat) : t.group part gid = s.group part gid := by
  obtain ⟨f, rfl, hf⟩ := h
  exact congrArg (fun l => Tbl.getD l Group.reset (groupKey part gid)) hf

theorem State.transmit_sameGroups (s : State) (port : Option Nat) (p : Packet) : SameGroups s (s.transmit port p) := by
  unfold State.transmit
  split
  · split
    · exact ⟨_, rfl, rfl⟩
    · exact .refl s
  · exact .refl s

/-- The number that a packet takes changes no group either (R409). -/
theorem State.sendOne_sameGroups (s : State) (p : Packet) : SameGroups s (s.sendOne p) := by
  obtain ⟨f, e, hf⟩ := State.transmit_sameGroups _ (s.routeOf p.dst) _
  exact ⟨f, e, hf⟩

theorem State.notices_sameGroups (s : State) (part gid status : Nat) : SameGroups s (s.notices part gid status) :=
  List.foldlRecOn _ _ (motive := fun t => SameGroups s t) (.refl s) fun t ht _ _ => ht.trans (t.sendOne_sameGroups _)

/-- A packet that arrives where it goes, from a node whose partition is paired, is one of the paired partition's groups (R406, R407). -/
theorem State.groupPacket_here {p : Packet} {lp : Nat} (hhere : packetHere p s) (hpair : s.paired p.src p.part = some lp) (f : State → Nat → State) :
    s.groupPacket p f = f (s.takeUp p) lp := by
  obtain ⟨hdst, hnode, hkind⟩ := hhere
  have hpair' : (s.takeUp p).paired p.src p.part = some lp := hpair
  have hdst' : ¬ (p.dst ≠ (s.takeUp p).fab.node ∨ (s.takeUp p).fab.node = 0) := fun h => h.elim (· hdst) hnode
  rw [State.groupPacket, State.arriving, if_neg hdst', if_neg (by omega), hpair']

/-! ## Rising lists -/

theorem mem_insNat {k j : Nat} {l : List Nat} : j ∈ insNat k l ↔ j = k ∨ j ∈ l := by
  induction l with
  | nil => simp [insNat]
  | cons i r ih =>
    rw [insNat]
    split
    · exact List.mem_cons
    · split
      · next hki => simp [hki]
      · rw [List.mem_cons, List.mem_cons, ih]
        exact or_left_comm

end Sys2Proof.Machine
end

section
/-!
PROOFS. Packets of groups and collectives (O44): what each packet does that is taken up at this device, by its generation and the state of its
group; and what the deadlines of a group and of a step end.
-/

namespace Sys2Proof.Machine

variable {s : State} {p : Packet} {lp part gid : Nat}

/-! ## Packets (R404, R409-R415) -/

theorem genBelow_self (x : BitVec 16) : genBelow x x = false := by simp [genBelow]

section
variable (hhere : packetHere p s) (hpair : s.paired p.src p.part = some lp)
include hhere hpair

section
variable (hold : genBelow p.gen (s.group lp p.group).gen = true)
include hold

/-- A JOIN of an older generation is counted as stale, and answered. -/
theorem exec_joinPacket_stale : ∃ q, exec (.joinPacket p) s = .next (((s.takeUp p).stalePacket lp p.group p.via).sendOne q) := by
  show ∃ q, execJoinPacket p s = _
  rw [execJoinPacket, State.groupPacket_here hhere hpair]
  simp only [State.takeUp_group, hold, if_true]
  exact ⟨_, rfl⟩

theorem exec_collData_stale : exec (.collData p) s = .next ((s.takeUp p).stalePacket lp p.group p.via) := by
  show execCollData p s = _
  rw [execCollData, State.groupPacket_here hhere hpair]
  simp only [State.takeUp_group, hold, if_true]

theorem exec_abort_stale : exec (.abort p) s = .next ((s.takeUp p).stalePacket lp p.group p.via) := by
  show execAbort p s = _
  rw [execAbort, State.groupPacket_here hhere hpair]
  simp only [State.takeUp_group, hold, if_true]
end

section
variable (hgen : p.gen = (s.group lp p.group).gen)
include hgen

/-- A JOIN of the generation whose own JOINs have left counts, and is answered. -/
theorem exec_joinPacket_counted (hbegun : (s.group lp p.group).begun = true) :
    ∃ q, exec (.joinPacket p) s = .next (((s.takeUp p).countJoin lp p.group p s.clk).sendOne q) := by
  show ∃ q, execJoinPacket p s = _
  rw [execJoinPacket, State.groupPacket_here hhere hpair]
  simp [hgen, genBelow_self, hbegun]

/-- Data that no run waits for goes to the inbox of its group. -/
theorem exec_collData_early (hearly : ∀ r ∈ (s.group lp p.group).colls, r.wants (s.group lp p.group) p = false ∨ r.x = []) :
    exec (.collData p) s = .next ((s.takeUp p).modGroup lp p.group (fun g => { g with inbox := g.inbox ++ [p] })) := by
  have hnone : List.find? (fun (r : CollRun) => r.wants (s.group lp p.group) p && r.x != []) (s.group lp p.group).colls = none := by
    refine List.find?_eq_none.mpr fun r hr => ?_
    rcases hearly r hr with hwants | hx
    · simp [hwants]
    · simp [hx]
  show execCollData p s = _
  rw [execCollData, State.groupPacket_here hhere hpair]
  simp [hgen, genBelow_self, hnone]

/-- A notice while the group forms is kept. -/
theorem exec_abort_forming (hst : (s.group lp p.group).st = .forming) :
    exec (.abort p) s = .next ((s.takeUp p).modGroup lp p.group (fun g => { g with abortKept := some (g.abortKept.getD p.rank) })) := by
  show execAbort p s = _
  rw [execAbort, State.groupPacket_here hhere hpair]
  simp [hgen, genBelow_self, hst]

/-- A notice breaks a formed group. -/
theorem exec_abort_formed (hst : (s.group lp p.group).st = .formed) (hcolls : (s.group lp p.group).colls = []) :
    exec (.abort p) s =
      .next ((s.takeUp p).modGroup lp p.group (fun g => { g with st := .broken, bstat := stAbortR, brank := p.rank })) := by
  show execAbort p s = _
  rw [execAbort, State.groupPacket_here hhere hpair]
  simp [hgen, genBelow_self, hst, hcolls]
end
end

/-! ## JOINs (R412) -/

/-- A group that a member has not joined does not become FORMED. -/
theorem State.cgrpDone_of_missing {j : Nat} (hj : j < (s.group part gid).members) (hmiss : (s.group part gid).joined.contains j = false) :
    s.cgrpDone part gid = s := by
  have hall : (List.range (s.group part gid).members).all (fun i => (s.group part gid).joined.contains i) = false :=
    List.all_eq_false.mpr ⟨j, List.mem_range.mpr hj, by simpa using hmiss⟩
  unfold State.cgrpDone
  dsimp only
  split
  · rw [hall, Bool.and_false, Bool.false_and, if_neg Bool.false_ne_true]
  · rfl

/-- A JOIN with the same list and in time joins its member, while another is still missing. -/
theorem State.countJoin_of_missing {i j t : Nat} (hi : List.find? (fun k => (s.group part gid).node k == p.src) (List.range (s.group part gid).members) = some i)
    (hlist : p.operand = (s.group part gid).lcrc) (htime : t < (s.group part gid).t0 + (s.group part gid).deadline)
    (hj : j < (s.group part gid).members) (hji : j ≠ i) (hmiss : (s.group part gid).joined.contains j = false) :
    s.countJoin part gid p t = s.modGroup part gid (fun g => { g with joined := insNat i g.joined }) := by
  rw [State.countJoin, hi]
  dsimp only
  rw [if_pos ⟨hlist, htime⟩]
  refine State.cgrpDone_of_missing (j := j) ?_ ?_
  · simpa using hj
  · simpa [mem_insNat, hji] using hmiss

/-! ## Deadlines (R115, R412-R414) -/

/-- The members of a group that forms have not joined in time: its entry is LOST. -/
theorem exec_cgrpDeadline_lost {id : Nat} (hcmd : (s.group part gid).cmd = some id) (hbegun : (s.group part gid).begun = true)
    (hlate : (s.group part gid).t0 + (s.group part gid).deadline ≤ s.clk) :
    ∃ rank, exec (.cgrpDeadline part gid) s = .next (s.cgrpFail part gid id stLost rank) := by
  show ∃ rank, execCgrpDeadline part gid s = _
  simp [execCgrpDeadline, hcmd, hbegun, hlate]

theorem exec_cgrpDeadline_early (hearly : s.clk < (s.group part gid).t0 + (s.group part gid).deadline) :
    exec (.cgrpDeadline part gid) s = .next s := by
  show execCgrpDeadline part gid s = _
  unfold execCgrpDeadline
  dsimp only
  split
  · rw [if_neg (by simp [hearly])]
  · rfl

/-- A CGRP that fails leaves its entry LOST (R115). -/
@[simp] theorem State.cgrpFail_group (s : State) (part gid id status detail : Nat) :
    (s.cgrpFail part gid id status detail).group part gid =
      { s.group part gid with st := .lost, cmd := none, begun := false, abortKept := none } := by
  rw [State.cgrpFail, State.modGroup_group_self, State.group, State.endCmd_fab]
  rfl

@[simp] theorem State.cgrpFail_mem (s : State) (part gid id status detail : Nat) : (s.cgrpFail part gid id status detail).mem = s.mem :=
  s.endCmd_mem id status 0 detail false

/-- A COLL that fails breaks its group, and the notices that leave change no group and no byte (R414). -/
theorem State.collFail_broken (s : State) (part gid : Nat) (r : CollRun) (status detail : Nat) (notify : Bool) :
    ((s.collFail part gid r status detail notify).group part gid).st = .broken ∧
      ((s.collFail part gid r status detail notify).group part gid).bstat = status ∧ (s.collFail part gid r status detail notify).mem = s.mem := by
  unfold State.collFail
  dsimp only
  split
  · rw [(State.notices_sameGroups _ part gid status).group, (State.notices_sameGroups _ part gid status).mem]
    simp
  · simp

section
variable {id : Nat} {c : Cmd} {r : CollRun} (hc : s.cmd? id = some c) (hrun : (s.group c.ptag (c.w 1 % 256)).run? id = some r)
include hc hrun

theorem exec_collStepAck (hstep : r.step ≠ 0) (howed : r.owed = 0) :
    exec (.collStepAck id) s = .next ((s.modRun c.ptag (c.w 1 % 256) id (fun k => { k with acked := true })).collGo c) := by
  show execCollStepAck id s = _
  simp [execCollStepAck, hc, hrun, hstep, howed]

/-- A step whose wait reaches the deadline ends its COLL. -/
theorem exec_collStepTimeout_late (hstep : r.step ≠ 0) (hwait : (r.got && r.acked) = false)
    (hlate : r.t0 + (s.group c.ptag (c.w 1 % 256)).deadline ≤ s.clk) :
    ∃ rank, exec (.collStepTimeout id) s = .next (s.collFail c.ptag (c.w 1 % 256) r stTimeout rank true) := by
  show ∃ rank, execCollStepTimeout id s = _
  simp only [execCollStepTimeout, hc, hrun, hwait]
  rw [if_pos ⟨hstep, rfl, hlate⟩]
  exact ⟨_, rfl⟩

/-- A step that has not begun, that waits for nothing or whose deadline is to come goes on. -/
theorem exec_collStepTimeout_early (h : r.step = 0 ∨ (r.got && r.acked) = true ∨ s.clk < r.t0 + (s.group c.ptag (c.w 1 % 256)).deadline) :
    exec (.collStepTimeout id) s = .next s := by
  have hnot : ¬ (r.step ≠ 0 ∧ (!(r.got && r.acked)) = true ∧ r.t0 + (s.group c.ptag (c.w 1 % 256)).deadline ≤ s.clk) := by
    rintro ⟨hstep, hwait, hlate⟩
    rcases h with h | h | h
    · exact hstep h
    · simp [h] at hwait
    · omega
  show execCollStepTimeout id s = _
  simp only [execCollStepTimeout, hc, hrun]
  rw [if_neg hnot]
end

/-! ## The obligation -/

/-- Settles O44: by the generation of the packet and the state of its group, and by the deadlines. -/
theorem collectivePackets : Obligations.CollectivePackets := by
  unfold Obligations.CollectivePackets
  refine ⟨?packets, ?held, ?deadline, ?step⟩
  case packets =>
    rintro s p lp g hhere hpair rfl
    refine ⟨fun hold => ⟨?_, ?_, ?_⟩, fun _ hgen => ⟨?_, exec_collData_early hhere hpair hgen, fun hst => ?_, fun hst hcolls => ?_⟩⟩
    · obtain ⟨q, hexec⟩ := exec_joinPacket_stale hhere hpair hold
      have hsame := ((s.takeUp p).stalePacket lp p.group p.via).sendOne_sameGroups q
      exact ⟨_, hexec, by rw [hsame.group]; simp, hsame.mem⟩
    · exact ⟨_, exec_collData_stale hhere hpair hold, by simp, rfl⟩
    · exact ⟨_, exec_abort_stale hhere hpair hold, by simp, rfl⟩
    · rintro i hbegun hi hlist htime ⟨j, hj, hji, hmiss⟩
      obtain ⟨q, hexec⟩ := exec_joinPacket_counted hhere hpair hgen hbegun
      have hsame := ((s.takeUp p).countJoin lp p.group p s.clk).sendOne_sameGroups q
      have hcount := State.countJoin_of_missing (s := s.takeUp p) hi hlist htime hj hji hmiss
      refine ⟨_, hexec, ?_, ?_⟩
      · rw [hsame.group, hcount]
        simp [mem_insNat]
      · rw [hsame.mem, hcount]
        simp
    · exact ⟨_, exec_abort_forming hhere hpair hgen hst, by simp⟩
    · exact ⟨_, exec_abort_formed hhere hpair hgen hst hcolls, by simp [stAbortR]⟩
  case held =>
    intro s part gid
    exact ⟨_, rfl, rfl, fun x => by simp⟩
  case deadline =>
    intro s part gid id hcmd hbegun
    refine ⟨fun hlate => ?_, exec_cgrpDeadline_early⟩
    obtain ⟨rank, hexec⟩ := exec_cgrpDeadline_lost hcmd hbegun hlate
    exact ⟨_, hexec, by simp, by simp, by simp⟩
  case step =>
    rintro s c id gid r hc rfl hrun
    refine ⟨exec_collStepAck hc hrun, fun hstep hwait hlate => ?_, exec_collStepTimeout_early hc hrun⟩
    obtain ⟨rank, hexec⟩ := exec_collStepTimeout_late hc hrun hstep hwait hlate
    exact ⟨_, hexec, s.collFail_broken _ _ r stTimeout rank true⟩

end Sys2Proof.Machine
end

section
/-!
PROOFS. The issue of the engine commands (O42): the checks of an instruction in the order of R96, and what its squad then holds.
-/

namespace Sys2Proof.Machine

variable {s t u : State} {op : EngOp} {d sr : Reg} {desc : List Word} {ca : Nat}

/-! ## The checks of the issue (R94-R96) -/

/-- A check that is made in some cases only and leaves the state as it is. -/
theorem op_ite_bind_ok {β : Type} {b : Prop} [Decidable b] {m : Op Unit} {f : Unit → Op β} (h : b → m s = .ok ((), s)) :
    (if b then m >>= f else f ()) s = f () s := by
  split
  · next hb => exact op_bind_ok (h hb)
  · rfl

theorem parkUntil_ok {b : Bool} (h : b = true) : parkUntil b s = .ok ((), s) := if_pos h

theorem watch_ok {code a n : Nat} {r : Rights} (h : s.me.allows a n r = true) : watch code a n r s = .ok ((), s) := if_pos h

/-- A destination that is not pending is free (R27). -/
theorem freeG_ok (h : d = 0 ∨ s.me.gPend.getLsbD d.toNat = false) : freeG d s = .ok ((), s) := by
  refine if_neg ?_
  rcases h with h | h
  · simp [h]
  · simp [h]

/-- An address of main memory (R8). -/
theorem lt_of_regionOf_main {p : Part} {a : Nat} (h : regionOf p a = .main) (ha : a < 2 ^ 56) : a < 2 ^ 48 := by
  have hzero : a / 2 ^ 48 % 256 = 0 := by
    unfold regionOf at h
    dsimp only at h
    split at h
    · next hz => exact hz
    · split at h <;> cases h
    · split at h <;> cases h
    · cases h
    · split at h <;> cases h
  omega

/-- A completion address in main memory that a store could name passes (R96). -/
theorem caChecks_main (hmain : regionOf s.part ca = .main) (hlt : ca < 2 ^ 48) (halign : ca % 16 = 0) (hown : s.refused46 s.me.ptag ca = false)
    (hallow : s.me.allows ca 16 rightsSt = true) : caChecks ca s = .ok ((), s) := by
  have hzero : ca / 2 ^ 48 % 256 = 0 ∨ ca / 2 ^ 48 % 256 = 2 := .inl (by omega)
  unfold caChecks
  rw [op_bind_ok (alignTo_ok halign)]
  show (if _ then _ else _ : Op Unit) s = _
  rw [if_pos hzero, hmain]
  show (if _ then _ else _ : Op Unit) s = _
  rw [hown, if_neg Bool.false_ne_true]
  exact watch_ok hallow

/-- The state in which a command is passed: a completion address has its FEMARK sent first (R96). -/
def State.markedFor (u : State) (ca : Nat) : State := if ca = 0 then u else u.femarkMain false ca [(ca, 1)]

/-- An LG9-C2 has no Rally engine (R93). -/
theorem engineIssue_notPresent (hop : op.engine = 2) (hpart : s.part = .c2) :
    engineIssue op d sr s = .next (s.takeTrap .notPresent 0 4 false) := by
  refine issueOp_trap ?_
  dsimp only
  rw [if_pos (by simp [hop, hpart])]
  rfl

/-- An instruction whose checks hold passes its command. -/
theorem engineIssue_ok (hpart : op.engine = 2 → s.part = .x4) (hs : s.atAnchor) (hdesc : readDesc sr 0 op.count s = .ok (desc, u))
    (hca : addr56 (desc.getD 0 0) = ca) (hlt : ca < 2 ^ 48) (hchecks : ca ≠ 0 → caChecks ca u = .ok ((), u))
    (hsb : u.sbUsed (u.me.core / 8) < 64) (hcp : u.me.cp < 63) (hst : ca ≠ 0 → u.me.st < 63)
    (hd : d = 0 ∨ u.me.gPend.getLsbD d.toNat = false) :
    engineIssue op d sr s =
      .next (((u.markedFor ca).passCmd op d desc ca (if ca = 0 then 0 else u.nextReq)).modMe Ctx.issue) := by
  have hc2 : (decide (op.engine = 2) && s.part == .c2) = true → (trapOp .notPresent 0 4 : Op Unit) s = .ok ((), s) := fun h => by
    have h' : op.engine = 2 ∧ s.part = .c2 := by simpa using h
    cases (hpart h'.1).symm.trans h'.2
  have hmain : (ca != 0 && decide (ca < 2 ^ 48)) = decide (ca ≠ 0) := Bool.eq_iff_iff.mpr (by simpa using fun _ => hlt)
  have hroom : (decide (u.sbUsed (squadOf u.me.core) < 64) && decide (u.me.cp < 63) && (!decide (ca ≠ 0) || decide (u.me.st < 63))) = true := by
    simpa [squadOf, hsb, hcp, or_iff_not_imp_left] using hst
  refine issueOp_ok ((op_ite_bind_ok hc2).trans ((op_bind_ok (needUnit_ok hs)).trans ((op_bind_ok hdesc).trans ?_)))
  simp only [hca]
  refine (op_ite_bind_ok hchecks).trans ((op_bind_ok (getS_apply u)).trans ?_)
  simp only [hmain]
  refine (op_bind_ok (parkUntil_ok hroom)).trans ((op_ite_bind_ok fun _ => freeG_ok hd).trans ?_)
  by_cases h0 : ca = 0
  · simp [h0, State.markedFor]
  · simp only [h0, State.markedFor, ne_eq, not_false_eq_true, decide_true, if_true, if_false]
    rw [op_bind_ok (modS_apply _ _), modS_apply]

/-! ## What the squad then holds (R96, R115) -/

/-- From `s` to `t` only commands and groups have changed, and each squad still holds the commands that it held, with the fields of their issue. -/
def KeepsIssued (s t : State) : Prop :=
  (∃ l f, t = { s with squads := l, fab := f }) ∧
  ∀ q, ∀ c ∈ (s.squad q).cmds, ∃ k ∈ (t.squad q).cmds, k.id = c.id ∧ k.op = c.op ∧ k.cid = c.cid ∧ k.cseq = c.cseq

theorem KeepsIssued.refl (s : State) : KeepsIssued s s := ⟨⟨s.squads, s.fab, rfl⟩, fun _ c hc => ⟨c, hc, rfl, rfl, rfl, rfl⟩⟩

theorem KeepsIssued.me (h : KeepsIssued s t) : t.me = s.me := by
  obtain ⟨⟨l, f, rfl⟩, -⟩ := h
  rfl

theorem KeepsIssued.mem (h : KeepsIssued s t) : t.mem = s.mem := by
  obtain ⟨⟨l, f, rfl⟩, -⟩ := h
  rfl

theorem KeepsIssued.nextCmd (h : KeepsIssued s t) : t.nextCmd = s.nextCmd := by
  obtain ⟨⟨l, f, rfl⟩, -⟩ := h
  rfl

theorem KeepsIssued.trans (h : KeepsIssued s t) (h' : KeepsIssued t u) : KeepsIssued s u := by
  obtain ⟨⟨l, f, ht⟩, hs⟩ := h
  obtain ⟨⟨l', f', hu⟩, hs'⟩ := h'
  refine ⟨⟨l', f', by rw [hu, ht]⟩, fun q c hc => ?_⟩
  obtain ⟨k, hk, hid, hop, hcid, hseq⟩ := hs q c hc
  obtain ⟨k', hk', hid', hop', hcid', hseq'⟩ := hs' q k hk
  exact ⟨k', hk', hid'.trans hid, hop'.trans hop, hcid'.trans hcid, hseq'.trans hseq⟩

theorem State.modGroup_keepsIssued (s : State) (part gid : Nat) (f : Group → Group) : KeepsIssued s (s.modGroup part gid f) :=
  ⟨⟨s.squads, _, rfl⟩, (KeepsIssued.refl s).2⟩

/-- The squad of another number. -/
theorem State.modSquad_squad_ne {q r : Nat} (f : SquadSt → SquadSt) (h : r ≠ q) : (s.modSquad q f).squad r = s.squad r := Tbl.getD_put_ne _ _ _ h

/-- A command that ends keeps the fields of its issue (R104). -/
theorem State.endCmd_keepsIssued (s : State) (id status bytes : Nat) (part : Bool) (detail : Nat) :
    KeepsIssued s (s.endCmd id status bytes part detail) := by
  obtain ⟨l, hl⟩ := s.endCmd_eq id status bytes detail part
  refine ⟨⟨l, s.fab, hl⟩, fun q c hc => ?_⟩
  unfold State.endCmd State.modCmd
  split
  · exact (KeepsIssued.refl s).2 q c hc
  · next e _ =>
    by_cases hq : q = e.squad
    · subst hq
      rw [State.modSquad_squad_self]
      refine ⟨_, List.mem_map_of_mem hc, ?_⟩
      split <;> exact ⟨rfl, rfl, rfl, rfl⟩
    · rw [State.modSquad_squad_ne _ hq]
      exact (KeepsIssued.refl s).2 q c hc

/-- The end of what runs on the older generation leaves the commands of the squads with the fields of their issue (R115). -/
theorem State.cgrpIssue_keepsIssued (s : State) (c : Cmd) : KeepsIssued s (s.cgrpIssue c) := by
  unfold State.cgrpIssue
  dsimp only
  have hruns := List.foldlRecOn (s.group c.ptag (c.w 1 % 256)).colls
    (fun (t : State) (r : CollRun) => t.endCmd r.id stGroup 0 true (s.group c.ptag (c.w 1 % 256)).rank)
    (motive := fun t => KeepsIssued s t) (.refl s) fun t ht r _ => ht.trans (t.endCmd_keepsIssued ..)
  refine KeepsIssued.trans ?_ (State.modGroup_keepsIssued _ _ _ _)
  split
  · exact hruns.trans (State.endCmd_keepsIssued ..)
  · exact hruns

/-- A command taken by its squad: `cseq` and `cp` are one higher, and `g[d]` is pending. -/
def State.takeCmd (u : State) (d : Reg) (c : Cmd) : State :=
  { (u.modMe (fun k => { (if d = 0 then k else k.pendG d) with cseq := k.cseq + 1, cp := k.cp + 1 })).modSquad (squadOf u.me.core)
      (fun z => { z with cmds := z.cmds ++ [c] }) with nextCmd := u.nextCmd + 1 }

/-- Passing a command is taking it, after which that of a CGRP ends what runs on the older generation. -/
theorem State.passCmd_eq (u : State) (op : EngOp) (d : Reg) (desc : List Word) (ca fem : Nat) :
    ∃ c : Cmd, u.passCmd op d desc ca fem = (if op = .cgrp then (u.takeCmd d c).cgrpIssue c else u.takeCmd d c) ∧ c.id = u.nextCmd ∧ c.op = op ∧
      c.cid = u.me.cid ∧ c.cseq = u.me.cseq + 1 :=
  ⟨_, rfl, rfl, rfl, rfl, rfl⟩

theorem State.mem_takeCmd (u : State) (d : Reg) (c : Cmd) : c ∈ ((u.takeCmd d c).squad (u.me.core / 8)).cmds := by
  have hself : (u.takeCmd d c).squad (u.me.core / 8) = { u.squad (u.me.core / 8) with cmds := (u.squad (u.me.core / 8)).cmds ++ [c] } :=
    Tbl.getD_put_self _ _ _ _
  simp [hself]

theorem State.takeCmd_me (u : State) (d : Reg) (c : Cmd) :
    (u.takeCmd d c).me = { (if d = 0 then u.me else u.me.pendG d) with cseq := u.me.cseq + 1, cp := u.me.cp + 1 } := rfl

/-- A command that has been passed is its squad's, and its destination is pending and empty. -/
theorem passes_of_exec {i : Instr} {fem : Nat} (h : exec i s = .next ((u.passCmd op d desc ca fem).modMe Ctx.issue)) : passes i s u op d := by
  obtain ⟨c, hpass, hid, hop, hcid, hseq⟩ := u.passCmd_eq op d desc ca fem
  have hkeep : KeepsIssued (u.takeCmd d c) (u.passCmd op d desc ca fem) := by
    rw [hpass]
    split
    · exact State.cgrpIssue_keepsIssued _ _
    · exact .refl _
  obtain ⟨k, hk, hid', hop', hcid', hseq'⟩ := hkeep.2 _ c (u.mem_takeCmd d c)
  have hme := hkeep.me.trans (u.takeCmd_me d c)
  refine ⟨_, k, h, hk, hid'.trans hid, hop'.trans hop, hcid'.trans hcid, hseq'.trans hseq, hkeep.nextCmd, ?_, ?_, ?_, ?_, fun hd => ?_, hkeep.mem⟩
  · rw [hme]
  · rw [hme]
  · rw [hme]
    split <;> rfl
  · rw [hme]
    split <;> rfl
  · rw [hme, if_neg hd]
    exact ⟨by simp [getLsbD_or_bit d.isLt], by simp [getLsbD_andNot_bit d.isLt]⟩

/-! ## The obligation -/

/-- Dropping a copy from the L1 leaves the context in its turn. -/
theorem State.l1Kill_me (u : State) (core a : Nat) : (u.l1Kill core a).me = u.me := by
  show (u.l1Keep core _).me = u.me
  unfold State.l1Keep
  split <;> rfl

/-- The FEMARK of a completion address counts in `st`. -/
theorem State.femarkMain_st (u : State) (ca : Nat) : (u.femarkMain false ca [(ca, 1)]).me.st = u.me.st + 1 :=
  congrArg (fun (c : Ctx) => c.st + 1) (u.l1Kill_me u.me.core ca)

/-- Settles O42: every form is `engineIssue` of its operation, whose checks hold. -/
theorem engineCommandsIssue : Obligations.EngineCommandsIssue := by
  unfold Obligations.EngineCommandsIssue
  intro s u i op d sr desc ca hform
  have hexec : exec i s = engineIssue op d sr s := by
    rcases hform with ⟨_, _, rfl, rfl⟩ | ⟨_, _, rfl, rfl⟩ | ⟨rfl, rfl⟩ | ⟨_, _, rfl, rfl⟩ | ⟨rfl, rfl⟩ | ⟨rfl, rfl⟩ | ⟨_, rfl, rfl⟩ | ⟨rfl, rfl⟩ |
      ⟨rfl, rfl⟩ | ⟨rfl, rfl⟩ <;> rfl
  have hrally : op.engine = 2 ↔ op = .coll ∨ op = .cgrp ∨ op = .cabt := by
    cases op <;> simp [EngOp.engine]
  rw [← hrally]
  refine ⟨fun hop hpart => hexec.trans (engineIssue_notPresent hop hpart), fun hpart hs hdesc hca hsb hcp hd => ⟨fun h0 => ?_, ?_⟩⟩
  · have hissue := engineIssue_ok hpart hs hdesc hca.symm (by omega) (absurd h0) hsb hcp (absurd h0) hd
    rw [State.markedFor, if_pos h0] at hissue
    exact passes_of_exec (hexec.trans hissue)
  · intro h0 hmain halign hown hallow hst
    have hlt : ca < 2 ^ 48 := lt_of_regionOf_main hmain (hca ▸ Nat.mod_lt _ (by decide))
    have hissue := engineIssue_ok hpart hs hdesc hca.symm hlt (fun _ => caChecks_main hmain hlt halign hown hallow) hsb hcp (fun _ => hst) hd
    rw [State.markedFor, if_neg h0] at hissue
    exact ⟨passes_of_exec (hexec.trans hissue), u.femarkMain_st ca⟩

end Sys2Proof.Machine
end

section
/-!
PROOFS. Engine commands and extent entries (O43): what ENGINE_START, ENGINE_ACCESS_FAILURE and ENGINE_COMPLETE do with a command, by its state,
its checks and how far its accesses have come; and the invalidation of an extent entry.
-/

namespace Sys2Proof.Machine

variable {s t : State} {id : Nat} {c : Cmd}

/-! ## Commands that leave ACCEPTED (R104, R110) -/

/-- What ENGINE_START makes of an accepted command without an older conflict, by what the command is. -/
def State.startOf (s : State) (c : Cmd) : State :=
  match c.op with
  | .matrix _ => s
  | .coll => s.collStart c
  | .cgrp => s.cgrpStart c
  | .cabt => s.cabtStart c
  | _ => s.startData c

theorem exec_engineStart_accepted (hc : s.cmd? id = some c) (hst : c.st = .accepted) (hfree : s.blocked c.squad id = false) :
    exec (.engineStart id) s = .next (s.startOf c) := by
  show execEngineStart id s = _
  cases hop : c.op <;> simp [execEngineStart, State.startOf, hc, hst, hfree, hop]

/-- A command that is malformed goes to COMPLETING with FORMAT. -/
theorem State.startData_malformed (h : c.malformed = true) :
    s.startData c = s.endCmd c.id stFormat 0 (decide (0 < c.requested)) 0 := if_pos h

/-- A command without an extent whose local ranges are not refused runs, with its tiles held. -/
theorem State.startData_local (hform : c.malformed = false) (hext : c.extentArgs = none) (hlocal : s.localFail c = none) :
    s.startData c = (s.holdTiles c.squad c.tiles).modCmd c.id (fun k =>
      { k with st := .running, ext := none, xent := none, holds := c.tiles, t0 := s.clk }) := by
  simp [State.startData, hform, hext, hlocal]

/-! ## Commands that run (R102, R104) -/

section
variable (hc : s.cmd? id = some c)
include hc

theorem exec_engineAccessFailure_data (heng : c.op.engine ≠ 2) : exec (.engineAccessFailure id) s = .next (s.failData c) := by
  show execEngineAccessFailure id s = _
  simp [execEngineAccessFailure, hc, heng]

/-- A command other than a running one of the Rally engine completes as a data command does. -/
theorem exec_engineComplete_data (hmatrix : ∀ wr, c.op ≠ .matrix wr) (hdata : c.op.engine ≠ 2 ∨ c.st ≠ .running) :
    exec (.engineComplete id) s = .next (s.completeData c) := by
  have hnot : ¬ (c.op.engine = 2 ∧ c.st = .running) := fun ⟨heng, hst⟩ => hdata.elim (· heng) (· hst)
  show execEngineComplete id s = _
  unfold execEngineComplete
  rw [hc]
  dsimp only
  split
  · next wr hop => exact absurd hop (hmatrix wr)
  · rw [if_neg (by simpa using hnot)]
end

/-- The completion of a command, if it is COMPLETING. -/
def State.finishOf (s : State) (id : Nat) : State :=
  match s.cmd? id with
  | some k => if k.st = .completing then s.finishCmd k else s
  | none => s

theorem State.finishOf_completing {k : Cmd} (hk : s.cmd? id = some k) (hst : k.st = .completing) : s.finishOf id = s.finishCmd k := by
  rw [State.finishOf, hk]
  exact if_pos hst

/-- What ENGINE_COMPLETE leaves of a transfer, by how far it has come: it ends a command whose accesses have all been performed. -/
def Moved.completed (c : Cmd) : Moved → State
  | .all t => ((t.touchAll c.squad c.holds).endCmd c.id stOk c.requested false 0).finishOf c.id
  | .wait t => t
  | .fail t _ _ _ => t

/-- An extent of this device is not a remote one. -/
theorem Cmd.any_remote_of_near (hnear : ∀ e, c.ext = some e → e.node = 0) : c.ext.any (fun e => e.node != 0) = false := by
  cases he : c.ext with
  | none => rfl
  | some e => simp [hnear e he]

section
variable (hst : c.st = .running) (hnear : ∀ e, c.ext = some e → e.node = 0) (hready : s.localReady c = (true, s))
include hst hnear hready

/-- ENGINE_COMPLETE performs the accesses of a command of this device whose tiles are resident. -/
theorem State.completeData_running : s.completeData c = (runData c.id none c.steps s).completed c := by
  have hfar : c.ext.filter (fun e => e.node != 0) = none := by simpa [Option.filter_eq_none_iff] using hnear
  unfold State.completeData
  rw [hst]
  dsimp only
  rw [hfar, hready]
  cases runData c.id none c.steps s <;> rfl

/-- ENGINE_ACCESS_FAILURE ends the command with the status of an access that fails, and what comes after that may have been moved (R102). -/
theorem State.failData_of_fail {k : Cmd} {status detail bytes : Nat} (hrun : runData c.id none c.steps s = .fail t status detail bytes)
    (hk : t.cmd? c.id = some k) :
    s.failData c =
      ((t.strayRest k).touchAll c.squad c.holds).endCmd c.id status bytes (decide (bytes < c.requested)) detail := by
  have hnot : ¬ (c.st ≠ .running ∨ c.ext.any (fun e => e.node != 0) = true) := by simp [hst, Cmd.any_remote_of_near hnear]
  unfold State.failData
  rw [if_neg hnot, hready]
  dsimp only
  rw [hrun]
  dsimp only
  rw [hk]
  rfl

theorem State.failData_of_wait (hrun : runData c.id none c.steps s = .wait t) : s.failData c = t := by
  have hnot : ¬ (c.st ≠ .running ∨ c.ext.any (fun e => e.node != 0) = true) := by simp [hst, Cmd.any_remote_of_near hnear]
  unfold State.failData
  rw [if_neg hnot, hready]
  dsimp only
  rw [hrun]
  rfl
end

/-! ## Commands that complete (R104-R107) -/

/-- A change of a running context of a number is made in its place. -/
theorem State.onCtx_running {cid : Nat} {k : Ctx} (hk : s.byCid cid = some k) (f : Ctx → Ctx) : s.onCtx cid f = s.place (f k) := by
  rw [State.onCtx, hk]

/-- Tiles are released only where some are held. -/
theorem State.releaseTiles_nil (s : State) (q : Nat) : s.releaseTiles q [] = s := rfl

/-- A completion with status OK of a command whose issuer runs makes no record (R107, R108, R416). -/
theorem State.completionRecords_ok (horphan : c.orphan = false) (hstatus : c.status = stOk) : s.completionRecords c false = s := by
  simp [State.completionRecords, horphan, hstatus]

/-- Word 0 of the completion object of a command that ends OK (R105). -/
theorem Cmd.word0_ok (horphan : c.orphan = false) (hstatus : c.status = stOk) :
    c.word0 = 2 ^ 16 * (c.op.engine % 256) + 2 ^ 24 * c.part.toNat := by
  have hpart := c.part.toNat_lt
  simp only [Cmd.word0, packFields, horphan, hstatus, stOk, Bool.toNat_false]
  omega

/-- What becomes of the issuer of a command that completes: its register holds `x`, and `cp` is one lower. -/
def Ctx.completed (k : Ctx) (d : Reg) (x : Word) : Ctx := { (if d = 0 then k else k.setG d x) with cp := k.cp - 1 }

/-- A completion without an object, of a command whose issuer runs in a slot: it fills the register and leaves its squad. -/
theorem State.finishCmd_ok {k : Ctx} (hfem : s.femarkDone c = true) (hca : c.ca = 0) (horphan : c.orphan = false) (hstatus : c.status = stOk)
    (hholds : c.holds = []) (hk : s.byCid c.cid = some k) :
    s.finishCmd c = (s.place (k.completed c.d (BitVec.ofNat 64 (2 ^ 32 * c.cseq.toNat + c.word0)))).dropCmd c.squad c.id := by
  have hobj : s.writeObject c = .done s := if_pos hca
  unfold State.finishCmd
  rw [hfem, hobj]
  dsimp only
  rw [State.onCtx_running hk, hholds, State.releaseTiles_nil, State.completionRecords_ok horphan hstatus]
  rfl

section
variable (k : Ctx) (d : Reg) (x : Word)

theorem Ctx.completed_live : (k.completed d x).live = k.live := by unfold Ctx.completed; split <;> rfl
theorem Ctx.completed_core : (k.completed d x).core = k.core := by unfold Ctx.completed; split <;> rfl
theorem Ctx.completed_slot : (k.completed d x).slot = k.slot := by unfold Ctx.completed; split <;> rfl
theorem Ctx.completed_pc : (k.completed d x).pc = k.pc := by unfold Ctx.completed; split <;> rfl

/-- The register holds the value, full and not pending. -/
theorem Ctx.completed_reg {d : Reg} (h : d ≠ 0) :
    (k.completed d x).g[d.toNat] = x ∧ (k.completed d x).gFull.getLsbD d.toNat = true ∧ (k.completed d x).gPend.getLsbD d.toNat = false := by
  rw [Ctx.completed, if_neg h]
  exact ⟨by simp, by simp [getLsbD_or_bit d.isLt], by simp [getLsbD_andNot_bit d.isLt]⟩

/-- The context stands in its place when the command has left its squad. -/
theorem State.at?_completed (hk : s.byCid c.cid = some k) (q id : Nat) :
    ((s.place (k.completed d x)).dropCmd q id).at? k.core k.slot = some (k.completed d x) := by
  have hplace := State.at?_place (s := s) ((k.completed_live d x).trans (State.live_of_byCid hk))
  rwa [Ctx.completed_core, Ctx.completed_slot] at hplace
end

/-- A command that leaves its squad is the only one to leave it, and memory is as it was. -/
theorem State.dropCmd_place (s : State) (k : Ctx) (q id : Nat) :
    (((s.place k).dropCmd q id).squad q).cmds = (s.squad q).cmds.filter (fun (x : Cmd) => x.id != id) ∧ ((s.place k).dropCmd q id).mem = s.mem := by
  obtain ⟨m, l, e⟩ := s.place_eq k
  rw [e, State.dropCmd, State.modSquad_squad_self]
  exact ⟨rfl, rfl⟩

/-! ## Extent entries (R100) -/

/-- Where no compaction is in hand, none goes on. -/
theorem State.compactStep_of_nil (h : s.compacts = []) : s.compactStep = s := by
  rw [State.compactStep, h]

/-- The invalidation of an entry that no command holds completes. -/
theorem State.extentDone_of_free {e : Nat} (h : ∀ p : Nat × SquadSt, p ∈ s.squads → ∀ c : Cmd, c ∈ p.2.cmds → c.xent ≠ some e) :
    s.extentDone e = { s with invalidating := delNat e s.invalidating } := by
  refine if_neg fun hheld => ?_
  obtain ⟨p, hp, hany⟩ := List.any_eq_true.mp hheld
  obtain ⟨c, hc, hold⟩ := List.any_eq_true.mp hany
  exact h p hp c hc (by simpa using (Bool.and_eq_true_iff.mp hold).1)

/-! ## The obligation -/

/-- Settles O43: by the state of the command and how far its accesses have come, and by what an invalidation takes from the caches. -/
theorem engineAndExtentSteps : Obligations.EngineAndExtentSteps := by
  unfold Obligations.EngineAndExtentSteps
  refine ⟨?start, ?running, ?completing, ?invalidate, ?invalidated⟩
  case start =>
    intro s id c hc hst hfree
    have hstart := exec_engineStart_accepted hc hst hfree
    refine ⟨fun hop hlen => ?_, fun hop hlen hlocal => ?_, fun hop => ?_, fun hop => ?_, fun hop => ?_⟩ <;> simp only [State.startOf, hop] at hstart
    · rw [hstart, State.startData_malformed (by simpa [Cmd.malformed, hop] using hlen)]
      simp [Cmd.requested, hop, stFormat]
    · refine ⟨_, hstart, State.startData_local ?_ ?_ hlocal⟩
      · simpa [Cmd.malformed, hop] using hlen
      · simp [Cmd.extentArgs, hop]
    exacts [hstart, hstart, hstart]
  case running =>
    intro s id c hc heng hmatrix hst hnear hready
    have hcomplete := exec_engineComplete_data hc hmatrix (.inl heng)
    have hfail := exec_engineAccessFailure_data hc heng
    rw [State.completeData_running hst hnear hready] at hcomplete
    refine ⟨fun t k status detail bytes hrun hk => ?_, fun t v k hrun hv hk hcompleting => ?_, fun t hrun => ?_⟩
    · rw [hrun] at hcomplete
      rw [State.failData_of_fail hst hnear hready hrun hk] at hfail
      exact ⟨hfail, hcomplete⟩
    · subst hv
      rw [hrun, Moved.completed] at hcomplete
      exact hcomplete.trans (congrArg Host.Outcome.next (State.finishOf_completing hk hcompleting))
    · rw [hrun] at hcomplete
      rw [State.failData_of_wait hst hnear hready hrun] at hfail
      exact ⟨hcomplete, hfail⟩
  case completing =>
    intro s id c k hc hmatrix hst hfem hca horphan hstatus hholds hk
    have hcomplete := exec_engineComplete_data hc hmatrix (.inr (by simp [hst]))
    rw [State.completeData, hst] at hcomplete
    dsimp only at hcomplete
    rw [State.finishCmd_ok hfem hca horphan hstatus hholds hk, Cmd.word0_ok horphan hstatus] at hcomplete
    obtain ⟨hcmds, hmem⟩ := s.dropCmd_place _ c.squad c.id
    refine ⟨_, _, hcomplete, State.at?_completed k _ _ hk _ _, rfl, k.completed_pc _ _, fun hd => ?_, hcmds, hmem⟩
    rw [← Nat.add_assoc]
    exact k.completed_reg _ hd
  case invalidate =>
    intro s e
    refine ⟨s.extentGone e, rfl, fun h => State.compactStep_of_nil h, ?_, rfl, rfl, ?_⟩
    · simp [State.extentGone, mem_insNat]
    · intro p hp x hx
      obtain ⟨p', -, rfl⟩ := List.mem_map.mp hp
      simpa using (List.mem_filter.mp hx).2
  case invalidated =>
    intro s e hfree
    have hdone := State.extentDone_of_free hfree
    refine ⟨s.extentDone e, rfl, fun h => State.compactStep_of_nil ?_, ?_, ?_, ?_⟩
    · rw [hdone]
      exact h
    · simp [hdone, delNat]
    · rw [hdone]
    · rw [hdone]

end Sys2Proof.Machine
end

section
/-!
PROOFS. Loads and stores of main memory (O11): what leaves the L1, the request that goes to the slice, and the turn that issues it (R65, R121, R125,
R126).
-/

namespace Sys2Proof.Machine

variable {s s1 u : State}

/-! ## The L1 (R62-R66) -/

/-- Copies that leave an L1 change the table of cores alone. -/
theorem State.l1Keep_eq (s : State) (core : Nat) (p : L1Line → Bool) : ∃ l, s.l1Keep core p = { s with cores := l } := by
  unfold State.l1Keep
  split
  · exact ⟨s.cores, rfl⟩
  · exact ⟨_, rfl⟩

theorem State.acquire_eq (s : State) (core : Nat) : ∃ l, s.acquire core = { s with cores := l } := by
  unfold State.acquire
  split
  · exact s.l1Keep_eq core _
  · exact ⟨s.cores, rfl⟩

/-- A store leaves every request to a slice in its place (R65, R314). -/
theorem State.l1Store_eq (s : State) (core ptag key a : Nat) (b : List Byte) :
    ∃ l f, s.l1Store core ptag key a b = { s with cores := l, sliceQ := s.sliceQ.map f } := by
  unfold State.l1Store
  dsimp only
  split
  · exact ⟨_, _, rfl⟩
  · obtain ⟨l, h⟩ := s.l1Keep_eq core (fun e => e.line != a / 128)
    exact ⟨l, _, by rw [State.l1Drop, h]⟩

/-! ## Requests to a slice (R61, R121) -/

section
variable {op : SliceOp} {a n code tag : Nat} {acq : Option Bool}

/-- A load that hits no copy goes to the slice of its address. -/
theorem State.loadMain_miss {cached : Bool} (h : cached = false ∨ s.l1Find s.me.core s.me.ptag s.me.key (a / 128) = none) :
    s.loadMain op a n code cached tag acq = s.sendSlice op a n code (s.l1On s.me.core) tag acq := by
  have hnone : ∀ b : Bool, (if cached && b then s.l1Find s.me.core s.me.ptag s.me.key (a / 128) else none) = none := by
    intro b
    obtain h | h := h
    · rw [h]
      rfl
    · rw [h, ite_self]
  simp only [State.loadMain, hnone]

/-- A load that hits a copy, with no earlier load of its thread to the line under way, is answered from it (R65, R315). -/
theorem State.loadMain_hit {e : L1Line} (h : s.l1Find s.me.core s.me.ptag s.me.key (a / 128) = some e)
    (hbefore : s.sliceQ.any (fun r => r.cid == s.me.cid && r.addr / 128 == a / 128) = false) :
    s.loadMain op a n code true 0 acq =
      { s with loads := s.loads ++ [{ cid := s.me.cid, val := op.value n (slice e.data (a % 128) n), addr := a, code := code, pc := s.me.pc,
                                      tag := 0, acq := acq }] } := by
  simp [State.loadMain, h, hbefore]

/-- A load under way changes neither the context nor a byte of memory. -/
theorem State.loadMain_keeps (s : State) (op : SliceOp) (a n code : Nat) (cached : Bool) (tag : Nat) (acq : Option Bool) :
    (s.loadMain op a n code cached tag acq).me = s.me ∧ (s.loadMain op a n code cached tag acq).mem = s.mem := by
  unfold State.loadMain
  dsimp only
  split <;> exact ⟨rfl, rfl⟩
end

/-! ## LD (R125) -/

/-- The state in which a load looks for a copy: an acquire has emptied the L1, and a load that must not hit has dropped its line (R64, R66). -/
def State.beforeLoad (u : State) (q : LoadQ) (a : Nat) : State :=
  let v := if q.acq then u.acquire u.me.core else u
  if q.fresh || q.acq then v.l1Drop v.me.core (a / 128) else v

/-- The state in which a load has been issued. -/
def State.issueLoad (u : State) (m : MemOp) (q : LoadQ) (a : Nat) : State :=
  ((u.beforeLoad q a).loadMain (.load m.d q.sx) a m.size 0 (!(q.fresh || q.acq)) 0
      (if q.acq then some (u.me.gFull.getLsbD m.d.toNat) else none)).modMe
    (fun c => { c.pendDest m.d with ld := c.ld + 1, wait := if q.acq then .reply else c.wait })

theorem State.beforeLoad_eq (u : State) (q : LoadQ) (a : Nat) : ∃ l, u.beforeLoad q a = { u with cores := l } := by
  have hacq : ∃ l, (if q.acq then u.acquire u.me.core else u) = { u with cores := l } := by
    split
    · exact u.acquire_eq _
    · exact ⟨u.cores, rfl⟩
  obtain ⟨l, h⟩ := hacq
  unfold State.beforeLoad
  rw [h]
  dsimp only
  split
  · obtain ⟨l', h'⟩ := State.l1Keep_eq { u with cores := l } u.me.core (fun e => e.line != a / 128)
    exact ⟨l', h'⟩
  · exact ⟨l, rfl⟩

/-- A load that may hit finds the L1 as it is. -/
theorem State.beforeLoad_plain {q : LoadQ} {a : Nat} (h : (q.fresh || q.acq) = false) : u.beforeLoad q a = u := by
  obtain ⟨hfresh, hacq⟩ := Bool.or_eq_false_iff.mp h
  simp [State.beforeLoad, hfresh, hacq]

/-- A load that is allowed and has a place in `ld` issues (R121, R125). -/
theorem ld_main {m : MemOp} {q : LoadQ} {a : Nat} (hn : s.namesOk [m.d, m.b, m.t]) (hea : memEa m s = .ok (a, u)) (ha : a % m.size = 0)
    (hg : regionOf u.part a = .main) (hallow : u.me.allows a m.size rightsLd = true) (hld : u.me.ld < 63) (hd : freeG m.d u = .ok ((), u)) :
    completes (.ld m q) s (u.issueLoad m q a) := by
  have hroom : roomLd u = .ok ((), u) := if_pos hld
  refine issueOp_ok ?_
  rw [op_bind_ok (gate_ok hn), op_bind_ok hea, op_bind_ok (alignTo_ok ha), op_bind_ok (accRegion_ok hg rfl)]
  dsimp only
  rw [op_bind_ok (watch_ok hallow), op_bind_ok hroom, op_bind_ok hd]
  rfl

/-- The counter, the registers and memory after the issue of a load (R121, R27). -/
theorem State.issueLoad_keeps (u : State) (m : MemOp) (q : LoadQ) (a : Nat) :
    (u.issueLoad m q a).me = { u.me.pendDest m.d with ld := u.me.ld + 1, wait := if q.acq then .reply else u.me.wait } ∧
      (u.issueLoad m q a).mem = u.mem := by
  obtain ⟨l, h⟩ := u.beforeLoad_eq q a
  unfold State.issueLoad
  rw [h]
  obtain ⟨hme, hmem⟩ := State.loadMain_keeps { u with cores := l } (.load m.d q.sx) a m.size 0 (!(q.fresh || q.acq)) 0
    (if q.acq then some (u.me.gFull.getLsbD m.d.toNat) else none)
  exact ⟨by rw [State.modMe_me, hme], hmem⟩

theorem Ctx.pendDest_g (c : Ctx) (d : Reg) : (c.pendDest d).g = c.g := by
  unfold Ctx.pendDest
  split <;> rfl

/-- An ordinary destination is pending and empty (R27). -/
theorem Ctx.pendDest_reg {c : Ctx} {d : Reg} (h0 : d ≠ 0) (hport : isPort d = false) :
    (c.pendDest d).gPend.getLsbD d.toNat = true ∧ (c.pendDest d).gFull.getLsbD d.toNat = false := by
  rw [Ctx.pendDest, if_neg (by simpa [hport] using h0)]
  exact ⟨by simp [getLsbD_or_bit d.isLt], by simp [getLsbD_andNot_bit d.isLt]⟩

/-- The address of an M-format instruction takes no byte of memory with it. -/
theorem memEa_mem {m : MemOp} {a : Nat} (h : memEa m s = .ok (a, u)) : u.mem = s.mem := by
  unfold memEa at h
  cases hb : readG m.b s with
  | error e => rw [op_bind_error hb] at h; cases h
  | ok r =>
    rw [op_bind_ok hb] at h
    cases ht : readG m.t r.2 with
    | error e => rw [op_bind_error ht] at h; cases h
    | ok r' =>
      rw [op_bind_ok ht] at h
      cases h
      exact (readG_mem ht).trans (readG_mem hb)

/-! ## ST (R126) -/

/-- A store that is allowed and has a place in `st` issues (R121, R126). -/
theorem st_main {m : MemOp} {rel : Bool} {a : Nat} {x : Word} (hn : s.namesOk [m.d, m.b, m.t]) (hea : memEa m s = .ok (a, s1))
    (ha : a % m.size = 0) (hg : regionOf s1.part a = .main) (hallow : s1.me.allows a m.size rightsSt = true)
    (hrel : rel = true → s1.me.ld = 0 ∧ s1.me.st = 0) (hx : readG m.d s1 = .ok (x, u)) (hst : u.me.st < 63) :
    completes (.st m rel) s (u.storeMain x a m.size) := by
  have hroom : roomSt 1 u = .ok ((), u) := if_pos hst
  refine issueOp_ok ?_
  rw [op_bind_ok (gate_ok hn), op_bind_ok hea, op_bind_ok (alignTo_ok ha), op_bind_ok (accRegion_ok hg rfl)]
  dsimp only
  rw [op_bind_ok (watch_ok hallow), op_bind_ok (releaseWait_ok hrel), op_bind_ok hx, op_bind_ok hroom]
  rfl

/-- What a store that leaves its core changes: its request is the last to the slices, those before it keep their places, and `st` is one higher. -/
theorem State.storeMain_eq (u : State) (x : Word) (a n : Nat) :
    ∃ l f j, ∃ r : SliceReq, u.storeMain x a n =
        { u with cores := l, sliceQ := u.sliceQ.map f ++ [r], nextReq := u.nextReq + 1, fij := j, me := { u.me with st := u.me.st + 1 } } ∧
      r.addr = a ∧ r.size = n ∧ r.cid = u.me.cid ∧ r.op = .store x (u.fijArmed u.me.cid) := by
  obtain ⟨l, f, h⟩ := u.l1Store_eq u.me.core u.me.ptag u.me.key a (toBytes n x.toNat)
  unfold State.storeMain
  dsimp only
  rw [h]
  split
  · exact ⟨l, f, _, _, rfl, rfl, rfl, rfl, rfl⟩
  · exact ⟨l, f, u.fij, _, rfl, rfl, rfl, rfl, rfl⟩

/-- Settles O11: the load goes to the slice or is answered from the copy; the store goes to the slice. -/
theorem mainMemoryAccessIssues : Obligations.MainMemoryAccessIssues := by
  unfold Obligations.MainMemoryAccessIssues
  refine ⟨fun s u m q a hn hea ha hg hallow hld hd => ?load, fun s s1 u m rel a x hn hea ha hg hallow hrel hx hst => ?store⟩
  case load =>
    obtain ⟨hme, hmem⟩ := u.issueLoad_keeps m q a
    refine ⟨_, ld_main hn hea ha hg hallow hld hd, by rw [hme], by rw [hme]; exact u.me.pendDest_g m.d, hmem.trans (memEa_mem hea),
      fun h0 hport => by rw [hme]; exact Ctx.pendDest_reg h0 hport, by rw [hme], fun hmiss => ?_, fun e hplain hfind hbefore => ?_⟩
    · obtain ⟨l, hl⟩ := u.beforeLoad_eq q a
      have hcopy : (!(q.fresh || q.acq)) = false ∨
          (u.beforeLoad q a).l1Find (u.beforeLoad q a).me.core (u.beforeLoad q a).me.ptag (u.beforeLoad q a).me.key (a / 128) = none := by
        cases hforce : q.fresh || q.acq
        · rw [State.beforeLoad_plain hforce]
          exact hmiss.imp (by simp [hforce]) id
        · exact .inl rfl
      unfold State.issueLoad
      rw [State.loadMain_miss hcopy, hl]
      exact ⟨rfl, _, rfl, rfl, rfl, rfl, rfl, rfl⟩
    · unfold State.issueLoad
      rw [State.beforeLoad_plain hplain, hplain, Bool.not_false, State.loadMain_hit hfind hbefore]
      exact ⟨rfl, _, rfl, rfl, rfl⟩
  case store =>
    obtain ⟨l, f, j, r, hissue, haddr, hsize, hcid, hop⟩ := u.storeMain_eq x a m.size
    refine ⟨_, st_main hn hea ha hg hallow hrel hx hst, ?_⟩
    rw [hissue]
    exact ⟨rfl, (readG_mem hx).trans (memEa_mem hea), rfl, r, by simp, by simp, haddr, hsize, hcid, hop⟩

end Sys2Proof.Machine
end

section
/-!
PROOFS. Scalar accesses that trap before they are made (O13): ALIGN and CONFINE (R118, R119, R123).
-/

namespace Sys2Proof.Machine

variable {s u : State} {m : MemOp} {a why code : Nat} {ctl : Bool}

/-! ## Checks that fail -/

/-- A misaligned address traps ALIGN, which `why` 8 stands for (R118, R123). -/
theorem alignTo_trap {n : Nat} (h : a % n ≠ 0) :
    alignTo n code a s = .error (.trap .align (BitVec.ofNat 64 a) (accInfo code 8 false)) := by
  rw [alignTo, if_neg h]
  rfl

/-- An address at which something stands in the way of an access traps CONFINE (R119). -/
theorem accRegion_trap (h : regionWhy (regionOf s.part a) ctl = some why) :
    accRegion code ctl a s = .error (.trap .confine (BitVec.ofNat 64 a) (accInfo code why false)) := by
  simp only [accRegion, h]
  rfl

/-! ## M-format instructions -/

section
variable (hn : s.namesOk [m.d, m.b, m.t]) (hea : memEa m s = .ok (a, u))
include hn hea

/-- An M-format instruction whose address is misaligned traps before every other check (R118). -/
theorem mFormat_misaligned {rest : Nat → Unit → Op Unit} (h : a % m.size ≠ 0) :
    issueOp (gate [m.d, m.b, m.t] >>= fun _ => memEa m >>= fun a => alignTo m.size code a >>= rest a) s =
      .next (s.takeTrap .align (BitVec.ofNat 64 a) (accInfo code 8 false) false) := by
  refine issueOp_trap ?_
  rw [op_bind_ok (gate_ok hn), op_bind_ok hea]
  exact op_bind_error (alignTo_trap h)

/-- One whose address is aligned and lies where it may not be accessed traps next (R119). -/
theorem mFormat_confined {rest : Nat → Region → Op Unit} (ha : a % m.size = 0) (h : regionWhy (regionOf u.part a) ctl = some why) :
    issueOp (gate [m.d, m.b, m.t] >>= fun _ => memEa m >>= fun a => alignTo m.size code a >>= fun _ => accRegion code ctl a >>= rest a) s =
      .next (s.takeTrap .confine (BitVec.ofNat 64 a) (accInfo code why false) false) := by
  refine issueOp_trap ?_
  rw [op_bind_ok (gate_ok hn), op_bind_ok hea, op_bind_ok (alignTo_ok ha)]
  exact op_bind_error (accRegion_trap h)
end

/-- Settles O13: the five instructions begin alike, with the address, its alignment and its region. -/
theorem memoryAccessTraps : Obligations.MemoryAccessTraps := by
  unfold Obligations.MemoryAccessTraps
  intro s u m a hn hea
  refine ⟨fun h => ⟨fun q => ?_, fun r => ?_⟩, fun ha why h => ⟨fun q => ?_, fun r => ?_⟩, fun ha why h => ⟨fun q => ?_, fun r => ?_⟩⟩
  · exact ⟨mFormat_misaligned hn hea h, mFormat_misaligned hn hea h, mFormat_misaligned hn hea h⟩
  · exact ⟨mFormat_misaligned hn hea h, mFormat_misaligned hn hea h⟩
  · exact mFormat_confined hn hea ha h
  · exact mFormat_confined hn hea ha h
  · exact ⟨mFormat_confined hn hea ha h, mFormat_confined hn hea ha h⟩
  · exact mFormat_confined hn hea ha h

end Sys2Proof.Machine
end

section
/-!
PROOFS. LDW, LDT, STF and FEQ (O14): once the unit of the location has performed the operation, the turn completes with its answer (R127, R129).
-/

namespace Sys2Proof.Machine

variable {s s1 s2 u : State}

/-- The audit of an access of main memory that is allowed; outside main memory there is none here (R119, R380). -/
theorem op_auditMain_ok {β : Type} {g : Region} {code a n : Nat} {r : Rights} {f : Unit → Op β}
    (h : g = .main → s.me.allows a n r = true) :
    (match g with
      | .main => watch code a n r >>= f
      | _ => pure () >>= f) s = f () s := by
  cases g with
  | main => exact op_bind_ok (watch_ok (h rfl))
  | _ => rfl

section
variable {m : MemOp} {a : Nat} (hn : s.namesOk [m.d, m.b, m.t]) (hea : memEa m s = .ok (a, s1)) (ha : a % m.size = 0)
  (hwhy : regionWhy (regionOf s1.part a) false = none)
include hn hea ha hwhy

/-- LDW and LDT complete by writing what the unit answers, and an acquire follows where they ask for one (R66, R127). -/
theorem feLoad_ok {op : HomeOp} {code : Nat} {acq : Bool} {y : Word × Word} {t : State}
    (hallow : regionOf s1.part a = .main → s1.me.allows a m.size { rightsLd with fe := true } = true) (hroom : roomG m.d s1 = .ok ((), s1))
    (hop : locOp s (regionOf s1.part a) (s.homeReq op a m.size code (popsOf [m.b, m.t])) s1 = .ok (y, u))
    (ht : writeG m.d y.1 u = .ok ((), t)) :
    feLoad op code acq m s = .next ((if acq then t.acquire t.me.core else t).modMe Ctx.issue) := by
  refine issueOp_ok ?_
  rw [op_bind_ok (gate_ok hn), op_bind_ok hea, op_bind_ok (alignTo_ok ha), op_bind_ok (accRegion_ok rfl hwhy)]
  refine (op_auditMain_ok hallow).trans ?_
  dsimp only
  rw [op_bind_ok hroom, op_bind_ok hop, op_bind_ok ht]
  cases acq <;> rfl

/-- STF completes when the unit has taken its value (R127). -/
theorem stf_ok {rel : Bool} {x : Word} {y : Word × Word}
    (hallow : regionOf s1.part a = .main → s1.me.allows a m.size { rightsSt with fe := true } = true)
    (hrel : rel = true → s1.me.ld = 0 ∧ s1.me.st = 0) (hx : readG m.d s1 = .ok (x, s2))
    (hop : locOp s (regionOf s1.part a) (s.homeReq (.stf x) a m.size 4 (popsOf [m.b, m.t, m.d])) s2 = .ok (y, u)) :
    completes (.stf m rel) s u := by
  refine issueOp_ok ?_
  rw [op_bind_ok (gate_ok hn), op_bind_ok hea, op_bind_ok (alignTo_ok ha), op_bind_ok (accRegion_ok rfl hwhy)]
  refine (op_auditMain_ok hallow).trans ?_
  dsimp only
  rw [op_bind_ok (releaseWait_ok hrel), op_bind_ok hx, op_bind_ok hop]
  rfl
end

/-- FEQ completes by writing the state that the unit answers (R129). -/
theorem feq_ok {d sr : Reg} {x : Word} {y : Word × Word} (hn : s.namesOk [d, sr]) (hx : readG sr s = .ok (x, s1)) (ha : addr56 x % 16 = 0)
    (hwhy : regionWhy (regionOf s1.part (addr56 x)) false = none)
    (hallow : regionOf s1.part (addr56 x) = .main → s1.me.allows (addr56 x) 16 { rightsLd with fe := true } = true)
    (hroom : roomG d s1 = .ok ((), s1))
    (hop : locOp s (regionOf s1.part (addr56 x)) (s.homeReq (.feq d) (addr56 x) 16 6 (popsOf [sr])) s1 = .ok (y, u)) :
    writesG (.feq d sr) s u d y.1 := by
  intro t ht
  refine issueOp_ok ?_
  rw [op_bind_ok (gate_ok hn), op_bind_ok hx]
  dsimp only
  rw [op_bind_ok (alignTo_ok ha), op_bind_ok (accRegion_ok rfl hwhy)]
  refine (op_auditMain_ok hallow).trans ?_
  dsimp only
  rw [op_bind_ok hroom, op_bind_ok hop, ht]

/-- Settles O14: one rule for LDW and LDT, one for STF and one for FEQ. -/
theorem fullEmptyInstructionsComplete : Obligations.FullEmptyInstructionsComplete := by
  unfold Obligations.FullEmptyInstructionsComplete
  refine ⟨fun s s1 u m q a y hn hea ha hwhy hallow hroom => ⟨fun hop t ht => ?_, fun hop t ht => ?_⟩,
    fun s s1 s2 u m rel a x y hn hea ha hwhy hallow hrel hx hop => stf_ok hn hea ha hwhy hallow hrel hx hop,
    fun s s1 u d sr x y hn hx ha hwhy hallow hroom hop => feq_ok hn hx ha hwhy hallow hroom hop⟩
  · exact feLoad_ok hn hea ha hwhy hallow hroom hop ht
  · exact feLoad_ok hn hea ha hwhy hallow hroom hop ht

end Sys2Proof.Machine
end

section
/-!
PROOFS. FEMARK, PFT, FENCE, WAITC and CINV (O16): what each leaves of the state, and its turn (R128, R130-R132, R138).
-/

namespace Sys2Proof.Machine

variable {s s1 u : State}

/-! ## FEMARK (R128) -/

/-- One line of a FEMARK at `a` sent to its home. -/
def State.sendMark (t : State) (full : Bool) (tag a : Nat) (l : Nat × Nat) : State :=
  ((t.l1Kill t.me.core l.1).sendHome { t.homeReq (.femark l.2 full) l.1 16 5 [] with tag := tag, ea := a }).modMe
    (fun c => { c with st := c.st + 1 })

theorem State.femarkMain_eq (u : State) (full : Bool) (a : Nat) (ls : List (Nat × Nat)) :
    u.femarkMain full a ls = ls.foldl (fun t l => t.sendMark full u.nextReq a l) u := rfl

theorem State.sendMark_keeps (t : State) (full : Bool) (tag a : Nat) (l : Nat × Nat) :
    (t.sendMark full tag a l).me.st = t.me.st + 1 ∧ (t.sendMark full tag a l).mem = t.mem := by
  obtain ⟨c, hc⟩ := t.l1Keep_eq t.me.core (fun e => e.line != l.1 / 128)
  rw [State.sendMark, State.modMe_me, State.modMe_mem, State.l1Kill, State.l1Drop, hc]
  exact ⟨rfl, rfl⟩

/-- The requests of a FEMARK count one by one in `st`, and no byte of memory changes at their issue. -/
theorem State.femarkMain_keeps (u : State) (full : Bool) (a : Nat) (ls : List (Nat × Nat)) :
    (u.femarkMain full a ls).me.st = u.me.st + ls.length ∧ (u.femarkMain full a ls).mem = u.mem := by
  rw [State.femarkMain_eq]
  generalize u.nextReq = tag
  induction ls generalizing u with
  | nil => exact ⟨rfl, rfl⟩
  | cons l r ih =>
    obtain ⟨hst, hmem⟩ := u.sendMark_keeps full tag a l
    obtain ⟨hst', hmem'⟩ := ih (u.sendMark full tag a l)
    rw [List.foldl_cons, hst', hmem', hst, hmem, List.length_cons]
    exact ⟨by omega, rfl⟩

/-- The number of granules that a FEMARK names: 1 where it has no register for it (R128). -/
theorem op_femarkCount {d : Reg} {n : Word} {rest : Word → Op Unit} (h : if d = 0 then n = 1 ∧ u = s1 else readG d s1 = .ok (n, u)) :
    (if d = 0 then pure 1#64 >>= rest else readG d >>= rest : Op Unit) s1 = rest n u := by
  split at h
  · next h0 =>
    obtain ⟨rfl, rfl⟩ := h
    rw [if_pos h0]
    rfl
  · next h0 => rw [if_neg h0, op_bind_ok h]

/-- A FEMARK of 1 to 256 granules of one 4 KiB page comes to its region (R119, R128). -/
theorem op_femarkChecks {a n : Nat} {g : Region} {rest : Region → Op Unit} (hpos : 0 < n) (hmax : n ≤ 256) (hpage : a % 4096 + 16 * n ≤ 4096)
    (ha : a % 16 = 0) (hg : regionOf u.part a = g) (hwhy : regionWhy g false = none) :
    (illegalIf (n = 0 || decide (256 < n) || decide (4096 < a % 4096 / 16 * 16 + 16 * n)) >>= fun _ =>
      alignTo 16 5 a >>= fun _ => accRegion 5 false a >>= rest) u = rest g u := by
  have hlegal : (decide (n = 0) || decide (256 < n) || decide (4096 < a % 4096 / 16 * 16 + 16 * n)) = false := by
    simp only [Bool.or_eq_false_iff, decide_eq_false_iff_not]
    omega
  rw [op_bind_ok (illegalIf_ok hlegal), op_bind_ok (alignTo_ok ha), op_bind_ok (accRegion_ok hg hwhy)]

section
variable {d sr : Reg} {x n : Word} {full : Bool} (hn : s.namesOk [d, sr]) (hx : readG sr s = .ok (x, s1))
  (hcount : if d = 0 then n = 1 ∧ u = s1 else readG d s1 = .ok (n, u)) (hpos : 0 < n.toNat) (hmax : n.toNat ≤ 256)
  (hpage : addr56 x % 4096 + 16 * n.toNat ≤ 4096) (ha : addr56 x % 16 = 0)
include hn hx hcount hpos hmax hpage ha

/-- In main memory each line goes to its home as one write (R128). -/
theorem femark_main (hg : regionOf u.part (addr56 x) = .main)
    (hallow : u.me.allows (addr56 x) (16 * n.toNat) { rightsSt with fe := true } = true)
    (hst : u.me.st + (femarkLines (addr56 x) n.toNat).length ≤ 63) :
    femark full d sr s = .next ((u.femarkMain full (addr56 x) (femarkLines (addr56 x) n.toNat)).modMe Ctx.issue) := by
  have hroom : roomSt (femarkLines (addr56 x) n.toNat).length u = .ok ((), u) := if_pos hst
  refine issueOp_ok ((op_bind_ok (gate_ok hn)).trans ((op_bind_ok hx).trans ((op_femarkCount hcount).trans ?_)))
  refine (op_femarkChecks hpos hmax hpage ha hg rfl).trans ?_
  dsimp only
  rw [op_bind_ok (watch_ok hallow), op_bind_ok hroom]
  rfl

/-- In a tile or a vault the tile unit takes the marks as updates (R84, R128). -/
theorem femark_unit {t : State} {g : Region} (hg : regionOf u.part (addr56 x) = g) (hunit : g.ofTileUnit)
    (hw : tileWrite s g 5 (addr56 x) (fun b => (List.range n.toNat).map (fun j =>
      { gran := b / 16 + j, ty := tyNone, op := if full then opFill else opEmpty, mask := 0, data := 0 })) u = .ok ((), t)) :
    femark full d sr s = .next (t.modMe Ctx.issue) := by
  refine issueOp_ok ((op_bind_ok (gate_ok hn)).trans ((op_bind_ok hx).trans ((op_femarkCount hcount).trans ?_)))
  cases g with
  | tile _ _ _ | vault _ _ => exact (op_femarkChecks hpos hmax hpage ha hg rfl).trans hw
  | _ => exact hunit.elim
end

/-! ## PFT (R130) -/

/-- A prefetch of a tile changes neither the context nor a byte of memory. -/
theorem State.prefetchTile_keeps (s : State) (q t : Nat) : (s.prefetchTile q t).me = s.me ∧ (s.prefetchTile q t).mem = s.mem := by
  unfold State.prefetchTile
  split
  · obtain ⟨o, l, h⟩ := s.startFetch_eq q t
    rw [h]
    exact ⟨rfl, rfl⟩
  · exact ⟨rfl, rfl⟩

theorem pftL1_completes {sr : Reg} {x : Word} (hn : s.namesOk [sr]) (hx : readG sr s = .ok (x, u)) :
    ∃ t : State, completes (.pftL1 sr) s t ∧ t.me = u.me ∧ t.mem = u.mem := by
  refine ⟨_, issueOp_ok ((op_bind_ok (gate_ok hn)).trans ((op_bind_ok hx).trans (modS_apply _ _))), ?_⟩
  dsimp only
  split
  · split <;> exact ⟨rfl, rfl⟩
  · exact u.prefetchTile_keeps _ _
  · exact ⟨rfl, rfl⟩

theorem pftL2_completes {sr : Reg} {x : Word} (hn : s.namesOk [sr]) (hx : readG sr s = .ok (x, u)) :
    ∃ t : State, completes (.pftL2 sr) s t ∧ t.me = u.me ∧ t.mem = u.mem := by
  refine ⟨_, issueOp_ok ((op_bind_ok (gate_ok hn)).trans ((op_bind_ok hx).trans (modS_apply _ _))), ?_⟩
  dsimp only
  split
  · exact u.prefetchTile_keeps _ _
  · exact ⟨rfl, rfl⟩

/-! ## FENCE and WAITC (R131, R132) -/

theorem fence_slot (k : FenceKind) : completes (.fence k .slot) s s := issueOp_ok rfl

/-- A fence of a wider scope goes on once the counters that its kind names are 0 (R131). -/
theorem fence_completes {k : FenceKind} {c : FenceScope} (hc : c ≠ .slot) (hld : s.me.ld = 0) (hst : k ≠ .acq → s.me.st = 0)
    (htl : k = .full → s.me.tl = 0) (hcp : k = .engine → s.me.cp = 0) :
    completes (.fence k c) s (if k = .acq ∨ k = .acqrel ∨ k = .full then s.acquire s.me.core else s) := by
  have hready : (s.me.ld == 0 && (k == .acq || s.me.st == 0) && (k != .full || s.me.tl == 0) && (k != .engine || s.me.cp == 0)) = true := by
    cases k <;> simp_all
  refine issueOp_ok ?_
  rw [if_neg hc, op_bind_ok (getS_apply s)]
  dsimp only
  rw [op_bind_ok (parkUntil_ok hready)]
  split <;> rfl

/-- A counter is within its limit, where 15 sets none (R132). -/
def withinLimit (c : Nat) (n : BitVec 4) : Bool := n == 15 || decide (c ≤ n.toNat)

theorem withinLimit_iff {c : Nat} {n : BitVec 4} : withinLimit c n = true ↔ n = 15 ∨ c ≤ n.toNat := by
  simp [withinLimit]

/-- What WAITC waits for. -/
def Ctx.withinLimits (c : Ctx) (ld st cp tl : BitVec 4) : Bool :=
  withinLimit c.ld ld && withinLimit c.st st && withinLimit c.cp cp && withinLimit c.tl tl

theorem waitc_completes {ld st cp tl : BitVec 4} (h : s.me.withinLimits ld st cp tl = true) : completes (.waitc ld st cp tl) s s :=
  issueOp_ok ((op_bind_ok (getS_apply s)).trans (parkUntil_ok h))

theorem waitc_parks {ld st cp tl : BitVec 4} (h : s.me.withinLimits ld st cp tl = false) :
    exec (.waitc ld st cp tl) s = .next (s.modMe Ctx.bubble) :=
  issueOp_park ((op_bind_ok (getS_apply s)).trans (if_neg (Bool.eq_false_iff.mp h)))

/-! ## CINV (R138) -/

/-- What an L1 keeps of its copies. -/
theorem State.l1Keep_l1 (s : State) (core : Nat) (p : L1Line → Bool) : ((s.l1Keep core p).core core).l1 = (s.core core).l1.filter p := by
  unfold State.l1Keep
  split
  · next h => rw [h, List.filter_nil]
  · rw [State.modCore_core_self]

/-- The copies that stay at a CINV (R138). -/
def cinvStays (d sr : Reg) (x n : Word) (e : L1Line) : Bool :=
  if d = 0 then (if sr = 0 then false else 128 * e.line != x.toNat / 128 * 128)
  else !(decide (0 < n.toNat) && decide (128 * e.line < x.toNat + n.toNat) && decide (x.toNat < 128 * e.line + 128))

theorem cinv_completes {d sr : Reg} {x n : Word} (hn : s.namesOk [d, sr]) (hx : readG sr s = .ok (x, s1)) (hd : readG d s1 = .ok (n, u)) :
    completes (.cinv d sr) s (u.l1Keep u.me.core (cinvStays d sr x n)) := by
  refine issueOp_ok ?_
  rw [op_bind_ok (gate_ok hn), op_bind_ok hx, op_bind_ok hd, modS_apply]
  unfold cinvStays
  by_cases h0 : d = 0
  · by_cases hs : sr = 0
    · simp only [h0, hs, if_true]
      rfl
    · simp only [h0, hs, if_true, if_false]
  · simp only [h0, if_false]

/-- Settles O16: each instruction by its own rule. -/
theorem marksFencesAndCacheControl : Obligations.MarksFencesAndCacheControl := by
  unfold Obligations.MarksFencesAndCacheControl
  refine ⟨fun s s1 u d sr x n full hn hx hcount hpos hmax hpage ha => ?femark, fun s u sr x hn hx => ?prefetch, fun s k => fence_slot k,
    fun s k c hc hld hst htl hcp => fence_completes hc hld hst htl hcp, fun s ld st cp tl hld hst hcp htl => waitc_completes ?waits,
    fun s ld st cp tl h => waitc_parks ?parks, fun s s1 u d sr x n hn hx hd => ?cinv⟩
  case femark =>
    have hexec (t : State) (h : femark full d sr s = .next (t.modMe Ctx.issue)) :
        completes (if full then Instr.femarkFull d sr else Instr.femarkEmpty d sr) s t := by
      cases full <;> exact h
    have hread : u.mem = s.mem := by
      split at hcount
      · rw [hcount.2]
        exact readG_mem hx
      · exact (readG_mem hcount).trans (readG_mem hx)
    refine ⟨fun hg hallow hst => ?_, fun g t hg hunit hw => hexec t (femark_unit hn hx hcount hpos hmax hpage ha hg ?_ hw)⟩
    · obtain ⟨hcounted, hmem⟩ := u.femarkMain_keeps full (addr56 x) (femarkLines (addr56 x) n.toNat)
      exact ⟨_, hexec _ (femark_main hn hx hcount hpos hmax hpage ha hg hallow hst), hcounted, hmem.trans hread⟩
    · obtain ⟨q, tl, b, rfl | rfl⟩ := hunit <;> trivial
  case prefetch =>
    obtain ⟨t1, h1, hme1, hmem1⟩ := pftL1_completes hn hx
    obtain ⟨t2, h2, hme2, hmem2⟩ := pftL2_completes hn hx
    exact ⟨t1, t2, h1, h2, hmem1.trans (readG_mem hx), hmem2.trans (readG_mem hx), by rw [hme1], by rw [hme2]⟩
  case waits =>
    simp only [Ctx.withinLimits, Bool.and_eq_true, withinLimit_iff]
    exact ⟨⟨⟨hld, hst⟩, hcp⟩, htl⟩
  case parks =>
    rw [Bool.eq_false_iff]
    simp only [Ctx.withinLimits, ne_eq, Bool.and_eq_true, withinLimit_iff]
    rintro ⟨⟨⟨hld, hst⟩, hcp⟩, htl⟩
    obtain ⟨hne, hlt⟩ | ⟨hne, hlt⟩ | ⟨hne, hlt⟩ | ⟨hne, hlt⟩ := h
    · exact hld.elim hne (Nat.not_le_of_gt hlt)
    · exact hst.elim hne (Nat.not_le_of_gt hlt)
    · exact hcp.elim hne (Nat.not_le_of_gt hlt)
    · exact htl.elim hne (Nat.not_le_of_gt hlt)
  case cinv =>
    obtain ⟨l, hl⟩ := u.l1Keep_eq u.me.core (cinvStays d sr x n)
    have hkept := u.l1Keep_l1 u.me.core (cinvStays d sr x n)
    refine ⟨_, cinv_completes hn hx hd, ?_, ?_, fun h0 hs => ?_, fun h0 hs e he => ?_⟩
    · rw [hl]
      exact (readG_mem hd).trans (readG_mem hx)
    · rw [hl]
    · rw [hkept]
      simp [cinvStays, h0, hs]
    · rw [hkept] at he
      have hstays := (List.mem_filter.mp he).2
      rw [cinvStays, if_pos h0, if_neg hs] at hstays
      exact bne_iff_ne.mp hstays

end Sys2Proof.Machine
end

section
/-!
PROOFS. A FEMARK whose marks the copy of a snapshot page undoes (O15). The statement speaks of a FEMARK of any number of granules, also of one that
goes on into the next line. To mark a granule of the next line the memory-side cache takes that line in, and may have to write another line back
first (R48); that line's page may have to be copied into the snapshot area before (R54); and the copy brings the full/empty state of its page with
it (R55), over the granule that the FEMARK has just marked where that one lies in the area.
-/

namespace Sys2Proof.Machine

variable {s t : State} {a g p ch : Nat}

/-! ## The full/empty state that a copy brings (R54, R55) -/

theorem mem_delNat {k j : Nat} {l : List Nat} : j ∈ delNat k l ↔ j ∈ l ∧ j ≠ k := by
  simp [delNat]

theorem State.isFull_iff : s.isFull g = true ↔ g ∉ s.empties := by
  simp [State.isFull]

theorem State.setFull_false_empties (s : State) (g : Nat) : (s.setFull g false).empties = insNat g (s.noteBits g).empties := rfl

@[simp] theorem State.rekey_empties (s : State) (key g : Nat) : (s.rekey key g).empties = s.empties := by
  unfold State.rekey
  split <;> rfl

@[simp] theorem State.areaByte_empties (s : State) (ch o : Nat) (b : Byte) : (s.areaByte ch o b).empties = s.empties :=
  State.rekey_empties ..

@[simp] theorem State.setBit_empties (s : State) (ch page : Nat) : (s.setBit ch page).empties = s.empties := State.areaByte_empties ..

/-- A gate notes a page or starts its copy; no granule changes its state. -/
@[simp] theorem State.snapGate_empties (s : State) (a : Nat) : (s.snapGate a).2.empties = s.empties := by
  unfold State.snapGate
  dsimp only
  split
  · split
    · rfl
    split
    · rfl
    split
    · rfl
    split
    · dsimp only
      split <;> rfl
    · exact s.setBit_empties _ _
  · dsimp only
    split
    · rfl
    · exact s.setBit_empties _ _
  · rfl

theorem State.areaByte_chan (s : State) (ch o c : Nat) (b : Byte) : (s.areaByte ch o b).chan c = s.chan c := by
  rw [State.chan, State.areaByte_chans, State.chan]

theorem State.setBit_chan (s : State) (ch page : Nat) :
    (s.setBit ch page).chan ch = { s.chan ch with bitmap := insNat page (s.chan ch).bitmap } :=
  (State.areaByte_chan _ _ _ _ _).trans (s.modChan_chan_self ch _)

/-- One granule of a page copied into its place, with the bits that its form has. -/
def State.putCopy (t : State) (d : Nat × Nat × CGran × Bool × Bool) : State :=
  t.putForm d.1 (d.2.2.1.form d.2.1) d.2.2.2.1 d.2.2.2.2

/-- Full forms leave every granule that they are written to full. -/
theorem State.not_mem_empties_copied {l : List (Nat × Nat × CGran × Bool × Bool)} (hfull : ∀ d ∈ l, d.2.2.2.1 = true)
    (hg : g ∉ s.empties ∨ g ∈ l.map Prod.fst) : g ∉ (l.foldl State.putCopy s).empties := by
  induction l generalizing s with
  | nil => simpa using hg
  | cons d r ih =>
    have hput : (s.putCopy d).empties = delNat d.1 s.empties := if_pos (hfull d List.mem_cons_self)
    refine ih (fun x hx => hfull x (List.mem_cons_of_mem _ hx)) ?_
    rw [hput, mem_delNat]
    rw [List.map_cons, List.mem_cons] at hg
    tauto

theorem State.copied_chans (l : List (Nat × Nat × CGran × Bool × Bool)) : (l.foldl State.putCopy s).chans = s.chans :=
  List.foldlRecOn l State.putCopy (motive := fun (t : State) => t.chans = s.chans) rfl fun _ h _ _ => h

/-- A granule of a page is one of the eight of one of its 512 lines (R60). -/
theorem State.mem_pageGrans {page x : Nat} : x ∈ s.pageGrans ch page ↔ ∃ i < 512, ∃ j < 8, 8 * s.lineAt ch (512 * page + i) + j = x := by
  simp only [State.pageGrans, List.mem_flatMap, List.mem_map, List.mem_range]

theorem State.length_pageGrans (s : State) (ch page : Nat) : (s.pageGrans ch page).length = 4096 := by
  rw [State.pageGrans, List.length_flatMap]
  simp only [List.length_map, List.length_range, List.map_const', List.sum_replicate, smul_eq_mul]

/-- The granules of a page as the home holds them. -/
def State.formsOf (s : State) (ch p : Nat) : List (Nat × CGran × Bool × Bool) :=
  (s.pageGrans ch p).map (fun g => (g, s.homeGran g, s.isFull g, s.isPoison (16 * g)))

/-- The forms of a page, each with the granule of the area that it goes to. -/
def State.copyOf (s : State) (ch p : Nat) : List (Nat × Nat × CGran × Bool × Bool) :=
  (s.pageGrans ch ((s.chan ch).abase + 1 + (s.chan ch).ncopies)).zip (s.formsOf ch p)

theorem State.map_fst_copyOf (s : State) (ch p : Nat) :
    (s.copyOf ch p).map Prod.fst = s.pageGrans ch ((s.chan ch).abase + 1 + (s.chan ch).ncopies) := by
  rw [State.copyOf]
  exact List.map_fst_zip (le_of_eq (by simp only [State.formsOf, List.length_map, State.length_pageGrans]))

section
variable (hcopy : (s.chan ch).copying = some p)
include hcopy

theorem State.copyDone_eq :
    s.copyDone ch =
      (((((s.copyOf ch p).foldl State.putCopy s).areaByte ch (4096 + 2 * (s.chan ch).ncopies) (BitVec.ofNat 8 p)).areaByte ch
        (4097 + 2 * (s.chan ch).ncopies) (BitVec.ofNat 8 (p / 256))).setBit ch p).modChan ch
        (fun c => { c with copies := c.copies ++ [(p, s.formsOf ch p)], ncopies := c.ncopies + 1, copying := none }) := by
  unfold State.copyDone
  dsimp only
  rw [hcopy]
  rfl

theorem State.copyDone_empties : (s.copyDone ch).empties = ((s.copyOf ch p).foldl State.putCopy s).empties := by
  rw [State.copyDone_eq hcopy, State.modChan_empties, State.setBit_empties, State.areaByte_empties, State.areaByte_empties]

/-- The channel of a copy that is done notes the page (R54). -/
theorem State.copyDone_chan :
    ∃ l, (s.copyDone ch).chan ch =
      { s.chan ch with bitmap := insNat p (s.chan ch).bitmap, copies := l, ncopies := (s.chan ch).ncopies + 1, copying := none } := by
  have hcopied : ((s.copyOf ch p).foldl State.putCopy s).chan ch = s.chan ch := by
    rw [State.chan, State.copied_chans, State.chan]
  rw [State.copyDone_eq hcopy, State.modChan_chan_self, State.setBit_chan, State.areaByte_chan, State.areaByte_chan, hcopied]
  exact ⟨_, rfl⟩

/-- The copy of a page without an empty granule leaves its place in the area without one. -/
theorem State.isFull_copyDone (hfull : ∀ x ∈ s.pageGrans ch p, s.isFull x = true)
    (hg : g ∈ s.pageGrans ch ((s.chan ch).abase + 1 + (s.chan ch).ncopies)) : (s.copyDone ch).isFull g = true := by
  rw [State.isFull_iff, State.copyDone_empties hcopy]
  refine State.not_mem_empties_copied (fun d hd => ?_) (.inr (by rwa [State.map_fst_copyOf]))
  obtain ⟨x, hx, hform⟩ := List.mem_map.mp (List.of_mem_zip hd).2
  rw [← hform]
  exact hfull x hx
end

/-! ## Where an unowned channel keeps its lines (R60) -/

theorem State.mapOf_unowned (h : (s.chan (a / 2 ^ 31)).own = false) : s.mapOf a = (a / 2 ^ 31, 2) := by
  exact if_neg (Bool.eq_false_iff.mp h)

/-- The home of an offset and its page there are a matter of the map alone. -/
theorem State.home_of_mapOf (h : s.mapOf a = t.mapOf a) : s.chanOf a = t.chanOf a ∧ s.pageOf a = t.pageOf a := by
  simp only [State.chanOf, State.pageOf, State.chanLine, State.sliceOf, h, and_self]

/-! ## The copy that a write-back waits for (R48, R54) -/

/-- A page outside the area that is not copied yet, with room for its copy, is copied before it is written (R54). -/
theorem State.snapGate_starts (hsnap : (s.chan (s.chanOf a)).snap = .active)
    (harea : ¬ ((s.chan (s.chanOf a)).abase ≤ s.pageOf a ∧ s.pageOf a < (s.chan (s.chanOf a)).abase + (s.chan (s.chanOf a)).alen))
    (hcopying : (s.chan (s.chanOf a)).copying = none) (hbitmap : s.pageOf a ∉ (s.chan (s.chanOf a)).bitmap)
    (hroom : (s.chan (s.chanOf a)).ncopies + 1 < (s.chan (s.chanOf a)).alen) :
    s.snapGate a = (false, s.modChan (s.chanOf a) (fun c => { c with copying := some (s.pageOf a) })) := by
  simp [State.snapGate, hsnap, harea, hcopying, hbitmap, hroom]

/-- A page that has been copied may be written. -/
theorem State.snapGate_copied (hsnap : (s.chan (s.chanOf a)).snap = .active) (hcopying : (s.chan (s.chanOf a)).copying = none)
    (hbitmap : (s.chan (s.chanOf a)).bitmap.contains (s.pageOf a) = true) : (s.snapGate a).1 = true := by
  unfold State.snapGate
  dsimp only
  rw [hsnap, hcopying, hbitmap]
  dsimp only
  split <;> rfl

/-- A write that waits for one copy leaves the granules in the state that the copy gives them. -/
theorem State.settle_empties (hfirst : s.snapGate a = (false, t)) (hsecond : ((t.copyDone (s.chanOf a)).snapGate a).1 = true) :
    (s.settle a).empties = (t.copyDone (s.chanOf a)).empties := by
  unfold State.settle
  dsimp only
  rw [hfirst]
  dsimp only
  rw [if_neg Bool.false_ne_true, hsecond, if_pos rfl, State.snapGate_empties]

theorem State.leftCache_empties (s : State) (line : Nat) : (s.leftCache line).empties = s.empties := by
  unfold State.leftCache
  split <;> rfl

/-- A full set of the memory-side cache writes back the first of its lines where no choice is given (R48). -/
theorem State.mscRoom_empties {line v : Nat} {r : List Nat} (hlen : 16 ≤ s.msc.length) (hr : 15 ≤ r.length) (horacle : s.oracle = [])
    (hset : (linesIn8 s.msc).filter (fun l => l != line && s.mscSet l == s.mscSet line) = v :: r) :
    (s.mscRoom line).empties = (s.settle (128 * v)).empties := by
  have hchoose (n : Nat) : s.choose n = (0, s) := by rw [State.choose, horacle]
  have hfull : ¬ (v :: r).length < 16 := by rw [List.length_cons]; omega
  unfold State.mscRoom
  dsimp only
  rw [if_neg (by omega), hset, if_neg hfull, hchoose]
  exact State.leftCache_empties _ _

/-- The first granule of a line to become dirty takes the line in. -/
theorem State.mscNote_empties {old : CGran} (hgran : s.msc.find? g = none) (hline : s.msc.any (fun p => p.1 / 8 == g / 8) = false) :
    (s.mscNote g old).empties = (s.mscRoom (g / 8)).empties := by
  simp [State.mscNote, hgran, hline]

/-! ## A FEMARK of two lines in a snapshot area -/

/-- A granule that has not been written since the reset, as a cache notes it. -/
def unwritten : CGran := { data := 0, key := none, full := true, poison := false }

/-- Channel 0 with a snapshot whose area is its pages 0 and 1, none of whose copies has been made. The memory-side cache holds one granule of line
512, which lies in page 1, and one of a line of each of the pages 2 to 17, which lie all in the set of line 513. -/
def markedArea : State :=
  { State.reset with
    chans := [(0, { ChanSt.reset with alen := 2, snap := .active })],
    msc := [4103, 8208, 12288, 16392, 20504, 24576, 28688, 32784, 36864, 40984, 45064, 49152, 53264, 57352, 61464, 65544, 69656].map
      (fun g => (g, unwritten)) }

/-- Granule 4103, the last one of line 512, marked empty. -/
def markedOnce : State := { markedArea with empties := [4103] }

theorem markedArea_setFull : markedArea.setFull 4103 false = markedOnce := rfl

/-- The line that leaves the memory-side cache for line 513 is line 1026, of page 2. -/
theorem markedOnce_set :
    (linesIn8 markedOnce.msc).filter (fun l => l != 513 && markedOnce.mscSet l == markedOnce.mscSet 513) =
      [1026, 1536, 2049, 2563, 3072, 3586, 4098, 4608, 5123, 5633, 6144, 6658, 7169, 7683, 8193, 8707] := by decide +kernel

theorem markedOnce_home : markedOnce.chanOf (128 * 1026) = 0 ∧ markedOnce.pageOf (128 * 1026) = 2 := by decide +kernel

/-- The copy of page 2 has been started. -/
def markedCopying : State := markedOnce.modChan 0 (fun c => { c with copying := some 2 })

theorem markedOnce_gate : markedOnce.snapGate (128 * 1026) = (false, markedCopying) := by
  obtain ⟨hchan, hpage⟩ := markedOnce_home
  have hstart := State.snapGate_starts (s := markedOnce) (a := 128 * 1026)
  rw [hchan, hpage] at hstart
  exact hstart rfl (by decide) rfl (by decide) (by decide)

/-- Line 512 lies in page 1 of the channel, the place of the first copy, and in no other. -/
theorem markedCopying_lineAt : markedCopying.lineAt 0 (512 * 1 + 2) = 512 ∧ ∀ i < 512, markedCopying.lineAt 0 (512 * 2 + i) ≠ 512 := by
  decide +kernel

theorem markedCopying_area : (markedCopying.chan 0).abase + 1 + (markedCopying.chan 0).ncopies = 1 := rfl

theorem markedCopying_place :
    4103 ∈ markedCopying.pageGrans 0 ((markedCopying.chan 0).abase + 1 + (markedCopying.chan 0).ncopies) := by
  rw [markedCopying_area]
  exact State.mem_pageGrans.mpr ⟨2, by decide, 7, by decide, by rw [markedCopying_lineAt.1]⟩

/-- No granule of page 2 is empty. -/
theorem markedCopying_full : ∀ x ∈ markedCopying.pageGrans 0 2, markedCopying.isFull x = true := by
  intro x hx
  obtain ⟨i, hi, j, hj, rfl⟩ := State.mem_pageGrans.mp hx
  have hline := markedCopying_lineAt.2 i hi
  rw [State.isFull_iff]
  show _ ∉ [4103]
  rw [List.mem_singleton]
  omega

theorem markedCopying_copied : ((markedCopying.copyDone 0).snapGate (128 * 1026)).1 = true := by
  obtain ⟨l, hl⟩ := State.copyDone_chan (s := markedCopying) (ch := 0) (p := 2) rfl
  obtain ⟨hchan, hpage⟩ := markedOnce_home
  have hunowned : ((markedCopying.copyDone 0).chan (128 * 1026 / 2 ^ 31)).own = false := by
    rw [show 128 * 1026 / 2 ^ 31 = 0 from rfl, hl]
    rfl
  have hmap : (markedCopying.copyDone 0).mapOf (128 * 1026) = markedOnce.mapOf (128 * 1026) :=
    (State.mapOf_unowned hunowned).trans (State.mapOf_unowned (s := markedOnce) rfl).symm
  obtain ⟨hchan', hpage'⟩ := State.home_of_mapOf hmap
  have hopen := State.snapGate_copied (s := markedCopying.copyDone 0) (a := 128 * 1026)
  rw [hchan', hpage', hchan, hpage, hl] at hopen
  exact hopen rfl rfl rfl

/-- The mark of granule 4104, the first one of line 513, leaves granule 4103 full. -/
theorem markedOnce_setFull : (markedOnce.setFull 4104 false).isFull 4103 = true := by
  have hnote : (markedOnce.noteBits 4104).empties = (markedOnce.settle (128 * 1026)).empties :=
    (State.mscNote_empties (s := markedOnce) (g := 4104) rfl rfl).trans (State.mscRoom_empties (by decide) (by decide) rfl markedOnce_set)
  have hsettle := State.settle_empties markedOnce_gate
  rw [markedOnce_home.1] at hsettle
  have hcopied : 4103 ∉ (markedOnce.noteBits 4104).empties := by
    rw [hnote, hsettle markedCopying_copied]
    exact State.isFull_iff.mp (State.isFull_copyDone rfl markedCopying_full markedCopying_place)
  refine State.isFull_iff.mpr fun h => ?_
  rw [State.setFull_false_empties, mem_insNat] at h
  exact h.elim (by decide) hcopied

/-- Refutes O15: a FEMARK that marks granules 4103 and 4104 empty leaves granule 4103 full, where the mark of granule 4104 has a page copied into the
snapshot area in which granule 4103 lies. -/
theorem not_locationOperationsAtTheHome : ¬ Obligations.LocationOperationsAtTheHome := by
  unfold Obligations.LocationOperationsAtTheHome
  intro h
  obtain ⟨hperform, -⟩ := h
  obtain ⟨-, -, -, -, hmark, -⟩ := hperform markedArea 0 (16 * 4103) 16
  have hempty : ((markedArea.setFull 4103 false).setFull 4104 false).isFull 4103 = false := hmark 2 false 0 (by decide)
  rw [markedArea_setFull, markedOnce_setFull] at hempty
  exact Bool.noConfusion hempty

end Sys2Proof.Machine
end

section
/-!
PROOFS. Requests at a slice (O22). The statement speaks of every state, also of one whose table of channels is not in rising order. There the
write-back of a line lists its channel a second time (`State.setBit`), so that its partition counts one channel more and the home of the line is
another one (R60), which refuses the request that the slice is about to perform.
-/

namespace Sys2Proof.Machine

/-- Channel 0 of partition 0, listed behind channel 9, with a snapshot that has overflowed (R54). A slice holds the first granule of line 4 dirty
under key slot 1. -/
def dirtyDisordered : State :=
  { State.reset with
    chans := [(9, ChanSt.reset), (0, { ChanSt.reset with own := true, snap := .overflow })], keys := [(32, 1)],
    l2 := [(32, { data := 0, key := some 1, full := true, poison := false })] }

/-- A load of 8 bytes of line 4 under key slot 0. -/
def loadOfLine4 : SliceReq :=
  { slice := 1, core := 0, cid := 1, op := .load 1 false, addr := 512, size := 8, key := 0, ptag := 0, tenid := 0, code := 0, pc := 0,
    fill := false, tag := 0, acq := none, seq := 1, quiet := false }

/-- Some load reply under way brings a value. -/
def State.bringsValue (s : State) : Bool := s.loads.any (fun r => match r.val with | .g _ _ => true | _ => false)

/-- The home of the line lets the load pass before the write-back, and refuses it after (R46). -/
theorem dirtyDisordered_refused46 :
    dirtyDisordered.refused46 0 512 = false ∧ (dirtyDisordered.homeReady 512 true).2.refused46 0 512 = true := by decide +kernel

theorem dirtyDisordered_ready : (dirtyDisordered.homeReady 512 true).1 = true := by decide +kernel

/-- The slice, which asks the home before it writes the line back, answers the load with a value. -/
theorem dirtyDisordered_brings : (dirtyDisordered.slicePerform loadOfLine4).any State.bringsValue = true := by decide +kernel

/-- Once the line has been written back, the answer is a refusal. -/
theorem writtenBack_brings_not :
    ((dirtyDisordered.homeReady 512 true).2.slicePerform loadOfLine4).any State.bringsValue = false := by decide +kernel

/-- Refutes O22: in a state whose table of channels is not in rising order, a slice that holds a line dirty under another key slot performs a load of
it, which it would refuse once it has written the line back. -/
theorem not_sliceRequestsAndReplies : ¬ Obligations.SliceRequestsAndReplies := by
  unfold Obligations.SliceRequestsAndReplies
  intro h
  obtain ⟨-, -, hperform⟩ := h
  obtain ⟨-, hother, -⟩ := hperform dirtyDisordered loadOfLine4 (by decide)
  have hsame := hother dirtyDisordered_refused46.1 (by decide) (fun hstore => absurd hstore (by decide)) dirtyDisordered_ready
  have hbrings := dirtyDisordered_brings
  rw [hsame] at hbrings
  exact Bool.false_ne_true (writtenBack_brings_not.symm.trans hbrings)

end Sys2Proof.Machine
end

section
/-!
PROOFS. The functions of the scalar integer instructions as arithmetic on numbers (R167, R168, R171, R173, R174).
-/

namespace Sys2Proof.Machine

variable {a x y : Word} {k : Nat}

/-! ## Lesser and greater, shifts and products (R167) -/

theorem sMin_eq (x y : Word) : sMin x y = if x.toInt ≤ y.toInt then x else y := by
  simp only [sMin, BitVec.slt_iff_toInt_lt, ← not_le, ite_not]

theorem sMax_eq (x y : Word) : sMax x y = if y.toInt ≤ x.toInt then x else y := by
  simp only [sMax, BitVec.slt_iff_toInt_lt, ← not_le, ite_not]

theorem uMin_eq (x y : Word) : uMin x y = if x.toNat ≤ y.toNat then x else y := by
  simp only [uMin, BitVec.ult_iff_toNat_lt, ← not_le, ite_not]

theorem uMax_eq (x y : Word) : uMax x y = if y.toNat ≤ x.toNat then x else y := by
  simp only [uMax, BitVec.ult_iff_toNat_lt, ← not_le, ite_not]

theorem shCount_eq (y : Word) : shCount y = y.toNat % 64 := by
  rw [shCount, BitVec.extractLsb'_toNat, Nat.shiftRight_zero]

theorem sshiftRight_shCount (x y : Word) : x.sshiftRight (shCount y) = BitVec.ofInt 64 (x.toInt / 2 ^ (y.toNat % 64)) := by
  rw [← BitVec.ofInt_toInt (x := x.sshiftRight _), BitVec.toInt_sshiftRight, Int.shiftRight_eq_div_pow, shCount_eq, Nat.cast_pow]
  rfl

theorem rotateLeft_shCount (x y : Word) :
    x.rotateLeft (shCount y) = (x <<< (y.toNat % 64)) ||| (x >>> (64 - y.toNat % 64)) := by
  rw [BitVec.rotateLeft_def, shCount_eq, Nat.mod_mod]

theorem mul_eq_ofNat (x y : Word) : x * y = BitVec.ofNat 64 (x.toNat * y.toNat) := by
  rw [BitVec.ofNat_mul, BitVec.ofNat_toNat, BitVec.ofNat_toNat, BitVec.setWidth_eq, BitVec.setWidth_eq]

/-- The high half of a value of 128 bits, as a signed quotient. -/
theorem extractHigh_eq_ofInt (z : BitVec 128) : z.extractLsb' 64 64 = BitVec.ofInt 64 (z.toInt / 2 ^ 64) := by
  have hz := z.isLt
  apply BitVec.eq_of_toNat_eq
  rw [BitVec.extractLsb'_toNat, BitVec.toNat_ofInt, BitVec.toInt_eq_toNat_cond, Nat.shiftRight_eq_div_pow]
  split <;> omega

theorem mulHigh_eq (x y : Word) : mulHigh x y = BitVec.ofInt 64 (x.toInt * y.toInt / 2 ^ 64) := by
  have habs (z : Word) : |z.toInt| ≤ 2 ^ 63 := abs_le.mpr ⟨z.le_toInt, z.toInt_lt.le⟩
  have hprod : |x.toInt * y.toInt| ≤ 2 ^ 63 * 2 ^ 63 := by
    rw [abs_mul]
    exact mul_le_mul (habs x) (habs y) (abs_nonneg _) (by positivity)
  obtain ⟨hlow, hhigh⟩ := abs_le.mp hprod
  rw [mulHigh, extractHigh_eq_ofInt, BitVec.toInt_mul, BitVec.toInt_signExtend_of_le (by decide), BitVec.toInt_signExtend_of_le (by decide),
    Int.bmod_eq_of_le (by omega) (by omega)]

theorem mulHighN_eq (x y : Word) : mulHighN x y = BitVec.ofNat 64 (x.toNat * y.toNat / 2 ^ 64) := by
  have hprod : x.toNat * y.toNat < 2 ^ 128 := (Nat.mul_lt_mul'' x.isLt y.isLt).trans_eq (by norm_num)
  have hwide (z : Word) : (z.setWidth 128).toNat = z.toNat := BitVec.toNat_setWidth_of_le (by decide)
  apply BitVec.eq_of_toNat_eq
  rw [mulHighN, BitVec.extractLsb'_toNat, BitVec.toNat_mul, hwide, hwide, Nat.mod_eq_of_lt hprod, Nat.shiftRight_eq_div_pow, BitVec.toNat_ofNat]

/-! ## Division (R168) -/

theorem divS_zero (x : Word) : divS x 0 = BitVec.allOnes 64 := if_pos rfl
theorem remS_zero (x : Word) : remS x 0 = x := if_pos rfl
theorem divU_zero (x : Word) : divU x 0 = BitVec.allOnes 64 := if_pos rfl
theorem remU_zero (x : Word) : remU x 0 = x := if_pos rfl

theorem divS_eq_sdiv (hy : y ≠ 0) : divS x y = x.sdiv y := by
  rw [divS, if_neg hy]
  apply BitVec.eq_of_toInt_eq
  rw [BitVec.toInt_ofInt, BitVec.toInt_sdiv]

theorem remS_eq_srem (hy : y ≠ 0) : remS x y = x.srem y := by
  rw [remS, if_neg hy, ← BitVec.toInt_srem, BitVec.ofInt_toInt]

/-- The quotient and the remainder complete the division, where the quotient fits. -/
theorem toInt_eq_mul_divS_add_remS (hy : y ≠ 0) (hxy : x ≠ 0x8000000000000000#64 ∨ y ≠ BitVec.allOnes 64) :
    x.toInt = y.toInt * (divS x y).toInt + (remS x y).toInt := by
  rw [divS_eq_sdiv hy, remS_eq_srem hy, BitVec.toInt_srem, BitVec.toInt_sdiv_of_ne_or_ne x y hxy, add_comm, Int.tmod_add_mul_tdiv]

theorem natAbs_remS_lt (hy : y ≠ 0) : (remS x y).toInt.natAbs < y.toInt.natAbs := by
  have hpos : 0 < y.toInt.natAbs := Int.natAbs_pos.mpr fun h => hy (BitVec.toInt_inj.mp (h.trans BitVec.toInt_zero.symm))
  rw [remS_eq_srem hy, BitVec.toInt_srem, Int.natAbs_tmod]
  exact Nat.mod_lt _ hpos

/-- The remainder takes the sign of the dividend. -/
theorem remS_zero_or_msb (hy : y ≠ 0) : remS x y = 0 ∨ (remS x y).msb = x.msb := by
  rw [remS_eq_srem hy]
  refine or_iff_not_imp_left.mpr fun hr => ?_
  rw [BitVec.msb_srem, decide_eq_true hr, Bool.and_true]

theorem toNat_divU (hy : y ≠ 0) : (divU x y).toNat = x.toNat / y.toNat := by
  rw [divU, if_neg hy, BitVec.toNat_ofNat, Nat.mod_eq_of_lt ((Nat.div_le_self _ _).trans_lt x.isLt)]

theorem toNat_remU (hy : y ≠ 0) : (remU x y).toNat = x.toNat % y.toNat := by
  rw [remU, if_neg hy, BitVec.toNat_ofNat, Nat.mod_eq_of_lt ((Nat.mod_le _ _).trans_lt x.isLt)]

/-! ## Counts of bits (R171) -/

theorem clz64_spec (a : Word) :
    ∃ n, n ≤ 64 ∧ clz64 a = BitVec.ofNat 64 n ∧ a.toNat < 2 ^ (64 - n) ∧ (n < 64 → 2 ^ (63 - n) ≤ a.toNat) := by
  by_cases h : a = 0
  · subst h
    exact ⟨64, le_rfl, rfl, by decide, fun hn => absurd hn (lt_irrefl 64)⟩
  · have hne : a.toNat ≠ 0 := fun e => h (BitVec.eq_of_toNat_eq e)
    have hlog : a.toNat.log2 < 64 := (Nat.log2_lt hne).mpr a.isLt
    refine ⟨63 - a.toNat.log2, by omega, by rw [clz64, if_neg h], ?_, fun _ => ?_⟩
    · rw [show 64 - (63 - a.toNat.log2) = a.toNat.log2 + 1 by omega]
      exact Nat.lt_log2_self
    · rw [show 63 - (63 - a.toNat.log2) = a.toNat.log2 by omega]
      exact Nat.log2_self_le hne

/-- A value and its negation have the lowest one bit in common, and no other bit. -/
theorem and_neg_eq_twoPow (hone : a.getLsbD k = true) (hlow : ∀ j < k, a.getLsbD j = false) : a &&& -a = BitVec.twoPow 64 k := by
  apply BitVec.eq_of_getLsbD_eq
  intro i hi
  have hk : k < 64 := BitVec.lt_of_getLsbD hone
  have hbelow : (∃ j < i, a.getLsbD j = true) ↔ k < i := by
    refine ⟨fun ⟨j, hj, haj⟩ => ?_, fun h => ⟨k, h, hone⟩⟩
    by_contra hik
    exact Bool.noConfusion (haj.symm.trans (hlow j (by omega)))
  rw [BitVec.getLsbD_and, BitVec.getLsbD_neg, BitVec.getLsbD_twoPow, decide_eq_true hi, decide_eq_true hk, Bool.true_and, Bool.true_and]
  simp only [hbelow]
  rcases lt_trichotomy i k with h | rfl | h
  · simp [hlow i h, h.ne']
  · simp [hone]
  · simp [h, h.ne]

theorem ctz64_spec (a : Word) :
    ∃ n, n ≤ 64 ∧ ctz64 a = BitVec.ofNat 64 n ∧ a.toNat % 2 ^ n = 0 ∧ (n < 64 → a.getLsbD n = true) := by
  by_cases h : a = 0
  · subst h
    exact ⟨64, le_rfl, rfl, by decide, fun hn => absurd hn (lt_irrefl 64)⟩
  · have hex : ∃ i, a.getLsbD i = true := by
      by_contra hno
      exact h (BitVec.eq_of_getLsbD_eq fun i _ => (Bool.eq_false_iff.mpr fun hi => hno ⟨i, hi⟩).trans BitVec.getLsbD_zero.symm)
    have hone := Nat.find_spec hex
    have hlow : ∀ j < Nat.find hex, a.getLsbD j = false := fun j hj => Bool.eq_false_iff.mpr (Nat.find_min hex hj)
    have hk : Nat.find hex < 64 := BitVec.lt_of_getLsbD hone
    refine ⟨Nat.find hex, hk.le, ?_, ?_, fun _ => hone⟩
    · rw [ctz64, if_neg h, and_neg_eq_twoPow hone hlow, BitVec.toNat_twoPow_of_lt hk, Nat.log2_two_pow]
    · apply Nat.eq_of_testBit_eq
      intro i
      rw [Nat.testBit_mod_two_pow, Nat.zero_testBit]
      by_cases hi : i < Nat.find hex
      · rw [BitVec.testBit_toNat, hlow i hi, Bool.and_false]
      · rw [decide_eq_false hi, Bool.false_and]

theorem popCount_eq_countP (n x : Nat) : popCount n x = (List.range n).countP x.testBit := by
  induction n generalizing x with
  | zero => rfl
  | succ n ih =>
    have hshift : x.testBit ∘ Nat.succ = (x / 2).testBit := funext fun i => Nat.testBit_succ x i
    rw [popCount, ih, List.range_succ_eq_map, List.countP_cons, List.countP_map, hshift, Nat.testBit_zero, add_comm]
    rcases Nat.mod_two_eq_zero_or_one x with h | h <;> simp [h]

theorem popc64_eq (a : Word) : popc64 a = BitVec.ofNat 64 ((List.range 64).countP (fun i => a.getLsbD i)) := by
  rw [popc64, popCount_eq_countP]
  rfl

/-! ## Extensions, fields and scaled indices (R171, R173, R174) -/

theorem setWidth_setWidth_eq_ofNat (a : Word) (w : Nat) : (a.setWidth w).setWidth 64 = BitVec.ofNat 64 (a.toNat % 2 ^ w) := by
  apply BitVec.eq_of_toNat_eq
  rw [BitVec.toNat_setWidth, BitVec.toNat_setWidth, BitVec.toNat_ofNat]

/-- A mask of `w` one bits. -/
theorem toNat_lowMask (w : BitVec 6) : (BitVec.ofNat 64 (2 ^ w.toNat - 1)).toNat = 2 ^ w.toNat - 1 := by
  have hpow : 2 ^ w.toNat < 2 ^ 64 := Nat.pow_lt_pow_right (by decide) w.isLt
  rw [BitVec.toNat_ofNat, Nat.mod_eq_of_lt (by omega)]

theorem getLsbD_lowMask (w : BitVec 6) (i : Nat) : (BitVec.ofNat 64 (2 ^ w.toNat - 1)).getLsbD i = decide (i < w.toNat) := by
  rw [← BitVec.testBit_toNat, toNat_lowMask, Nat.testBit_two_pow_sub_one]

theorem extractField_eq (a : Word) (pos wid : BitVec 6) :
    (a >>> pos.toNat) &&& BitVec.ofNat 64 (2 ^ wid.toNat - 1) = BitVec.ofNat 64 (a.toNat / 2 ^ pos.toNat % 2 ^ wid.toNat) := by
  have hlt : a.toNat / 2 ^ pos.toNat % 2 ^ wid.toNat < 2 ^ 64 := (Nat.mod_le _ _).trans_lt ((Nat.div_le_self _ _).trans_lt a.isLt)
  apply BitVec.eq_of_toNat_eq
  rw [BitVec.toNat_and, toNat_lowMask, BitVec.toNat_ushiftRight, Nat.and_two_pow_sub_one_eq_mod, Nat.shiftRight_eq_div_pow, BitVec.toNat_ofNat,
    Nat.mod_eq_of_lt hlt]

/-- The value of INSB: `x` with the low bits of `a` in its field (R173). -/
def insertField (x a : Word) (pos wid : BitVec 6) : Word :=
  let m : Word := BitVec.ofNat 64 (2 ^ wid.toNat - 1) <<< pos.toNat
  (x &&& ~~~m) ||| ((a <<< pos.toNat) &&& m)

theorem getLsbD_insertField (x a : Word) (pos wid : BitVec 6) {i : Nat} (hi : i < 64) : (insertField x a pos wid).getLsbD i =
    if pos.toNat ≤ i ∧ i < pos.toNat + wid.toNat then a.getLsbD (i - pos.toNat) else x.getLsbD i := by
  simp only [insertField, BitVec.getLsbD_or, BitVec.getLsbD_and, BitVec.getLsbD_not, BitVec.getLsbD_shiftLeft, getLsbD_lowMask, hi, decide_true,
    Bool.true_and]
  by_cases hbelow : i < pos.toNat
  · simp [hbelow, show ¬ pos.toNat ≤ i by omega]
  · by_cases hfield : i - pos.toNat < wid.toNat
    · simp [hbelow, hfield, show pos.toNat ≤ i ∧ i < pos.toNat + wid.toNat by omega]
    · simp [hbelow, hfield, show ¬ i < pos.toNat + wid.toNat by omega]

theorem shiftLeft_eq_mul (x : Word) (n : Nat) : x <<< n = x * BitVec.ofNat 64 (2 ^ n) := by
  rw [BitVec.shiftLeft_eq_mul_twoPow]
  congr 1
  apply BitVec.eq_of_toNat_eq
  rw [BitVec.toNat_twoPow, BitVec.toNat_ofNat]

end Sys2Proof.Machine
end

section
/-!
PROOFS. The scalar integer instructions (O1 to O4): each has one rule, which says what its turn writes once its operands are read, and the functions
that it writes are the arithmetic of the section above.
-/

namespace Sys2Proof.Machine

variable {s s1 s2 u : State} {a b c x y : Word} {d sr : Reg}

/-! ## One rule for each shape of instruction -/

/-- An instruction of two operands writes its function of them (R165, R166). -/
theorem intBin_writesG {i : Instr} {sg : Bool} {f : Word → Word → Word} {o : IntBin} {r : Word} (hi : exec i s = issueOp (intBin sg f o) s)
    (hn : s.namesOk o.regs) (ho : intOperands o sg s = .ok ((x, y), u)) (hr : f x y = r) : writesG i s u o.d r :=
  fun _ ht => hi.trans (intBin_ok hn ho (hr ▸ ht))

/-- A unary instruction writes its function of its operand (R171). -/
theorem intUn_writesG {i : Instr} {f : Word → Word} {o : IntUn} {r : Word} (hi : exec i s = issueOp (intUn f o) s)
    (hn : s.namesOk (o.d :: UnSrc.regs o.src)) (ho : unOperand o.src s = .ok (a, u)) (hr : f a = r) : writesG i s u o.d r :=
  fun _ ht => hi.trans (intUn_ok hn ho (hr ▸ ht))

/-- CMP writes 1 where its condition does not equal its inversion (R170). -/
theorem cmp_writesG {k : CmpCond} {inv : Bool} {o : IntBin} {p : Prop} [Decidable p] (hn : s.namesOk o.regs)
    (ho : intOperands o (k == .lt || k == .le) s = .ok ((x, y), u)) (hp : cmpHolds k x y = decide p) :
    writesG (.cmp k inv o) s u o.d (if p then (if inv then 0 else 1) else if inv then 1 else 0) := by
  refine intBin_writesG rfl hn ho ?_
  rw [hp]
  by_cases h : p <;> cases inv <;> simp [h]

/-- The second operand of SEL (R169). -/
def selSecond (src : Src2) : Op Word :=
  match src with
  | .imm p => pure (immS p 0 0)
  | .reg t => readG t
  | .two => pure 0

theorem execSel_eq (o : IntBin) (s : State) :
    execSel o s = issueOp (do
      gate o.regs
      let x ← readS o.s o.q false
      let y ← selSecond o.src
      let c ← readG o.d
      writeG o.d (if c ≠ 0 then x else y)) s := by
  unfold execSel selSecond
  cases o.src <;> rfl

theorem sel_writesG {o : IntBin} (hn : s.namesOk o.regs) (hx : readS o.s o.q false s = .ok (x, s1)) (hy : selSecond o.src s1 = .ok (y, s2))
    (hc : readG o.d s2 = .ok (c, u)) : writesG (.sel o) s u o.d (if c = 0 then y else x) := by
  intro t ht
  refine (execSel_eq o s).trans (issueOp_ok ?_)
  rw [op_bind_ok (gate_ok hn), op_bind_ok hx, op_bind_ok hy, op_bind_ok hc, ite_not, ht]

theorem sext_writesG {o : ExtOp} (hn : s.namesOk [o.d, o.s]) (ha : readS o.s o.q true s = .ok (a, u)) :
    writesG (.sext o) s u o.d ((a.setWidth (extBits o.w)).signExtend 64) := by
  intro t ht
  refine issueOp_ok ?_
  rw [op_bind_ok (gate_ok hn), op_bind_ok ha, ht]

theorem zext_writesG {o : ExtOp} (hn : s.namesOk [o.d, o.s]) (ha : readS o.s o.q false s = .ok (a, u)) :
    writesG (.zext o) s u o.d (BitVec.ofNat 64 (a.toNat % 2 ^ extBits o.w)) := by
  intro t ht
  refine issueOp_ok ?_
  rw [op_bind_ok (gate_ok hn), op_bind_ok ha, setWidth_setWidth_eq_ofNat, ht]

theorem movImm_writesG {o : RegImm} (hn : s.namesOk [o.d]) : writesG (.movImm o) s s o.d (immS o.p 6 o.i.toNat) := by
  intro t ht
  refine issueOp_ok ?_
  rw [op_bind_ok (gate_ok hn), ht]

theorem addImm_writesG {o : RegImm} (hn : s.namesOk [o.d]) (hx : readG o.d s = .ok (x, u)) :
    writesG (.addImm o) s u o.d (x + immS o.p 6 o.i.toNat) := by
  intro t ht
  refine issueOp_ok ?_
  rw [op_bind_ok (gate_ok hn), op_bind_ok hx, ht]

theorem extb_writesG {o : FieldOp} (hn : s.namesOk [o.d, o.s]) (ha : readS o.s o.q false s = .ok (a, u)) :
    writesG (.extb o) s u o.d (BitVec.ofNat 64 (a.toNat / 2 ^ o.pos.toNat % 2 ^ o.wid.toNat)) := by
  intro t ht
  refine issueOp_ok ?_
  rw [op_bind_ok (gate_ok hn), op_bind_ok ha, extractField_eq, ht]

theorem insb_writesG {o : FieldOp} (hn : s.namesOk [o.d, o.s]) (ha : readS o.s o.q false s = .ok (a, s1)) (hx : readG o.d s1 = .ok (x, u)) :
    writesG (.insb o) s u o.d (insertField x a o.pos o.wid) := by
  intro t ht
  refine issueOp_ok ?_
  rw [op_bind_ok (gate_ok hn), op_bind_ok ha, op_bind_ok hx]
  exact ht

theorem lea_writesG {o : LeaOp} (hn : s.namesOk [o.d, o.s, o.t]) (hb : readG o.s s = .ok (b, s1)) (ha : readG o.t s1 = .ok (a, u)) :
    writesG (.lea o) s u o.d (b + a * BitVec.ofNat 64 (2 ^ o.f.toNat) + immS o.p 0 0) := by
  intro t ht
  refine issueOp_ok ?_
  rw [op_bind_ok (gate_ok hn), op_bind_ok hb, op_bind_ok ha, shiftLeft_eq_mul, ht]

section
variable {len : BndLen} {lo hi : Word} (hn : s.namesOk [d, sr]) (ha : readG sr s = .ok (a, u)) (hlo : readG 61 u = .ok (lo, u))
  (hhi : readG 62 u = .ok (hi, u))
include hn ha hlo hhi

theorem bnd_inside (hbase : lo.toNat ≤ a.toNat) (hend : a.toNat + bndLen len ≤ hi.toNat) : writesG (.bnd d sr len) s u d a := by
  intro t ht
  have hfits : (decide (a.toNat < lo.toNat) || decide (hi.toNat < a.toNat + bndLen len)) = false := by
    rw [decide_eq_false hbase.not_gt, decide_eq_false hend.not_gt, Bool.or_false]
  refine issueOp_ok ?_
  rw [op_bind_ok (gate_ok hn), op_bind_ok ha, op_bind_ok hlo, op_bind_ok hhi]
  dsimp only
  rw [hfits, op_bind_ok (trapIf_false ..), ht]

theorem bnd_outside (hout : a.toNat < lo.toNat ∨ hi.toNat < a.toNat + bndLen len) :
    exec (.bnd d sr len) s = .next (s.takeTrap .confine a (BitVec.ofNat 64 (bndLen len * 2 ^ 20 + 16 * 2 ^ 12)) false) := by
  have hfits : (decide (a.toNat < lo.toNat) || decide (hi.toNat < a.toNat + bndLen len)) = true := by
    rw [← Bool.decide_or, decide_eq_true hout]
  refine issueOp_trap ?_
  rw [op_bind_ok (gate_ok hn), op_bind_ok ha, op_bind_ok hlo, op_bind_ok hhi]
  dsimp only
  rw [hfits, op_bind_error (trapIf_true ..)]

end

/-! ## The obligations -/

/-- Settles O1: every instruction is `intBin` of its function, which is the one of the table of R167. -/
theorem twoOperandIntegerResults : Obligations.TwoOperandIntegerResults := by
  unfold Obligations.TwoOperandIntegerResults
  refine fun s u o x y hn => ⟨fun ho => ?unsigned, fun ho => ?signed⟩
  case unsigned =>
    have bin {i : Instr} {f : Word → Word → Word} {r : Word} (hi : exec i s = issueOp (intBin false f o) s) (hr : f x y = r) :
        writesG i s u o.d r := intBin_writesG hi hn ho hr
    have hcount := shCount_eq y
    exact ⟨bin rfl rfl, bin rfl rfl, bin rfl rfl, bin rfl rfl, bin rfl rfl, bin rfl rfl, bin rfl (uMin_eq x y), bin rfl (uMax_eq x y),
      bin rfl (congrArg (x <<< ·) hcount), bin rfl (congrArg (x >>> ·) hcount), bin rfl (rotateLeft_shCount x y), bin rfl (mul_eq_ofNat x y),
      bin rfl (mulHighN_eq x y)⟩
  case signed =>
    exact ⟨intBin_writesG rfl hn ho (sMin_eq x y), intBin_writesG rfl hn ho (sMax_eq x y), intBin_writesG rfl hn ho (sshiftRight_shCount x y),
      intBin_writesG rfl hn ho (mulHigh_eq x y)⟩

/-- Settles O2: by whether the divisor is 0 and whether the signed quotient fits. -/
theorem integerDivision : Obligations.IntegerDivision := by
  unfold Obligations.IntegerDivision
  refine fun s u o x y hn => ⟨fun ho => ⟨fun hy => ?zero, fun hx hy => ?overflow, fun hy hxy => ?signed⟩,
    fun ho => ⟨fun hy => ?zeroN, fun hy => ?unsigned⟩⟩
  case zero =>
    subst hy
    exact ⟨intBin_writesG rfl hn ho (divS_zero x), intBin_writesG rfl hn ho (remS_zero x)⟩
  case overflow =>
    subst hx hy
    exact ⟨intBin_writesG rfl hn ho (by decide), intBin_writesG rfl hn ho (by decide)⟩
  case signed =>
    exact ⟨divS x y, remS x y, intBin_writesG rfl hn ho rfl, intBin_writesG rfl hn ho rfl, toInt_eq_mul_divS_add_remS hy hxy,
      natAbs_remS_lt hy, remS_zero_or_msb hy⟩
  case zeroN =>
    subst hy
    exact ⟨intBin_writesG rfl hn ho (divU_zero x), intBin_writesG rfl hn ho (remU_zero x)⟩
  case unsigned =>
    have hpos : 0 < y.toNat := Nat.pos_of_ne_zero fun h => hy (BitVec.eq_of_toNat_eq h)
    refine ⟨divU x y, remU x y, intBin_writesG rfl hn ho rfl, intBin_writesG rfl hn ho rfl, ?_, ?_⟩
    · rw [toNat_divU hy, toNat_remU hy, Nat.div_add_mod]
    · rw [toNat_remU hy]
      exact Nat.mod_lt _ hpos

/-- Settles O3: one rule for SEL, and one for CMP with each of its conditions. -/
theorem selectAndCompare : Obligations.SelectAndCompare := by
  unfold Obligations.SelectAndCompare
  refine fun s u o x y hn => ⟨fun s1 s2 c hx hy hc => sel_writesG hn hx ?second hc, fun ho => ?unsigned, fun ho => ?signed⟩
  case second =>
    generalize o.src = src at hy
    cases src with
    | imm p => obtain ⟨rfl, rfl⟩ := hy; rfl
    | reg t => exact hy
    | two => obtain ⟨rfl, rfl⟩ := hy; rfl
  case unsigned =>
    have heq : cmpHolds .eq x y = decide (x = y) := Bool.beq_eq_decide_eq x y
    have hltn : cmpHolds .ltn x y = decide (x.toNat < y.toNat) := BitVec.ult_eq_decide
    exact ⟨cmp_writesG hn ho heq, cmp_writesG hn ho heq, cmp_writesG hn ho hltn, cmp_writesG hn ho hltn⟩
  case signed =>
    have hlt : cmpHolds .lt x y = decide (x.toInt < y.toInt) := BitVec.slt_eq_decide
    have hle : cmpHolds .le x y = decide (x.toInt ≤ y.toInt) := BitVec.sle_eq_decide
    exact ⟨cmp_writesG hn ho hlt, cmp_writesG hn ho hlt, cmp_writesG hn ho hle, cmp_writesG hn ho hle⟩

/-- Settles O4: each instruction by its own rule. -/
theorem unaryFieldAndAddressResults : Obligations.UnaryFieldAndAddressResults := by
  unfold Obligations.UnaryFieldAndAddressResults
  refine ⟨fun s u o a hn ho => ⟨intUn_writesG rfl hn ho rfl, ?clz, ?ctz, intUn_writesG rfl hn ho (popc64_eq a)⟩,
    fun s u o a hn => ⟨fun ha => ?sext, fun ha => ?zext⟩,
    fun s u o x hn => ⟨movImm_writesG hn, fun hx => addImm_writesG hn hx⟩,
    fun s s1 u o a x hn ha => ⟨extb_writesG hn ha, fun hx => ⟨_, insb_writesG hn ha hx, fun i => getLsbD_insertField x a o.pos o.wid⟩⟩,
    fun s s1 u o b i hn hb hi => lea_writesG hn hb hi,
    fun s u d src len a lo hi hn ha hlo hhi => bnd_inside hn ha hlo hhi,
    fun s => issueOp_ok rfl,
    fun s u d src len a lo hi hn ha hlo hhi => bnd_outside hn ha hlo hhi⟩
  case clz =>
    obtain ⟨n, hn64, hclz, hbits⟩ := clz64_spec a
    exact ⟨n, hn64, intUn_writesG rfl hn ho hclz, hbits⟩
  case ctz =>
    obtain ⟨n, hn64, hctz, hbits⟩ := ctz64_spec a
    exact ⟨n, hn64, intUn_writesG rfl hn ho hctz, hbits⟩
  case sext =>
    have h := sext_writesG hn ha
    cases hw : o.w <;> rw [hw] at h <;> exact h
  case zext => exact zext_writesG hn ha

end Sys2Proof.Machine
end

section
/-!
PROOFS. The branches of page 0 (O5): each has one rule, which says where its turn goes on once its operands are read.
-/

namespace Sys2Proof.Machine

variable {s s1 u t : State} {a x y : Word} {d sr : Reg} {p : Pxi}

/-- The slot goes on at the branch's target where the branch is taken, and at `next_pc` elsewhere (R176, R177). -/
def State.branched (s : State) (taken : Bool) (off : Word) : State :=
  if taken then s.modMe (fun c => { c with npc := branchTo s.me.pc off }) else s

theorem branchIf_apply (taken : Bool) (off : Word) (s : State) : branchIf taken off s = .ok ((), s.branched taken off) := by
  cases taken <;> rfl

/-! ## Targets of indirect branches (R181) -/

theorem topByte_ne_zero (a : Word) : (a.extractLsb' 56 8 != 0) = decide (2 ^ 56 ≤ a.toNat) := by
  have ha := a.isLt
  rw [bne, Bool.beq_eq_decide_eq, ← decide_not, decide_eq_decide, ← BitVec.toNat_inj, BitVec.extractLsb'_toNat, Nat.shiftRight_eq_div_pow]
  change ¬ a.toNat / 2 ^ 56 % 2 ^ 8 = 0 ↔ _
  omega

theorem checkTarget_ok (heven : a.getLsbD 0 = false) (hfits : a.toNat < 2 ^ 56) : checkTarget a s = .ok ((), s) := by
  rw [checkTarget, heven, topByte_ne_zero, decide_eq_false hfits.not_ge]
  rfl

theorem checkTarget_trap (h : a.getLsbD 0 = true ∨ 2 ^ 56 ≤ a.toNat) : checkTarget a s = .error (.trap .align a (accInfo 17 8 false)) := by
  rw [checkTarget, topByte_ne_zero, Bool.or_eq_true_iff.mpr (h.imp_right (decide_eq_true ·))]
  rfl

/-! ## One rule for each branch -/

theorem br_completes {i : BitVec 10} : completes (.br i p) s (s.branched true (immS p 10 i.toNat)) :=
  issueOp_ok (branchIf_apply ..)

theorem call_completes {i : BitVec 10} (hlk : writeG 63 s.me.npc s = .ok ((), t)) :
    completes (.call i p) s (t.branched true (immS p 10 i.toNat)) := by
  refine issueOp_ok ?_
  rw [op_bind_ok hlk, branchIf_apply]

theorem bc_completes {k : BcCond} {i : BitVec 4} {taken : Bool} (hn : s.namesOk [sr]) (ha : readG sr s = .ok (a, u))
    (htaken : BcCond.holds k a = taken) : completes (.bc k sr i p) s (u.branched taken (immS p 4 i.toNat)) := by
  refine issueOp_ok ?_
  rw [op_bind_ok (gate_ok hn), op_bind_ok ha, htaken, branchIf_apply]

theorem bcmp_completes {k : BcmpCond} {taken : Bool} (hn : s.namesOk [d, sr]) (hy : readG sr s = .ok (y, s1)) (hx : readG d s1 = .ok (x, u))
    (htaken : BcmpCond.holds k x y = taken) : completes (.bcmp k d sr p) s (u.branched taken (immS p 0 0)) := by
  refine issueOp_ok ?_
  rw [op_bind_ok (gate_ok hn), op_bind_ok hy, op_bind_ok hx, htaken, branchIf_apply]

/-- BQB pops one outcome, and branches when it equals the sense bit (R182). -/
theorem bqb_completes {sense : Bool} {i : BitVec 9} (hs : s.atAnchor) (ha : readG 60 s = .ok (a, u)) :
    completes (.bqb sense i p) s (u.branched (a.getLsbD 0 == sense) (immS p 9 i.toNat)) := by
  refine issueOp_ok ?_
  rw [op_bind_ok (gate_ok (.inr hs)), op_bind_ok ha, branchIf_apply]

section
variable (ha : readG sr s = .ok (a, u))
include ha

theorem jmp_completes (hn : s.namesOk [sr]) (ht : checkTarget a u = .ok ((), u)) :
    completes (.jmp sr) s (u.modMe (fun c => { c with npc := a })) := by
  refine issueOp_ok ?_
  rw [op_bind_ok (gate_ok hn), op_bind_ok ha, op_bind_ok ht]
  rfl

theorem callr_completes (hn : s.namesOk [sr]) (ht : checkTarget a u = .ok ((), u)) (hlk : writeG 63 s.me.npc u = .ok ((), t)) :
    completes (.callr sr) s (t.modMe (fun c => { c with npc := a })) := by
  refine issueOp_ok ?_
  rw [op_bind_ok (gate_ok hn), op_bind_ok ha, op_bind_ok ht, op_bind_ok hlk]
  rfl

variable {k : TrapClass} {v i : Word}

theorem jmp_traps (hn : s.namesOk [sr]) (ht : checkTarget a u = .error (.trap k v i)) : exec (.jmp sr) s = .next (s.takeTrap k v i false) := by
  refine issueOp_trap ?_
  rw [op_bind_ok (gate_ok hn), op_bind_ok ha, op_bind_error ht]

theorem callr_traps (hn : s.namesOk [sr]) (ht : checkTarget a u = .error (.trap k v i)) :
    exec (.callr sr) s = .next (s.takeTrap k v i false) := by
  refine issueOp_trap ?_
  rw [op_bind_ok (gate_ok hn), op_bind_ok ha, op_bind_error ht]

end

/-- RET jumps to the target in `lk`, which is no port register (R181). -/
theorem exec_ret (s : State) : exec .ret s = exec (.jmp 63) s := rfl

/-- Settles O5: each branch by its own rule. -/
theorem branchTargets : Obligations.BranchTargets := by
  unfold Obligations.BranchTargets
  have hret (s : State) : s.namesOk [63] := .inl rfl
  refine ⟨fun s i p => br_completes, fun s t i p hlk => call_completes hlk,
    fun s u k sr i p a hn ha => bc_completes hn ha ?bc,
    fun s s1 u k d sr p x y hn hy hx => bcmp_completes hn hy hx ?bcmp,
    fun s u t sr a hn ha => ⟨fun heven hfits => ?good, fun hbad => ?bad⟩,
    fun s u a ha => ⟨fun heven hfits => (exec_ret s).trans (jmp_completes ha (hret s) (checkTarget_ok heven hfits)),
      fun hbad => (exec_ret s).trans (jmp_traps ha (hret s) (checkTarget_trap hbad))⟩,
    fun s u sense i p b hs hb => ?bqb⟩
  case bc =>
    cases k with
    | z => exact Bool.beq_eq_decide_eq a 0
    | nz => exact (congrArg not (Bool.beq_eq_decide_eq a 0)).trans decide_not.symm
    | lz => exact BitVec.msb_eq_toInt
    | gez => exact (congrArg not BitVec.msb_eq_toInt).trans (decide_not.symm.trans (decide_eq_decide.mpr not_lt))
  case bcmp =>
    cases k with
    | eq => exact Bool.beq_eq_decide_eq x y
    | ne => exact (congrArg not (Bool.beq_eq_decide_eq x y)).trans decide_not.symm
    | lt => exact BitVec.slt_eq_decide
    | ltn => exact BitVec.ult_eq_decide
  case good => exact ⟨jmp_completes ha hn (checkTarget_ok heven hfits), callr_completes ha hn (checkTarget_ok heven hfits)⟩
  case bad => exact ⟨jmp_traps ha hn (checkTarget_trap hbad), callr_traps ha hn (checkTarget_trap hbad)⟩
  case bqb =>
    have h := bqb_completes (sense := sense) (i := i) (p := p) hs hb
    simpa only [State.branched, beq_iff_eq] using h

end Sys2Proof.Machine
end

section
/-!
PROOFS. The scalar floating-point instructions (O6): a result with flags is written by `putF`, in the mode of `fcs.rm` once the operands are read.
-/

namespace Sys2Proof.Machine

variable {s s1 s2 u : State} {d src : Reg} {m : SMod}

/-- A binary instruction writes its function of its operands, with the flags that it raises (R187). -/
theorem fltBin_writesF {i : Instr} {f : Fmt → Rm → Nat → Nat → Nat × Word} {o : FBin} {x y : Nat} (hi : exec i s = issueOp (fltBin f o) s)
    (hn : s.namesOk [o.d, o.s, o.src.getD 0]) (ho : fltOperands o s = .ok ((x, y), u)) :
    writesF i s u o.d (f (fmtS o.dbl) u.me.rm x y) :=
  fun _ ht => hi.trans (fltBin_ok hn ho ht)

/-- FMA rounds once (R188). -/
theorem fma_writesF {dbl : Bool} {t : Reg} {p : Nat} {q c : Word} (hn : s.namesOk [d, src, t]) (hp : readF dbl src m s = .ok (p, s1))
    (hq : readG t s1 = .ok (q, s2)) (hc : readG d s2 = .ok (c, u)) :
    writesF (.fma dbl d src t m) s u d ((fmtS dbl).fma u.me.rm false false p (bitsS dbl q) (bitsS dbl c)) := by
  intro w hw
  refine issueOp_ok ?_
  rw [op_bind_ok (gate_ok hn), op_bind_ok hp, op_bind_ok hq, op_bind_ok hc]
  exact putF_ok hw

section
variable {o : FUn} {a : Nat} (hn : s.namesOk [o.d, o.s]) (ha : readF o.dbl o.s o.m s = .ok (a, u))
include hn ha

theorem fsqrt_writesF : writesF (.fsqrt o) s u o.d ((fmtS o.dbl).sqrt u.me.rm a) := by
  intro t ht
  refine issueOp_ok ?_
  rw [op_bind_ok (gate_ok hn), op_bind_ok ha]
  exact putF_ok ht

theorem fclass_writesF : writesF (.fclass o) s u o.d (2 ^ (fmtS o.dbl).cls a, 0) := by
  intro t ht
  refine issueOp_ok ?_
  rw [op_bind_ok (gate_ok hn), op_bind_ok ha]
  exact putF_ok ht

end

/-- A choice of two parts before the same rest. -/
theorem op_ite_bind_eq {α β : Type} {c : Prop} [Decidable c] {m n : Op α} {f : α → Op β} {r : α × State}
    (h : (if c then m else n) s = .ok r) : (if c then m >>= f else n >>= f) s = f r.1 r.2 := by
  by_cases hc : c
  · rw [if_pos hc] at h ⊢
    exact op_bind_ok h
  · rw [if_neg hc] at h ⊢
    exact op_bind_ok h

/-- FCVT writes the converted value, of any format, with the flags that the conversion raises (R192). -/
theorem fcvt_completes {k : CvtKind} {x : Word} {t : State} (hn : s.namesOk [d, src])
    (hx : (if m = .sync then readSync src else readG src) s = .ok (x, u)) (ht : writeG d (cvt k u.me.rm m x).1 u = .ok ((), t)) :
    completes (.fcvt k d src m) s (t.modMe (fun c => { c with fcs := c.fcs ||| (cvt k u.me.rm m x).2 })) := by
  have hmode : modeOp u = .ok (u.me.rm, u) := rfl
  refine issueOp_ok ((op_bind_ok (gate_ok hn)).trans ((op_ite_bind_eq hx).trans ((op_bind_ok hmode).trans ?_)))
  exact op_bind_ok ht

/-- Settles O6: the binary instructions are `fltBin` of their functions; the others each by their own rule. -/
theorem scalarFloatResults : Obligations.ScalarFloatResults := by
  unfold Obligations.ScalarFloatResults
  refine ⟨fun s u o x y hn ho => ?binary, fun s s1 s2 u dbl d src t m p q c hn hp hq hc => fma_writesF hn hp hq hc,
    fun s u o a hn ha => ⟨fsqrt_writesF hn ha, fclass_writesF hn ha⟩, fun s u k d src m x hn hx t ht => fcvt_completes hn hx ht⟩
  have bin {i : Instr} {f : Fmt → Rm → Nat → Nat → Nat × Word} (hi : exec i s = issueOp (fltBin f o) s) :=
    fltBin_writesF hi hn ho
  exact ⟨bin (f := Fmt.add) rfl, bin (f := Fmt.sub) rfl, bin (f := Fmt.mul) rfl, bin (f := Fmt.div) rfl, bin (f := fun f _ => f.minmax false) rfl,
    bin (f := fun f _ => f.minmax true) rfl, fun c => bin (f := fun f _ x y => ((f.compare c x y).1.toNat, (f.compare c x y).2)) rfl⟩

end Sys2Proof.Machine
end

section
/-!
PROOFS. The lane instructions (O7): each of the three shapes has one rule, which says what its turn writes once its operands are read, and the
functions of elements that it applies are those of R200 to R209.
-/

namespace Sys2Proof.Machine

variable {s s1 s2 s3 u : State} {d : Reg} {k : BitVec 16}

/-! ## Writes of a vector register (R43, R196) -/

/-- A vector register that is not pending takes a value. -/
theorem writeV_ok {v : VWord} (hfree : u.me.vPend.getLsbD d.toNat = false) : writeV d k v u = .ok ((), u.modMe (fun c => c.setV d k v)) := by
  have hready : freeV d u = .ok ((), u) := by simp [freeV, hfree]
  rw [writeV, op_bind_ok hready]
  rfl

/-- It takes one whose lanes raise flags too, which `fcs` gains. -/
theorem putV_ok {r : VWord × Word} (hfree : u.me.vPend.getLsbD d.toNat = false) :
    putV d k r u = .ok ((), (u.modMe (fun c => c.setV d k r.1)).modMe (fun c => { c with fcs := c.fcs ||| r.2 })) := by
  rw [putV, op_bind_ok (writeV_ok hfree)]
  rfl

theorem modeOp_apply (u : State) : modeOp u = .ok (u.me.rm, u) := rfl

/-! ## One rule for each shape of lane instruction -/

/-- An instruction of two sources applies its function to their elements (R195-R197). -/
theorem vecBin_writesVF {i : Instr} {f : Rm → BitVec 32 → BitVec 32 → BitVec 32 × Word} {g : BitVec 32 → BitVec 32 → BitVec 32 × Word}
    {o : VBin} {x y : VWord} (hs : s.atAnchor) (ho : vecOperands o s = .ok ((x, y), s1)) (hk : readK o.q.mask s1 = .ok (k, u))
    (hi : exec i s = issueOp (vecBin f o) s) (hg : ∀ a b, f u.me.rm a b = g a b) : writesVF i s u o.d k (lanewise2 o.ty k x y g) := by
  intro hfree
  obtain rfl : f u.me.rm = g := funext fun a => funext (hg a)
  refine hi.trans (issueOp_ok ?_)
  rw [vecBin, op_bind_ok (needUnit_ok hs), op_bind_ok ho, op_bind_ok hk, op_bind_ok (modeOp_apply u)]
  exact putV_ok hfree

/-- A unary instruction applies its function to the elements of its source. -/
theorem vecUn_writesVF {i : Instr} {f : Rm → BitVec 32 → BitVec 32 × Word} {g : BitVec 32 → BitVec 32 × Word} {o : VUn} {x : VWord}
    (hs : s.atAnchor) (hx : readVS o.ty o.s o.q s = .ok (x, s1)) (hk : readK o.q.mask s1 = .ok (k, u))
    (hi : exec i s = issueOp (vecUn f o) s) (hg : ∀ a, f u.me.rm a = g a) : writesVF i s u o.d k (lanewise1 o.ty k x g) := by
  intro hfree
  obtain rfl : f u.me.rm = g := funext hg
  refine hi.trans (issueOp_ok ?_)
  rw [vecUn, op_bind_ok (needUnit_ok hs), op_bind_ok hx, op_bind_ok hk, op_bind_ok (modeOp_apply u)]
  exact putV_ok hfree

/-- The fused product and sum of three elements (R201): rounded once on a floating type, exact and then wrapped on an integer one. -/
def fusedElem (t : VTy) (m : Rm) (np nc : Bool) (g : Int → Int → Int → Int) (x y z : BitVec 32) : BitVec 32 × Word :=
  if t.isFloat then elemRes ((fmtOfTy t).fma m np nc x.toNat y.toNat z.toNat)
  else (BitVec.ofInt 32 (g (elemInt t x) (elemInt t y) (elemInt t z)), 0)

/-- A fused instruction applies it to the elements of its three sources. -/
theorem vecFma_writesVF {i : Instr} {np nc : Bool} {g : Int → Int → Int → Int} {o : VTri} {p q c : VWord} (hs : s.atAnchor)
    (hp : readVS o.ty o.s o.q s = .ok (p, s1)) (hq : readV o.t s1 = .ok (q, s2)) (hc : readV o.d s2 = .ok (c, s3))
    (hk : readK o.q.mask s3 = .ok (k, u)) (hi : exec i s = issueOp (vecFma np nc o) s)
    (hg : ∀ x y z, (if np then -1 else 1) * (x * y) + (if nc then -1 else 1) * z = g x y z) :
    writesVF i s u o.d k (lanewise3 o.ty k p q c (fusedElem o.ty u.me.rm np nc g)) := by
  intro hfree
  obtain rfl : (fun x y z => (if np then -1 else 1) * (x * y) + (if nc then -1 else 1) * z) = g :=
    funext fun x => funext fun y => funext (hg x y)
  refine hi.trans (issueOp_ok ?_)
  rw [vecFma, op_bind_ok (needUnit_ok hs), op_bind_ok hp, op_bind_ok hq, op_bind_ok hc, op_bind_ok hk, op_bind_ok (modeOp_apply u)]
  exact putV_ok hfree

/-! ## Functions of elements (R197, R200, R202) -/

section
variable {t : VTy}

/-- Above its lower limit a number is clamped to the upper one alone. -/
theorem clampInt_of_le {lo hi n : Int} (h : lo ≤ n) : clampInt lo hi n = min hi n := by
  rw [clampInt, if_neg h.not_gt]
  split <;> omega

theorem clampInt_eq {lo hi : Int} (h : lo ≤ hi) (n : Int) : clampInt lo hi n = max lo (min hi n) := by
  rcases le_total lo n with hn | hn
  · rw [clampInt_of_le hn, max_eq_right (le_min h hn)]
  · rw [min_eq_right (hn.trans h), max_eq_left hn, clampInt]
    split <;> omega

theorem tyMin_nonpos (t : VTy) : tyMin t ≤ 0 := by cases t <;> decide

theorem tyMin_le_tyMax (t : VTy) : tyMin t ≤ tyMax t := by cases t <;> decide

/-- The negative of a signed element is no less than the least value of its type. -/
theorem tyMin_le_neg_elemInt (ht : t.isSigned = true) (x : BitVec 32) : tyMin t ≤ -elemInt t x := by
  have hlt := BitVec.toInt_lt (x := x.setWidth t.width)
  rw [tyMin, elemInt, if_pos ht, if_pos ht]
  omega

variable {F : Fmt → Nat → Nat → Nat × Word} {G : Int → Int → Int} {x y : BitVec 32}

theorem byType_float {sat : Bool} (ht : t.isFloat = true) : byType t sat F G x y = elemRes (F (fmtOfTy t) x.toNat y.toNat) := if_pos ht

theorem byType_int {r : Int} (ht : t.isFloat = false) (hr : G (elemInt t x) (elemInt t y) = r) :
    byType t false F G x y = (BitVec.ofInt 32 r, 0) := by
  rw [byType, if_neg (by simp [ht]), hr]
  rfl

theorem byType_sat (ht : t.isFloat = false) :
    byType t true F G x y = (BitVec.ofInt 32 (max (tyMin t) (min (tyMax t) (G (elemInt t x) (elemInt t y)))), 0) := by
  rw [byType, if_neg (by simp [ht]), intRes, if_pos rfl, clampInt_eq (tyMin_le_tyMax t)]

/-- VABS and VNEG choose by whether a type is floating, and then by whether it is signed (R202). -/
theorem ite_signed {α : Type} {a b c : α} (ht : t.isFloat = false) (hsigned : t.isSigned = true) :
    (if t.isFloat then a else if t.isSigned then b else c) = b := by simp [ht, hsigned]

theorem ite_unsigned {α : Type} {a b c : α} (ht : t.isFloat = false) (hsigned : t.isSigned = false) :
    (if t.isFloat then a else if t.isSigned then b else c) = c := by simp [ht, hsigned]

theorem modElem_abs_float (ht : t.isFloat = true) : modElem t .abs x = x &&& ~~~(BitVec.ofNat 32 (2 ^ (t.width - 1))) := if_pos ht

theorem modElem_neg_float (ht : t.isFloat = true) : modElem t .neg x = x ^^^ BitVec.ofNat 32 (2 ^ (t.width - 1)) := if_pos ht

theorem intRes_sat_of_le {n : Int} (h : tyMin t ≤ n) : intRes t true n = BitVec.ofInt 32 (min (tyMax t) n) :=
  congrArg (BitVec.ofInt 32) (clampInt_of_le h)

end

/-- Settles O7: every instruction is of one of the three shapes, and its function of elements is the one of its rule. -/
theorem vectorArithmeticResults : Obligations.VectorArithmeticResults := by
  unfold Obligations.VectorArithmeticResults
  refine ⟨fun s s1 u o x y k hs ho hk => ?two, fun s s1 u o x k hs hx hk => ?one, fun s s1 s2 s3 u o p q c k hs hp hq hc hk => ?three⟩
  case two =>
    have bin {i : Instr} {f : Rm → BitVec 32 → BitVec 32 → BitVec 32 × Word} {g : BitVec 32 → BitVec 32 → BitVec 32 × Word}
        (hi : exec i s = issueOp (vecBin f o) s) (hg : ∀ a b, f u.me.rm a b = g a b) : writesVF i s u o.d k (lanewise2 o.ty k x y g) :=
      vecBin_writesVF hs ho hk hi hg
    exact ⟨fun ht => bin rfl fun _ _ => byType_float ht, fun ht => bin rfl fun _ _ => byType_int ht rfl, fun ht => bin rfl fun _ _ => byType_sat ht,
      fun ht => bin rfl fun _ _ => byType_float ht, fun ht => bin rfl fun _ _ => byType_int ht rfl, fun ht => bin rfl fun _ _ => byType_sat ht,
      fun ht => bin rfl fun _ _ => byType_float ht, fun ht => bin rfl fun _ _ => byType_int ht rfl, fun ht => bin rfl fun _ _ => byType_sat ht,
      fun ht => bin rfl fun _ _ => byType_float ht, fun ht => bin rfl fun _ _ => byType_int ht rfl,
      fun ht => bin rfl fun _ _ => byType_float ht, fun ht => bin rfl fun _ _ => byType_int ht (by rw [min_comm, min_def_lt]),
      fun ht => bin rfl fun _ _ => byType_float ht, fun ht => bin rfl fun _ _ => byType_int ht (by rw [max_def_lt]),
      bin rfl fun _ _ => rfl, bin rfl fun _ _ => rfl, bin rfl fun _ _ => rfl, bin rfl fun _ _ => rfl,
      bin rfl fun _ _ => rfl, bin rfl fun _ _ => rfl, bin rfl fun _ _ => rfl, bin rfl fun _ _ => rfl, bin rfl fun _ _ => rfl⟩
  case one =>
    have un {i : Instr} {f : Rm → BitVec 32 → BitVec 32 × Word} {g : BitVec 32 → BitVec 32 × Word} (hi : exec i s = issueOp (vecUn f o) s)
        (hg : ∀ a, f u.me.rm a = g a) : writesVF i s u o.d k (lanewise1 o.ty k x g) := vecUn_writesVF hs hx hk hi hg
    refine ⟨un rfl fun _ => rfl, fun ht => ⟨un rfl fun a => ?absF, un rfl fun a => ?negF⟩,
      fun ht hsigned sat => ⟨un rfl fun a => ite_unsigned ht hsigned, un rfl fun a => ite_unsigned ht hsigned⟩,
      fun ht hsigned => ⟨un rfl fun a => ite_signed ht hsigned, un rfl fun a => ite_signed ht hsigned, un rfl fun a => ?absS, un rfl fun a => ?negS⟩,
      un rfl fun _ => rfl, un rfl fun _ => rfl, un rfl fun _ => rfl, un rfl fun _ => rfl, fun dst => un rfl fun _ => rfl⟩
    case absF => rw [if_pos ht, modElem_abs_float ht]
    case negF => rw [if_pos ht, modElem_neg_float ht]
    case absS => rw [ite_signed ht hsigned, intRes_sat_of_le ((tyMin_nonpos o.ty).trans (Int.natCast_nonneg _))]
    case negS => rw [ite_signed ht hsigned, intRes_sat_of_le (tyMin_le_neg_elemInt hsigned a)]
  case three =>
    have fused {i : Instr} {np nc : Bool} (g : Int → Int → Int → Int) (hi : exec i s = issueOp (vecFma np nc o) s)
        (hg : ∀ x y z, (if np then -1 else 1) * (x * y) + (if nc then -1 else 1) * z = g x y z) :
        writesVF i s u o.d k (lanewise3 o.ty k p q c (fusedElem o.ty u.me.rm np nc g)) := vecFma_writesVF hs hp hq hc hk hi hg
    exact ⟨fused (fun x y z => x * y + z) rfl fun x y z => by simp, fused (fun x y z => x * y - z) rfl fun x y z => by simp [sub_eq_add_neg],
      fused (fun x y z => z - x * y) rfl fun x y z => by simp [sub_eq_neg_add]⟩

end Sys2Proof.Machine
end

section
/-!
PROOFS. The vector instructions that move lanes, compare and reduce (O8): each has one rule, which says what its turn writes once its operands are
read.
-/

namespace Sys2Proof.Machine

variable {s s1 s2 u : State} {k : BitVec 16} {x y : VWord}

/-! ## The lanes of a value (R194) -/

theorem getLsbD_lane {v : VWord} {i j : Nat} : (lane v i).getLsbD j = (decide (j < 32) && v.getLsbD (32 * i + j)) := BitVec.getLsbD_extractLsb' ..

/-- A value of lanes has them at their places. -/
theorem lane_ofLanes {l : List (BitVec 32)} {i : Nat} (hi : i < l.length) (hl : l.length ≤ 16) : lane (ofLanes l) i = l[i] := by
  induction l generalizing i with
  | nil => exact absurd hi (Nat.not_lt_zero i)
  | cons e l ih =>
    rw [List.length_cons] at hi hl
    apply BitVec.eq_of_getLsbD_eq
    intro j hj
    rw [getLsbD_lane, decide_eq_true hj, Bool.true_and, ofLanes, BitVec.getLsbD_or, BitVec.getLsbD_shiftLeft, BitVec.getLsbD_setWidth]
    cases i with
    | zero => simp [hj, show j < 512 by omega]
    | succ i =>
      have hrest := congrArg (BitVec.getLsbD · j) (ih (i := i) (by omega) (by omega))
      simp only [getLsbD_lane, decide_eq_true hj, Bool.true_and] at hrest
      have hbit : 32 * (i + 1) + j - 32 = 32 * i + j := by omega
      rw [hbit, hrest, BitVec.getLsbD_of_ge e _ (by omega)]
      simp [show ¬ 32 * (i + 1) + j < 32 by omega, show 32 * (i + 1) + j < 512 by omega]

theorem lane_genLanes {f : Nat → BitVec 32} {i : Nat} (hi : i < 16) : lane (genLanes f) i = f i := by
  have hlen : (lanes16.map f).length = 16 := rfl
  rw [genLanes, lane_ofLanes (hlen ▸ hi) hlen.le, List.getElem_map]
  congr 1
  exact List.getElem_range _

/-- Only the sixteen lanes of a function count. -/
theorem genLanes_congr {f g : Nat → BitVec 32} (h : ∀ i, i < 16 → f i = g i) : genLanes f = genLanes g :=
  congrArg ofLanes (List.map_congr_left fun i hi => h i (List.mem_range.mp hi))

/-! ## Broadcast, extract and index (R199) -/

/-- The number `e` as an element (R199). -/
def iotaElem (t : VTy) (e : Nat) : BitVec 32 :=
  if t.isFloat then BitVec.ofNat 32 ((fmtOfTy t).ofInt .rne (e : Int)).1 else BitVec.ofNat 32 e

section
variable {o : VBcastOp} (hs : s.atAnchor)
include hs

theorem vbcast_imm_writesV {p : Pxi} (hsrc : o.src = .imm p) (hk : readK o.mask s = .ok (k, u)) :
    writesV (.vbcast o) s u o.d k (broadcast o.ty (immS p 0 0)) := by
  intro hfree
  refine issueOp_ok ?_
  rw [op_bind_ok (needUnit_ok hs), hsrc]
  exact (op_bind_ok (op_pure _ s)).trans ((op_bind_ok hk).trans (writeV_ok hfree))

theorem vbcast_reg_writesV {r : Reg} {q : Pxs} {a : Word} (hsrc : o.src = .reg r q)
    (ha : (if q.smod = .sync then readSync r else readG r) s = .ok (a, s1)) (hk : readK o.mask s1 = .ok (k, u)) :
    writesV (.vbcast o) s u o.d k (broadcast o.ty
      ((modElem o.ty q.smod ((selectG q.sel o.ty.isSigned a).setWidth 32 &&& BitVec.ofNat 32 (2 ^ o.ty.width - 1))).setWidth 64)) := by
  intro hfree
  refine issueOp_ok ?_
  rw [op_bind_ok (needUnit_ok hs), hsrc]
  exact (op_ite_bind_eq ha).trans ((op_bind_ok (op_pure _ s1)).trans ((op_bind_ok hk).trans (writeV_ok hfree)))

theorem vext_writesG {o : VExtOp} (hx : readVS o.ty o.s o.q s = .ok (x, u)) :
    writesG (.vext o) s u o.d (if o.ty.isSigned then (lane x o.lane.toNat).signExtend 64 else (lane x o.lane.toNat).setWidth 64) := by
  intro t ht
  refine issueOp_ok ?_
  rw [op_bind_ok (needUnit_ok hs), op_bind_ok hx]
  exact ht

theorem viota_writesV {ty : VTy} {d : Reg} {mask : BitVec 3} (hk : readK mask s = .ok (k, u)) :
    writesV (.viota ty d mask) s u d k (genLanes (fun i => genElems ty (fun j => iotaElem ty (i * ty.count + j)))) := by
  intro hfree
  refine issueOp_ok ?_
  rw [op_bind_ok (needUnit_ok hs), op_bind_ok hk]
  exact writeV_ok hfree

end

/-! ## Select, permute and slide (R206) -/

/-- The operand that VSEL keeps in the lanes that its mask leaves out. -/
def selOther (o : VBin) : Op VWord :=
  match o.src with
  | .reg t => readV t
  | .two => readV o.d
  | .imm p => pure (broadcast o.ty (immS p 0 0))

theorem execVsel_eq (o : VBin) (s : State) :
    execVsel o s = issueOp (do
      needUnit 1
      let x ← readVS o.ty o.s o.q
      let y ← selOther o
      let k ← readK o.q.mask
      writeV o.d (BitVec.allOnes 16) (blend k x y)) s := by
  unfold execVsel selOther
  cases o.src <;> rfl

section
variable {o : VBin} (hs : s.atAnchor)
include hs

theorem vsel_writesV (hx : readVS o.ty o.s o.q s = .ok (x, s1)) (hy : selOther o s1 = .ok (y, s2)) (hk : readK o.q.mask s2 = .ok (k, u)) :
    writesV (.vsel o) s u o.d (BitVec.allOnes 16) (blend k x y) := by
  intro hfree
  refine (execVsel_eq o s).trans (issueOp_ok ?_)
  rw [op_bind_ok (needUnit_ok hs), op_bind_ok hx, op_bind_ok hy, op_bind_ok hk]
  exact writeV_ok hfree

theorem vperm_writesV (hsrc : ∀ p, o.src ≠ .imm p) (ho : vecOperands o s = .ok ((x, y), s1)) (hk : readK o.q.mask s1 = .ok (k, u)) :
    writesV (.vperm o) s u o.d k (genLanes (fun i => lane x ((lane y i).toNat % 16))) := by
  intro hfree
  refine issueOp_ok ?_
  rw [op_bind_ok (needUnit_ok hs)]
  cases h : o.src with
  | imm p => exact absurd h (hsrc p)
  | reg _ | two => exact (op_bind_ok ho).trans ((op_bind_ok hk).trans (writeV_ok hfree))

/-- The immediate form takes one lane for all, which the low four bits of the immediate name. -/
theorem vperm_imm_writesV {p : Pxi} (hsrc : o.src = .imm p) (hx : readVS o.ty o.s o.q s = .ok (x, s1)) (hk : readK o.q.mask s1 = .ok (k, u)) :
    writesV (.vperm o) s u o.d k (genLanes (fun _ => lane x ((immS p 0 0).toNat % 16))) := by
  intro hfree
  have hindex : genLanes (fun i => lane x ((lane (genLanes (fun _ => (immS p 0 0).setWidth 32)) i).toNat % 16)) =
      genLanes (fun _ => lane x ((immS p 0 0).toNat % 16)) := by
    refine genLanes_congr fun i hi => ?_
    rw [lane_genLanes hi, BitVec.toNat_setWidth, Nat.mod_mod_of_dvd _ (by decide)]
  refine issueOp_ok ?_
  rw [op_bind_ok (needUnit_ok hs), hsrc, ← hindex]
  exact (op_bind_ok hx).trans ((op_bind_ok (op_pure _ s1)).trans ((op_bind_ok hk).trans (writeV_ok hfree)))

theorem vslide_writesV {o : VSlideOp} (hx : readVS o.ty o.s o.q s = .ok (x, s1)) (hy : readV o.t s1 = .ok (y, s2))
    (hk : readK o.q.mask s2 = .ok (k, u)) :
    writesV (.vslide o) s u o.d k
      (genLanes (fun i => if i + o.n.toNat ≤ 15 then lane x (i + o.n.toNat) else lane y (i + o.n.toNat - 16))) := by
  intro hfree
  refine issueOp_ok ?_
  rw [op_bind_ok (needUnit_ok hs), op_bind_ok hx, op_bind_ok hy, op_bind_ok hk]
  exact writeV_ok hfree

end

/-! ## Compare (R205) -/

/-- A mask with one bit for each lane of which a condition holds. -/
theorem getLsbD_laneMask {p : Nat → Bool} {i : Nat} (hi : i < 16) :
    (BitVec.ofNat 16 (((lanes16.filter p).map (2 ^ ·)).sum)).getLsbD i = p i := by
  have hsorted : (lanes16.filter p).SortedLT := (List.pairwise_lt_range.filter p).sortedLT
  rw [BitVec.getLsbD_ofNat, decide_eq_true hi, Bool.true_and, Bool.eq_iff_iff, ← Nat.mem_bitIndices, Nat.bitIndices_sum_map_two_pow hsorted,
    List.mem_filter, lanes16, List.mem_range]
  exact and_iff_right hi

/-- The lanes that are enabled, and every element of which meets the condition. -/
def vcmpMask (t : VTy) (c : VcmpCond) (k : BitVec 16) (x y : VWord) : BitVec 16 :=
  BitVec.ofNat 16 (((lanes16.filter (fun i =>
    k.getLsbD i && (List.range t.count).all (fun j => (vcmpElem t c (elemOf t (lane x i) j) (elemOf t (lane y i) j)).1))).map (2 ^ ·)).sum)

/-- The flags that the elements of the enabled lanes raise. -/
def vcmpFlags (t : VTy) (c : VcmpCond) (k : BitVec 16) (x y : VWord) : Word :=
  (lanes16.filter (fun i => k.getLsbD i)).foldl
    (fun a i => (List.range t.count).foldl (fun b j => b ||| (vcmpElem t c (elemOf t (lane x i) j) (elemOf t (lane y i) j)).2) a) 0

/-- VCMP writes those lanes to a mask register. -/
theorem vcmp_completes {c : VcmpCond} {o : VBin} (hs : s.atAnchor) (ho : vecOperands o s = .ok ((x, y), s1)) (hk : readK o.q.mask s1 = .ok (k, u)) :
    completes (.vcmp c o) s (u.modMe fun m =>
      { m with k := m.k.set (o.d.extractLsb' 0 3).toNat (vcmpMask o.ty c k x y), kPoison := m.kPoison &&& ~~~(1#8 <<< (o.d.extractLsb' 0 3).toNat),
               fcs := m.fcs ||| vcmpFlags o.ty c k x y }) := by
  refine issueOp_ok ?_
  rw [op_bind_ok (needUnit_ok hs), op_bind_ok ho, op_bind_ok hk]
  rfl

/-! ## Reduce (R207) -/

section
variable {op : VredOp} {o : VUn} (hs : s.atAnchor) (hx : readVS o.ty o.s o.q s = .ok (x, s1)) (hk : readK o.q.mask s1 = .ok (k, u))
include hs hx hk

theorem vred_float (ht : o.ty.isFloat = true) : writesF (.vred op o) s u o.d (vredF op u.me.rm k x) := by
  intro t hw
  refine issueOp_ok ?_
  rw [op_bind_ok (needUnit_ok hs), op_bind_ok hx, op_bind_ok hk, op_bind_ok (modeOp_apply u), if_pos ht, op_bind_ok hw]
  rfl

theorem vred_int (ht : o.ty.isFloat = false) :
    writesG (.vred op o) s u o.d (if o.ty.isSigned then (BitVec.ofInt 32 (vredI op o.ty k x)).signExtend 64
      else (BitVec.ofInt 32 (vredI op o.ty k x)).setWidth 64) := by
  intro t hw
  refine issueOp_ok ?_
  rw [op_bind_ok (needUnit_ok hs), op_bind_ok hx, op_bind_ok hk, op_bind_ok (modeOp_apply u), if_neg (by simp [ht])]
  exact hw

end

/-- Settles O8: each instruction by its own rule. -/
theorem vectorLaneMovementAndReduction : Obligations.VectorLaneMovementAndReduction := by
  unfold Obligations.VectorLaneMovementAndReduction
  refine ⟨fun s u o p k hs hsrc hk => vbcast_imm_writesV hs hsrc hk, fun s s1 u o r q a k hs hsrc ha hk => vbcast_reg_writesV hs hsrc ha hk,
    fun s u o x hs hx => vext_writesG hs hx, fun s u ty d mask k hs hk => viota_writesV hs hk,
    fun s s1 s2 u o x y k hs hx hy hk => vsel_writesV hs hx ?other hk,
    fun s s1 u o x y k hs hsrc ho hk => vperm_writesV hs hsrc ho hk, fun s s1 u o p x k hs hsrc hx hk => vperm_imm_writesV hs hsrc hx hk,
    fun s s1 s2 u o x y k hs hx hy hk => vslide_writesV hs hx hy hk, fun s s1 u c o x y k hs ho hk => ?compare,
    fun s s1 u op o x k hs hx hk => ⟨fun ht => vred_float hs hx hk ht, fun ht => ?signed, fun ht => ?unsigned⟩⟩
  case other =>
    unfold selOther
    generalize o.src = src at hy ⊢
    cases src with
    | imm p => obtain ⟨rfl, rfl⟩ := hy; rfl
    | reg t => exact hy
    | two => exact hy
  case compare =>
    refine ⟨_, vcmp_completes hs ho hk, rfl, rfl, fun i hi => ?_⟩
    rw [State.modMe_me, Vector.getElem_set_self]
    exact getLsbD_laneMask hi
  case signed =>
    have h := vred_int (op := op) hs hx hk (by rw [ht]; rfl)
    rw [ht] at h
    exact h
  case unsigned =>
    have h := vred_int (op := op) hs hx hk (by rw [ht]; rfl)
    rw [ht] at h
    exact h

end Sys2Proof.Machine
end

section
/-!
PROOFS. Packing, unpacking, dot products and quantisation (O9): each has one rule, which says what its turn writes once its operands are read.
-/

namespace Sys2Proof.Machine

variable {s s1 s2 s3 u : State} {k : BitVec 16} {a b p q c : VWord} {o : Tri} (hs : s.atAnchor)
include hs

/-! ## Packing and unpacking (R210, R211) -/

/-- Input `j` of VPACK narrowed: the lanes of `a`, then those of `b`, and nothing beyond. -/
def packInput (f : PackFmt) (m : Rm) (a b : VWord) (j : Nat) : Nat × Word :=
  if j < 32 then packElem f m (if j < 16 then lane a j else lane b (j - 16)) else (0, 0)

/-- The packed register: `n` narrowed inputs of `w` bits in each lane. -/
def packLanes (k : BitVec 16) (n w : Nat) (one : Nat → Nat × Word) : VWord × Word :=
  onLanes k (fun i => (BitVec.ofNat 32 (((List.range n).map (fun j => (one (i * n + j)).1 * 2 ^ (w * j))).sum),
    (List.range n).foldl (fun x j => x ||| (one (i * n + j)).2) 0))

theorem vpack_writesVF {f : PackFmt} (ha : readVS (packInfo f).1 o.s o.q s = .ok (a, s1)) (hb : readV o.t s1 = .ok (b, s2))
    (hk : readK o.q.mask s2 = .ok (k, u)) :
    writesVF (.vpack f o) s u o.d k (packLanes k (32 / (packInfo f).2) (packInfo f).2 (packInput f u.me.rm a b)) := by
  intro hfree
  refine issueOp_ok ?_
  rw [op_bind_ok (needUnit_ok hs), op_bind_ok ha, op_bind_ok hb, op_bind_ok hk, op_bind_ok (modeOp_apply u)]
  exact putV_ok hfree

theorem vunpk_writesVF {f : UnpkFmt} {part : BitVec 3} {d sr : Reg} {m : Pxs} (ha : readVS (unpkInfo f).2 sr m s = .ok (a, s1))
    (hk : readK m.mask s1 = .ok (k, u)) :
    writesVF (.vunpk f part d sr m) s u d k
      (onLanes k (fun i => unpkElem f (a.toNat / 2 ^ ((unpkInfo f).1 * (16 * part.toNat + i)) % 2 ^ (unpkInfo f).1))) := by
  intro hfree
  refine issueOp_ok ?_
  rw [op_bind_ok (needUnit_ok hs), op_bind_ok ha, op_bind_ok hk]
  exact putV_ok hfree

/-! ## Dot products (R213) -/

/-- Element `j`, of `w` bits, of a lane as an integer. -/
def dotInt (sx : Bool) (w : Nat) (x : BitVec 32) (j : Nat) : Int :=
  let v := BitVec.ofNat w (x.toNat / 2 ^ (w * j))
  if sx then v.toInt else (v.toNat : Int)

/-- Element `j` of a lane of `n` elements as a value of its format. -/
def dotFp (f : FFmt) (n : Nat) (x : BitVec 32) (j : Nat) : Fp := (fmtOf f).dec (x.toNat / 2 ^ (32 / n * j) % 2 ^ (32 / n))

/-- Lane `i` of a floating dot product: the products and the addend summed exactly and rounded once. -/
def dotLane (m : Rm) (n : Nat) (el : BitVec 32 → Nat → Fp) (p q c : VWord) (i : Nat) : BitVec 32 × Word :=
  let ps := (List.range n).map (fun j => (el (lane p i) j).mul (el (lane q i) j))
  elemRes ((fmtOf .f32).sum m (ps.map Prod.fst ++ [(fmtOf .f32).dec (lane c i).toNat]) (ps.any Prod.snd))

section
variable {t : VTy} (hp : readVS t o.s o.q s = .ok (p, s1)) (hq : readV o.t s1 = .ok (q, s2)) (hc : readV o.d s2 = .ok (c, s3))
  (hk : readK o.q.mask s3 = .ok (k, u))
include hp hq hc hk

theorem vecDotI_writesV {i : Instr} {sx : Bool} {n w : Nat} (hi : exec i s = issueOp (vecDotI t sx n w o) s) :
    writesV i s u o.d k (genLanes (fun i => lane c i +
      BitVec.ofInt 32 (((List.range n).map (fun j => dotInt sx w (lane p i) j * dotInt sx w (lane q i) j)).foldl (· + ·) 0))) := by
  intro hfree
  refine hi.trans (issueOp_ok ?_)
  rw [vecDotI, op_bind_ok (needUnit_ok hs), op_bind_ok hp, op_bind_ok hq, op_bind_ok hc, op_bind_ok hk]
  exact writeV_ok hfree

theorem vecDotF_writesVF {i : Instr} {f : FFmt} {n : Nat} (hi : exec i s = issueOp (vecDotF t f n o) s) :
    writesVF i s u o.d k (onLanes k (dotLane u.me.rm n (dotFp f n) p q c)) := by
  intro hfree
  refine hi.trans (issueOp_ok ?_)
  rw [vecDotF, op_bind_ok (needUnit_ok hs), op_bind_ok hp, op_bind_ok hq, op_bind_ok hc, op_bind_ok hk, op_bind_ok (modeOp_apply u)]
  exact putV_ok hfree

end

/-! ## Quantisation (R214) -/

/-- The 32 inputs of VQNT: the lanes of `a`, then those of `b`. -/
def quantInputs (a b : VWord) : List Nat := lanes16.map (fun i => (lane a i).toNat) ++ lanes16.map (fun i => (lane b i).toNat)

theorem vqnt_writesVF {f : QntFmt} (ha : readVS .f32 o.s o.q s = .ok (a, s1)) (hb : readV o.t s1 = .ok (b, u)) :
    writesVF (.vqnt f o) s u o.d (BitVec.allOnes 16)
      (BitVec.ofNat 512 (ofBytes (quantise f (quantInputs a b)).1), (quantise f (quantInputs a b)).2) := by
  intro hfree
  refine issueOp_ok ?_
  rw [op_bind_ok (needUnit_ok hs), op_bind_ok ha, op_bind_ok hb]
  exact op_bind_ok (writeV_ok hfree)

omit hs in
/-- Settles O9: each instruction by its own rule; the dot products are of two shapes, by the type of their elements. -/
theorem vectorPackDotAndQuantise : Obligations.VectorPackDotAndQuantise := by
  unfold Obligations.VectorPackDotAndQuantise
  refine ⟨fun s s1 s2 u f o a b k hs ha hb hk => vpack_writesVF hs ha hb hk, fun s s1 u f part d sr q a k hs ha hk => vunpk_writesVF hs ha hk,
    fun s s1 s2 s3 u o ty p q c k hs hp hq hc hk => ?dot, fun s s1 u f o a b hs ha hb => vqnt_writesVF hs ha hb⟩
  have int {i : Instr} (sx : Bool) (n w : Nat) (hi : exec i s = issueOp (vecDotI ty sx n w o) s) :=
    vecDotI_writesV hs hp hq hc hk hi
  have flt {i : Instr} (f : FFmt) (n : Nat) (hi : exec i s = issueOp (vecDotF ty f n o) s) := vecDotF_writesVF hs hp hq hc hk hi
  refine ⟨fun ht => ?s8, fun ht => ?n8, fun ht => ?s16, fun ht => ?f32, fun ht => ?bf16, fun ht => ?f16⟩
  all_goals subst ht
  case s8 => exact ⟨int true 4 8 rfl, int true 8 4 rfl⟩
  case n8 => exact int false 4 8 rfl
  case s16 => exact int true 2 16 rfl
  case f32 => exact ⟨flt .e4m3 4 rfl, flt .e5m2 4 rfl, flt .e2m1 8 rfl⟩
  case bf16 => exact flt .bf16 2 rfl
  case f16 => exact flt .f16 2 rfl

end Sys2Proof.Machine
end

section
/-!
PROOFS. The mask instructions (O10, R217, R218).
-/

namespace Sys2Proof.Machine

variable {s s1 u : State} {op : KopOp} {d sr : BitVec 3} {a b x : BitVec 16}

/-! ## Writes of a mask register -/

/-- A mask register that has taken a value; its poison is gone (R364). -/
def Ctx.setK (c : Ctx) (d : BitVec 3) (x : BitVec 16) : Ctx := { c with k := c.k.set d.toNat x, kPoison := c.kPoison &&& ~~~(1#8 <<< d.toNat) }

theorem writeK_apply (d : BitVec 3) (x : BitVec 16) (u : State) : writeK d x u = .ok ((), u.modMe (fun c => c.setK d x)) := rfl

@[simp] theorem Ctx.setK_k_self (c : Ctx) (d : BitVec 3) (x : BitVec 16) : (c.setK d x).k[d.toNat] = x := Vector.getElem_set_self _

theorem Ctx.setK_k_ne (c : Ctx) (x : BitVec 16) {j : Fin 8} (h : j.val ≠ d.toNat) : (c.setK d x).k[j] = c.k[j] := Vector.getElem_set_ne d.isLt _ h.symm

/-! ## One rule for each instruction -/

/-- The operation of KOP (R217). -/
def kopValue (op : KopOp) (a b : BitVec 16) : BitVec 16 :=
  match op with
  | .and => a &&& b
  | .or => a ||| b
  | .xor => a ^^^ b
  | .andn => a &&& ~~~b

section
variable (hs : s.atAnchor)
include hs

theorem kop_completes {t : Option (BitVec 3)} (ha : readK (if t.isSome then sr else d) s = .ok (a, s1))
    (hb : readK (t.getD sr) s1 = .ok (b, u)) : completes (.kop op d sr t) s (u.modMe (fun c => c.setK d (kopValue op a b))) := by
  refine issueOp_ok ?_
  rw [op_bind_ok (needUnit_ok hs), op_bind_ok ha, op_bind_ok hb]
  exact writeK_apply ..

theorem kmovToMask_completes {r : Reg} {y : Word} (hy : readG r s = .ok (y, u)) :
    completes (.kmovToMask d r) s (u.modMe (fun c => c.setK d (y.setWidth 16))) := by
  refine issueOp_ok ?_
  rw [op_bind_ok (needUnit_ok hs), op_bind_ok hy]
  exact writeK_apply ..

theorem klow_completes {r : Reg} {y : Word} (hy : readG r s = .ok (y, u)) :
    completes (.klow d r) s (u.modMe (fun c => c.setK d (BitVec.ofNat 16 (2 ^ min y.toNat 16 - 1)))) := by
  refine issueOp_ok ?_
  rw [op_bind_ok (needUnit_ok hs), op_bind_ok hy]
  exact writeK_apply ..

theorem kmovFromMask_writesG {r : Reg} (hx : readK sr s = .ok (x, u)) : writesG (.kmovFromMask r sr) s u r (x.setWidth 64) := by
  intro t ht
  refine issueOp_ok ?_
  rw [op_bind_ok (needUnit_ok hs), op_bind_ok hx]
  exact ht

theorem kpop_writesG {r : Reg} (hx : readK sr s = .ok (x, u)) :
    writesG (.kpop r sr) s u r (BitVec.ofNat 64 ((List.range 16).countP (fun i => x.getLsbD i))) := by
  intro t ht
  refine issueOp_ok ?_
  rw [op_bind_ok (needUnit_ok hs), op_bind_ok hx]
  dsimp only
  rw [popCount_eq_countP]
  exact ht

end

/-- The low min(n, 16) bits of a mask (R218). -/
theorem getLsbD_lowBits {n i : Nat} (hi : i < 16) : (BitVec.ofNat 16 (2 ^ min n 16 - 1)).getLsbD i = decide (i < n) := by
  rw [BitVec.getLsbD_ofNat, decide_eq_true hi, Bool.true_and, Nat.testBit_two_pow_sub_one, decide_eq_decide]
  omega

/-- Settles O10: each instruction by its own rule. -/
theorem maskResults : Obligations.MaskResults := by
  unfold Obligations.MaskResults
  refine fun s hs => ⟨fun s1 u op d sr t a b ha hb =>
      ⟨_, kop_completes (s1 := s1) (a := a) (b := b) hs ?first ?second, Ctx.setK_k_self .., fun j hj => Ctx.setK_k_ne _ _ hj⟩,
    fun u d sr x hx => ⟨⟨_, kmovToMask_completes hs hx, Ctx.setK_k_self ..⟩, ⟨_, klow_completes hs hx, fun i hi => ?low⟩⟩,
    fun u d sr x hx => ⟨kmovFromMask_writesG hs hx, kpop_writesG hs hx⟩⟩
  case first => cases t <;> exact ha
  case second => cases t <;> exact hb
  case low =>
    rw [State.modMe_me, Ctx.setK_k_self]
    exact getLsbD_lowBits hi

end Sys2Proof.Machine
end

section
/-!
PROOFS. Vector loads (O17). A register number has six bits, and there are 32 `v` registers with as many pending bits. The statement speaks of every
register number as a destination, also of those that name no `v` register and that no encoding has.
-/

namespace Sys2Proof.Machine

/-- The machine after reset with a live context in slot 0 of core 0. -/
def liveReset : State := { State.reset with me := { Ctx.fresh with live := true } }

/-- No pending bit stands for a register number from 32 on. -/
theorem Ctx.vPend_of_not_isV (c : Ctx) {d : Reg} (hd : isV d = false) : c.vPend.getLsbD d.toNat = false :=
  BitVec.getLsbD_of_ge _ _ (by simpa [isV] using hd)

/-- Refutes O17: a load of 64 bytes of main memory at address 0 into register 32 meets no pending destination, so that it should issue and leave its
destination pending; but a pending bit for register 32 is set in no state. -/
theorem not_vectorMemoryAccessIssues : ¬ Obligations.VectorMemoryAccessIssues := by
  unfold Obligations.VectorMemoryAccessIssues
  intro h
  obtain ⟨hload, -⟩ := h
  obtain ⟨hmain, -⟩ := hload liveReset liveReset liveReset .w64 false 0 32 0 0 [] 0 (BitVec.allOnes 16) ⟨rfl, rfl⟩ rfl rfl rfl
  obtain ⟨z, -, -, -, hpend, -⟩ := hmain rfl rfl (by decide) rfl
  exact absurd hpend (Bool.eq_false_iff.mp (z.me.vPend_of_not_isV rfl))

end Sys2Proof.Machine
end

section
/-!
PROOFS. The steps of the matrix unit (O41): the start of a head of a squad's queues (R221, R242), the completion of the command in its turn (R242),
the budget period (R233) and the gating of the sub-arrays (R235).
-/

namespace Sys2Proof.Machine

variable {s t : State} {core q i u : Nat} {c : MCmd} {rest : List MCmd}

/-- A core's state stands in the table of cores alone. -/
theorem State.core_congr (h : t.cores = s.cores) (n : Nat) : t.core n = s.core n := by
  rw [State.core, State.core, h]

/-! ## Start (R90, R221, R242) -/

/-- Neither a fetch nor a claim changes which core of the squad was served last. -/
theorem State.claim_served (s : State) (q n : Nat) : ((s.claim q n).squad q).served = (s.squad q).served := by
  obtain ⟨o, f, h⟩ | ⟨v, -, h⟩ | h := s.claim_cases q n
  · rw [h, State.modTile, State.modSquad_squad_self]
    rfl
  · rw [h, State.depart, State.modTile, State.modSquad_squad_self]
    rfl
  · rw [h]

theorem State.forceFetch_served (s : State) (q n : Nat) : ((s.forceFetch q n).squad q).served = (s.squad q).served := by
  unfold State.forceFetch
  split
  · rw [State.modSquad_squad_self, State.startFetch, State.claim_served, State.modTile, State.modSquad_squad_self]
    rfl
  · rfl

/-- Tiles that a command holds change neither the queues of the cores nor whose turn it is. -/
theorem State.holdTiles_keeps (s : State) (q : Nat) (ts : List Nat) :
    (s.holdTiles q ts).cores = s.cores ∧ ((s.holdTiles q ts).squad q).served = (s.squad q).served := by
  refine List.foldlRecOn ts _ (motive := fun (x : State) => x.cores = s.cores ∧ (x.squad q).served = (s.squad q).served) ⟨rfl, rfl⟩
    fun x ⟨hcores, hserved⟩ n _ => ⟨?_, ?_⟩
  · obtain ⟨o, l, h⟩ := (x.modTile q n (fun e => { e with holds := e.holds + 1 })).forceFetch_eq q n
    rw [h]
    exact hcores
  · rw [State.forceFetch_served, State.modTile, State.modSquad_squad_self]
    exact hserved

/-- The head of core `i` of a squad has its turn: it runs, and its core is the one last served. -/
def State.gaveTurn (t : State) (q i : Nat) : Prop := (t.core (coreIn q i)).mrun = true ∧ (t.squad q).served = i

theorem State.startHead_gaveTurn (h : (s.core (coreIn q i)).mq = c :: rest) : (s.startHead q i u).gaveTurn q i := by
  unfold State.startHead
  extract_lets core
  split
  · next hnil => cases hnil.symm.trans h
  · next c r hq =>
    extract_lets tab c1 s1
    have hrun : (s1.core core).mrun = true := by simp [s1, State.core]
    have hserved : (s1.squad q).served = i := congrArg SquadSt.served (State.modSquad_squad_self _ q _)
    split
    · exact ⟨hrun, hserved⟩
    · next ts _ =>
      obtain ⟨hcores, hsame⟩ := (s1.modCore core (fun k => { k with mq := { c1 with holds := ts } :: r })).holdTiles_keeps q ts
      refine ⟨?_, hsame.trans hserved⟩
      rw [State.core_congr hcores]
      exact (congrArg CoreSt.mrun (State.modCore_core_self s1 core _)).trans hrun

/-- The unit gives its turn to the head that it picks, unless the sub-arrays are gated (R221, R235). -/
theorem exec_matrixCommandStart (hpick : (s.countDeferred q).pickHead q = (some (i, u), t)) (hawake : (t.squad q).gated = false) :
    exec (.matrixCommandStart q) s = .next (t.startHead q i u) := by
  show execMatrixCommandStart q s = _
  unfold execMatrixCommandStart
  dsimp only
  rw [hpick]
  dsimp only
  rw [hawake, if_neg Bool.false_ne_true]

/-! ## Completion (R236, R242) -/

/-- A change of a context that no save area holds is one of the context in its turn or of the table of slots. -/
theorem State.onCtx_eq_of_noArea {cid : Nat} (h : s.areaOf cid = none) (f : Ctx → Ctx) :
    ∃ m l, s.onCtx cid f = { s with me := m, slots := l } := by
  unfold State.onCtx
  split
  · exact s.place_eq _
  · rw [h]
    exact ⟨s.me, s.slots, rfl⟩

theorem State.areaOf_eq_none {cid : Nat} (h : ∀ p : Nat × Ctx, p ∈ s.saved → p.2.cid ≠ cid) : s.areaOf cid = none := by
  rw [State.areaOf, Option.map_eq_none_iff, List.find?_eq_none]
  intro p hp
  simp [h p hp]

/-- A core whose command in its turn has left the queue. -/
def CoreSt.popHead (k : CoreSt) : CoreSt := { k with mq := k.mq.drop 1, mrun := false }

/-- A command that holds no tile and whose issuer is not saved completes by leaving the queue of its core. The rest that changes is the issuer's
`tl`, and the squad's commands and idle time. -/
theorem State.matrixDone_eq (hholds : c.holds = []) (harea : s.areaOf c.cid = none) :
    ∃ k m l, s.matrixDone core c none = { s.modCore core CoreSt.popHead with squads := k, me := m, slots := l } := by
  unfold State.matrixDone
  extract_lets q s1 s2 s3 s4
  obtain ⟨k, h2⟩ : ∃ k, s2 = { s1 with squads := k } := by
    dsimp only [s2]
    split
    · exact ⟨_, rfl⟩
    · exact ⟨s1.squads, rfl⟩
  have h3 : s3 = { s1 with squads := s3.squads } := by
    dsimp only [s3]
    rw [hholds, State.releaseTiles_nil, h2]
    rfl
  have harea3 : s3.areaOf c.cid = none := h3 ▸ harea
  obtain ⟨m, l, h4⟩ := State.onCtx_eq_of_noArea harea3 (fun x => { x with tl := x.tl - 1 })
  exact ⟨s3.squads, m, l, h4.trans (by rw [h3]; rfl)⟩

/-- A command that names no memory meets no refusal and waits for no tile (R242). -/
theorem exec_matrixCommandComplete (hq : (s.core core).mq = c :: rest) (hrun : (s.core core).mrun = true)
    (hrows : c.op.rows (s.core core).mx = []) (hformat : s.matrixFormat core c = none) (hspoilt : s.matrixSpoilt core c = false)
    (hport : s.matrixPort c = none) (heffect : s.matrixEffect core c = some t) :
    exec (.matrixCommandComplete core) s = .next (t.matrixDone core c none) := by
  have hrefused : s.matrixRefused core c = none := by
    simp [State.matrixRefused, hrows]
  have htiles : s.matrixTiles core c = [] := by
    simp [State.matrixTiles, hrows]
  show execMatrixCommandComplete core s = _
  unfold execMatrixCommandComplete
  simp [hq, hrun, hformat, hrefused, htiles, State.allResident, hspoilt, hport, heffect]

theorem exec_matrixCommandComplete_idle (h : (s.core core).mrun = false ∨ (s.core core).mq = []) :
    exec (.matrixCommandComplete core) s = .next s := by
  show execMatrixCommandComplete core s = _
  unfold execMatrixCommandComplete
  split
  · rfl
  · next hq =>
    rw [if_pos (h.resolve_right (by simp [hq]))]

section
variable (hq : (s.core core).mq = c :: rest) (hrun : (s.core core).mrun = true) (hspoilt : s.matrixSpoilt core c = false) (hholds : c.holds = [])
  (hsaved : ∀ p : Nat × Ctx, p ∈ s.saved → p.2.cid ≠ c.cid)
include hq hrun hspoilt hholds hsaved

/-- A command that names no memory and changes the owner state of its core completes with that change (R242). -/
theorem matrixCommandComplete_effect {f : CoreSt → CoreSt} (hf : ∀ k, (f k).mq = k.mq) (hrows : c.op.rows (s.core core).mx = [])
    (hformat : s.matrixFormat core c = none) (hport : s.matrixPort c = none) (heffect : s.matrixEffect core c = some (s.modCore core f)) :
    ∃ w : State, exec (.matrixCommandComplete core) s = .next w ∧ (w.core core).mx = (f (s.core core)).mx ∧ (w.core core).mq = rest ∧
      (w.core core).mrun = false ∧ w.mem = s.mem := by
  obtain ⟨k, m, l, hdone⟩ := State.matrixDone_eq (s := s.modCore core f) (core := core) hholds (State.areaOf_eq_none hsaved)
  have hcores : ((s.modCore core f).matrixDone core c none).cores = ((s.modCore core f).modCore core CoreSt.popHead).cores := by rw [hdone]
  have hcore : ((s.modCore core f).matrixDone core c none).core core = (f (s.core core)).popHead := by
    rw [State.core_congr hcores, State.modCore_core_self, State.modCore_core_self]
  refine ⟨_, exec_matrixCommandComplete hq hrun hrows hformat hspoilt hport heffect, ?_⟩
  rw [hcore]
  exact ⟨rfl, by rw [CoreSt.popHead, hf, hq, List.drop_one, List.tail_cons], rfl, by rw [hdone]; rfl⟩

/-- A command that replaces an accumulator completes with it (R250, R252). -/
theorem matrixCommandComplete_putAcc {n : Nat} {acc : Acc} (hrows : c.op.rows (s.core core).mx = []) (hformat : s.matrixFormat core c = none)
    (hport : s.matrixPort c = none) (heffect : s.matrixEffect core c = some ((s.touchAll (squadOf core) c.holds).putAcc core n acc)) :
    ∃ w : State, exec (.matrixCommandComplete core) s = .next w ∧ (w.core core).mx = (s.core core).mx.setAcc n acc ∧ (w.core core).mq = rest ∧
      (w.core core).mrun = false ∧ w.mem = s.mem :=
  matrixCommandComplete_effect hq hrun hspoilt hholds hsaved (f := fun k => ({ k with mx := k.mx.setAcc n acc } : CoreSt).dirty n)
    (fun _ => rfl) hrows hformat hport (by rw [heffect, hholds]; rfl)
end

/-! ## The budget period (R233) -/

/-- Heads counted as deferred may be counted again. -/
def CoreSt.uncount (k : CoreSt) : CoreSt := { k with mq := k.mq.map (fun (c : MCmd) => { c with counted := false }) }

theorem exec_matrixBudgetPeriod (h : (s.squad q).mperiod < s.clk / 10000) :
    ∃ w : State, exec (.matrixBudgetPeriod q) s = .next w ∧ (w.squad q).mused = 0 ∧ (w.squad q).mperiod = s.clk / 10000 ∧ w.mem = s.mem ∧
      w.me = s.me := by
  refine ⟨_, congrArg Host.Outcome.next (if_neg (Nat.not_le.mpr h)), ?_⟩
  refine List.foldlRecOn (List.range 8) (fun (x : State) i => x.modCore (coreIn q i) CoreSt.uncount) (motive := fun (x : State) =>
    (x.squad q).mused = 0 ∧ (x.squad q).mperiod = s.clk / 10000 ∧ x.mem = s.mem ∧ x.me = s.me) ?_ fun x hx i _ => hx
  rw [State.modSquad_squad_self]
  exact ⟨rfl, rfl, rfl, rfl⟩

/-! ## The obligation -/

/-- Settles O41: the start of the head that is picked, the completion of a command that names no memory, and the conditions of the squad's own
steps. -/
theorem matrixUnitSteps : Obligations.MatrixUnitSteps := by
  unfold Obligations.MatrixUnitSteps
  refine ⟨?start, ?complete, fun s core h => exec_matrixCommandComplete_idle h, fun s q => ⟨?budget, exec_matrixBudgetPeriod⟩,
    fun s q => ⟨?gate, ?awake, ?wake, ?asleep⟩⟩
  case start =>
    intro s t q i u hpick hawake
    exact ⟨_, exec_matrixCommandStart hpick hawake, fun c r hq => State.startHead_gaveTurn hq⟩
  case complete =>
    rintro s core c rest _ hq hrun rfl hspoilt hholds hsaved
    refine ⟨fun d a b acc hop hacc => ?mma, fun d a b acc hop hacc => ?mman, fun d hop => ?mzero, fun v hop => ?mfmt⟩
    case mma =>
      exact matrixCommandComplete_putAcc hq hrun hspoilt hholds hsaved (by rw [hop]; rfl) (by simp only [State.matrixFormat, hop, hacc])
        (by rw [State.matrixPort, hop]) (by simp only [State.matrixEffect, hop, hacc])
    case mman =>
      exact matrixCommandComplete_putAcc hq hrun hspoilt hholds hsaved (by rw [hop]; rfl) (by simp only [State.matrixFormat, hop, hacc])
        (by rw [State.matrixPort, hop]) (by simp only [State.matrixEffect, hop, hacc])
    case mzero =>
      exact matrixCommandComplete_putAcc hq hrun hspoilt hholds hsaved (by rw [hop]; rfl) (by simp only [State.matrixFormat, hop])
        (by rw [State.matrixPort, hop]) (by simp only [State.matrixEffect, hop])
    case mfmt =>
      exact matrixCommandComplete_effect hq hrun hspoilt hholds hsaved (f := fun k => { k with mx := { k.mx with fc := v } }) (fun _ => rfl)
        (by rw [hop]; rfl) (by simp only [State.matrixFormat, hop]) (by rw [State.matrixPort, hop])
        (by simp only [State.matrixEffect, hop, hholds]; rfl)
  case budget => exact fun h => congrArg Host.Outcome.next (if_pos h)
  case gate =>
    intro hpart hidle hempty hcyc
    exact congrArg Host.Outcome.next (if_pos ⟨hpart, hidle, hempty, hcyc⟩)
  case awake =>
    intro h
    refine congrArg Host.Outcome.next (if_neg fun ⟨hpart, hidle, hempty, hcyc⟩ => ?_)
    rcases h with h | h | h | h
    · cases hpart.symm.trans h
    · exact hidle h
    · cases hempty.symm.trans h
    · omega
  case wake =>
    intro hgated hwaking hcyc
    exact congrArg Host.Outcome.next (if_pos (by simp [hgated, hwaking, hcyc]))
  case asleep =>
    intro h
    refine congrArg Host.Outcome.next (if_neg ?_)
    rcases h with h | h | h
    · simp [h]
    · simp [h]
    · simp [Nat.not_le.mpr h]

end Sys2Proof.Machine
end

section
/-!
PROOFS. The issue of the matrix instructions (O40): their operands and addresses, and the end that they share, which finds the owner of the unit's
state and room in the queue (R230, R241).
-/

namespace Sys2Proof.Machine

variable {s s1 u : State} {i : Instr} {op : MOp} {mem : Option (Nat × Nat × Bool)} {free : Op Unit} {mark : Ctx → Ctx} {sr t : Reg} {x : Word}
  {n a : Nat} {st : Option Nat}

/-! ## The shared end of an issue (R230, R241) -/

/-- A core whose queue takes a command, with the claim of an owner state that is nobody's. -/
def CoreSt.takeCommand (k : CoreSt) (c : MCmd) (tag : BitVec 16) : CoreSt :=
  { k with mq := k.mq ++ [c], aown := if k.ownValid then k.aown else claimOf tag }

theorem claimOf_valid (tag : BitVec 16) : (claimOf tag).getLsbD 20 = true := by
  simp [claimOf]

theorem claimOf_tag (tag : BitVec 16) : (claimOf tag).extractLsb' 0 16 = tag := by
  have hconst : (0x100000#64).extractLsb' 0 16 = 0#16 := by decide
  rw [claimOf, BitVec.extractLsb'_or, hconst, BitVec.or_zero, ← BitVec.setWidth_eq_extractLsb' (by decide)]
  exact BitVec.setWidth_setWidth_of_le tag (by decide)

/-- The tag that may use the owner state owns it once its command is in the queue. -/
theorem CoreSt.takeCommand_owner {k : CoreSt} {c : MCmd} {tag : BitVec 16} (h : k.ownValid = false ∨ k.ownTag = tag) :
    (k.takeCommand c tag).ownValid = true ∧ (k.takeCommand c tag).ownTag = tag := by
  cases hvalid : k.ownValid with
  | false =>
    have haown : (k.takeCommand c tag).aown = claimOf tag := by simp [CoreSt.takeCommand, hvalid]
    exact ⟨by rw [CoreSt.ownValid, haown, claimOf_valid], by rw [CoreSt.ownTag, haown, claimOf_tag]⟩
  | true =>
    have haown : (k.takeCommand c tag).aown = k.aown := by simp [CoreSt.takeCommand, hvalid]
    exact ⟨by rw [CoreSt.ownValid, haown]; exact hvalid, by rw [CoreSt.ownTag, haown]; exact h.resolve_left (by simp [hvalid])⟩

/-- A tag that may use the owner state meets no other owner (R230). -/
theorem CoreSt.not_otherOwner {k : CoreSt} {tag : BitVec 16} (h : k.ownValid = false ∨ k.ownTag = tag) :
    (k.ownValid && k.ownTag != tag) = false := by
  rcases h with h | h
  · rw [h, Bool.false_and]
  · simp [h]

/-- The command is one of the slot, and its scoreboard entry, if it has one, is all that its squad gains (R219, R241). -/
theorem State.matrixEnter_eq (u : State) (op : MOp) (mem : Option (Nat × Nat × Bool)) :
    ∃ (c : MCmd) (k : Tbl SquadSt) (n : Nat), u.matrixEnter op mem =
      { (u.modCore u.me.core (fun z => z.takeCommand c u.me.ctxtag)).modMe (fun z => { z with tl := z.tl + 1 }) with squads := k, nextCmd := n } ∧
      c.op = op ∧ c.cid = u.me.cid ∧ c.pc = u.me.pc := by
  cases mem with
  | none => exact ⟨_, u.squads, u.nextCmd, rfl, rfl, rfl, rfl⟩
  | some r => exact ⟨_, _, u.nextCmd + 1, rfl, rfl, rfl, rfl⟩

theorem matrixIssue_ok (hroom : u.matrixRoom mem.isSome) (hfree : free u = .ok ((), u)) :
    matrixIssue op mem free mark u = .ok ((), (u.matrixEnter op mem).modMe mark) := by
  obtain ⟨howner, hlen, htl, hsb⟩ := hroom
  have hplace : (decide ((u.core u.me.core).mq.length < 16) && decide (u.me.tl < 63) &&
      (mem.isNone || decide (u.sbUsed (squadOf u.me.core) < 64))) = true := by
    cases mem with
    | none => simp [hlen, htl]
    | some r => simp [hlen, htl, squadOf, hsb rfl]
  unfold matrixIssue
  rw [op_bind_ok (getS_apply u)]
  dsimp only
  rw [CoreSt.not_otherOwner howner, op_bind_ok (trapIf_false _ _ _ u), op_bind_ok (parkUntil_ok hplace), op_bind_ok hfree]
  rfl

/-- An instruction that comes to the shared end with room in the queue enters it. -/
theorem enters_of_issue {m : Op Unit} (hexec : exec i s = issueOp m s) (hm : m s = matrixIssue op mem free mark u)
    (hroom : u.matrixRoom mem.isSome) (hfree : free u = .ok ((), u)) : enters i s u op mark := by
  obtain ⟨c, k, n, henter, hop, hcid, hpc⟩ := u.matrixEnter_eq op mem
  have hcores : ((u.matrixEnter op mem).modMe mark).cores = (u.modCore u.me.core (fun z => z.takeCommand c u.me.ctxtag)).cores := by
    rw [henter]
    rfl
  have hcore : ((u.matrixEnter op mem).modMe mark).core u.me.core = (u.core u.me.core).takeCommand c u.me.ctxtag :=
    (State.core_congr hcores _).trans (State.modCore_core_self _ _ _)
  obtain ⟨hvalid, htag⟩ := CoreSt.takeCommand_owner (c := c) hroom.1
  refine ⟨_, c, hexec.trans (issueOp_ok (hm.trans (matrixIssue_ok hroom hfree))), ?_, hop, hcid, hpc, ?_, ?_, ?_, ?_⟩
  · rw [hcore]
    rfl
  · rw [henter]
    rfl
  · rw [hcore, hvalid]
  · rw [hcore, htag]
  · rw [henter]
    rfl

/-- The same for an instruction without a destination of the slot. -/
theorem enters_of_plain {m : Op Unit} (hexec : exec i s = issueOp m s) (hm : m s = matrixIssue op mem (pure ()) id u)
    (hroom : u.matrixRoom mem.isSome) : enters i s u op id := enters_of_issue hexec hm hroom rfl

/-- Another owner's state is not to be used (R230). -/
theorem matrixIssue_otherOwner (hvalid : (s.core s.me.core).ownValid = true) (htag : (s.core s.me.core).ownTag ≠ s.me.ctxtag) :
    matrixIssue op mem free mark s = .error (.trap .accOwner 0 (s.core s.me.core).aown) := by
  unfold matrixIssue
  rw [op_bind_ok (getS_apply s)]
  refine op_bind_error ?_
  simp [trapIf, hvalid, htag]

/-- A full queue parks the slot (R241). -/
theorem matrixIssue_full (howner : (s.core s.me.core).ownValid = false ∨ (s.core s.me.core).ownTag = s.me.ctxtag)
    (hfull : 16 ≤ (s.core s.me.core).mq.length) : matrixIssue op mem free mark s = .error .park := by
  unfold matrixIssue
  rw [op_bind_ok (getS_apply s)]
  dsimp only
  rw [CoreSt.not_otherOwner howner, op_bind_ok (trapIf_false _ _ _ s)]
  refine op_bind_error ?_
  simp [parkUntil, Nat.not_lt.mpr hfull]

/-! ## Operands and addresses (R241, R351) -/

theorem illegalFirst_ok {unit bad : Op Unit} {r : Unit × State} (h : unit s = .ok r) : illegalFirst unit bad s = .ok r := by
  unfold illegalFirst
  rw [h]

theorem matrixReads_ok {α : Type} {m : Op α} {r : α × State} (hs : s.atAnchor) (h : m s = .ok r) : matrixReads m s = .ok r :=
  (op_bind_ok (illegalFirst_ok (needUnit_ok hs))).trans h

/-- A value of which a check finds nothing ILLEGAL. -/
theorem checkedRead_ok {b : Word → Bool} (hx : readG sr s = .ok (x, u)) (hb : b x = false) :
    (do let v ← readG sr; illegalIf (b v); pure v : Op Word) s = .ok (x, u) := by
  rw [op_bind_ok hx, op_bind_ok (illegalIf_ok hb)]
  rfl

theorem matrixAddr_ok (ha : a % n = 0) (hst : st.getD 0 % n = 0) (hlocal : u.isLocal (u.me.core / 8) a = true) :
    matrixAddr n a st u = .ok ((), u) := by
  unfold matrixAddr
  rw [if_neg (by simp [ha, hst]), op_bind_ok (getS_apply u)]
  exact congrFun (if_pos hlocal) u

/-- The number 0 of a stride register names none; any other one holds a stride below 2^20. -/
theorem matrixStride_ok {y : Word} (h : if t = 0 then st = none ∧ u = s1 else readG t s1 = .ok (y, u) ∧ fld y 63 20 = 0 ∧ st = some y.toNat) :
    matrixStride t s1 = .ok (st, u) := by
  unfold matrixStride
  split at h
  · next h0 =>
    obtain ⟨rfl, rfl⟩ := h
    rw [if_pos h0]
    rfl
  · next h0 =>
    obtain ⟨hy, hfld, rfl⟩ := h
    rw [if_neg h0, op_bind_ok hy, op_bind_ok (illegalIf_ok (by simp [hfld]))]
    rfl

theorem matrixStrided_ok {y : Word} (hs : s.atAnchor) (hx : readG sr s = .ok (x, s1))
    (h : if t = 0 then st = none ∧ u = s1 else readG t s1 = .ok (y, u) ∧ fld y 63 20 = 0 ∧ st = some y.toNat) :
    matrixStrided sr t s = .ok ((x, st), u) := by
  refine matrixReads_ok hs ?_
  rw [op_bind_ok hx, op_bind_ok (matrixStride_ok h)]
  rfl

theorem freeV_ok {d : Reg} (h : s.me.vPend.getLsbD d.toNat = false) : freeV d s = .ok ((), s) := if_neg (by simp [h])


/-! ## The instructions that name registers -/

section
variable (hs : s.atAnchor)
include hs

theorem mcfg_enters {d : BitVec 3} (hx : readG sr s = .ok (x, u)) (hlegal : mcfgLegal x = true) (hroom : u.matrixRoom false) :
    enters (.mcfg d sr) s u (.mcfg d x) id := by
  refine enters_of_plain (mem := none) rfl ?_ hroom
  rw [op_bind_ok (matrixReads_ok hs (checkedRead_ok (b := fun v => !mcfgLegal v) hx (by simp [hlegal])))]
  rfl

theorem mfmt_enters (hx : readG sr s = .ok (x, u)) (hzero : fld x 63 32 = 0) (hlegal : fcLegal (x.extractLsb' 0 32) = true)
    (hroom : u.matrixRoom false) : enters (.mfmt sr) s u (.mfmt (x.extractLsb' 0 32)) id := by
  refine enters_of_plain (mem := none) rfl ?_ hroom
  rw [op_bind_ok (matrixReads_ok hs (checkedRead_ok (b := fun v => fld v 63 32 != 0 || !fcLegal (v.extractLsb' 0 32)) hx
    (by simp [hzero, hlegal])))]
  rfl

section
variable (hx : readG sr s = .ok (x, u)) (ha : addr56 x % 16 = 0) (hlocal : u.isLocal (u.me.core / 8) (addr56 x) = true)
  (hroom : u.matrixRoom true)
include hx ha hlocal hroom

theorem mperm_enters {d : BitVec 4} : enters (.mperm d sr) s u (.mperm d (addr56 x)) id := by
  refine enters_of_plain (mem := some (addr56 x, 128, false)) rfl ?_ hroom
  rw [op_bind_ok (needUnit_ok hs), op_bind_ok hx, op_bind_ok (matrixAddr_ok ha rfl hlocal)]
  rfl

theorem mmeta_enters {c : MetaCnt} {d : BitVec 3} : enters (.mmeta c d sr) s u (.mmeta c d (addr56 x)) id := by
  refine enters_of_plain (mem := some (addr56 x, 28 * metaCount c, false)) rfl ?_ hroom
  rw [op_bind_ok (needUnit_ok hs), op_bind_ok hx, op_bind_ok (matrixAddr_ok ha rfl hlocal)]
  rfl
end

section
variable (hread : matrixStrided sr t s = .ok ((x, st), u)) (hlocal : u.isLocal (u.me.core / 8) (addr56 x) = true) (hroom : u.matrixRoom true)
include hread hlocal hroom
omit hs

theorem mld_enters (ha : addr56 x % 4 = 0) (hst : st.getD 0 % 4 = 0) {sc : Bool} {d : BitVec 3} :
    enters (.mld sc d sr t) s u (.mld sc d (addr56 x) st) id := by
  refine enters_of_plain (mem := some (addr56 x, 31 * st.getD 80 + 80, false)) rfl ?_ hroom
  rw [op_bind_ok hread]
  dsimp only
  rw [op_bind_ok (matrixAddr_ok ha hst hlocal)]
  rfl

theorem ast_enters (ha : addr56 x % 16 = 0) (hst : st.getD 0 % 16 = 0) {d : BitVec 2} : enters (.ast d sr t) s u (.ast d (addr56 x) st) id := by
  refine enters_of_plain (mem := some (addr56 x, 31 * st.getD 128 + 128, true)) rfl ?_ hroom
  rw [op_bind_ok hread]
  dsimp only
  rw [op_bind_ok (matrixAddr_ok ha hst hlocal)]
  rfl

theorem ald_enters (ha : addr56 x % 16 = 0) (hst : st.getD 0 % 16 = 0) {d : BitVec 2} : enters (.ald d sr t) s u (.ald d (addr56 x) st) id := by
  refine enters_of_plain (mem := some (addr56 x, 31 * st.getD 128 + 128, false)) rfl ?_ hroom
  rw [op_bind_ok hread]
  dsimp only
  rw [op_bind_ok (matrixAddr_ok ha hst hlocal)]
  rfl
end

theorem mldc_enters {d : BitVec 3} {k : Word} (hx : readG sr s = .ok (x, s1)) (hk : readG t s1 = .ok (k, u)) (ha : addr56 x % 16 = 0)
    (hmod : k.toNat % 16 = 0) (hlow : 128 ≤ k.toNat) (hhigh : k.toNat ≤ 5120) (hpair : 2560 < k.toNat → d.getLsbD 0 = false)
    (hlocal : u.isLocal (u.me.core / 8) (addr56 x) = true) (hroom : u.matrixRoom true) :
    enters (.mldc d sr t) s u (.mldc d (addr56 x) k.toNat) id := by
  have hlegal : (decide (k.toNat % 16 ≠ 0) || decide (k.toNat < 128) || decide (5120 < k.toNat) ||
      (decide (2560 < k.toNat) && d.getLsbD 0)) = false := by
    simpa [hmod, hlow, hhigh] using hpair
  refine enters_of_plain (mem := some (addr56 x, k.toNat, false)) rfl ?_ hroom
  rw [op_bind_ok (matrixReads_ok (r := ((x, k.toNat), u)) hs (by rw [op_bind_ok hx, op_bind_ok hk, op_bind_ok (illegalIf_ok hlegal)]; rfl))]
  dsimp only
  rw [op_bind_ok (matrixAddr_ok ha rfl hlocal)]
  rfl

/-! ## The instructions that name the unit's own registers -/

section
variable (hroom : s.matrixRoom false)
include hroom

theorem mzero_enters {d : BitVec 2} : enters (.mzero d) s s (.mzero d) id :=
  enters_of_plain (mem := none) rfl (by rw [op_bind_ok (needUnit_ok hs)]; rfl) hroom

theorem mma_enters {d : BitVec 2} {a b : BitVec 3} : enters (.mma d a b) s s (.mma d a b) id :=
  enters_of_plain (mem := none) rfl (by rw [op_bind_ok (needUnit_ok hs)]; rfl) hroom

theorem mmas_enters {d : BitVec 2} {a b m : BitVec 3} : enters (.mmas d a b m) s s (.mmas d a b m) id :=
  enters_of_plain (mem := none) rfl (by rw [op_bind_ok (needUnit_ok hs)]; rfl) hroom

theorem mman_enters {d : BitVec 2} {a b : BitVec 3} : enters (.mman d a b) s s (.mman d a b) id :=
  enters_of_plain (mem := none) rfl (by rw [op_bind_ok (needUnit_ok hs)]; rfl) hroom

/-- The slot of an MQST waits for its value (R251). -/
theorem mqst_enters {d : Reg} {sel : BitVec 4} (hfree : freeG d s = .ok ((), s)) :
    enters (.mqst d sel) s s (.mqst d sel) (fun c => { c with wait := .reply }) :=
  enters_of_issue (mem := none) rfl (by rw [op_bind_ok (needUnit_ok hs)]) hroom hfree

theorem amov_enters {d : Reg} {a : BitVec 2} {row : BitVec 5} {half : Bool} (hd : s.me.vPend.getLsbD d.toNat = false) :
    enters (.amov d a row half) s s (.amov d a row half) (fun c => c.pendV d) :=
  enters_of_issue (mem := none) rfl (by rw [op_bind_ok (needUnit_ok hs)]) hroom (freeV_ok hd)

theorem amovv_enters {d : BitVec 2} {r : Reg} {row : BitVec 5} {half : Bool} {v : VWord} (hv : readV r s = .ok (v, s)) :
    enters (.amovv d r row half) s s (.amovv d v row half) id :=
  enters_of_plain (mem := none) rfl (by rw [op_bind_ok (needUnit_ok hs), op_bind_ok hv]; rfl) hroom
end
end

/-! ## The obligation -/

/-- Settles O40: each instruction by its own rule, and MMA also where the unit's state is another owner's or the queue is full. -/
theorem matrixInstructionsIssue : Obligations.MatrixInstructionsIssue := by
  unfold Obligations.MatrixInstructionsIssue
  refine ⟨?values, ?tables, ?strided, ?ecf, ?plain, ?refused⟩
  case values =>
    exact fun s u sr v hs hv hroom => ⟨fun d hlegal => mcfg_enters hs hv hlegal hroom, fun hzero hlegal => mfmt_enters hs hv hzero hlegal hroom⟩
  case tables =>
    rintro s u sr x _ hs hx rfl ha hlocal hroom
    exact ⟨fun d => mperm_enters hs hx ha hlocal hroom, fun c d => mmeta_enters hs hx ha hlocal hroom⟩
  case strided =>
    rintro s s1 u sr t x y _ st hs hx rfl hst hlocal hroom
    have hread := matrixStrided_ok hs hx hst
    exact ⟨fun ha hst sc d => mld_enters hread hlocal hroom ha hst,
      fun ha hst d => ⟨ast_enters hread hlocal hroom ha hst, ald_enters hread hlocal hroom ha hst⟩⟩
  case ecf =>
    rintro s s1 u d sr t x k _ hs hx hk rfl ha hmod hlow hhigh hpair hlocal hroom
    exact mldc_enters hs hx hk ha hmod hlow hhigh hpair hlocal hroom
  case plain =>
    exact fun s hs hroom => ⟨fun d => mzero_enters hs hroom, fun d a b => mma_enters hs hroom, fun d a b m => mmas_enters hs hroom,
      fun d a b => mman_enters hs hroom, fun d sel hfree => mqst_enters hs hroom hfree, fun d a row half hd => amov_enters hs hroom hd,
      fun d r row half v hv => amovv_enters hs hroom hv⟩
  case refused =>
    refine fun s d a b hs => ⟨fun hvalid htag => issueOp_trap ?_, fun howner hfull => issueOp_park ?_⟩
    · exact (op_bind_ok (needUnit_ok hs)).trans (matrixIssue_otherOwner hvalid htag)
    · exact (op_bind_ok (needUnit_ok hs)).trans (matrixIssue_full howner hfull)

end Sys2Proof.Machine
end

section
/-!
PROOFS. What a unit of the device writes to main memory while no snapshot is taken (R49, R53, R54, R377): the caches take note, the bytes read back
under the key slot of the write, and no byte below them changes.
-/

namespace Sys2Proof.Machine

variable {s t u : State} {key a b : Nat} {x : Byte} {l l' : List Byte}

/-! ## With no snapshot, a line is ready at once (R54) -/

/-- No channel has a page to copy. -/
theorem State.chan_of_noSnap (h : s.noSnap = true) (ch : Nat) :
    (s.chan ch).snap ≠ .active ∧ (s.chan ch).snap ≠ .overflow ∧ (s.chan ch).copying = none := by
  unfold State.chan Tbl.getD
  cases hfind : Tbl.find? s.chans ch with
  | none => exact ⟨by decide, by decide, rfl⟩
  | some k => simpa [and_assoc] using List.all_eq_true.mp h _ (Tbl.mem_of_find? hfind)

theorem State.snapGate_of_noSnap (h : s.noSnap = true) (a : Nat) : s.snapGate a = (true, s) := by
  obtain ⟨hactive, hoverflow, hcopying⟩ := s.chan_of_noSnap h (s.chanOf a)
  unfold State.snapGate
  dsimp only
  split
  · next hsnap => exact absurd hsnap hactive
  · next hsnap => exact absurd hsnap hoverflow
  · simp [hcopying]

theorem State.settle_of_noSnap (h : s.noSnap = true) (a : Nat) : s.settle a = s := by
  unfold State.settle
  dsimp only
  rw [State.snapGate_of_noSnap h]
  rfl

/-! ## What the caches note (R48, R58) -/

/-- From `s` to `t` only what the slices and the memory-side caches hold has changed, with the reports and the choices that come of it. -/
def SameButCaches (s t : State) : Prop := ∃ l2 msc ev o, t = { s with l2 := l2, msc := msc, evicted := ev, oracle := o }

theorem SameButCaches.refl (s : State) : SameButCaches s s := ⟨s.l2, s.msc, s.evicted, s.oracle, rfl⟩

theorem SameButCaches.trans (h : SameButCaches s t) (h' : SameButCaches t u) : SameButCaches s u := by
  obtain ⟨_, _, _, _, rfl⟩ := h
  obtain ⟨l2, msc, ev, o, rfl⟩ := h'
  exact ⟨l2, msc, ev, o, rfl⟩

theorem SameButCaches.noSnap (h : SameButCaches s t) (hs : s.noSnap = true) : t.noSnap = true := by
  obtain ⟨_, _, _, _, rfl⟩ := h
  exact hs

theorem State.choose_caches (s : State) (n : Nat) : SameButCaches s (s.choose n).2 := by
  obtain ⟨o, h⟩ := s.choose_eq n
  rw [h]
  exact ⟨s.l2, s.msc, s.evicted, o, rfl⟩

theorem State.leftCache_caches (s : State) (line : Nat) : SameButCaches s (s.leftCache line) := by
  unfold State.leftCache
  split
  · exact ⟨s.l2, s.msc, _, s.oracle, rfl⟩
  · exact .refl s

theorem State.mscRoom_caches (h : s.noSnap = true) (line : Nat) : SameButCaches s (s.mscRoom line) := by
  unfold State.mscRoom
  extract_lets same v c t
  split
  · exact .refl s
  split
  · exact .refl s
  · have hchoose : SameButCaches s v.2 := s.choose_caches _
    have hleft : SameButCaches s t := hchoose.trans (by
      dsimp only [t]
      rw [State.settle_of_noSnap (hchoose.noSnap h)]
      exact State.leftCache_caches _ _)
    exact hleft.trans ⟨t.l2, _, t.evicted, t.oracle, rfl⟩

theorem State.mscNote_caches (h : s.noSnap = true) (g : Nat) (old : CGran) : SameButCaches s (s.mscNote g old) := by
  unfold State.mscNote
  split
  · exact .refl s
  · extract_lets t
    have hroom : SameButCaches s t := by
      dsimp only [t]
      split
      · exact .refl s
      · exact State.mscRoom_caches h _
    exact hroom.trans ⟨t.l2, _, t.evicted, t.oracle, rfl⟩

theorem State.noteBits_caches (h : s.noSnap = true) (g : Nat) : SameButCaches s (s.noteBits g) := by
  unfold State.noteBits
  split
  · exact State.mscNote_caches h _ _
  · exact .refl s

theorem State.noteData_caches (h : s.noSnap = true) (g : Nat) : SameButCaches s (s.noteData g) := by
  unfold State.noteData
  split
  · exact .refl s
  · exact State.noteBits_caches h _

theorem State.l2Drop_caches (h : s.noSnap = true) (line : Nat) : SameButCaches s (s.l2Drop line) := by
  unfold State.l2Drop
  exact List.foldlRecOn _ _ (motive := fun t => SameButCaches s t) ⟨_, s.msc, s.evicted, s.oracle, rfl⟩
    fun t ht p _ => ht.trans (State.mscNote_caches (ht.noSnap h) _ _)

theorem State.unitReady_caches (h : s.noSnap = true) (a : Nat) : SameButCaches s (s.unitReady a) := by
  rw [State.unitReady, State.settle_of_noSnap h]
  exact State.l2Drop_caches h _

theorem State.homeReady_caches (h : s.noSnap = true) (a : Nat) : SameButCaches s (s.homeReady a true).2 := by
  have hready : s.homeReady a true = (true, s.l2Drop (a / 128)) := by
    simp [State.homeReady, State.snapGate_of_noSnap h]
  rw [hready]
  exact State.l2Drop_caches h _

theorem State.linesGate_caches (h : s.noSnap = true) (a n : Nat) : SameButCaches s (s.linesGate a n).2 := by
  induction n generalizing s a with
  | zero => exact .refl s
  | succ n ih =>
    have hready := State.homeReady_caches h a
    unfold State.linesGate
    dsimp only
    split
    · exact hready.trans (ih (hready.noSnap h) _)
    · exact hready

/-! ## Bytes that have been written (R52) -/

/-- The byte at an address is under a key slot and has this value. -/
def State.hasByte (s : State) (key a : Nat) (x : Byte) : Prop := s.keys.find? (a / 16) = some key ∧ rd8 s.mem a = x

theorem State.rdKey_of_hasByte (h : s.hasByte key a x) : s.rdKey key a = x := by
  obtain ⟨hkey, hx⟩ := h
  rw [State.rdKey, if_pos hkey, hx]

/-- The bytes from an address on are under a key slot and have these values. -/
def State.hasBytes (s : State) (key a : Nat) : List Byte → Prop
  | [] => True
  | x :: r => s.hasByte key a x ∧ s.hasBytes key (a + 1) r

theorem State.rdMain_of_hasBytes (h : s.hasBytes key a l) : s.rdMain key a l.length = l := by
  induction l generalizing a with
  | nil => rfl
  | cons x r ih =>
    obtain ⟨hx, hr⟩ := h
    rw [List.length_cons, State.rdMain, State.rdKey_of_hasByte hx, ih hr]

theorem State.hasBytes_append (h : s.hasBytes key a l) (h' : s.hasBytes key (a + l.length) l') : s.hasBytes key a (l ++ l') := by
  induction l generalizing a with
  | nil => exact h'
  | cons x r ih =>
    obtain ⟨hx, hr⟩ := h
    exact ⟨hx, ih hr (by rwa [Nat.add_assoc, Nat.add_comm 1])⟩

/-! ## A write changes nothing below it -/

/-- From `s` to `t` bytes from address `a` on have been written under a key slot. -/
structure WritesFrom (s t : State) (key a : Nat) : Prop where
  frame : ∃ m k p l2 msc ev o, t = { s with mem := m, keys := k, poison := p, l2 := l2, msc := msc, evicted := ev, oracle := o }
  memWf : memWf s.mem = true → memWf t.mem = true
  below : ∀ b x, b < a → s.hasByte key b x → t.hasByte key b x

theorem SameButCaches.writesFrom (h : SameButCaches s t) : WritesFrom s t key a := by
  obtain ⟨l2, msc, ev, o, rfl⟩ := h
  exact ⟨⟨s.mem, s.keys, s.poison, l2, msc, ev, o, rfl⟩, id, fun _ _ _ => id⟩

theorem WritesFrom.refl (s : State) : WritesFrom s s key a := (SameButCaches.refl s).writesFrom

theorem WritesFrom.trans (h : WritesFrom s t key a) (h' : WritesFrom t u key b) (hab : a ≤ b) : WritesFrom s u key a := by
  obtain ⟨_, _, _, _, _, _, _, ht⟩ := h.frame
  obtain ⟨m, k, p, l2, msc, ev, o, hu⟩ := h'.frame
  exact ⟨⟨m, k, p, l2, msc, ev, o, by rw [hu, ht]⟩, h'.memWf ∘ h.memWf, fun c x hc hx => h'.below c x (by omega) (h.below c x hc hx)⟩

theorem WritesFrom.noSnap (h : WritesFrom s t key a) (hs : s.noSnap = true) : t.noSnap = true := by
  obtain ⟨_, _, _, _, _, _, _, rfl⟩ := h.frame
  exact hs

theorem WritesFrom.sealedAt (h : WritesFrom s t key a) (b n : Nat) : t.sealedAt b n = s.sealedAt b n := by
  obtain ⟨_, _, _, _, _, _, _, rfl⟩ := h.frame
  rfl

theorem WritesFrom.me (h : WritesFrom s t key a) : t.me = s.me := by
  obtain ⟨_, _, _, _, _, _, _, rfl⟩ := h.frame
  rfl

theorem WritesFrom.cores (h : WritesFrom s t key a) : t.cores = s.cores := by
  obtain ⟨_, _, _, _, _, _, _, rfl⟩ := h.frame
  rfl

/-- Bytes that end where the write begins stay as they are. -/
theorem WritesFrom.hasBytes (h : WritesFrom s t key b) (hl : s.hasBytes key a l) (hab : a + l.length ≤ b) : t.hasBytes key a l := by
  induction l generalizing a with
  | nil => trivial
  | cons x r ih =>
    rw [List.length_cons] at hab
    obtain ⟨hx, hr⟩ := hl
    exact ⟨h.below a x (by omega) hx, ih hr (by omega)⟩

theorem State.setPoison_writesFrom (h : s.noSnap = true) (b : Nat) (p : Bool) : WritesFrom s (s.setPoison b p) key a := by
  obtain ⟨l2, msc, ev, o, hnote⟩ := State.noteBits_caches h (poisonKey b)
  unfold State.setPoison
  dsimp only
  rw [hnote]
  exact ⟨⟨s.mem, s.keys, _, l2, msc, ev, o, rfl⟩, id, fun _ _ _ => id⟩

/-! ## Bytes under a key slot (R52) -/

/-- A granule that is re-keyed is written whole; the bytes of the others stay. -/
theorem State.rekey_hasByte {g : Nat} (h : s.hasByte key b x) : (s.rekey key g).hasByte key b x := by
  obtain ⟨hkey, hx⟩ := h
  unfold State.rekey
  split
  · exact ⟨hkey, hx⟩
  · next hother =>
    have hne : b / 16 ≠ g := fun e => hother (e ▸ hkey)
    refine ⟨(Tbl.find?_put_ne _ _ hne).trans hkey, (rd8_wrBytes_out _ _ ?_).trans hx⟩
    rw [length_toBytes]
    omega

theorem State.rekey_key (s : State) (key g : Nat) : (s.rekey key g).keys.find? g = some key := by
  unfold State.rekey
  split
  · assumption
  · exact Tbl.find?_put_self _ _ _

theorem State.rekey_memWf (key g : Nat) (h : memWf s.mem = true) : memWf (s.rekey key g).mem = true := by
  unfold State.rekey
  split
  · exact h
  · exact memWf_wrBytes _ _ h

theorem State.putByte_writesFrom (s : State) (key a : Nat) (x : Byte) : WritesFrom s (s.putByte key a x) key a where
  frame := by
    unfold State.putByte State.rekey
    dsimp only
    split <;> exact ⟨_, _, s.poison, s.l2, s.msc, s.evicted, s.oracle, rfl⟩
  memWf h := memWf_wr8 _ _ (State.rekey_memWf key _ h)
  below b y hb hy := by
    obtain ⟨hkey, hx⟩ := State.rekey_hasByte (g := a / 16) hy
    exact ⟨hkey, (rd8_wr8_ne _ _ (by omega)).trans hx⟩

theorem State.wrKey_writesFrom (h : s.noSnap = true) (key a : Nat) (x : Byte) : WritesFrom s (s.wrKey key a x) key a :=
  (State.noteData_caches h (a / 16)).writesFrom.trans (State.putByte_writesFrom _ key a x) le_rfl

theorem State.wrKey_hasByte (h : s.noSnap = true) (hmem : memWf s.mem = true) (key a : Nat) (x : Byte) : (s.wrKey key a x).hasByte key a x :=
  ⟨State.rekey_key _ key _,
    rd8_wr8_self _ _ (State.rekey_memWf key _ ((State.noteData_caches h (a / 16)).writesFrom (key := key) (a := a) |>.memWf hmem))⟩

/-- Bytes that have been written are there. -/
theorem State.wrMain_spec (h : s.noSnap = true) (hmem : memWf s.mem = true) (key a : Nat) (l : List Byte) :
    WritesFrom s (s.wrMain key a l) key a ∧ (s.wrMain key a l).hasBytes key a l := by
  induction l generalizing s a with
  | nil => exact ⟨.refl s, trivial⟩
  | cons x r ih =>
    have hfirst := State.wrKey_writesFrom h key a x
    obtain ⟨hrest, hbytes⟩ := ih (hfirst.noSnap h) (hfirst.memWf hmem) (a + 1)
    exact ⟨hfirst.trans hrest (by omega), hrest.below a x (by omega) (State.wrKey_hasByte h hmem key a x), hbytes⟩

/-! ## Writes by a unit of the device (R53, R377) -/

/-- No part of a range that touches no sealed one is sealed. -/
theorem State.sealedAt_part {n m : Nat} (h : s.sealedAt a n = false) (hlow : a ≤ b) (hhigh : b + m ≤ a + n) : s.sealedAt b m = false := by
  unfold State.sealedAt at h ⊢
  rw [List.any_eq_false] at h ⊢
  intro e he hb
  refine h e he ?_
  simp only [Bool.and_eq_true, decide_eq_true_eq] at hb ⊢
  obtain ⟨⟨hst, hend⟩, hbase⟩ := hb
  exact ⟨⟨hst, by omega⟩, by omega⟩

/-- One line's part of a unit's write, outside sealed ranges; a line written whole loses its poison (R53). -/
theorem State.unitLine_spec (h : s.noSnap = true) (hmem : memWf s.mem = true) (key a : Nat) (l : List Byte) (whole : Bool) :
    WritesFrom s (if whole then ((s.unitReady a).wrMain key a l).setPoison a false else (s.unitReady a).wrMain key a l) key a ∧
      (if whole then ((s.unitReady a).wrMain key a l).setPoison a false else (s.unitReady a).wrMain key a l).hasBytes key a l := by
  have hready : WritesFrom s (s.unitReady a) key a := (State.unitReady_caches h a).writesFrom
  obtain ⟨hwrite, hbytes⟩ := State.wrMain_spec (hready.noSnap h) (hready.memWf hmem) key a l
  have hall := hready.trans hwrite le_rfl
  cases whole with
  | false => exact ⟨hall, hbytes⟩
  | true =>
    have hclear : WritesFrom _ (((s.unitReady a).wrMain key a l).setPoison a false) key (a + l.length) :=
      State.setPoison_writesFrom (hall.noSnap h) a false
    exact ⟨hall.trans hclear (by omega), hclear.hasBytes hbytes le_rfl⟩

/-- Line by line, with a turn for each line that the bytes touch, all of them are written. -/
theorem State.unitLines_spec {n : Nat} (h : s.noSnap = true) (hmem : memWf s.mem = true) (key : Nat) (hopen : s.sealedAt a l.length = false)
    (hn : a % 128 + l.length ≤ 128 * n) : WritesFrom s (s.unitLines key a n l) key a ∧ (s.unitLines key a n l).hasBytes key a l := by
  induction n generalizing s a l with
  | zero =>
    have hnil : l = [] := List.length_eq_zero_iff.mp (by omega)
    subst hnil
    exact ⟨.refl s, trivial⟩
  | succ n ih =>
    cases l with
    | nil => exact ⟨.refl s, trivial⟩
    | cons x r =>
      unfold State.unitLines
      extract_lets k p u v
      have hsplit : p ++ (x :: r).drop k = x :: r := List.take_append_drop _ _
      have hp : p.length ≤ (x :: r).length := List.length_take_le' _ _
      have hu : u = (s.unitReady a).wrMain key a p := if_neg (by rw [State.sealedAt_part hopen le_rfl (by omega)]; decide)
      have hv : WritesFrom s v key a ∧ v.hasBytes key a p := by
        dsimp only [v]
        rw [hu]
        exact State.unitLine_spec h hmem key a p _
      obtain ⟨hline, hbytes⟩ := hv
      by_cases hlong : k < (x :: r).length
      · have hk : p.length = k := List.length_take_of_le hlong.le
        have hdrop : ((x :: r).drop k).length = (x :: r).length - k := List.length_drop
        obtain ⟨hrest, hmore⟩ := ih (a := a + k) (l := (x :: r).drop k) (hline.noSnap h) (hline.memWf hmem)
          (by rw [hline.sealedAt]; exact State.sealedAt_part hopen (by omega) (by omega)) (by omega)
        have hboth := State.hasBytes_append (hrest.hasBytes hbytes (by omega)) (by rwa [hk])
        exact ⟨hline.trans hrest (by omega), by rwa [hsplit] at hboth⟩
      · have hnil : (x :: r).drop k = [] := List.drop_eq_nil_of_le (by omega)
        have hend : v.unitLines key (a + k) n [] = v := by cases n <;> rfl
        rw [hnil, List.append_nil] at hsplit
        rw [hnil, hend]
        exact ⟨hline, by rwa [hsplit] at hbytes⟩

/-- A unit's write of a range that touches no sealed one reads back, and changes nothing but bytes of memory and what the caches note of it. -/
theorem State.unitWrite_spec (h : s.noSnap = true) (hmem : memWf s.mem = true) (key : Nat) (hopen : s.sealedAt a l.length = false) :
    WritesFrom s (s.unitWrite key a l) key a ∧ (s.unitWrite key a l).hasBytes key a l :=
  State.unitLines_spec h hmem key hopen (by omega)

end Sys2Proof.Machine
end

section
/-!
PROOFS. AOWN, ASPILL and AFILL (O39): what each reads and checks, what it then does with the owner state of its core, and the image that ASPILL
writes (R231, R307, R308).
-/

namespace Sys2Proof.Machine

variable {s u u1 : State} {sr : Reg} {x : Word} {i : BitVec 4}

/-! ## Checks of a supervisor's operands (R294) -/

theorem needBarrel_ok {unit : Nat} (h : s.part.isBarrel s.me.core = true) : needBarrel unit s = .ok ((), s) := by
  rw [needBarrel, h]
  rfl

/-- An aligned address operand in main memory passes, one that is written outside sealed ranges only (R294, R377). -/
theorem fwAddr_ok {n_align n a : Nat} {wr : Bool} (ha : a % n_align = 0) (hmain : regionOf s.part a = .main)
    (hopen : wr = true → s.sealedAt a n = false) : fwAddr n_align n wr a s = .ok ((), s) := by
  have hsealed : (wr && s.sealedAt a n) = false := by
    cases wr with
    | false => rfl
    | true => exact hopen rfl
  unfold fwAddr
  rw [op_bind_ok (alignTo_ok ha), op_bind_ok (getS_apply s)]
  dsimp only
  rw [hmain]
  dsimp only
  rw [hsealed]
  rfl

theorem fwClean_ok {a n : Nat} (h : s.anyPoison (linesOf (a / 128 * 128) (a % 128) n) = false) : fwClean a n s = .ok ((), s) := by
  rw [fwClean, h]
  rfl

theorem linesWait_ok {s0 : State} {a n : Nat} (h : s.linesGate a n = (true, u)) : linesWait s0 a n s = .ok ((), u) := by
  rw [linesWait, h]
  rfl

theorem matrixQuiet_of_nil {core : Nat} (h : (s.core core).mq = []) : s.matrixQuiet core = true := by
  rw [State.matrixQuiet, h]
  rfl

/-! ## Images (R308) -/

theorem length_getBytes (t : Tbl Byte) (o n : Nat) : (getBytes t o n).length = n := by simp [getBytes]

theorem Acc.length_image (a : Acc) : a.image.length = 4096 := by
  simp only [Acc.image, List.length_flatMap, length_toBytes, List.map_const', List.sum_replicate, List.length_range, smul_eq_mul]

theorem MTile.length_image (t : MTile) : t.image.length = 4096 := by
  simp only [MTile.image, List.length_append, length_getBytes, List.length_map, List.length_range, length_toBytes, List.length_replicate]

/-- The image of a unit has the unit's size. -/
theorem MxState.length_image (m : MxState) (unit : Nat) (h : unit ≤ 12) : (m.image unit).length = imageSize unit := by
  unfold MxState.image imageSize
  split
  · rw [if_neg (by omega), Acc.length_image]
  split
  · rw [if_neg (by omega), MTile.length_image]
  · rw [if_pos (by omega), length_toBytes]

/-- The alignment of an image is its size, or a line. -/
theorem imageSize_align (unit : Nat) : (if imageSize unit = 16 then 16 else 128) = (if unit = 12 then 16 else 128) := by
  unfold imageSize
  split <;> rfl

/-- A clean accumulator is the same accumulator. -/
theorem CoreSt.clean_mx (k : CoreSt) (unit : Nat) : (k.clean unit).mx = k.mx := by
  unfold CoreSt.clean
  split <;> rfl

/-- Main memory is no part of a core. -/
theorem State.modCore_rdMain (s : State) (core : Nat) (f : CoreSt → CoreSt) (key a n : Nat) :
    (s.modCore core f).rdMain key a n = s.rdMain key a n := by
  induction n generalizing a with
  | zero => rfl
  | succ n ih =>
    rw [State.rdMain, State.rdMain, ih]
    rfl

/-! ## AOWN (R231, R307) -/

/-- A core's owner state given to an owner: a change of tag, or no owner, makes it zero. -/
def CoreSt.giveTo (k : CoreSt) (v : Word) : CoreSt :=
  { k with aown := v, mx := if v.getLsbD 20 && v.extractLsb' 0 16 == k.ownTag then k.mx else MxState.zero }

section
variable (hbarrel : s.part.isBarrel s.me.core = true) (hn : s.namesOk [sr]) (hx : readG sr s = .ok (x, u)) (hquiet : (u.core u.me.core).mq = [])
include hbarrel hn hx hquiet

theorem aown_completes (hlegal : x &&& ~~~0x10FFFF#64 = 0) :
    completes (.aown sr) s (u.modCore u.me.core (fun k => k.giveTo x)) := by
  have hread : (do gate [sr]; let v ← readG sr; illegalIf (v &&& ~~~0x10FFFF#64 != 0); pure v : Op Word) s = .ok (x, u) := by
    rw [op_bind_ok (gate_ok hn)]
    exact checkedRead_ok (b := fun v => v &&& ~~~0x10FFFF#64 != 0) hx (by simpa using hlegal)
  refine issueOp_ok ?_
  rw [op_bind_ok (illegalFirst_ok (needBarrel_ok hbarrel)), op_bind_ok hread, op_bind_ok (getS_apply u),
    op_bind_ok (parkUntil_ok (matrixQuiet_of_nil hquiet))]
  rfl

variable {a : Nat} (hax : addr56 x = a) (ha : a % (if i.toNat = 12 then 16 else 128) = 0) (hmain : regionOf u.part a = .main)
include hax ha hmain

/-! ## AFILL (R308) -/

theorem afill_completes {m : MxState} (hfill : (u.core u.me.core).mx.fill i.toNat (u.rdMain 0 a (imageSize i.toNat)) = some m)
    (hclean : u.anyPoison (linesOf (a / 128 * 128) (a % 128) (imageSize i.toNat)) = false) :
    completes (.afill i sr) s (u.modCore u.me.core (fun k => ({ k with mx := m } : CoreSt).clean i.toNat)) := by
  rw [← imageSize_align] at ha
  refine issueOp_ok ?_
  rw [op_bind_ok (needBarrel_ok hbarrel), op_bind_ok (gate_ok hn), op_bind_ok hx]
  dsimp only
  rw [hax, op_bind_ok (fwAddr_ok ha hmain (by simp)), op_bind_ok (getS_apply u)]
  dsimp only
  rw [op_bind_ok (parkUntil_ok (matrixQuiet_of_nil hquiet)), hfill,
    op_bind_ok (illegalIf_ok (c := (some m).isNone) rfl), op_bind_ok (fwClean_ok hclean)]
  rfl

/-! ## ASPILL (R308, R361) -/

/-- The image of a unit written, and the poison of what it is written from. -/
def State.spillImage (s : State) (unit a : Nat) : State :=
  let m := (s.core s.me.core).mx
  (m.poisonOf unit).foldl (fun t i => t.setPoison (a + i) true) (s.unitWrite 0 a (m.image unit))

theorem aspill_completes (hopen : u.sealedAt a (imageSize i.toNat) = false)
    (hgate : u.linesGate (a / 128 * 128) ((imageSize i.toNat + 127) / 128) = (true, u1)) :
    completes (.aspill i sr) s ((u1.spillImage i.toNat a).modCore u1.me.core (fun k => k.clean i.toNat)) := by
  rw [← imageSize_align] at ha
  refine issueOp_ok ?_
  rw [op_bind_ok (needBarrel_ok hbarrel), op_bind_ok (gate_ok hn), op_bind_ok hx]
  dsimp only
  rw [hax, op_bind_ok (fwAddr_ok ha hmain fun _ => hopen), op_bind_ok (getS_apply u)]
  dsimp only
  rw [op_bind_ok (parkUntil_ok (matrixQuiet_of_nil hquiet)), op_bind_ok (linesWait_ok hgate)]
  rfl
end

/-- A unit's image reads back where nothing that it is written from is poisoned; the owner states and the slot stay as they are. -/
theorem State.spillImage_spec {unit a : Nat} (hs : s.noSnap = true) (hmem : memWf s.mem = true) (hunit : unit ≤ 12)
    (hopen : s.sealedAt a (imageSize unit) = false) :
    WritesFrom s (s.spillImage unit a) 0 a ∧ ((s.core s.me.core).mx.poisonOf unit = [] →
      (s.spillImage unit a).hasBytes 0 a ((s.core s.me.core).mx.image unit)) := by
  obtain ⟨hwrite, hbytes⟩ := State.unitWrite_spec (l := (s.core s.me.core).mx.image unit) hs hmem 0 (by rwa [MxState.length_image _ _ hunit])
  refine ⟨?_, fun hclean => ?_⟩
  · exact List.foldlRecOn _ _ (motive := fun t => WritesFrom s t 0 a) hwrite
      fun t ht j _ => ht.trans (State.setPoison_writesFrom (ht.noSnap hs) _ true) le_rfl
  · rw [State.spillImage, hclean]
    exact hbytes

/-! ## The obligation -/

/-- Settles O39: each of the three completes with what its rule says of the core's owner state, and the image of ASPILL reads back. -/
theorem ownerStateInstructions : Obligations.OwnerStateInstructions := by
  unfold Obligations.OwnerStateInstructions
  refine ⟨?aown, ?aspill, ?afill⟩
  case aown =>
    intro s u sr v hbarrel hn hv hlegal hquiet
    have hmem : u.mem = s.mem := readG_mem hv
    refine ⟨_, aown_completes hbarrel hn hv hquiet hlegal, ?_⟩
    rw [State.modCore_core_self]
    refine ⟨rfl, hmem, rfl, fun h => if_neg ?_, fun hvalid htag => if_pos ?_⟩
    · rcases h with h | h
      · rw [h]
        exact Bool.false_ne_true
      · simp [h]
    · simp [hvalid, htag]
  case aspill =>
    intro s u u1 i sr x a n hbarrel hn hx hi hax hsize ha hmain hopen hquiet hsnap hgate hok
    obtain rfl : n = imageSize i.toNat := hsize
    have hcaches : SameButCaches u u1 := by
      have h := State.linesGate_caches hsnap (a / 128 * 128) ((imageSize i.toNat + 127) / 128)
      rwa [hgate] at h
    have hready : WritesFrom u u1 0 a := hcaches.writesFrom
    obtain ⟨hmem, -⟩ := Bool.and_eq_true_iff.mp hok
    obtain ⟨hspill, hbytes⟩ := State.spillImage_spec (hcaches.noSnap hsnap) hmem hi ((hready.sealedAt _ _).trans hopen)
    refine ⟨_, aspill_completes hbarrel hn hx hquiet hax.symm ha hmain hopen hgate, hspill.me, ?_, fun hclean => ?_⟩
    · rw [hready.me, State.modCore_core_self, CoreSt.clean_mx, State.core_congr hspill.cores]
    · rw [State.modCore_rdMain]
      exact State.rdMain_of_hasBytes (hbytes hclean)
  case afill =>
    intro s u i sr x a n m hbarrel hn hx hi hax hsize ha hmain hquiet hfill hclean
    obtain rfl : n = imageSize i.toNat := hsize
    have hmem : u.mem = s.mem := readG_mem hx
    refine ⟨_, afill_completes hbarrel hn hx hquiet hax.symm ha hmain hfill hclean, ?_, rfl, hmem⟩
    rw [State.modCore_core_self, CoreSt.clean_mx]

end Sys2Proof.Machine
end

section
/-!
PROOFS. What the reads of an instruction leave of the state: registers that pop, the choice of a core, a slot selector and the address of an atomic
change the context's streams and branch-outcome queue, allowance units and the choices still open, and nothing else (R12, R26, R266).
-/

namespace Sys2Proof.Machine

variable {s t u : State}

/-- From `s` to `u` registers have been read and choices made, and nothing else has been done. -/
structure OnlyRead (s u : State) : Prop where
  frame : ∃ m l a o, u = { s with me := m, slots := l, allowances := a, oracle := o }
  me : u.me = { s.me with streams := u.me.streams, bq := u.me.bq }

namespace OnlyRead

theorem refl (s : State) : OnlyRead s s := ⟨⟨s.me, s.slots, s.allowances, s.oracle, rfl⟩, rfl⟩

theorem trans (h : OnlyRead s t) (h' : OnlyRead t u) : OnlyRead s u := by
  obtain ⟨m, l, a, o, ht⟩ := h.frame
  obtain ⟨m', l', a', o', hu⟩ := h'.frame
  refine ⟨⟨m', l', a', o', by rw [hu, ht]⟩, ?_⟩
  rw [h'.me, h.me]

theorem part (h : OnlyRead s u) : u.part = s.part := by
  obtain ⟨_, _, _, _, rfl⟩ := h.frame
  rfl

theorem mem (h : OnlyRead s u) : u.mem = s.mem := by
  obtain ⟨_, _, _, _, rfl⟩ := h.frame
  rfl

theorem threads (h : OnlyRead s u) : u.threads = s.threads := by
  obtain ⟨_, _, _, _, rfl⟩ := h.frame
  rfl

theorem core (h : OnlyRead s u) : u.me.core = s.me.core := by rw [h.me]
theorem slot (h : OnlyRead s u) : u.me.slot = s.me.slot := by rw [h.me]
theorem cid (h : OnlyRead s u) : u.me.cid = s.me.cid := by rw [h.me]
theorem npc (h : OnlyRead s u) : u.me.npc = s.me.npc := by rw [h.me]
theorem g (h : OnlyRead s u) : u.me.g = s.me.g := by rw [h.me]
theorem quiet (h : OnlyRead s u) : u.me.quiet = s.me.quiet := by rw [h.me]; rfl

end OnlyRead

/-- A part of a meaning that only reads. -/
def Reads {α : Type} (m : Op α) : Prop := ∀ ⦃s u : State⦄ ⦃a : α⦄, m s = .ok (a, u) → OnlyRead s u

namespace Reads

variable {α β : Type} {m n : Op α} {f : α → Op β}

theorem pure {a : α} : Reads (Pure.pure a : Op α) := by
  rintro s u b ⟨⟩
  exact .refl s

theorem bind (hm : Reads m) (hf : ∀ a, Reads (f a)) : Reads (m >>= f) := by
  intro s u b h
  rw [op_bind] at h
  split at h
  · next r hr => exact (hm hr).trans (hf _ h)
  · cases h

theorem ite {c : Prop} [Decidable c] (hm : Reads m) (hn : Reads n) : Reads (if c then m else n) := by
  split
  · exact hm
  · exact hn

/-- A part that leaves the state as it is, where it does not end the turn. -/
theorem of_same (h : ∀ s a u, m s = .ok (a, u) → u = s) : Reads m := fun s u a e => h s a u e ▸ .refl s

theorem trapIf {b : Bool} {c : TrapClass} {addr info : Word} : Reads (trapIf b c addr info) := by
  refine of_same fun s a u h => ?_
  unfold Machine.trapIf at h
  split at h <;> cases h
  rfl

theorem illegalIf {b : Bool} : Reads (illegalIf b) := by
  refine of_same fun s a u h => ?_
  unfold Machine.illegalIf at h
  split at h <;> cases h
  rfl

theorem getS : Reads getS := by
  rintro s u b ⟨⟩
  exact .refl s

theorem alignTo {k code a : Nat} : Reads (alignTo k code a) := by
  unfold Machine.alignTo
  exact .ite .pure (of_same fun _ _ _ h => nomatch h)

theorem watch {code a k : Nat} {r : Rights} : Reads (watch code a k r) := by
  refine of_same fun s x u h => ?_
  unfold Machine.watch at h
  split at h <;> cases h
  rfl

theorem homeOf {a : Nat} : Reads (homeOf a) := by
  refine of_same fun s x u h => ?_
  unfold Machine.homeOf at h
  split at h <;> cases h <;> rfl

end Reads

/-- Words that leave a stream change the context, and may give an allowance unit back. -/
theorem State.popWord_onlyRead (s : State) (k : Fin 4) : OnlyRead s (s.popWord s.me k) := by
  obtain ⟨st, hme⟩ := s.popWord_me k
  refine ⟨?_, by rw [hme]⟩
  unfold State.popWord
  dsimp only
  split
  · exact ⟨s.me, s.slots, s.allowances, s.oracle, rfl⟩
  · split
    · obtain ⟨m, l, h⟩ := s.place_eq { s.me with streams := _ }
      exact ⟨m, l, _, s.oracle, by rw [h]⟩
    · obtain ⟨m, l, h⟩ := s.place_eq { s.me with streams := _ }
      exact ⟨m, l, _, s.oracle, by rw [h]⟩
    · obtain ⟨m, l, h⟩ := s.place_eq { s.me with streams := _ }
      exact ⟨m, l, s.allowances, s.oracle, h⟩

theorem reads_readPlain (x : Reg) : Reads (readPlain x) := by
  refine .of_same fun s y u h => ?_
  unfold readPlain at h
  split at h
  · cases h
  split at h <;> cases h
  rfl

theorem reads_popBq : Reads popBq := by
  intro s u y h
  unfold popBq at h
  split at h <;> cases h
  exact ⟨⟨_, s.slots, s.allowances, s.oracle, rfl⟩, rfl⟩

theorem reads_popPort (k : Fin 4) : Reads (popPort k) := by
  intro s u y h
  unfold popPort at h
  dsimp only at h
  split at h
  · cases h
  split at h
  · cases h
  split at h <;> cases h
  exact s.popWord_onlyRead k

theorem reads_readG (x : Reg) : Reads (readG x) := Reads.ite .pure (.ite reads_popBq (.ite (reads_popPort _) (reads_readPlain x)))

/-! ## Choices of a core and slot selectors (R12) -/

/-- A function that uses up a choice at most. -/
theorem State.choose_onlyRead (s : State) (n : Nat) : OnlyRead s (s.choose n).2 := by
  obtain ⟨o, h⟩ := s.choose_eq n
  rw [h]
  exact ⟨⟨s.me, s.slots, s.allowances, o, rfl⟩, rfl⟩

theorem reads_chooseOp {f : State → Nat × State} (h : ∀ s, OnlyRead s (f s).2) : Reads (chooseOp f) := by
  intro s u a e
  have he : f s = (a, u) := Except.ok.inj e
  have hs := h s
  rwa [he] at hs

theorem State.pickCore_onlyRead (s : State) (l : List Nat) (slot : Option Nat) : OnlyRead s (s.pickCore l slot).2 := s.choose_onlyRead _

theorem State.squadCore_onlyRead (s : State) (q : Nat) (slot : Option Nat) : OnlyRead s (s.squadCore q slot).2 := by
  unfold State.squadCore
  split
  · exact .refl s
  · split
    · exact .refl s
    · exact s.pickCore_onlyRead _ _

theorem reads_selector {spawn : Bool} {sel : Word} {addr : Op Word} (haddr : Reads addr) : Reads (selector spawn sel addr) := by
  refine .bind .illegalIf fun _ => .bind .getS fun s => .bind .trapIf fun _ => .bind .illegalIf fun _ => .ite .pure (.ite ?_ (.ite ?_ ?_))
  · refine .bind (reads_chooseOp fun t => ?_) fun _ => .pure
    split
    · exact .refl t
    · exact t.pickCore_onlyRead _ _
  · refine .bind haddr fun x => .bind .homeOf fun h => ?_
    split
    · exact .pure
    · refine .bind (reads_chooseOp fun t => ?_) fun _ => .pure
      split
      · exact t.pickCore_onlyRead _ _
      · exact t.squadCore_onlyRead _ _
  · refine .bind (reads_chooseOp fun t => ?_) fun _ => .pure
    split
    · exact .refl t
    · exact t.pickCore_onlyRead _ _

theorem reads_atomicAt (sr : Reg) (n : Nat) : Reads (atomicAt sr n) :=
  .bind (reads_readG sr) fun _ => .bind .alignTo fun _ => .bind .homeOf fun _ => .bind .getS fun _ =>
    .ite (.bind .watch fun _ => .pure) .pure

end Sys2Proof.Machine
end

section
/-!
PROOFS. AMO, CAS and RUPD (O20), and the threads that leave for another core: the message that a departure sends, where an atomic lets its thread
stand, and how each instruction completes (R257, R260, R264-R267).
-/

namespace Sys2Proof.Machine

variable {s s0 s1 s2 s3 u v w : State} {a n core : Nat} {slot : Option Nat} {dest : Word} {back : Bool} {pops : List Reg} {d sr t : Reg}
  {x e : Word} {y : Word × Word}

/-! ## Departures (R260) -/

/-- The message of a thread that leaves the slot of `c` as `t`. -/
def Ctx.departure (c t : Ctx) (core : Nat) (slot : Option Nat) (dest : Word) (back : Bool) (pops : List Reg) : ThreadMsg :=
  { ctx := { t with npc := t.pc, att := false, inHand := none }, core := core, slot := slot, fromCore := c.core, fromSlot := c.slot, dest := dest,
    parent := none, back := back, code := 15, pc := c.pc, rejected := false, pops := pops }

/-- A departure sends its message, and changes no byte of memory. -/
theorem State.launch_sends (s : State) (c t : Ctx) (core : Nat) (slot : Option Nat) (dest : Word) (back : Bool) (pops : List Reg) :
    (s.launch c t core slot dest t.pc back pops).threads = s.threads ++ [c.departure t core slot dest back pops] ∧
      (s.launch c t core slot dest t.pc back pops).mem = s.mem := by
  obtain ⟨m, l, h⟩ := s.place_eq { c with wait := .moving, att := false, inHand := none }
  refine ⟨rfl, ?_⟩
  show (s.place _).mem = _
  rw [h]

/-- Without outstanding replies a thread leaves: for the next instruction, or to execute this one again (R260). -/
theorem leave_go {α : Type} {issued : Bool} (hquiet : s0.me.quiet = true) :
    ∃ w : State, (leave s0 core slot dest issued back pops : Op α) s = .error (.go w) ∧
      w.threads = s0.threads ++ [s0.me.departure (if issued then s0.me.issue else s0.me) core slot dest back pops] ∧ w.mem = s0.mem := by
  refine ⟨_, if_pos hquiet, ?_⟩
  exact State.launch_sends { s0 with oracle := s.oracle } _ _ _ _ _ _ _

theorem leave_parks {α : Type} {issued : Bool} (hbusy : s0.me.quiet = false) : (leave s0 core slot dest issued back pops : Op α) s = .error .park :=
  if_neg (by simp [hbusy])

/-! ## Where an atomic lets its thread stand (R257) -/

/-- A line dropped at an issue changes the table of cores and what the requests to slices will fill (R65, R314). -/
theorem State.l1Kill_eq (s : State) (core a : Nat) : ∃ l q, s.l1Kill core a = { s with cores := l, sliceQ := q } := by
  obtain ⟨l, h⟩ := s.l1Keep_eq core (fun e => e.line != a / 128)
  exact ⟨l, _, by rw [State.l1Kill, State.l1Drop, h]⟩

/-- The home core of an address of main memory. -/
theorem homeOf_main (h : regionOf s.part a = .main) : homeOf a s = .ok (.core (4096 + s.chanOf a), s) := by
  unfold homeOf
  rw [h]

theorem standAt_stays (hmain : regionOf s.part a = .main)
    (h : s.me.core = 4096 + s.chanOf a ∨ s.part.isPivot s.me.core = true ∨ s.me.audited = true) : standAt s0 a s = .ok ((), s) := by
  unfold standAt
  rw [op_bind_ok (homeOf_main hmain), op_bind_ok (getS_apply s)]
  rcases h with h | h
  · dsimp only
    rw [if_pos h]
    split <;> rfl
  · rw [if_pos (by simpa using h)]
    rfl

section
variable (hmain : regionOf s.part a = .main) (hcore : s.me.core ≠ 4096 + s.chanOf a) (hpivot : s.part.isPivot s.me.core = false)
  (haudit : s.me.audited = false)
include hmain hcore hpivot haudit

/-- Away from the home core an atomic of main memory sends its thread there. -/
theorem standAt_away :
    standAt s0 a s = leave (s0.l1Kill s0.me.core a) (4096 + s.chanOf a) none (BitVec.ofNat 64 a) false false [] s := by
  unfold standAt
  rw [op_bind_ok (homeOf_main hmain), op_bind_ok (getS_apply s)]
  dsimp only
  rw [hpivot, haudit, if_neg (by decide), if_neg hcore]

theorem standAt_leaves (hquiet : s.me.quiet = true) :
    ∃ (w : State) (m : ThreadMsg), standAt s a s = .error (.go w) ∧ w.threads = s.threads ++ [m] ∧ m.core = 4096 + s.chanOf a ∧
      m.ctx.pc = s.me.pc ∧ m.ctx.g = s.me.g ∧ m.parent = none ∧ w.mem = s.mem := by
  obtain ⟨l, q, hkill⟩ := s.l1Kill_eq s.me.core a
  rw [standAt_away hmain hcore hpivot haudit, hkill]
  obtain ⟨w, hw, hthreads, hmem⟩ := leave_go (α := Unit) (s0 := { s with cores := l, sliceQ := q }) (s := s) (issued := false) hquiet
  exact ⟨w, _, hw, hthreads, rfl, rfl, rfl, rfl, hmem⟩

theorem standAt_parks (hbusy : s.me.quiet = false) : standAt s a s = .error .park := by
  obtain ⟨l, q, hkill⟩ := s.l1Kill_eq s.me.core a
  rw [standAt_away hmain hcore hpivot haudit, hkill]
  exact leave_parks hbusy
end

/-! ## The instructions -/

/-- The flags of an atomic are raised, and an acquire follows where it asks for one (R66, R266). -/
def State.atomicEnd (w : State) (fl : Word) (acq : Bool) : State :=
  let z := w.modMe (fun c => { c with fcs := c.fcs ||| fl })
  if acq then z.acquire z.me.core else z

/-- An operation that its home performs writes the old value (R266). -/
theorem atomicDo_ok {op : HomeOp} {acq : Bool} (hop : locOp s (regionOf u.part a) (s.homeReq op a n 15 pops) u = .ok (y, v))
    (hw : writeG d y.1 v = .ok ((), w)) : atomicDo s op a n d acq pops u = .ok ((), w.atomicEnd y.2 acq) := by
  unfold atomicDo
  rw [op_bind_ok (getS_apply u), op_bind_ok hop, op_bind_ok hw]
  cases acq <;> rfl

section
variable {op : AtOp} {wd : AtW} {ord : AtOrd} {w64 : Bool}

theorem amo_completes (hn : s.namesOk [d, sr, t]) (ha : atomicAt sr (atSize wd) s = .ok (a, s1)) (hstand : standAt s a s1 = .ok ((), s2))
    (hx : readG t s2 = .ok (x, u)) (hrel : AtOrd.isRel ord = true → u.me.ld = 0 ∧ u.me.st = 0)
    (hop : locOp s (regionOf u.part a) (s.homeReq (.amo op wd (AtOrd.isAcq ord) d x) a (atSize wd) 15 (popsOf [sr, t])) u = .ok (y, v))
    (hw : writeG d y.1 v = .ok ((), w)) : completes (.amo op wd ord d sr t) s (w.atomicEnd y.2 (AtOrd.isAcq ord)) := by
  refine issueOp_ok ?_
  rw [op_bind_ok (gate_ok hn), op_bind_ok ha, op_bind_ok hstand, op_bind_ok hx, op_bind_ok (releaseWait_ok hrel)]
  exact atomicDo_ok hop hw

theorem cas_completes (hn : s.namesOk [d, sr, t]) (ha : atomicAt sr (if w64 then 8 else 4) s = .ok (a, s1))
    (hstand : standAt s a s1 = .ok ((), s2)) (hx : readG t s2 = .ok (x, s3)) (he : readG d s3 = .ok (e, u))
    (hrel : AtOrd.isRel ord = true → u.me.ld = 0 ∧ u.me.st = 0)
    (hop : locOp s (regionOf u.part a) (s.homeReq (.cas w64 (AtOrd.isAcq ord) d e x) a (if w64 then 8 else 4) 15 (popsOf [sr, t, d])) u =
      .ok (y, v))
    (hw : writeG d y.1 v = .ok ((), w)) : completes (.cas w64 ord d sr t) s (w.atomicEnd y.2 (AtOrd.isAcq ord)) := by
  refine issueOp_ok ?_
  rw [op_bind_ok (gate_ok hn)]
  dsimp only
  rw [op_bind_ok ha, op_bind_ok hstand, op_bind_ok hx, op_bind_ok he, op_bind_ok (releaseWait_ok hrel)]
  exact atomicDo_ok hop hw

theorem roomSt_ok {k : Nat} (h : s.me.st + k ≤ 63) : roomSt k s = .ok ((), s) := if_pos h

/-- An update sent to a unit: its copy in the L1 goes where the unit is a home core, and `st` counts it (R65, R267). -/
def State.sendUpdate (u : State) (op : AtOp) (wd : AtW) (x : Word) (a k : Nat) : State :=
  let s1 := if k < 4096 then u.l1Kill u.me.core a else u
  { (s1.modMe (fun c => { c with st := c.st + 1 })) with
    rupds := s1.rupds ++ [(k, s1.homeReq (.rupd op wd x) a (atSize wd) 15 [])], nextReq := s1.nextReq + 1 }

theorem State.sendUpdate_keeps (u : State) (op : AtOp) (wd : AtW) (x : Word) (a k : Nat) :
    (u.sendUpdate op wd x a k).me = { u.me with st := u.me.st + 1 } ∧ (u.sendUpdate op wd x a k).mem = u.mem ∧
      (u.sendUpdate op wd x a k).rupds = u.rupds ++ [(k, u.homeReq (.rupd op wd x) a (atSize wd) 15 [])] := by
  obtain ⟨l, q, hkill⟩ := u.l1Kill_eq u.me.core a
  unfold State.sendUpdate
  dsimp only
  split
  · rw [hkill]
    exact ⟨rfl, rfl, rfl⟩
  · exact ⟨rfl, rfl, rfl⟩

theorem rupd_completes {k : Nat} (hn : s.namesOk [sr, t]) (ha : atomicAt sr (atSize wd) s = .ok (a, s1))
    (hrel : AtOrd.isRel ord = true → s1.me.ld = 0 ∧ s1.me.st = 0) (hst : s1.me.st < 63) (hx : readG t s1 = .ok (x, u)) (hk : u.unitOf a = some k) :
    completes (.rupd op wd ord sr t) s (u.sendUpdate op wd x a k) := by
  refine issueOp_ok ?_
  rw [op_bind_ok (gate_ok hn), op_bind_ok ha, op_bind_ok (releaseWait_ok hrel), op_bind_ok (roomSt_ok hst), op_bind_ok hx, modS_apply, hk]
  rfl
end

/-- Settles O20: one rule for each instruction, and one for each place in which a thread meets an atomic of main memory. -/
theorem atomics : Obligations.Atomics := by
  unfold Obligations.Atomics
  refine ⟨⟨fun s s1 s2 u v w op wd ord d sr t a x y hn ha hstand hx hrel hop hw => amo_completes hn ha hstand hx hrel hop hw,
    ?cas, ?rupd⟩,
    fun s a hmain => ⟨standAt_stays hmain, fun hcore hpivot haudit =>
      ⟨standAt_leaves hmain hcore hpivot haudit, standAt_parks hmain hcore hpivot haudit⟩⟩⟩
  case cas =>
    intro s s1 s2 s3 u v w w64 ord d sr t a x e y n hn ha hstand hx he hrel hop hw
    exact cas_completes hn ha hstand hx he hrel hop hw
  case rupd =>
    intro s s1 u op wd ord sr t a k x hn ha hrel hst hx hk
    have hread : OnlyRead s u := (reads_atomicAt sr _ ha).trans (reads_readG t hx)
    obtain ⟨hme, hmem, hrupds⟩ := u.sendUpdate_keeps op wd x a k
    exact ⟨_, rupd_completes hn ha hrel hst hx hk, by rw [hme], hmem.trans hread.mem, by rw [hme]; exact hread.core, _, hrupds, rfl, rfl⟩

end Sys2Proof.Machine
end

section
/-!
PROOFS. MIGR and SPAWN (O21): a migration stays or sends its thread, whatever its operand names, and a child is sent beside its parent (R259, R260,
R268, R269).
-/

namespace Sys2Proof.Machine

variable {s s0 s1 s2 s3 u : State} {core : Nat} {slot : Option Nat} {dest : Word} {pops : List Reg} {d sr t : Reg} {x sel : Word}

/-! ## Migrations (R259, R260, R269) -/

/-- The thread of a slot as it leaves for a pivot core: its anchor is saved (R259). -/
def Ctx.toPivot (c : Ctx) : Ctx :=
  match c.anchorMode with
  | .here => { c.issue with anchorCore := c.core, anchorSlot := c.slot, anchorMode := .saved }
  | _ => { c.issue with anchorMode := .saved }

theorem Ctx.toPivot_keeps (c : Ctx) : c.toPivot.pc = c.npc ∧ c.toPivot.g = c.g ∧ c.toPivot.anchorMode = .saved := by
  unfold Ctx.toPivot
  split <;> exact ⟨rfl, rfl, rfl⟩

theorem Ctx.toPivot_anchorCore {c : Ctx} (h : c.anchorMode = .here) : c.toPivot.anchorCore = c.core := by
  unfold Ctx.toPivot
  rw [h]

/-- A thread that leaves for a pivot core goes on there after the MIGR. -/
theorem leavePivot_go (hquiet : s0.me.quiet = true) :
    ∃ w : State, leavePivot s0 core slot dest pops s = .error (.go w) ∧
      w.threads = s0.threads ++ [s0.me.departure s0.me.toPivot core slot dest false pops] ∧ w.mem = s0.mem :=
  ⟨_, if_pos hquiet, State.launch_sends { s0 with oracle := s.oracle } _ _ _ _ _ _ _⟩

theorem migrWatch_ok (haudit : s.me.audited = false) : migrWatch dest s = .ok ((), s) := by
  rw [migrWatch, haudit]
  rfl

section
variable (hlegal : (u.part.isPivot u.me.core && u.part.isBarrel core && core / 8 == u.me.anchorCore / 8 && core != u.me.anchorCore) = false)
  (haudit : u.me.audited = false)
include hlegal haudit

theorem migrate_stays (hcore : core = u.me.core) : migrate s0 core slot dest pops u = .ok ((), u) := by
  unfold migrate
  rw [op_bind_ok (getS_apply u), op_bind_ok (illegalIf_ok hlegal), op_bind_ok (migrWatch_ok haudit), if_pos hcore]
  rfl

/-- A thread that stands elsewhere leaves, for a pivot core as for any other, and goes on after the MIGR. -/
theorem migrate_leaves (hcore : core ≠ u.me.core) (hquiet : s0.me.quiet = true) :
    ∃ (w : State) (m : ThreadMsg), migrate s0 core slot dest pops u = .error (.go w) ∧ w.threads = s0.threads ++ [m] ∧ m.core = core ∧
      m.slot = slot ∧ m.ctx.pc = s0.me.npc ∧ m.ctx.g = s0.me.g ∧ w.mem = s0.mem := by
  unfold migrate
  rw [op_bind_ok (getS_apply u), op_bind_ok (illegalIf_ok hlegal), op_bind_ok (migrWatch_ok haudit), if_neg hcore]
  split
  · obtain ⟨w, hw, hthreads, hmem⟩ := leavePivot_go (s := u) (core := core) (slot := slot) (dest := dest) (pops := pops) hquiet
    obtain ⟨hpc, hg, -⟩ := s0.me.toPivot_keeps
    exact ⟨w, _, hw, hthreads, rfl, rfl, hpc, hg, hmem⟩
  · obtain ⟨w, hw, hthreads, hmem⟩ := leave_go (α := Unit) (s := u) (core := core) (slot := slot) (dest := dest) (back := false) (pops := pops)
      (issued := true) hquiet
    exact ⟨w, _, hw, hthreads, rfl, rfl, rfl, rfl, hmem⟩
end

/-! ## MIGR (R269) -/

/-- A home core is no barrel core. -/
theorem Part.isBarrel_home (p : Part) (c : Nat) : p.isBarrel (4096 + c) = false := by
  have h := p.squads_le
  simp [Part.isBarrel]
  omega

/-- MIGR to the home of an address of main memory migrates to its home core. -/
theorem exec_migrHome_main (hn : s.namesOk [sr]) (hx : readG sr s = .ok (x, u)) (hmain : regionOf u.part (addr56 x) = .main) :
    ∃ m : Op Unit, exec (.migrHome sr) s = issueOp m s ∧
      m s = migrate s (4096 + u.chanOf (addr56 x)) none (BitVec.ofNat 64 (addr56 x)) (popsOf [sr]) u := by
  refine ⟨_, rfl, ?_⟩
  rw [op_bind_ok (gate_ok hn), op_bind_ok hx]
  dsimp only
  rw [op_bind_ok (homeOf_main hmain)]

/-- MIGR to a selector migrates where the selector leads. -/
theorem exec_migr_selector (hn : s.namesOk [sr, t]) (hx : readG sr s = .ok (sel, s1))
    (hsel : selector false sel (readG t) s1 = .ok ((core, slot, dest), u)) :
    ∃ m : Op Unit, exec (.migr sr t) s = issueOp m s ∧ m s = migrate s core slot dest (popsOf [sr, t]) u := by
  refine ⟨_, rfl, ?_⟩
  rw [op_bind_ok (gate_ok hn), op_bind_ok hx, op_bind_ok hsel]

theorem migrPivot_stays (h : s.part.isPivot s.me.core = true) : completes .migrPivot s s := by
  refine issueOp_ok ?_
  rw [op_bind_ok (getS_apply s), if_pos h]
  rfl

/-- MIGR to a pivot core from elsewhere sends the thread to one of them. -/
theorem migrPivot_leaves (h : s.part.isPivot s.me.core = false) (haudit : s.me.audited = false) (hquiet : s.me.quiet = true) :
    ∃ (w : State) (c : Nat), exec .migrPivot s = .next w ∧ w.threads = s.threads ++ [s.me.departure s.me.toPivot c none 0 false []] := by
  obtain ⟨w, hw, hthreads, -⟩ := leavePivot_go (s0 := s) (s := (s.pickCore s.pivotCores none).2) (core := (s.pickCore s.pivotCores none).1)
    (slot := none) (dest := 0) (pops := []) hquiet
  refine ⟨w, _, issueOp_go ?_, hthreads⟩
  rw [op_bind_ok (getS_apply s), if_neg (by simp [h]), op_bind_ok (migrWatch_ok haudit)]
  exact hw

theorem migrBack_stays (haudit : s.me.audited = false) (haway : s.me.isAway = false) : completes .migrBack s s := by
  refine issueOp_ok ?_
  rw [op_bind_ok (migrWatch_ok haudit), op_bind_ok (getS_apply s), if_neg (by simp [haway])]
  rfl

/-- MIGR back sends an away thread to its anchor's core. -/
theorem migrBack_leaves (haudit : s.me.audited = false) (haway : s.me.isAway = true) (hquiet : s.me.quiet = true) :
    ∃ (w : State) (slot : Option Nat) (dest : Word), exec .migrBack s = .next w ∧
      w.threads = s.threads ++ [s.me.departure s.me.issue s.me.anchorCore slot dest true []] := by
  obtain ⟨w, hw, hthreads, -⟩ := leave_go (α := Unit) (s0 := s) (s := s) (core := s.me.anchorCore)
    (slot := if s.me.anchorMode == .saved then none else some s.me.anchorSlot)
    (dest := BitVec.ofNat 64 (s.me.anchorCore + s.me.anchorSlot * 2 ^ 16)) (back := true) (pops := []) (issued := true) hquiet
  refine ⟨w, _, _, issueOp_go ?_, hthreads⟩
  rw [op_bind_ok (migrWatch_ok haudit), op_bind_ok (getS_apply s), if_pos haway]
  exact hw

/-! ## SPAWN (R268) -/

/-- The message that carries a child to its core. -/
def State.childMsg (u : State) (pc : Word) (args : List Word) (core : Nat) (slot : Option Nat) (dest : Word) : ThreadMsg :=
  { ctx := u.me.child u.nextCid pc args, core := core, slot := slot, fromCore := u.me.core, fromSlot := u.me.slot, dest := dest,
    parent := some u.me.cid, back := false, code := 15, pc := u.me.pc, rejected := false, pops := [] }

/-- The state in which a child has been sent: `st` of its parent counts it. -/
def State.sendChild (u : State) (m : ThreadMsg) : State :=
  { (u.modMe (fun c => { c with st := c.st + 1 })) with threads := u.threads ++ [m], nextCid := u.nextCid + 1 }

theorem spawn_completes {n : SpawnN} {pc : Word} {args : List Word} (hn : s.namesOk [d, sr]) (hsel : readG sr s = .ok (sel, s1))
    (hpc : readG d s1 = .ok (pc, s2)) (hargs : readArgs 1 (spawnArgs n) s2 = .ok (args, s3))
    (hto : selector true sel (pure (args.headD 0)) s3 = .ok ((core, slot, dest), u)) (hrb : readG 61 u = .ok (u.me.g[61], u))
    (hrl : readG 62 u = .ok (u.me.g[62], u)) (hld : s.me.ld = 0) (hst : s.me.st = 0) (hst' : u.me.st ≤ 62) :
    completes (.spawn n d sr) s (u.sendChild (u.childMsg pc args core slot dest)) := by
  rw [readG_eq_readPlain rfl (by decide)] at hrb hrl
  refine issueOp_ok ?_
  rw [op_bind_ok (gate_ok hn), op_bind_ok hsel, op_bind_ok hpc, op_bind_ok hargs, op_bind_ok hto, op_bind_ok hrb, op_bind_ok hrl,
    op_bind_ok (modS_apply _ u), op_bind_ok (getS_apply _)]
  refine parkUntil_ok ?_
  rw [hld, hst]
  exact decide_eq_true (Nat.succ_le_succ hst')

theorem Ctx.child_regs (p : Ctx) (cid : Nat) (pc : Word) (args : List Word) :
    (p.child cid pc args).g[61] = p.g[61] ∧ (p.child cid pc args).g[62] = p.g[62] := by
  constructor
  · rw [Ctx.child, Vector.getElem_set_ne (by decide) (by decide) (by decide), Vector.getElem_set_self]
  · rw [Ctx.child, Vector.getElem_set_self]

/-- Settles O21: where each form of MIGR leads, and the child of a SPAWN. -/
theorem migrationAndSpawn : Obligations.MigrationAndSpawn := by
  unfold Obligations.MigrationAndSpawn
  refine ⟨?home, ?selector, fun s h => migrPivot_stays h, ?pivot, fun s haudit haway => migrBack_stays haudit haway, ?back, ?spawn⟩
  case home =>
    intro s u sr x hn hx hmain haudit
    have hread := reads_readG sr hx
    have hlegal {b : Bool} : (u.part.isPivot u.me.core && u.part.isBarrel (4096 + u.chanOf (addr56 x)) && b &&
        4096 + u.chanOf (addr56 x) != u.me.anchorCore) = false := by
      rw [Part.isBarrel_home, Bool.and_false]
      rfl
    obtain ⟨m, hm, hrun⟩ := exec_migrHome_main hn hx hmain
    refine ⟨fun hcore => hm.trans (issueOp_ok (hrun.trans (migrate_stays hlegal haudit hcore.symm))), fun hcore hquiet => ?_⟩
    obtain ⟨w, k, hw, hthreads, hto, -, hpc, hg, hmem⟩ := migrate_leaves hlegal haudit (Ne.symm hcore) (hread.quiet ▸ hquiet)
    exact ⟨w, k, hm.trans (issueOp_go (hrun.trans hw)), by rw [hthreads, hread.threads], hto, hpc.trans hread.npc.symm, hg.trans hread.g.symm, hmem⟩
  case selector =>
    intro s s1 u sr t sel core slot dest hn hx hsel haudit hpivot
    have hread : OnlyRead s u := (reads_readG sr hx).trans (reads_selector (reads_readG t) hsel)
    have hlegal : (u.part.isPivot u.me.core && u.part.isBarrel core && core / 8 == u.me.anchorCore / 8 && core != u.me.anchorCore) = false := by
      rw [hpivot]
      rfl
    obtain ⟨m, hm, hrun⟩ := exec_migr_selector hn hx hsel
    refine ⟨fun hcore => hm.trans (issueOp_ok (hrun.trans (migrate_stays hlegal haudit hcore))), fun hcore hquiet => ?_⟩
    obtain ⟨w, k, hw, hthreads, hto, hslot, hpc, hg, -⟩ := migrate_leaves hlegal haudit hcore (hread.quiet ▸ hquiet)
    exact ⟨w, k, hm.trans (issueOp_go (hrun.trans hw)), by rw [hthreads, hread.threads], hto, hslot, hpc.trans hread.npc.symm,
      hg.trans hread.g.symm⟩
  case pivot =>
    intro s hpivot hhere haudit hquiet
    obtain ⟨w, c, hw, hthreads⟩ := migrPivot_leaves hpivot haudit hquiet
    obtain ⟨hpc, -, hmode⟩ := s.me.toPivot_keeps
    exact ⟨w, _, hw, hthreads, hpc, hmode, Ctx.toPivot_anchorCore hhere⟩
  case back =>
    intro s haudit haway hquiet
    obtain ⟨w, slot, dest, hw, hthreads⟩ := migrBack_leaves haudit haway hquiet
    exact ⟨w, _, hw, hthreads, rfl, rfl, rfl⟩
  case spawn =>
    intro s s1 s2 s3 u n d sr sel pc args core slot dest hn hsel hpc hargs hto hrb hrl hld hst hst'
    obtain ⟨h61, h62⟩ := u.me.child_regs u.nextCid pc args
    exact ⟨_, _, spawn_completes hn hsel hpc hargs hto hrb hrl hld hst (by omega), congrArg (· + 1) hst', rfl, rfl, rfl, rfl, rfl, rfl, h61, h62⟩

end Sys2Proof.Machine
end

section
/-!
PROOFS. The huddle barrier (O29): what an arrival makes of a barrier, the turns of HBAR, HWAIT and HSTAT, and the fields of the word that HSTAT
writes (R274, R275).
-/

namespace Sys2Proof.Machine

variable {s u t : State} {d sr : Reg} {x : Word}

/-! ## Checks that fail, and the start of a read that is checked -/

theorem illegalIf_trap {b : Bool} (h : b = true) : illegalIf b s = .error (.trap .illegal 0 (illegalInfo s 0x0E)) := if_pos h

theorem parkUntil_park {b : Bool} (h : b = false) : parkUntil b s = .error .park := by rw [h]; rfl

/-- An instruction of the anchor whose register is read and checked first goes on with the value (R1, R351). -/
theorem op_checkedRead {b : Word → Bool} {f : Word → Op Unit} (hs : s.atAnchor) (hx : readG sr s = .ok (x, u)) (hb : b x = false) :
    (illegalFirst (needUnit 3) ((do let v ← readG sr; illegalIf (b v); pure v : Op Word) *> pure ()) >>= fun _ =>
      (do let v ← readG sr; illegalIf (b v); pure v : Op Word) >>= f) s = f x u := by
  rw [op_bind_ok (illegalFirst_ok (needUnit_ok hs)), op_bind_ok (checkedRead_ok hx hb)]

/-! ## Arrivals (R274) -/

section
variable {b : Barrier} {c i : Nat} {m : BitVec 8}

theorem Barrier.lead_of_lt (hi : i < 8) : b.lead i = b.leads[i] := by
  simp [Barrier.lead, Nat.mod_eq_of_lt hi]

theorem Barrier.lead_mod (b : Barrier) (c : Nat) : b.lead (c % 8) = b.lead c := by
  simp [Barrier.lead]

theorem Barrier.idle_iff : b.idle = true ↔ ∀ i, i < 8 → b.lead i = 0 := by
  simp only [Barrier.idle, List.all_eq_true, Vector.mem_toList_iff, beq_iff_eq, Vector.mem_iff_getElem]
  constructor
  · intro h i hi
    rw [Barrier.lead_of_lt hi]
    exact h _ ⟨i, hi, rfl⟩
  · rintro h _ ⟨i, hi, rfl⟩
    rw [← Barrier.lead_of_lt hi]
    exact h i hi

/-- The barrier at which a core of the mask `m` arrives: an idle one takes the mask (R274). -/
def Barrier.taken (b : Barrier) (m : BitVec 8) : Barrier := if b.idle then { b with mask := m } else b

theorem Barrier.taken_eq (h : (∀ i, i < 8 → b.lead i = 0) ∨ b.mask = m) : b.taken m = { b with mask := m } := by
  unfold Barrier.taken
  split
  · rfl
  · next hbusy =>
    have hm : b.mask = m := h.resolve_left fun h0 => hbusy (Barrier.idle_iff.mpr h0)
    rw [← hm]

/-- The leads with one more for a core. -/
def Barrier.raised (b : Barrier) (c : Nat) : Vector (BitVec 2) 8 := b.leads.set (c % 8) (b.lead c + 1) (Nat.mod_lt _ (by decide))

theorem Barrier.raised_get (hi : i < 8) : (b.raised c)[i] = if i = c % 8 then b.lead i + 1 else b.lead i := by
  simp only [Barrier.raised, Vector.getElem_set]
  split
  · next h => rw [if_pos h.symm, ← h, Barrier.lead_mod]
  · next h => rw [if_neg fun e => h e.symm, Barrier.lead_of_lt hi]

/-- Every member has a lead. -/
def Barrier.complete (b : Barrier) (l : Vector (BitVec 2) 8) : Bool :=
  (List.range 8).all (fun i => !b.mask.getLsbD i || (l.toList.getD i 0) != 0)

theorem Barrier.complete_iff {l : Vector (BitVec 2) 8} :
    b.complete l = true ↔ ∀ i, (hi : i < 8) → b.mask.getLsbD i = true → l[i] ≠ 0 := by
  have hget {i : Nat} (hi : i < 8) : l.toList.getD i 0 = l[i] := by simp [List.getD, hi]
  simp only [Barrier.complete, List.all_eq_true, List.mem_range, Bool.or_eq_true, Bool.not_eq_true', bne_iff_ne]
  constructor
  · intro h i hi hm
    rw [← hget hi]
    exact (h i hi).resolve_left (by simp [hm])
  · intro h i hi
    rw [hget hi]
    cases hm : b.mask.getLsbD i with
    | false => exact .inl rfl
    | true => exact .inr (h i hi hm)

theorem Barrier.arrive_mask (b : Barrier) (c : Nat) : (b.arrive c).mask = b.mask := by
  unfold Barrier.arrive
  dsimp only
  split <;> rfl

theorem Barrier.arrive_mod (b : Barrier) (c : Nat) : b.arrive (c % 8) = b.arrive c := by
  simp [Barrier.arrive, Barrier.lead_mod]

/-- The last arrival completes the phase, and every member's lead drops by one. -/
theorem Barrier.arrive_last (hlead : b.lead c ≠ 3) (h : ∀ i, i < 8 → b.mask.getLsbD i = true → i ≠ c % 8 → b.lead i ≠ 0) :
    (b.arrive c).c = b.c + 1 ∧
      ∀ i, i < 8 → b.mask.getLsbD i = true → (b.arrive c).lead i = if i = c % 8 then b.lead i else b.lead i - 1 := by
  have hall : b.complete (b.raised c) = true := Barrier.complete_iff.mpr fun i hi hm => by
    rw [Barrier.raised_get hi]
    split
    · next hc =>
      rw [hc, Barrier.lead_mod]
      revert hlead
      generalize b.lead c = v
      revert v
      decide
    · next hc => exact h i hi hm hc
  have harrive : b.arrive c = { b with
      c := b.c + 1, leads := Vector.ofFn (fun (i : Fin 8) => if b.mask.getLsbD i then (b.raised c)[i] - 1 else (b.raised c)[i]) } := if_pos hall
  rw [harrive]
  refine ⟨rfl, fun i hi hm => ?_⟩
  rw [Barrier.lead_of_lt hi]
  simp only [Vector.getElem_ofFn, Fin.getElem_fin, hm, if_true, Barrier.raised_get hi]
  split
  · exact BitVec.add_sub_cancel _ _
  · rfl

/-- An arrival before another member's leaves the phase open. -/
theorem Barrier.arrive_early (h : ∃ i, i < 8 ∧ b.mask.getLsbD i = true ∧ i ≠ c % 8 ∧ b.lead i = 0) :
    (b.arrive c).c = b.c ∧ ∀ i, i < 8 → (b.arrive c).lead i = if i = c % 8 then b.lead i + 1 else b.lead i := by
  obtain ⟨j, hj, hm, hother, hzero⟩ := h
  have hopen : ¬ b.complete (b.raised c) = true := fun hall =>
    Barrier.complete_iff.mp hall j hj hm (by rw [Barrier.raised_get hj, if_neg hother, hzero])
  have harrive : b.arrive c = { b with leads := b.raised c } := if_neg hopen
  rw [harrive]
  exact ⟨rfl, fun i hi => by rw [Barrier.lead_of_lt hi, ← Barrier.raised_get hi]⟩

@[simp] theorem State.barrier_put (s : State) (q i : Nat) (b : Barrier) :
    (s.modSquad q (fun k => { k with bars := k.bars.put i b })).barrier q i = b := by
  rw [State.barrier, State.modSquad_squad_self, Tbl.getD_put_self]

end

/-! ## The instructions -/

section
variable {b : Barrier} {m : BitVec 8} (hs : s.atAnchor) (hx : readG sr s = .ok (x, u))

section
variable (hm : m = x.extractLsb' 8 8) (hb : b = u.barrier (u.me.core / 8) (fld x 2 0))
include hs hx

/-- HBAR up to its checks of the barrier. -/
theorem hbar_start {f : Word → State → Op Unit} {bad : Op Unit} :
    (illegalFirst (needUnit 3) bad >>= fun _ => readG sr >>= fun y => getS >>= f y) s = f x u u := by
  rw [op_bind_ok (illegalFirst_ok (needUnit_ok hs)), op_bind_ok hx, op_bind_ok (getS_apply u)]

include hm hb

/-- A mask without the core, or another one than a busy barrier's (R274). -/
theorem hbar_illegal (h : m.getLsbD (u.me.core % 8) = false ∨ ((∃ i, i < 8 ∧ b.lead i ≠ 0) ∧ b.mask ≠ m)) :
    exec (.hbar d sr) s = .next (s.takeTrap .illegal 0 (illegalInfo u 0x0E) false) := by
  subst hm hb
  refine issueOp_trap ((hbar_start hs hx).trans (op_bind_error (illegalIf_trap ?_)))
  rw [Bool.or_eq_true, Bool.or_eq_true, Bool.and_eq_true, Bool.not_eq_true', Bool.not_eq_true', bne_iff_ne]
  rcases h with h | ⟨⟨i, hi, hlead⟩, hmask⟩
  · exact .inl (.inr h)
  · exact .inr ⟨Bool.eq_false_iff.mpr fun hidle => hlead (Barrier.idle_iff.mp hidle i hi), hmask⟩

variable (hhigh : fld x 63 16 = 0) (hlow : fld x 7 3 = 0) (hmember : m.getLsbD (u.me.core % 8) = true)
  (hmask : (∀ i, i < 8 → b.lead i = 0) ∨ b.mask = m)
include hhigh hlow hmember hmask

omit hs hx hm hb in
theorem hbar_legal : (fld x 63 16 != 0 || fld x 7 3 != 0 || !m.getLsbD (u.me.core % 8) || (!b.idle && b.mask != m)) = false := by
  rw [hhigh, hlow, hmember]
  rcases hmask with h | h
  · rw [Barrier.idle_iff.mpr h]
    rfl
  · simp [h]

theorem hbar_parks (hlead : b.lead u.me.core = 3) : exec (.hbar d sr) s = .next (s.modMe Ctx.bubble) := by
  have hok := hbar_legal hhigh hlow hmember hmask
  subst hm hb
  refine issueOp_park ((hbar_start hs hx).trans ?_)
  rw [op_bind_ok (illegalIf_ok hok)]
  exact op_bind_error (parkUntil_park (by rw [Barrier.lead_mod, hlead]; rfl))

/-- HBAR writes the phase at which it arrives, and arrives. -/
theorem hbar_completes (hlead : b.lead u.me.core ≠ 3)
    (hw : writeG d (BitVec.setWidth 64 (b.c + (b.lead u.me.core).setWidth 16)) u = .ok ((), t)) :
    completes (.hbar d sr) s (t.modSquad (u.me.core / 8) (fun k => { k with
      bars := k.bars.put (fld x 2 0) (({ b with mask := m } : Barrier).arrive u.me.core) })) := by
  have hok := hbar_legal hhigh hlow hmember hmask
  have htaken := Barrier.taken_eq hmask
  unfold Barrier.taken at htaken
  subst hm hb
  refine issueOp_ok ((hbar_start hs hx).trans ?_)
  rw [op_bind_ok (illegalIf_ok hok), op_bind_ok (parkUntil_ok (by rw [Barrier.lead_mod]; simpa using hlead)), htaken, Barrier.lead_mod,
    Barrier.arrive_mod]
  exact op_bind_ok hw
end

section
include hs hx
variable (hhigh : fld x 63 32 = 0) (hlow : fld x 15 3 = 0) (hb : b = u.barrier (u.me.core / 8) (fld x 2 0))
include hhigh hlow hb

theorem hwait_completes (h : (b.c - 1 - x.extractLsb' 16 16).toNat < 2 ^ 15) : completes (.hwait sr) s u := by
  subst hb
  refine issueOp_ok ((op_checkedRead hs hx (by simp [hhigh, hlow])).trans ?_)
  rw [op_bind_ok (getS_apply u)]
  exact parkUntil_ok (decide_eq_true h)

theorem hwait_parks (h : 2 ^ 15 ≤ (b.c - 1 - x.extractLsb' 16 16).toNat) : exec (.hwait sr) s = .next (s.modMe Ctx.bubble) := by
  subst hb
  refine issueOp_park ((op_checkedRead hs hx (by simp [hhigh, hlow])).trans ?_)
  rw [op_bind_ok (getS_apply u)]
  exact parkUntil_park (decide_eq_false (Nat.not_lt.mpr h))
end

/-! ## The word of HSTAT (R275) -/

/-- The word that HSTAT writes. -/
def Barrier.stat (b : Barrier) : Nat := packFields ([(16, b.c.toNat), (8, b.mask.toNat)] ++ b.leads.toList.map (fun l => (2, l.toNat)))

theorem hstat_writes (hs : s.atAnchor) (hx : readG sr s = .ok (x, u)) (hhigh : fld x 63 3 = 0) (hb : b = u.barrier (u.me.core / 8) (fld x 2 0)) :
    writesG (.hstat d sr) s u d (BitVec.ofNat 64 b.stat) := by
  subst hb
  intro t ht
  refine issueOp_ok ((op_checkedRead hs hx (by simp [hhigh])).trans ?_)
  rw [op_bind_ok (getS_apply u)]
  exact ht
end

/-- A field of a word that is given as a number. -/
theorem extractLsb'_ofNat {o n N : Nat} (h : o + n ≤ 64) : (BitVec.ofNat 64 N).extractLsb' o n = BitVec.ofNat n (N / 2 ^ o) := by
  ext i hi
  rw [BitVec.getElem_extractLsb', BitVec.getLsbD_ofNat, ← BitVec.getLsbD_eq_getElem, BitVec.getLsbD_ofNat, Nat.testBit_div_two_pow, Nat.add_comm i o]
  simp [hi, show o + i < 64 by omega]

theorem packFields_div (w v : Nat) (r : List (Nat × Nat)) : packFields ((w, v) :: r) / 2 ^ w = packFields r := by
  rw [packFields, Nat.add_mul_div_left _ _ (Nat.two_pow_pos w), Nat.div_eq_of_lt (Nat.mod_lt _ (Nat.two_pow_pos w)), Nat.zero_add]

theorem ofNat_packFields (w v : Nat) (r : List (Nat × Nat)) : BitVec.ofNat w (packFields ((w, v) :: r)) = BitVec.ofNat w v := by
  apply BitVec.eq_of_toNat_eq
  rw [BitVec.toNat_ofNat, BitVec.toNat_ofNat, packFields, Nat.add_mul_mod_self_left, Nat.mod_mod]

/-- Past `i` fields of the same width the rest of the list stands. -/
theorem packFields_drop {w : Nat} (l : List (BitVec w)) (i : Nat) :
    packFields (l.map (fun x => (w, x.toNat))) / 2 ^ (w * i) = packFields ((l.drop i).map (fun x => (w, x.toNat))) := by
  induction i generalizing l with
  | zero => simp
  | succ i ih =>
    cases l with
    | nil => simp [packFields]
    | cons x r => rw [Nat.mul_succ, Nat.add_comm, pow_add, ← Nat.div_div_eq_div_mul, List.map_cons, packFields_div, ih, List.drop_succ_cons]

section
variable (b : Barrier)

theorem Barrier.stat_leads (i : Nat) : b.stat / 2 ^ (24 + 2 * i) = packFields ((b.leads.toList.drop i).map (fun l => (2, l.toNat))) := by
  have h24 : (2 : Nat) ^ 24 = 2 ^ 16 * 2 ^ 8 := rfl
  rw [pow_add, ← Nat.div_div_eq_div_mul, h24, ← Nat.div_div_eq_div_mul, Barrier.stat, List.cons_append, packFields_div, List.cons_append,
    packFields_div, List.nil_append, packFields_drop]

/-- Every field of the word reads back. -/
theorem Barrier.stat_fields : (BitVec.ofNat 64 b.stat).extractLsb' 0 16 = b.c ∧ (BitVec.ofNat 64 b.stat).extractLsb' 16 8 = b.mask ∧
    (∀ i, i < 8 → (BitVec.ofNat 64 b.stat).extractLsb' (24 + 2 * i) 2 = b.lead i) ∧ (BitVec.ofNat 64 b.stat).extractLsb' 40 24 = 0 := by
  refine ⟨?_, ?_, fun i hi => ?_, ?_⟩
  · rw [extractLsb'_ofNat (by decide), Nat.pow_zero, Nat.div_one, Barrier.stat, List.cons_append, ofNat_packFields, BitVec.ofNat_toNat,
      BitVec.setWidth_eq]
  · rw [extractLsb'_ofNat (by decide), Barrier.stat, List.cons_append, packFields_div, List.cons_append, ofNat_packFields, BitVec.ofNat_toNat,
      BitVec.setWidth_eq]
  · rw [extractLsb'_ofNat (by omega), Barrier.stat_leads, List.drop_eq_getElem_cons (by simpa using hi), List.map_cons, ofNat_packFields,
      BitVec.ofNat_toNat, BitVec.setWidth_eq, Barrier.lead_of_lt hi, Vector.getElem_toList]
  · rw [extractLsb'_ofNat (by decide), Barrier.stat_leads b 8, List.drop_eq_nil_of_le (by simp)]
    rfl
end

/-- Settles O29: the checks of each instruction, and of HBAR what its arrival makes of the barrier. -/
theorem huddleBarriers : Obligations.HuddleBarriers := by
  unfold Obligations.HuddleBarriers
  refine ⟨fun q b => rfl, fun s u t d sr x b m hs hx hhigh hlow hm hb => ⟨hbar_illegal hs hx hm hb, fun hmember hmask => ⟨?parks, ?arrives⟩⟩,
    fun s u sr x b hs hx hhigh hlow hb => ⟨hwait_completes hs hx hhigh hlow hb, hwait_parks hs hx hhigh hlow hb⟩,
    fun s u d sr x b hs hx hhigh hb => ⟨_, hstat_writes hs hx hhigh hb, b.stat_fields⟩⟩
  case parks => exact hbar_parks hs hx hm hb hhigh hlow hmember hmask
  case arrives =>
    intro hlead hw
    exact ⟨_, ({ b with mask := m } : Barrier).arrive u.me.core, hbar_completes hs hx hm hb hhigh hlow hmember hmask hlead hw,
      State.barrier_put .., Barrier.arrive_mask _ _, rfl, rfl, Barrier.arrive_last (b := { b with mask := m }) hlead,
      Barrier.arrive_early (b := { b with mask := m })⟩

end Sys2Proof.Machine
end

section
/-!
PROOFS. SEND, QBIND and QSTAT (O26): what a message and a fill leave of the state, the cases of a descriptor, and the counts that QSTAT reads
(R270-R273).
-/

namespace Sys2Proof.Machine

variable {s s1 u : State} {d sr t : Reg} {x v sel : Word} {ws : List Word}

/-! ## SEND (R272) -/

theorem reads_readRun (x : Reg) (n : Nat) : Reads (readRun x n) := by
  induction n generalizing x with
  | zero => exact .pure
  | succ n ih => exact .bind (reads_readG x) fun _ => .bind (ih _) fun _ => .pure

theorem portInfo_stream (k : Fin 4) (cause : Nat) : portInfo false k cause = BitVec.ofNat 64 (k.val * 16 + cause) := by
  rw [portInfo, Bool.toNat_false, Nat.zero_mul, Nat.zero_add]

theorem sendPort_tooLong {k : Fin 4} (hb : s.me.streams[k].out.bound = true) (hlen : s.me.streams[k].out.wlim < ws.length) :
    sendPort k ws s = .error (.trap .port 0 (portInfo false k 4)) := by
  simp only [sendPort, hb, gt_iff_lt, if_pos hlen]
  rfl

section
variable (hport : isPort d = true) (hs : s.atAnchor) (hread : readRun sr t.toNat s = .ok (ws, u))
include hport hs hread

/-- SEND of a message ends as the write of its words to the stream does. -/
theorem exec_send_message : ∃ m : Op Unit, exec (.send d sr t) s = issueOp m s ∧ m s = sendPort (portOf d) ws u := by
  refine ⟨_, rfl, ?_⟩
  rw [op_bind_ok (gate_ok (.inr hs)), if_pos hport, op_bind_ok hread]

theorem send_traps {info : Word} (h : sendPort (portOf d) ws u = .error (.trap .port 0 info)) :
    exec (.send d sr t) s = .next (s.takeTrap .port 0 info false) := by
  obtain ⟨m, hm, hrun⟩ := exec_send_message hport hs hread
  exact hm.trans (issueOp_trap (hrun.trans h))

theorem send_parks (h : sendPort (portOf d) ws u = .error .park) : exec (.send d sr t) s = .next (s.modMe Ctx.bubble) := by
  obtain ⟨m, hm, hrun⟩ := exec_send_message hport hs hread
  exact hm.trans (issueOp_park (hrun.trans h))

theorem send_completes {w : State} (h : sendPort (portOf d) ws u = .ok ((), w)) : completes (.send d sr t) s w := by
  obtain ⟨m, hm, hrun⟩ := exec_send_message hport hs hread
  exact hm.trans (issueOp_ok (hrun.trans h))
end

/-- A fill sent to the register `x` of the slot that a selector names. -/
def State.fillMsg (u : State) (sel : Word) (x : Reg) (v : Word) : FillMsg :=
  { core := fld sel 15 0, slot := fld sel 19 16, x := x, val := v, sender := u.me.cid, fromCore := u.me.core, fromSlot := u.me.slot,
    tenid := u.me.tenid, addr := sel, pc := u.me.pc }

section
variable (hport : isPort d = false) (hn : s.namesOk [sr]) (hv : readG sr s = .ok (v, s1)) (hsel : readG d s1 = .ok (sel, u))
  (hhigh : fld sel 63 20 = 0) (hslot : fld sel 19 16 ≠ 15)
include hport hn hv hsel hhigh hslot

/-- SEND of a fill up to the test of its core. -/
theorem op_sendFill {f : Word → Word → State → Op Unit} {m : Op Unit} :
    (gate [d, sr] >>= fun _ => if isPort d = true then m else readG sr >>= fun y => readG d >>= fun z =>
      illegalIf (fld z 63 20 != 0 || fld z 19 16 == 15) >>= fun _ => getS >>= f y z) s = f v sel u u := by
  have hnames : s.namesOk [d, sr] := hn.imp (fun h => by simpa [hport] using h) id
  rw [op_bind_ok (gate_ok hnames), if_neg (by simp [hport]), op_bind_ok hv, op_bind_ok hsel,
    op_bind_ok (illegalIf_ok (by simp [hhigh, hslot])), op_bind_ok (getS_apply u)]

theorem sendFill_traps (hcore : u.part.hasCore (fld sel 15 0) = false) : exec (.send d sr t) s = .next (s.takeTrap .notPresent 0 5 false) := by
  refine issueOp_trap ((op_sendFill hport hn hv hsel hhigh hslot).trans (op_bind_error ?_))
  rw [hcore]
  rfl

theorem sendFill_completes (hcore : u.part.hasCore (fld sel 15 0) = true) (hst : u.me.st < 63) :
    completes (.send d sr t) s { (u.modMe (fun c => { c with st := c.st + 1 })) with fills := u.fills ++ [u.fillMsg sel t v] } := by
  refine issueOp_ok ((op_sendFill hport hn hv hsel hhigh hslot).trans ?_)
  rw [hcore]
  exact (op_bind_ok (trapIf_false _ _ _ u)).trans (op_bind_ok (roomSt_ok hst))
end

/-! ## QBIND (R271) -/

/-- The context whose QBIND of `bq` has this descriptor (R271). -/
def Ctx.bindBq (c : Ctx) (x : Word) : Ctx :=
  if fld x 3 0 = 0 then { c with bq := { c.bq with bound := false, slot := 0 } }
  else if fld x 3 0 = 1 then { c with bq := { c.bq with bound := true, slot := fld x 31 28 } }
  else c

theorem Ctx.bindBq_of_in {c : Ctx} {x : Word} (h : fld x 3 0 = 2) : c.bindBq x = c := by
  rw [Ctx.bindBq, if_neg (by rw [h]; decide), if_neg (by rw [h]; decide)]

/-- A value that a check finds ILLEGAL, in an instruction of the anchor (R351). -/
theorem op_checkedRead_illegal {b : Word → Bool} {f : Word → Op Unit} (hs : s.atAnchor) (hx : readG sr s = .ok (x, u)) (hb : b x = true) :
    (illegalFirst (needUnit 3) ((do let v ← readG sr; illegalIf (b v); pure v : Op Word) *> pure ()) >>= fun _ =>
      (do let v ← readG sr; illegalIf (b v); pure v : Op Word) >>= f) s = .error (.trap .illegal 0 (illegalInfo u 0x0E)) := by
  rw [op_bind_ok (illegalFirst_ok (needUnit_ok hs))]
  exact op_bind_error ((op_bind_ok hx).trans (op_bind_error (illegalIf_trap hb)))

section
variable (hs : s.atAnchor) (hx : readG sr s = .ok (x, u))
include hs hx

theorem qbind_illegal (h : badBind (d == 60) s.me.core x = true) :
    exec (.qbind d sr) s = .next (s.takeTrap .illegal 0 (illegalInfo u 0x0E) false) :=
  issueOp_trap (op_checkedRead_illegal (b := fun y => badBind (d == 60) s.me.core y) hs hx h)

variable (hok : badBind (d == 60) s.me.core x = false)
include hok

/-- QBIND of `bq` up to the test of the slot that it names. -/
theorem op_qbindBq (hd : d = 60) {f : Word → Op Unit} {k : Word → Op Unit} {p : Word → State → Bool} :
    (illegalFirst (needUnit 3) ((do let v ← readG sr; illegalIf (badBind (d == 60) s.me.core v); pure v : Op Word) *> pure ()) >>= fun _ =>
      (do let v ← readG sr; illegalIf (badBind (d == 60) s.me.core v); pure v : Op Word) >>= fun y =>
        if (d == 60) = true then getS >>= fun r => trapIf (p y r) .port 0 (portInfo true 0 2) >>= fun _ => f y else k y) s =
      (trapIf (p x u) .port 0 (portInfo true 0 2) >>= fun _ => f x) u := by
  rw [op_checkedRead (b := fun y => badBind (d == 60) s.me.core y) hs hx hok, if_pos (by simpa using hd), op_bind_ok (getS_apply u)]

theorem qbindBq_completes (hd : d = 60) (hslot : fld x 3 0 = 1 → (u.at? u.me.core (fld x 31 28)).any (fun c => c.tenid == u.me.tenid) = true) :
    completes (.qbind d sr) s (u.modMe (fun c => c.bindBq x)) := by
  refine issueOp_ok ((op_qbindBq hs hx hok hd).trans ?_)
  rw [op_bind_ok (by rw [Bool.and_eq_false_imp.mpr fun h => by rw [hslot (by simpa using h)]; rfl]; exact trapIf_false _ _ _ u)]
  refine congrArg (fun r => Except.ok ((), r)) ?_
  unfold Ctx.bindBq
  dsimp only
  split
  · rfl
  · split <;> rfl

theorem qbindBq_traps (hd : d = 60) (hkind : fld x 3 0 = 1)
    (hslot : (u.at? u.me.core (fld x 31 28)).any (fun c => c.tenid == u.me.tenid) = false) :
    exec (.qbind d sr) s = .next (s.takeTrap .port 0 0x82 false) := by
  refine issueOp_trap ((op_qbindBq hs hx hok hd).trans (op_bind_error ?_))
  rw [hkind, hslot]
  rfl

section
variable (hd : d ≠ 60)
include hd

/-- QBIND of a stream, by the kind of its descriptor. -/
theorem op_qbindStream {f k : Word → Op Unit} :
    (illegalFirst (needUnit 3) ((do let v ← readG sr; illegalIf (badBind (d == 60) s.me.core v); pure v : Op Word) *> pure ()) >>= fun _ =>
      (do let v ← readG sr; illegalIf (badBind (d == 60) s.me.core v); pure v : Op Word) >>= fun y =>
        if (d == 60) = true then f y else k y) s = k x u := by
  rw [op_checkedRead (b := fun y => badBind (d == 60) s.me.core y) hs hx hok, if_neg (by simpa using hd)]

theorem qbind_unbinds (hkind : fld x 3 0 = 0) : completes (.qbind d sr) s (u.unbind (portOf d)) :=
  issueOp_ok ((op_qbindStream hs hx hok hd).trans (congrFun (if_pos hkind) u))

theorem qbind_bindsIn (hkind : fld x 3 0 = 2) :
    completes (.qbind d sr) s (u.modMe (fun c => c.bindIn (portOf d) (fld x 23 20) (fld x 19 16))) := by
  refine issueOp_ok ((op_qbindStream hs hx hok hd).trans ((congrFun (if_neg ?_) u).trans (congrFun (if_pos hkind) u)))
  rw [hkind]
  decide
end

/-- The bind request of a descriptor of an outbound half. -/
def State.bindMsg (u : State) (k : Fin 4) (x : Word) (seq : Nat) (pops : List Reg) : BindMsg :=
  { cid := u.me.cid, k := k, core := fld x 47 32, slot := fld x 31 28, pstrm := fld x 25 24, tenid := u.me.tenid, pc := u.me.pc, npc := u.me.npc,
    seq := seq, pops := pops, reply := none }

theorem qbind_asks (hd : d ≠ 60) (hkind : fld x 3 0 = 1) : exec (.qbind d sr) s =
    .next { (s.modMe (fun c => ({ c with wait := .bind s.nextReq } : Ctx).bubble)) with
      binds := s.binds ++ [u.bindMsg (portOf d) x s.nextReq (popsOf [sr])], nextReq := s.nextReq + 1 } := by
  refine issueOp_go ((op_qbindStream hs hx hok hd).trans ?_)
  dsimp only
  rw [hkind, if_neg (by decide), if_neg (by decide), op_bind_ok (getS_apply u)]
  rfl
end

/-! ## QSTAT (R273) -/

theorem qstat_writes (hs : s.atAnchor) :
    writesG (.qstat d sr) s s d (if sr = 60 then s.me.bq.stat else s.me.streams[portOf sr].stat) := by
  intro w hw
  refine issueOp_ok ?_
  rw [op_bind_ok (needUnit_ok hs), op_bind_ok (getS_apply s), hw]

theorem StreamSt.stat_eq {r : StreamSt} (hwords : wordsIn r.inn.msgs < 2 ^ 13) (hmsgs : r.inn.msgs.length < 32) (hallow : r.out.allow < 16) :
    r.stat = BitVec.ofNat 64 (wordsIn r.inn.msgs + 2 ^ 13 * r.inn.msgs.length + 2 ^ 18 * r.inn.bound.toNat + 2 ^ 19 * r.out.bound.toNat +
      2 ^ 20 * (if r.out.bound then r.out.allow else 0)) := by
  have hin := r.inn.bound.toNat_lt
  have hout := r.out.bound.toNat_lt
  have hunits : (if r.out.bound then r.out.allow else 0) < 16 := by split <;> omega
  refine congrArg (BitVec.ofNat 64) ?_
  simp only [packFields]
  omega

theorem BqSt.stat_eq {b : BqSt} (h : b.q.length < 32) : b.stat = BitVec.ofNat 64 (2 ^ 13 * b.q.length + 2 ^ 19 * b.bound.toNat) := by
  have hbound := b.bound.toNat_lt
  refine congrArg (BitVec.ofNat 64) ?_
  simp only [packFields]
  omega

/-- Settles O26: one rule for each way in which a SEND or a QBIND ends, and the two words that QSTAT writes. -/
theorem streamInstructions : Obligations.StreamInstructions := by
  unfold Obligations.StreamInstructions
  refine ⟨?message, ?fill, ?bind, ?stat⟩
  case message =>
    intro s u d sr t ws _ hport hs hread o
    have hu : OnlyRead s u := reads_readRun _ _ hread
    refine ⟨fun hb => ?_, fun hb hlen => ?_, fun hb hlen h0 => ?_, fun hb hlen h0 => ?_⟩
    · rw [← portInfo_stream]
      exact send_traps hport hs hread (sendPort_unbound hb)
    · rw [← portInfo_stream]
      exact send_traps hport hs hread (sendPort_tooLong hb hlen)
    · exact send_parks hport hs hread (sendPort_noAllowance hb hlen h0)
    · refine ⟨_, _, send_completes hport hs hread (sendPort_ok hb hlen h0), rfl, rfl, rfl, rfl, rfl, hu.core, hu.slot, hu.cid, ?_, rfl, hu.mem⟩
      simp
      rfl
  case fill =>
    intro s s1 u d sr t v sel _ hport hn hv hsel hhigh hslot
    have hu : OnlyRead s u := (reads_readG sr hv).trans (reads_readG d hsel)
    exact ⟨sendFill_traps hport hn hv hsel hhigh hslot, fun hcore hst =>
      ⟨_, _, sendFill_completes hport hn hv hsel hhigh hslot hcore hst, rfl, rfl, rfl, rfl, rfl, rfl, rfl, rfl, hu.mem⟩⟩
  case bind =>
    intro s u d sr x _ hs hx
    have hu : OnlyRead s u := reads_readG sr hx
    refine ⟨qbind_illegal hs hx, fun hok hd hkind => ?_, fun hok => ⟨fun hd hkind => ?_, fun hd hkind c hc htenant => ?_, fun hd hkind hnone => ?_,
      fun hd hkind => ?_, fun hd hkind => ?_, fun hd hkind => ?_⟩⟩
    · have h := qbindBq_completes hs hx hok hd (by rw [hkind]; nofun)
      simp only [Ctx.bindBq_of_in hkind] at h
      exact h
    · refine ⟨_, qbindBq_completes hs hx hok hd (by rw [hkind]; nofun), ?_⟩
      rw [State.modMe_me, Ctx.bindBq, if_pos hkind]
      exact ⟨rfl, rfl⟩
    · refine ⟨_, qbindBq_completes hs hx hok hd (fun _ => by simp [hc, htenant]), ?_⟩
      rw [State.modMe_me, Ctx.bindBq, hkind]
      exact ⟨rfl, rfl⟩
    · refine qbindBq_traps hs hx hok hd hkind ?_
      cases hc : u.at? u.me.core (fld x 31 28) with
      | none => rfl
      | some c => exact beq_false_of_ne (hnone c hc)
    · refine ⟨_, qbind_unbinds hs hx hok hd hkind, ?_, rfl⟩
      simp [State.unbind]
    · refine ⟨_, qbind_bindsIn hs hx hok hd hkind, ?_⟩
      simp [Ctx.bindIn]
    · exact ⟨_, _, qbind_asks hs hx hok hd hkind, rfl, rfl, rfl, rfl, rfl, rfl, rfl, rfl, rfl, rfl, rfl⟩
  case stat =>
    intro s d sr _ hs
    refine ⟨fun r hsr hr hwords hmsgs hallow => ?_, fun hsr hlen => ?_⟩
    · subst hr
      have h := qstat_writes (d := d) (sr := sr) hs
      rwa [if_neg hsr, StreamSt.stat_eq hwords hmsgs hallow] at h
    · have h := qstat_writes (d := d) (sr := sr) hs
      rwa [if_pos hsr, BqSt.stat_eq hlen] at h

end Sys2Proof.Machine
end

section
/-!
PROOFS. The arrival of stream messages, register fills and allowance units (O27): what each makes of the context of its slot, and where none of
the tenant stands (R263, R270-R272).
-/

namespace Sys2Proof.Machine

variable {s : State} {core slot k : Nat} {c d : Ctx} {kk : Fin 4}

/-! ## The oldest entry of a list, and the context of a place -/

/-- The oldest entry that `p` holds of is in the list. -/
theorem takeFirst_some {α : Type} {p : α → Bool} {l rest : List α} {x : α} (h : takeFirst p l = some (x, rest)) : p x = true ∧ x ∈ l := by
  induction l generalizing x rest with
  | nil => cases h
  | cons y r ih =>
    unfold takeFirst at h
    split at h
    · next hy =>
      cases h
      exact ⟨hy, List.mem_cons_self⟩
    · obtain ⟨⟨z, l'⟩, hz, heq⟩ := Option.map_eq_some_iff.mp h
      cases heq
      obtain ⟨hp, hmem⟩ := ih hz
      exact ⟨hp, List.mem_cons_of_mem _ hmem⟩

theorem State.live_of_at? (h : s.at? core slot = some c) : c.live = true := by
  unfold State.at? at h
  split at h
  · next hme =>
    cases h
    simp only [Bool.and_eq_true] at hme
    exact hme.1.1
  · split at h
    · split at h
      · next hlive => cases h; exact hlive
      · cases h
    · cases h

/-- A live context placed in its slot stands there. -/
theorem State.at?_place_at (hlive : d.live = true) (hcore : d.core = core) (hslot : d.slot = slot) : (s.place d).at? core slot = some d := by
  rw [← hcore, ← hslot]
  exact State.at?_place hlive

/-- The context that a slot holds, where it is of the tenant. -/
theorem filter_tenant_some {o : Option Ctx} {p : Ctx → Bool} (h : o = some c) (hp : p c = true) : o.filter p = some c := by
  rw [h, Option.filter_some, if_pos hp]

/-- A slot without a context of the tenant. -/
theorem filter_tenant_none {o : Option Ctx} {p : Ctx → Bool} (h : ∀ c, o = some c → p c = false) : o.filter p = none := by
  cases o with
  | none => rfl
  | some c => rw [Option.filter_some, h c rfl, if_neg Bool.false_ne_true]

/-! ## Stream messages (R270, R272) -/

section
variable {m : StreamMsg} {rest : List StreamMsg}

/-- The context with one more message on its inbound stream. -/
def Ctx.receive (c : Ctx) (kk : Fin 4) (m : Msg) : Ctx :=
  { c with streams := c.streams.set kk { c.streams[kk] with inn := { c.streams[kk].inn with msgs := c.streams[kk].inn.msgs ++ [m] } } }

theorem State.streamIn_of_tenant (hc : s.at? m.core m.slot = some c) (htenant : c.tenid = m.tenid) (hkk : kk.val = m.k % 4) :
    s.streamIn m = some (if c.streams[kk].inn.bound then s.place (c.receive kk m.msg) else s.discard [m.msg]) := by
  obtain rfl : kk = ⟨m.k % 4, Nat.mod_lt _ (by decide)⟩ := Fin.ext hkk
  unfold State.streamIn
  rw [filter_tenant_some hc (by simp [htenant])]
  rfl

theorem State.streamIn_of_none (h : ∀ c, s.at? m.core m.slot = some c → c.tenid ≠ m.tenid) : s.streamIn m = none := by
  unfold State.streamIn
  rw [filter_tenant_none fun c hc => beq_false_of_ne (h c hc)]
  rfl

variable (htake : takeFirst (fun (q : StreamMsg) => q.core == core && q.slot == slot && q.k == k) s.streamQ = some (m, rest))
  (hdiv : (s.core core).diverted = false)
include htake hdiv

theorem exec_streamMessageArrival_in {u : State} (h : State.streamIn { s with streamQ := rest } m = some u) :
    exec (.streamMessageArrival core slot k) s = .next u := by
  refine congrArg Host.Outcome.next ?_
  rw [htake]
  dsimp only
  rw [hdiv, if_neg Bool.false_ne_true, h]

theorem exec_streamMessageArrival_lost (h : State.streamIn { s with streamQ := rest } m = none) (hsaved : s.savedAt core slot m.tenid = none) :
    exec (.streamMessageArrival core slot k) s = .next (State.streamLost { s with streamQ := rest } m) := by
  refine congrArg Host.Outcome.next ?_
  rw [htake]
  dsimp only
  rw [hdiv, if_neg Bool.false_ne_true, h, hsaved]

omit hdiv in
/-- The message goes to the stream of the move. -/
theorem streamMsg_place : m.core = core ∧ m.slot = slot ∧ m.k = k := by
  have h := (takeFirst_some htake).1
  simpa [and_assoc] using h
end

/-! ## Register fills (R272) -/

section
variable {m : FillMsg} {rest : List FillMsg}

theorem State.fillReady_of_tenant (hc : s.at? m.core m.slot = some c) (htenant : c.tenid = m.tenid) :
    s.fillReady m = (c.cid != 0 && c.takesFill m.x) := by
  unfold State.fillReady
  rw [filter_tenant_some hc (by simp [htenant])]

theorem State.fillIn_of_tenant (hc : s.at? m.core m.slot = some c) (htenant : c.tenid = m.tenid) :
    s.fillIn m = some ((s.place (c.setG m.x m.val)).fillDone m) := by
  unfold State.fillIn
  rw [filter_tenant_some hc (by simp [htenant])]
  rfl

theorem State.fillIn_of_none (h : ∀ c, s.at? m.core m.slot = some c → c.tenid ≠ m.tenid) : s.fillIn m = none := by
  unfold State.fillIn
  rw [filter_tenant_none fun c hc => beq_false_of_ne (h c hc)]
  rfl

variable (hdiv : (s.core core).diverted = false)
include hdiv

/-- Where the core's messages are not diverted, the fills that can be made are those that are ready. -/
theorem takes_iff_ready : (fun (q : FillMsg) => q.core == core && q.slot == slot && ((s.core core).diverted || s.fillReady q)) =
    (fun (q : FillMsg) => q.core == core && q.slot == slot && s.fillReady q) := by
  rw [hdiv]
  rfl

theorem exec_registerFill_none (h : takeFirst (fun (q : FillMsg) => q.core == core && q.slot == slot && s.fillReady q) s.fills = none) :
    exec (.registerFill core slot) s = .next s := by
  refine congrArg Host.Outcome.next ?_
  rw [takes_iff_ready hdiv, h]

variable (htake : takeFirst (fun (q : FillMsg) => q.core == core && q.slot == slot && s.fillReady q) s.fills = some (m, rest))
include htake

omit hdiv in
/-- The fill goes to the slot of the move, and can be made. -/
theorem fillMsg_place : m.core = core ∧ m.slot = slot ∧ s.fillReady m = true := by
  have h := (takeFirst_some htake).1
  simpa [and_assoc] using h

theorem exec_registerFill_in (hc : s.at? core slot = some c) (htenant : c.tenid = m.tenid) :
    exec (.registerFill core slot) s =
      .next ((State.place { s with fills := rest } (c.setG m.x m.val)).onCtx m.sender (fun k => { k with st := k.st - 1 })) := by
  obtain ⟨rfl, rfl, -⟩ := fillMsg_place htake
  have hin : State.fillIn { s with fills := rest } m = some ((State.place { s with fills := rest } (c.setG m.x m.val)).fillDone m) :=
    State.fillIn_of_tenant hc htenant
  refine congrArg Host.Outcome.next ?_
  rw [takes_iff_ready hdiv, htake]
  dsimp only
  rw [hdiv, if_neg Bool.false_ne_true, hin]
  rfl

theorem exec_registerFill_lost (h : ∀ c, s.at? core slot = some c → c.tenid ≠ m.tenid) (hsaved : s.savedAt core slot m.tenid = none) :
    exec (.registerFill core slot) s = .next (State.fillLost { s with fills := rest } m) := by
  obtain ⟨rfl, rfl, -⟩ := fillMsg_place htake
  have hin : State.fillIn { s with fills := rest } m = none := State.fillIn_of_none h
  refine congrArg Host.Outcome.next ?_
  rw [takes_iff_ready hdiv, htake]
  dsimp only
  rw [hdiv, if_neg Bool.false_ne_true, hin, hsaved]
end

/-! ## Allowance units (R270) -/

theorem Ctx.addAllow_keeps (c : Ctx) (k : Fin 4) : c.addAllow k = { c with streams := (c.addAllow k).streams } := by
  unfold Ctx.addAllow
  dsimp only
  split <;> rfl

theorem Ctx.addAllow_stream (c : Ctx) (k : Fin 4) : (c.addAllow k).streams[k] = { c.streams[k] with out := { c.streams[k].out with
    allow := if c.streams[k].out.bound then Nat.min 15 (c.streams[k].out.allow + 1) else c.streams[k].out.allow } } := by
  unfold Ctx.addAllow
  dsimp only
  split
  · simp
  · rfl

theorem exec_allowanceReturn {x : Nat × Nat × Nat} {rest : List (Nat × Nat × Nat)} (hc : s.at? core slot = some c)
    (htake : takeFirst (fun (p : Nat × Nat × Nat) => p == (core, slot, k)) s.allowances = some (x, rest)) (hkk : kk.val = k % 4) :
    exec (.allowanceReturn core slot k) s = .next (State.place { s with allowances := rest } (c.addAllow kk)) := by
  obtain rfl : kk = ⟨k % 4, Nat.mod_lt _ (by decide)⟩ := Fin.ext hkk
  refine congrArg Host.Outcome.next ?_
  rw [htake]
  dsimp only
  rw [hc]

/-- Settles O27: the context of the slot takes what arrives, or the sender traps. -/
theorem streamFillAndAllowanceArrivals : Obligations.StreamFillAndAllowanceArrivals := by
  unfold Obligations.StreamFillAndAllowanceArrivals
  refine ⟨?message, ?fill, ?unit⟩
  case message =>
    intro s core slot k m rest kk htake hkk hdiv
    obtain ⟨rfl, rfl, rfl⟩ := streamMsg_place htake
    refine ⟨fun c hc hcore hslot htenant => ?_, fun hnone hsaved => ?_⟩
    · have hlive := State.live_of_at? hc
      have hin := State.streamIn_of_tenant (s := { s with streamQ := rest }) hc htenant hkk
      refine ⟨fun hbound => ?_, fun hbound => ?_⟩
      · rw [if_pos hbound] at hin
        obtain ⟨me, l, hplace⟩ := State.place_eq { s with streamQ := rest } (c.receive kk m.msg)
        refine ⟨_, c.receive kk m.msg, exec_streamMessageArrival_in htake hdiv hin, State.at?_place_at hlive hcore hslot, ?_, ?_,
          fun j hj => ?_, rfl, rfl, ?_, ?_⟩
        · simp [Ctx.receive]
        · simp [Ctx.receive]
        · exact Vector.getElem_set_ne kk.isLt j.isLt fun e => hj (Fin.ext e.symm)
        · rw [hplace]
        · rw [hplace]
      · rw [hbound, if_neg Bool.false_ne_true] at hin
        exact exec_streamMessageArrival_in htake hdiv hin
    · exact exec_streamMessageArrival_lost htake hdiv (State.streamIn_of_none hnone) hsaved
  case fill =>
    intro s core slot hdiv
    refine ⟨fun m rest htake => ⟨fun c hc htenant => ⟨exec_registerFill_in hdiv htake hc htenant, ?_⟩, exec_registerFill_lost hdiv htake⟩,
      exec_registerFill_none hdiv, fun q c hc htenant hcid => ?_⟩
    · obtain ⟨rfl, rfl, hready⟩ := fillMsg_place htake
      rw [State.fillReady_of_tenant hc htenant] at hready
      simpa [Ctx.takesFill] using (Bool.and_eq_true_iff.mp hready).2
    · rw [State.fillReady_of_tenant hc htenant, bne_iff_ne.mpr hcid]
      rfl
  case unit =>
    intro s core slot k x rest kk c hc hcore hslot htake hkk
    obtain ⟨me, l, hplace⟩ := State.place_eq { s with allowances := rest } (c.addAllow kk)
    have hkeeps := c.addAllow_keeps kk
    have hlive := State.live_of_at? hc
    refine ⟨_, c.addAllow kk, exec_allowanceReturn hc htake hkk, State.at?_place_at ?_ ?_ ?_, by rw [hplace], ?_, ?_, ?_, ?_, by rw [hplace]⟩
    · rw [hkeeps]
      exact hlive
    · rw [hkeeps]
      exact hcore
    · rw [hkeeps]
      exact hslot
    · rw [Ctx.addAllow_stream]
    · rw [Ctx.addAllow_stream]
    · rw [hkeeps]
    · rw [hkeeps]

end Sys2Proof.Machine
end


section
/-!
PROOFS. Bind requests and their replies (O28): the clause on a refused reply says less of the number of the stream than the state may hold (R271).
-/

namespace Sys2Proof.Machine

/-- A refused reply for a stream whose number, 4, is past the four that a context has. -/
def refusedStreamFour : BindMsg :=
  { cid := 1, k := 4, core := 0, slot := 0, pstrm := 0, tenid := 0, pc := 0, npc := 0, seq := 0, pops := [], reply := some (0, 0, 1) }

/-- A context of number 1 that waits for the reply. -/
def waitsForRefusal : State :=
  { State.reset with me := { Ctx.fresh with live := true, cid := 1, wait := .bind 0 }, binds := [refusedStreamFour] }

/-- The state after the reply. -/
def afterRefusal : State :=
  (State.onCtx { waitsForRefusal with binds := [] } 1 (fun c => { c with wait := .none })).postTrap 1 (fun c =>
    { cls := .port, slot := c.slot, cid := 1, away := c.isAway, pc := 0, addr := 0, info := portInfo false 4 1, late := false, fetch := false,
      next := 0, cyc := waitsForRefusal.cyc })

theorem waitsForRefusal_trapQ : (waitsForRefusal.core waitsForRefusal.me.core).trapQ = [] := by decide +kernel

theorem exec_bindReply_refusal : exec (.bindReply 1) waitsForRefusal = .next afterRefusal := rfl

/-- The record gives the number of the stream as the request holds it. -/
theorem afterRefusal_trapQ : ((afterRefusal.core 0).trapQ).map TrapRec.info = [65] := by decide +kernel

/-- Refutes O28: the statement takes any number of a stream in a request and expects the PORT record of a refusal to give it modulo 4, while the
model's record gives the number itself. A request for stream 4 (which no QBIND sends) is refused with cause 1: the record says 65, not 1. -/
theorem not_bindRequestsAndReplies : ¬ Obligations.BindRequestsAndReplies := by
  unfold Obligations.BindRequestsAndReplies
  rintro ⟨-, hreply⟩
  obtain ⟨-, hrefused⟩ := hreply waitsForRefusal waitsForRefusal.me refusedStreamFour [] 0 0 0 (by decide +kernel) (by decide +kernel) (by decide)
    (by decide +kernel) rfl rfl
  obtain ⟨w, d, r, hexec, -, -, -, -, -, hr, -, -, -, -, hinfo, -⟩ := hrefused 0 rfl (by decide) (fun x hx => absurd hx (waitsForRefusal_trapQ ▸ List.not_mem_nil))
  obtain rfl := Host.Outcome.next.inj (exec_bindReply_refusal.symm.trans hexec)
  have hmem : r.info ∈ ((afterRefusal.core 0).trapQ).map TrapRec.info := List.mem_map_of_mem hr
  rw [afterRefusal_trapQ, hinfo] at hmem
  revert hmem
  decide

end Sys2Proof.Machine
end


section
/-!
PROOFS. The arrival of a thread (O38): a port bit that its instruction has read leaves a context in a save area, which is in memory (R28, R261,
R296), so that the arrival does not leave memory as it is in every state.
-/

namespace Sys2Proof.Machine

variable {s : State} {m : ThreadMsg} {core slot k cid a : Nat} {c : Ctx} {f : Ctx → Ctx}

/-! ## What an arrival leaves of memory -/

theorem State.mem_place (s : State) (c : Ctx) : (s.place c).mem = s.mem := by
  obtain ⟨me, l, h⟩ := State.place_eq s c
  rw [h]

theorem State.mem_vacate (s : State) (core slot : Nat) : (s.vacate core slot).mem = s.mem := by
  unfold State.vacate
  split <;> rfl

theorem State.mem_arrivalL1 (s : State) (core : Nat) : (s.arrivalL1 core).mem = s.mem := by
  unfold State.arrivalL1 State.l1Clear State.l1Keep
  split
  · split <;> rfl
  · rfl

theorem State.mem_wakeCore (s : State) (core : Nat) : (s.wakeCore core).mem = s.mem := by
  unfold State.wakeCore
  split <;> rfl

theorem State.mem_press (s : State) (core : Nat) (on : Bool) : (s.press core on).mem = s.mem := by
  unfold State.press
  extract_lets p
  split <;> rfl

/-- The words that a thread's instruction has read leave its ports; where the thread leaves no anchor, nothing else of its source's going is in
memory (R261). -/
theorem State.mem_freeSource (hparent : m.parent = none) (haway : m.ctx.anchorMode = .away) :
    (s.freeSource m).mem = (m.pops.foldl (fun (t : State) x => t.popQuiet m.ctx.cid x) s).mem := by
  unfold State.freeSource
  rw [hparent, haway]
  dsimp only
  split
  · rfl
  · rw [if_neg (by decide), if_neg (by simp)]
    exact State.mem_vacate _ _ _

theorem State.arriveIn_away (hparent : m.parent = none) (haway : m.ctx.anchorMode = .away) (hcore : m.ctx.anchorCore ≠ m.core)
    (hslot : m.slot = some k) (hfree : s.slotFree m.core k = true) :
    s.arriveIn m = some (((s.freeSource m).place (m.ctx.landed m.core k)).arrivalL1 m.core) := by
  unfold State.arriveIn State.claimSlot
  dsimp only
  rw [hparent, haway, hslot]
  dsimp only
  rw [if_neg (fun h => hcore h.2), if_pos hfree]
  rfl

/-- A thread away from its anchor that is let pass and has its slot free changes memory by the words alone that leave its ports. -/
theorem State.mem_threadIn {rest : List ThreadMsg} (hrest : rest = s.threads.filter (fun x => x != m))
    (hingress : s.ingress m.core m.ctx.ptag = true) (hroom : s.homeRoom m = true) (hdiv : (s.core m.core).diverted = false)
    (hparent : m.parent = none) (haway : m.ctx.anchorMode = .away) (hcore : m.ctx.anchorCore ≠ m.core) (hslot : m.slot = some k)
    (hfree : State.slotFree { s with threads := rest } m.core k = true) :
    (s.threadIn m).mem = (m.pops.foldl (fun (t : State) x => t.popQuiet m.ctx.cid x) { s with threads := rest }).mem := by
  subst hrest
  unfold State.threadIn State.arrive
  dsimp only
  rw [hingress, hroom, hdiv, Bool.not_true, if_neg Bool.false_ne_true, if_neg Bool.false_ne_true, if_neg Bool.false_ne_true,
    State.arriveIn_away hparent haway hcore hslot hfree, Option.map_some]
  dsimp only
  rw [State.mem_press, State.mem_wakeCore, State.mem_arrivalL1, State.mem_place, State.mem_freeSource hparent haway]

/-- An instruction that has read `bq` takes its oldest bit (R26). -/
theorem State.popQuiet_bq (s : State) (cid : Nat) :
    s.popQuiet cid 60 = s.onCtx cid (fun c => { c with bq := { c.bq with q := c.bq.q.drop 1 } }) :=
  if_pos rfl

/-! ## A context in its save area (R296) -/

/-- The image of a context begins with the first byte of `g0`. -/
theorem Ctx.image_head (c : Ctx) : ∃ r, c.image = 0 :: r := by
  unfold Ctx.image
  dsimp only
  simp only [show List.range 64 = 0 :: List.range' 1 63 from rfl, List.flatMap_cons, List.append_assoc]
  exact ⟨_, rfl⟩

/-- Without poison in memory a rewrite of an area is a write alone. -/
theorem State.patchArea_of_clean (h : s.poison = []) (area o : Nat) (bs : List Byte) :
    s.patchArea area o bs = s.unitWrite 0 (area + o) bs := by
  have hclean : s.isPoison = fun _ => false := by
    funext l
    rw [State.isPoison, h]
    rfl
  unfold State.patchArea
  rw [hclean, List.filter_false]
  rfl

/-- A reply to a context in its save area writes its image there, from byte 0 of `g0` on. -/
theorem State.rd8_onCtx_saved (hs : s.noSnap = true) (hmem : memWf s.mem = true) (hsealed : s.sealU.tab = []) (hclean : s.poison = [])
    (hslots : s.byCid cid = none) (harea : s.areaOf cid = some a) : rd8 (s.onCtx cid f).mem a = 0 := by
  unfold State.onCtx
  rw [hslots, harea]
  dsimp only
  rw [State.patchArea_of_clean hclean]
  obtain ⟨r, hr⟩ := Ctx.image_head (f ((s.saved.getD Ctx.fresh a).ofImage (s.rdMain 0 a areaBytes)))
  rw [hr]
  have hopen (n : Nat) : s.sealedAt a n = false := by
    rw [State.sealedAt, hsealed]
    rfl
  obtain ⟨-, ⟨-, hbyte⟩, -⟩ := State.unitWrite_spec (l := 0 :: r) hs hmem 0 (hopen _)
  exact hbyte

/-! ## The arrival -/

/-- A thread of number 5 that comes to a pivot core by an instruction that has read `bq`. -/
def strayThread : ThreadMsg :=
  { ctx := { Ctx.fresh with live := true, cid := 5, anchorMode := .away }, core := 4608, slot := some 0, fromCore := 0, fromSlot := 0, dest := 0,
    parent := none, back := false, code := 0, pc := 0, rejected := false, pops := [60] }

/-- The thread is under way while a save area at 0x1000 also holds a context of number 5. The area's first byte is 1. -/
def strayArrival : State :=
  { State.reset with mem := [(0x1000, 1)], saved := [(0x1000, { Ctx.fresh with cid := 5 })], threads := [strayThread] }

/-- Refutes O38: the statement has every arrival of a thread leave memory as it is. Where the thread's number is that of a saved context (which no run
need reach, and the statement does not exclude), the bit that its instruction has read from `bq` leaves that context, whose image is written to its area
again: the byte at 0x1000 goes from 1 to 0. -/
theorem not_preemptionAndArrival : ¬ Obligations.PreemptionAndArrival := by
  unfold Obligations.PreemptionAndArrival
  rintro ⟨-, -, harrive, -⟩
  obtain ⟨w, c, hexec, -, -, -, -, -, -, -, hmem⟩ := harrive strayArrival 4608 0 strayThread [] (by decide +kernel) (by decide +kernel)
    (by decide +kernel) (by decide +kernel) (by decide +kernel) rfl rfl (by decide) rfl (by decide +kernel) (by decide) rfl
  have hexec' : exec (.threadArrival 4608) strayArrival = .next (strayArrival.threadIn strayThread) := rfl
  obtain rfl := Host.Outcome.next.inj (hexec'.symm.trans hexec)
  rw [State.mem_threadIn (k := 0) (rest := []) (by decide +kernel) (by decide +kernel) (by decide +kernel) (by decide +kernel) rfl rfl (by decide)
    rfl (by decide +kernel)] at hmem
  rw [show strayThread.pops = [60] from rfl, List.foldl_cons, List.foldl_nil] at hmem
  have hzero : rd8 (State.popQuiet { strayArrival with threads := [] } strayThread.ctx.cid 60).mem 0x1000 = 0 := by
    rw [State.popQuiet_bq]
    exact State.rd8_onCtx_saved (by decide +kernel) (by decide +kernel) rfl rfl (by decide +kernel) (by decide +kernel)
  rw [hmem] at hzero
  exact absurd hzero (by decide)

end Sys2Proof.Machine
end
